-- ==== Sys2Proof/Word.lean ====
section
/-! DEFINITION. Word types and their plainest arithmetic: bytes, 32-bit words, 48-bit positions (R61, R62). -/
namespace Sys2Proof

/-- A byte of a packet, a memory or a transfer (R5: little-endian in every multi-byte value). -/
abbrev Byte := BitVec 8
/-- A register word of BAR0 (R419). -/
abbrev Word := BitVec 32
/-- A 48-bit two's-complement position in quadrature edges (R61). -/
abbrev Pos := BitVec 48
/-- A count of TB ticks, 9.6 G ticks per second (R55). -/
abbrev Tick := Nat

/-- A channel, CH0 to CH7. -/
abbrev Ch := Fin 8
/-- A chainage unit, CU0 to CU3. -/
abbrev Cun := Fin 4
/-- A stake, ST0 to ST15. -/
abbrev Stk := Fin 16
/-- A DMA channel, D0 to D15. -/
abbrev Dch := Fin 16
/-- A camera context, C0 to C3. -/
abbrev Ctx := Fin 4
/-- A camera port, CP0 or CP1. -/
abbrev Cam := Fin 2
/-- A thermal input, TH0 to TH9. -/
abbrev Thi := Fin 10

end Sys2Proof
end

