-- ==== Sys2Proof/Syntax.lean ====
section
/-! DEFINITION. The commands of the block: one constructor for each row of spec/opcode_table.json, with the operands
the sender gives it. A command that is an event of the outside world (an edge, a message, a measurement) carries what
the world supplies; `tick` is its instant in TB ticks (R55), and the clock of the model never runs backwards. -/
namespace Sys2Proof

/-- The two control ports that serve the object dictionary (chapter 14). -/
inductive Port where
  | can | pcie
deriving DecidableEq, Repr

/-- How a write reaches its rule: as a BAR0 register write or as an object write from one of the ports. -/
inductive Via where
  | reg
  | obj (p : Port)
deriving DecidableEq, Repr

/-- What a line's store and table reads meet at its boundary (R145 to R147, R172). A word of line memory that does not read as it was
written is reported with those of its 64 + 8 bits that differ; the spec does not give the packing of nozzle-lines into words, so those
that the word holds come with the report, as (image line, nozzle). -/
inductive MemErr where
  | line (word : Nat) (flips : List Nat) (held : List (Nat × Nat))
  | tableCe
  | tableUe (entry : Nat)
deriving DecidableEq, Repr

/-- A debounced switch of a chainage unit (R60). -/
inductive Switch where
  | home | limP | limN
deriving DecidableEq, Repr

/-- The two rails of a channel. -/
inductive Rail where
  | f | w
deriving DecidableEq, Repr

/-- What the fetch of a scatter-gather entry returns (R381): the entry's ADDR, LEN and FLAGS, or a failed read. -/
inductive FetchRes where
  | entry (addr len flags : Nat)
  | error
deriving DecidableEq, Repr

/-- What can stop OTP work (R478): a die sample outside the window, entry to SAFE, and a reset or a loss of supply, after which no answer
comes. -/
inductive FuseCut where
  | window | safe | reset
deriving DecidableEq, Repr

/-- How the fuses of one OTP write come out (R469, R470): so many fuses are pulsed before what stops the work, if more are to be blown;
the fuses that read blown at the normal margin alone, and those that stay unblown. -/
structure FuseRun where
  blown : Nat
  cut : FuseCut
  weak : List Nat
  dud : List Nat
deriving DecidableEq, Repr

/-- What makes the secure part be wiped (R404, R493 to R496). -/
inductive WipeWhy where
  | tamper | clockGlitch | voltageGlitch | lifeCycle
deriving DecidableEq, Repr

/-- The events that reset the host side (R423). -/
inductive HostReset where
  | perst | linkDown | hotReset | flr
deriving DecidableEq, Repr

/-- The operation of a write of the scratchpad: plain, set alias, clear alias (R399). -/
inductive SpOp where
  | plain | set | clear
deriving DecidableEq, Repr

/-- An access of the station processor on port S (R397, R399, R401, R402): a read (no operation) or a write of bytes, those of no
value not enabled. -/
structure SPort where
  op : Option SpOp
  ofs : Nat
  lanes : List (Option Byte)
deriving DecidableEq, Repr

/-- What the station processor's fetches from its ROM met (R410, R413): how many single errors, and an uncorrectable one. -/
structure RomView where
  ce : Nat
  ue : Bool
deriving DecidableEq, Repr

/-- What the debugger does through DBG (R488, R498, R500): nothing yet, halt the station processor or let it go on, read or write bytes of
the scratchpad, read or write a word of a waveform slot. -/
inductive DbgOp where
  | select
  | halt
  | go
  | read (ofs len : Nat)
  | write (ofs : Nat) (bytes : List Byte)
  | slotRead (n : Ch) (slot word : Nat)
  | slotWrite (n : Ch) (slot word : Nat) (data : Word)
deriving DecidableEq, Repr

/-- The outcome of one channel's tests in a benchmark run (R516): B1, B2 and B6. -/
structure ChanTest where
  logicOk : Bool
  memoryOk : Bool
  leakOk : Bool
deriving DecidableEq, Repr

/-- What the tests of a benchmark run find (R516, R524): PD_PIX and its memory, the scratchpad, VHV in B3, each channel. -/
structure BenchView where
  pixLogicOk : Bool
  pixMemOk : Bool
  spadOk : Bool
  vhvOk : Bool
  chans : List ChanTest
deriving DecidableEq, Repr, Inhabited

/-- What the outside world supplies at the start of the firmware (R413, R513): what fetches from the ROM meet, and the benchmark run. -/
structure BootView where
  rom : RomView
  bench : BenchView
deriving DecidableEq, Repr

/-- What the two conversions of a thermal input measured (R349, R350): the sensor's voltage in µV at 10 µA and at 100 µA, or
the ratio ρ in 1/65,536. -/
inductive Conv where
  | diode (v10 v100 : Nat)
  | ntc (rho : Nat)
deriving DecidableEq, Repr

/-- The commands, in the order of spec/opcode_table.json. -/
inductive Instr where
  | registerWrite (addr : Nat) (be : BitVec 4) (data : Word) (upper : Option (BitVec 4 × Word))
  | sdoDownload (p : Port) (idx sub : Nat) (data : List Byte)
  | sdoUpload (p : Port) (idx sub : Nat)
  | mailboxRead (idx sub seq : Nat)
  | mailboxWrite (idx sub seq len : Nat) (data : List Byte)
  | mailboxReadIntoScratchpad (idx sub seq bufOfs : Nat)
  | mailboxWriteFromScratchpad (idx sub seq len bufOfs : Nat)
  | heldEditWithdrawn (q : Fin 9) (tick : Tick)
  | hiLatchRead (addr len : Nat) (bad : List Nat) (sp : Option SPort)
  | posSnapshot (n : Cun)
  | d2dParityFailure (n : Ch) (tick : Tick)
  | supervisorLinkFailure (tick : Tick)
  | supervisorResend
  | pllLockLost
  | pllLock
  | watchdogExpiry (tick : Tick) (rom : RomView)
  | watchdogRestartDone (rom : RomView)
  | evmSinkWrite (k : Fin 64) (data : Word)
  | swPulse (bits : BitVec 8)
  | eventPulse
  | lineBoundary (n : Ch) (tick : Tick) (errs : List MemErr)
  | lineEncoded (n : Ch)
  | quadTransition (n : Cun) (a b : Bool) (tick : Tick)
  | indexMark (n : Cun) (tick : Tick)
  | ssiFrameStart (n : Cun) (tick : Tick)
  | ssiFrame (n : Cun) (low : Bool) (raw : Nat) (chk : Bool) (tick : Tick)
  | switchDebounced (n : Cun) (sw : Switch) (level : Bool)
  | speedWindowEnd (n : Cun)
  | stillTimeout (n : Cun) (tick : Tick)
  | cuSourceWrite (n : Cun) (src : BitVec 2) (inv : Bool) (via : Via)
  | homeGo (n : Cun) (via : Via)
  | preset (n : Cun) (via : Via)
  | homeCancel (n : Cun) (via : Via)
  | stakeTargetWrite (i : Stk) (tgt : Pos) (via : Via)
  | arm (i : Stk) (via : Via)
  | disarm (i : Stk) (via : Via)
  | stakeConfigWrite (i : Stk) (cu : Cun) (dir : BitVec 2) (via : Via)
  | firedLate (i : Stk)
  | syncReceived (tick : Tick)
  | start (n : Ch) (via : Via)
  | stop (n : Ch) (via : Via)
  | stopComplete (n : Ch)
  | lineDecision (n : Ch)
  | geomApply (n : Ch) (via : Via)
  | qFlush (n : Ch) (via : Via)
  | qTagWrite (n : Ch) (tag : BitVec 48) (via : Via)
  | tableWrite (addr : Nat) (bytes : List Byte)
  | check (n : Ch) (slot : Fin 2) (via : Via)
  | slotWordWrite (n : Ch) (slot : Fin 2) (word : Nat) (data : Word) (via : Via)
  | protectedLoad (n : Ch) (ofs : Nat) (p : Port)
  | protectedLoadDone (n : Ch) (par : Option Nat)
  | prechargeDone (n : Ch)
  | prechargeTimeout (n : Ch)
  | balancerCheck (n : Ch) (errs : List Int)
  | resFault (n : Ch)
  | rampStepTimeout (n : Ch)
  | bleedDone (n : Ch)
  | vhvOutOfRange (n : Ch)
  | overcurrent (n : Ch) (rail : Rail) (tick : Tick)
  | railRecoveryDone (n : Ch) (tick : Tick)
  | wipedSlotClear (n : Ch)
  | transmitLine (n : Ch)
  | ack (n : Ch) (fseq : BitVec 4)
  | nak (n : Ch) (fseq : BitVec 4)
  | frameTimeout (n : Ch) (fseq : BitVec 4)
  | latch (n : Ch) (tick : Tick)
  | lack (n : Ch) (tag : Byte) (nulled empty : Bool) (tick : Tick)
  | spx (n : Ch) (j : Fin 4)
  | sns (n : Ch)
  | stat (n : Ch) (addr val : Byte)
  | ferr (n : Ch) (code tag : Byte)
  | tsr (n : Ch) (ver cap : Byte)
  | train (n : Ch) (via : Via)
  | trainingTimeout (n : Ch)
  | linkLost (n : Ch) (tick : Tick)
  | retrainTimeout (n : Ch) (tick : Tick)
  | feGo (n : Ch) (via : Via)
  | feAccessTimeout (n : Ch)
  | farEndRead (n : Ch) (p : Port)
  | captureEnd (n : Ch) (samples : List Int)
  | senseResult (n : Ch)
  | closureObservation (n : Ch)
  | verdictEnqueue (n : Ch)
  | learn (n : Ch) (rows : BitVec 8) (via : Via)
  | signatureAccess (n : Ch) (write : Option (BitVec 16)) (via : Via)
  | stripEnWrite (n : Ch) (en : Bool) (via : Via)
  | stripAnalysis (n : Ch) (par : Option Nat)
  | frameStart (p : Cam) (vc : BitVec 2) (ecc : Bool) (bank : Option Nat) (tick : Tick)
  | longPacket (p : Cam) (vc : BitVec 2) (dt : BitVec 6) (bytes : List Byte) (ecc crcOk : Bool)
  | frameEnd (p : Cam) (vc : BitVec 2) (ecc : Bool)
  | csiFrameTimeout (c : Ctx)
  | contextDisable (c : Ctx) (p : Port)
  | pipelineLine (par : Option Nat)
  | frameComplete (c : Ctx)
  | triggerWidthEnd (p : Cam) (tick : Tick)
  | snapArm (v : Byte) (p : Port)
  | curveDataAccess (c : Ctx) (write : Option (BitVec 16)) (p : Port)
  | pixRestore
  | retire (n : Ch) (via : Via)
  | readmit (n : Ch) (via : Via)
  | readmitTraverseBegin (n : Ch)
  | prepare (via : Via)
  | commit (via : Via)
  | cancel (via : Via)
  | emcy
  | thermalSample (m : Thi) (conv : Conv) (tick : Tick)
  | dieSample (drive : Bool) (temp : Int)
  | dieTrip (drive : Bool)
  | dieTripClear (drive : Bool)
  | sensorTypeWrite (m : Thi) (type : BitVec 2) (via : Via)
  | shadowArm (d : Dch)
  | handover (d : Dch)
  | grant
  | dmaReadCompletion (d : Dch) (data : List Byte) (sp : Option SPort)
  | dmaReadError (d : Dch)
  | dmaReadTimeout (d : Dch)
  | transferDone (d : Dch)
  | listEntryFetch (d : Dch) (res : FetchRes)
  | pause (d : Dch) (via : Via)
  | resume (d : Dch) (via : Via)
  | withdraw (d : Dch) (via : Via)
  | dmaEnable (d : Dch) (via : Via)
  | wrCntWrite (d : Dch) (v : Word)
  | rdCntWrite (d : Dch) (v : Word)
  | scratchpadWrite (ofs : Nat) (lanes : List (Option Byte)) (sp : Option SPort)
  | setAliasWrite (ofs : Nat) (lanes : List (Option Byte)) (sp : Option SPort)
  | clearAliasWrite (ofs : Nat) (lanes : List (Option Byte)) (sp : Option SPort)
  | wipe (why : WipeWhy)
  | wipeDone
  | bistSlice (single bad : List Nat)
  | bistSliceDone (failAt : Option Nat)
  | tamper
  | glitch (voltage : Bool)
  | pcieReset (kind : HostReset)
  | perstRelease
  | d3hotEntry
  | msixUnmask (v : Fin 32)
  | tokenPass (dst : Port) (via : Via)
  | expertAccess (v : BitVec 16) (p : Port)
  | busOff
  | busOffRecovery
  | nmtStart
  | nmtStop
  | nmtEnterPreOperational
  | nmtResetCommunication
  | nmtResetNode
  | heartbeatReceived
  | heartbeatLost
  | heartbeatSend
  | canSync
  | rpdo (p : Fin 4) (data : List Byte)
  | tpdoEventTimer (p : Fin 4)
  | tpdoChangeCheck
  | tpdoInhibitEnd (p : Fin 4)
  | tpdoRemoteRequest (p : Fin 4)
  | lssIdentityInquiry (what : Fin 4)
  | lssFastscan (id : Word) (bitCheck sub next : Byte)
  | lssConfigureNodeId (id : Byte)
  | lssConfigureBitTiming (table index : Byte)
  | lssStoreConfiguration
  | errorListClear (p : Port)
  | save (p : Port)
  | load (p : Port)
  | programErase (p : Port)
  | programData (p : Port) (data : List Byte)
  | programVerify (p : Port)
  | otpWordWrite (v : Word) (p : Port) (runs : List FuseRun)
  | otpMarginCheck (p : Port)
  | otpLockArm (count : BitVec 16) (p : Port)
  | otpLockArmExpiry
  | otpWriteLockBlow (p : Port) (run : FuseRun)
  | otpReadLockBlow (p : Port) (run : FuseRun)
  | lifeCycleAdvance (code : Word) (p : Port) (runs : List FuseRun)
  | debugChallenge (p : Port)
  | debugResponse (sig : List Byte) (p : Port)
  | debugChallengeExpiry
  | tapBypass
  | tapIdcode
  | tapSamplePreload (cells : Nat)
  | tapExtest
  | tapClamp
  | tapHighz
  | tapDbg (op : DbgOp)
  | standbyRequest (p : Port)
  | hostPark
  | wake (p : Option Port)
  | wakeDone
  | resetRelease (nodeId : BitVec 7)
  | resetNLow
  | brownOut
  | supplyFault (which : Fin 4)
  | supervisorLinkSilent
  | firmwareStart (view : BootView)
  | benchmarkRunEnd
  | safeConditionClear (bit : Fin 9)
  | safeExit (bench : BenchView) (via : Via)
  | returnLaneCodeViolation (n : Ch)
  | pcieLinkUp
  | returnToD0
  | uncorrectablePacketHeader (p : Cam)
  | tamperNHigh
  | contextBankRewrite (c : Ctx)
  | mailboxInvalidCmd (cmd : BitVec 4) (idx sub seq : Nat)
deriving DecidableEq, Repr

end Sys2Proof
end

