-- ==== Sys2Proof/WellFormed.lean ====
section
/-! DEFINITION. When the operands of a command are ones the world can send: inside the address space, the dictionary and the
widths the spec gives. `exec` has a meaning for every command; the statements that need these bounds say so. -/
namespace Sys2Proof

/-- An object of the dictionary (R9). -/
def objWf (idx sub : Nat) : Bool := decide (idx < 0x10000) && decide (sub < 0x100)
/-- A mailbox request fits its registers (R437). -/
def mailWf (idx sub seq len ofs : Nat) : Bool :=
  objWf idx sub && decide (seq < 0x100) && decide (len < 0x80000) && decide (ofs < 0x80000)
/-- Byte lanes of a write of the scratchpad (R398); how many one request may have is R419's to judge. -/
def lanesWf (ofs : Nat) (lanes : List (Option Byte)) : Bool := decide (ofs + lanes.length ≤ 0x80000) && decide (1 ≤ lanes.length)
/-- An access of port S is to one word of 8 byte lanes (R397). -/
def sportWf (a : SPort) : Bool := lanesWf a.ofs a.lanes && decide (a.ofs / 8 = (a.ofs + a.lanes.length - 1) / 8)
/-- A report of a boundary names words of line memory, entries and nozzles that exist, one or two wrong bits of a word's 72, which its
code corrects or detects, and the up to 32 nozzle-lines it holds (R145 to R147, R168). -/
def memErrWf : MemErr → Bool
  | .line w fs zs => decide (w < 0x30000) && decide (1 ≤ fs.length) && decide (fs.length ≤ 2) && decide fs.Nodup &&
      fs.all (fun b => decide (b < 72)) && decide (zs.length ≤ 32) && zs.all (fun z => decide (z.2 < 5120))
  | .tableUe e => decide (e < 5120)
  | _ => true
/-- A view of a benchmark run names every channel (R516). -/
def benchWf (v : BenchView) : Bool := decide (v.chans.length = 8)
/-- A debugger's access lies in the scratchpad, or in a slot's 32 words. -/
def dbgWf : DbgOp → Bool
  | .read ofs len => decide (1 ≤ len ∧ len ≤ 64 ∧ ofs + len ≤ 0x80000)
  | .write ofs bs => decide (1 ≤ bs.length ∧ bs.length ≤ 64 ∧ ofs + bs.length ≤ 0x80000)
  | .slotRead _ sl w => decide (sl < 2 ∧ w < 32)
  | .slotWrite _ sl w _ => decide (sl < 2 ∧ w < 32)
  | _ => true
/-- A fuse run pulses no more fuses than a region has (R467, R483). -/
def runWf (r : FuseRun) : Bool := decide (r.blown ≤ 20480)
/-- A fetched entry's words (R381). -/
def fetchWf : FetchRes → Bool
  | .entry a l f => decide (a < 2 ^ 64) && decide (l < 2 ^ 32) && decide (f < 2 ^ 32)
  | .error => true
/-- An NTC's ratio lies below 1 (R350). -/
def convWf : Conv → Bool
  | .diode v10 v100 => decide (v10 < 2 ^ 24) && decide (v100 < 2 ^ 24)
  | .ntc rho => decide (rho < 0x10000)

/-- The operands of a command lie in their ranges. -/
def wellFormed (i : Instr) : Bool :=
  match i with
  | .registerWrite addr _ _ upper => decide (addr + (if upper.isSome then 8 else 4) ≤ 0x1000000)
  | .sdoDownload _ idx sub data => objWf idx sub && decide (1 ≤ data.length)
  | .sdoUpload _ idx sub => objWf idx sub
  | .mailboxRead idx sub seq => mailWf idx sub seq 0 0
  | .mailboxWrite idx sub seq len data => mailWf idx sub seq len 0 && decide (data.length ≤ 64)
  | .mailboxReadIntoScratchpad idx sub seq ofs => mailWf idx sub seq 0 ofs
  | .mailboxWriteFromScratchpad idx sub seq len ofs => mailWf idx sub seq len ofs
  | .mailboxInvalidCmd cmd idx sub seq => mailWf idx sub seq 0 0 && (decide (cmd = 0) || decide (5 ≤ cmd.toNat))
  | .hiLatchRead addr len bad sp => decide (1 ≤ len) && decide (len ≤ 4096) && decide (addr + len ≤ 0x1000000) &&
      bad.all (fun i => decide (i < len)) && sp.all sportWf
  | .dmaReadCompletion _ data sp => decide (data.length ≤ 512) && sp.all sportWf
  | .bistSlice single bad => single.all (fun i => decide (i < 1024)) && bad.all (fun i => decide (i < 1024))
  | .protectedLoadDone _ par => par.all (fun i => decide (i < 0x10000))
  | .lineBoundary _ _ errs => errs.all memErrWf
  | .ssiFrame _ _ raw _ _ => decide (raw < 2 ^ 32)
  | .tableWrite addr bytes =>
    decide (addr + bytes.length ≤ 0x1000000) && decide (1 ≤ bytes.length)
  | .slotWordWrite _ _ word _ _ => decide (word < 32)
  | .protectedLoad _ ofs _ => decide (ofs < 2 ^ 32)
  | .balancerCheck _ errs => decide (errs.length = 15)
  | .captureEnd _ smp => smp.all (fun x => decide (-2048 ≤ x) && decide (x ≤ 2047))
  | .stripAnalysis _ par => par.all (fun o => decide (o < 0x100000))
  | .frameStart _ _ _ bank _ => bank.all (fun o => decide (o < 0x2000))
  | .pipelineLine par => par.all (fun o => decide (o < 0x42000))
  | .longPacket _ _ _ bytes _ _ => decide (bytes.length < 0x10000)
  | .thermalSample _ c _ => convWf c
  | .dieSample _ t => decide (-32768 ≤ t) && decide (t ≤ 32767)
  | .listEntryFetch _ r => fetchWf r
  | .scratchpadWrite ofs lanes sp => lanesWf ofs lanes && sp.all sportWf
  | .setAliasWrite ofs lanes sp => lanesWf ofs lanes && sp.all sportWf
  | .clearAliasWrite ofs lanes sp => lanesWf ofs lanes && sp.all sportWf
  | .rpdo _ data => decide (data.length ≤ 64)
  | .otpWordWrite _ _ runs => runs.all runWf
  | .otpWriteLockBlow _ run => runWf run
  | .otpReadLockBlow _ run => runWf run
  | .lifeCycleAdvance _ _ runs => runs.all runWf
  | .debugResponse sig _ => decide (sig.length = 64)
  | .firmwareStart v => benchWf v.bench
  | .safeExit b _ => benchWf b
  | .tapDbg op => dbgWf op
  | _ => true

end Sys2Proof
end

