-- ==== Sys2Proof/Decode.lean ====
section
/-! DEFINITION. Command words. No row of spec/opcode_table.json gives its command bits (its fields are empty): the block has no
instruction decoder, and a command arrives as its operands. -/
namespace Sys2Proof

/-- The command that a word of the table spells: no row gives bits, so no word spells one. -/
def decodeTableWord (_nbits _w : Nat) : Option Instr := none

end Sys2Proof
end

