-- ==== Sys2Proof/Config.lean ====
section
/-! DEFINITION. What the spec leaves open, as uninterpreted constants: no proof can see a value of them. A free value is
one of these applied to the state's counter of free values (`State.ctr`), which advances with each use. -/
namespace Sys2Proof.Config

/-- A free natural number below the bound, fresh for each count: a value the spec does not state (log entry 3). -/
opaque freeNat : Nat → Nat
/-- What fuses do in the runs of an OTP write that comes as a plain object write, and what a benchmark run finds that begins by
a plain write of SafeExit, by the time and the number of outputs so far (log entry 42). -/
opaque fuseRuns : Nat → Nat → List FuseRun
opaque bench : Nat → Nat → BenchView
/-- The 16 bytes of a debug challenge (R499: fresh and random; log entry 3). -/
opaque challenge : Nat → BitVec 128
/-- The SECDED code of an OTP word (R467, R472: not given), as the check bits that each data bit flips (log entry 20). -/
opaque otpColumns : Nat → BitVec 7
/-- What a flash slot holds as delivered (R489; log entry 71). -/
opaque factorySlot : Nat → List Byte
/-- What Onaxa programs in the words of regions 0 and 1 before a unit ships (R480): none for a word left blank (log entry 8). -/
opaque shipped : Nat → Option (BitVec 32)
/-- AES-256-GCM open (R491): key, nonce, associated data, ciphertext and tag to the clear text, or none if the tag does not
verify (log entry 79). -/
opaque gcmOpen : List Byte → List Byte → List Byte → List Byte → List Byte → Option (List Byte)
/-- ECDSA P-256 verification of a signature over SHA-256 of a message under a public key (R489, R499; log entry 79). -/
opaque ecdsaOk : List Byte → List Byte → List Byte → Bool
/-- SHA-256 of a byte string (R489; log entry 79). -/
opaque sha256 : List Byte → List Byte

end Sys2Proof.Config
end

