-- ==== Sys2Proof/Machine/Fuses.lean ====
section
/-! DEFINITION. The SECDED code of the OTP words (R467, R472) and what regions 0 and 1 hold as shipped (R480). -/
namespace Sys2Proof.Machine

/-- The check bits that each of the 32 data bits of an OTP word flips make a SECDED code (R467): with those of the 7 check bits, no two are
alike and no three cancel, so that one wrong bit is found and two are told apart from it; and 39 blown fuses are neither a codeword nor
one bit from one (R472). -/
def secded (cs : List Nat) : Bool :=
  let all := cs ++ (List.range 7).map (fun i => 2 ^ i)
  decide (cs.length = 32) && decide all.Nodup && !all.contains 0 && all.all (fun a => all.all (fun b => decide (a = b) || !all.contains (a ^^^ b))) &&
    !(0 :: all).contains (all.foldl (fun (x : Nat) (y : Nat) => x ^^^ y) 0)
/-- A code that is one, in the place of an open one that is not (log entry 20). -/
def plainColumns : List Nat :=
  [13, 14, 21, 22, 25, 26, 28, 35, 37, 38, 41, 42, 44, 49, 50, 52, 56, 67, 69, 70, 73, 74, 76, 81, 82, 84, 88, 97, 98, 100, 104, 112]
def otpColumns : List Nat :=
  let cs := (List.range 32).map (fun i => (Config.otpColumns i).toNat)
  if secded cs then cs else plainColumns
/-- The check bits of a word; those of 0 are 0 (R472). -/
def otpChk (v : Nat) : Nat := (List.range 32).foldl (fun (a : Nat) (i : Nat) => if v.testBit i then a ^^^ otpColumns.getD i 0 else a) 0
/-- The words of regions 0 and 1 that Onaxa may program: the trims of region 0, the keys and the revocation word of region 1. -/
def shippedWords : List Nat := List.range 504 ++ (List.range 65).map (fun i => 512 + i)
/-- The 40 fuses of such a word: programmed whole, or blank. -/
def shippedFuses (ix : Nat) : Nat :=
  match Config.shipped ix with
  | some v => v.toNat + otpChk v.toNat * 2 ^ 32 + 2 ^ 39
  | none => 0

end Sys2Proof.Machine
end

