-- ==== Sys2Proof/Machine/Regs.lean ====
section
/-! DEFINITION. The register fields of BAR0, written from the register tables of the spec: one named field per row of a
table, with the address of its word, its bits, its access code (R7) and its reset value, and for each block the list of
its fields. A reset value the table gives as `straps`, `default` or `datum` is a live value of the block that owns it. -/
namespace Sys2Proof.Machine

/-- The access codes of R7. -/
inductive Acc where
  | ro | rw | wo | w1c | w1s | rws
deriving DecidableEq, Repr

/-- A register field: its word's BAR0 address, its bit range (R3), its access code and its reset value. -/
structure Fld where
  addr : Nat
  msb : Nat
  lsb : Nat
  acc : Acc
  rst : Nat
deriving DecidableEq, Repr

/-- The number of values the field can hold. -/
def Fld.card (f : Fld) : Nat := 2 ^ (f.msb + 1 - f.lsb)
/-- The key a field's value is held under: 32 keys per word of BAR0. -/
def Fld.key (f : Fld) : Nat := f.addr * 32 + f.lsb
/-- The key of the value in effect of a shadowed (RWS) field, beside the shadow itself. -/
def Fld.effKey (f : Fld) : Nat := f.key + 2 ^ 60

/-! Fields of the event matrix (R38, R39). -/
namespace Ev
def EN (k : Nat) : Fld := ⟨0x40000+4*k, 31, 31, .rw, 0⟩
def PENDING (k : Nat) : Fld := ⟨0x40000+4*k, 8, 8, .ro, 0⟩
def SOURCE (k : Nat) : Fld := ⟨0x40000+4*k, 7, 0, .rw, 0x0⟩
def SWPULSE : Fld := ⟨0x40100, 7, 0, .wo, 0⟩
def WREJ : Fld := ⟨0x40104, 16, 16, .w1c, 0⟩
def MERGE_CNT : Fld := ⟨0x40104, 15, 0, .w1c, 0⟩
end Ev

/-! Fields of chainage unit n (R90). -/
namespace Cu
def SRC (n : Nat) : Fld := ⟨0x30000+0x100*n+0x00, 31, 30, .rw, 2⟩
def INV_DIR (n : Nat) : Fld := ⟨0x30000+0x100*n+0x00, 29, 29, .rw, 0⟩
def Z_EN (n : Nat) : Fld := ⟨0x30000+0x100*n+0x00, 28, 28, .rw, 0⟩
def FILT (n : Nat) : Fld := ⟨0x30000+0x100*n+0x00, 27, 24, .rw, 4⟩
def PER_N (n : Nat) : Fld := ⟨0x30000+0x100*n+0x00, 23, 22, .rw, 2⟩
def HOME_MODE (n : Nat) : Fld := ⟨0x30000+0x100*n+0x00, 21, 20, .rw, 0⟩
def HOME_DIR (n : Nat) : Fld := ⟨0x30000+0x100*n+0x00, 19, 19, .rw, 0⟩
def SW_DEB (n : Nat) : Fld := ⟨0x30000+0x100*n+0x00, 15, 12, .rw, 4⟩
def LIMP_POL (n : Nat) : Fld := ⟨0x30000+0x100*n+0x00, 2, 2, .rw, 0⟩
def LIMN_POL (n : Nat) : Fld := ⟨0x30000+0x100*n+0x00, 1, 1, .rw, 0⟩
def HOME_POL (n : Nat) : Fld := ⟨0x30000+0x100*n+0x00, 0, 0, .rw, 0⟩
def SSI_BITS (n : Nat) : Fld := ⟨0x30000+0x100*n+0x04, 29, 24, .rw, 24⟩
def GRAY (n : Nat) : Fld := ⟨0x30000+0x100*n+0x04, 23, 23, .rw, 1⟩
def SSI_DIV (n : Nat) : Fld := ⟨0x30000+0x100*n+0x04, 11, 0, .rw, 59⟩
def FRAME_US (n : Nat) : Fld := ⟨0x30000+0x100*n+0x08, 31, 16, .rw, 50⟩
def TM_US (n : Nat) : Fld := ⟨0x30000+0x100*n+0x08, 15, 8, .rw, 20⟩
def MAX_JUMP (n : Nat) : Fld := ⟨0x30000+0x100*n+0x0C, 15, 0, .rw, 1024⟩
def STILL_T (n : Nat) : Fld := ⟨0x30000+0x100*n+0x10, 30, 16, .rw, 999⟩
def WIN (n : Nat) : Fld := ⟨0x30000+0x100*n+0x10, 9, 0, .rw, 99⟩
def POS_LO (n : Nat) : Fld := ⟨0x30000+0x100*n+0x14, 31, 0, .ro, 0⟩
def POS_SIGN (n : Nat) : Fld := ⟨0x30000+0x100*n+0x18, 31, 16, .ro, 0⟩
def POS_HI (n : Nat) : Fld := ⟨0x30000+0x100*n+0x18, 15, 0, .ro, 0⟩
def SPEED (n : Nat) : Fld := ⟨0x30000+0x100*n+0x1C, 31, 0, .ro, 0⟩
def WIN_SEQ (n : Nat) : Fld := ⟨0x30000+0x100*n+0x20, 31, 16, .ro, 0⟩
def SSI_LOST (n : Nat) : Fld := ⟨0x30000+0x100*n+0x20, 7, 7, .ro, 0⟩
def LIMP (n : Nat) : Fld := ⟨0x30000+0x100*n+0x20, 6, 6, .ro, 0⟩
def LIMN (n : Nat) : Fld := ⟨0x30000+0x100*n+0x20, 5, 5, .ro, 0⟩
def HOME (n : Nat) : Fld := ⟨0x30000+0x100*n+0x20, 4, 4, .ro, 0⟩
def DIR (n : Nat) : Fld := ⟨0x30000+0x100*n+0x20, 3, 3, .ro, 0⟩
def REVERSAL (n : Nat) : Fld := ⟨0x30000+0x100*n+0x20, 2, 2, .ro, 0⟩
def PARTIAL (n : Nat) : Fld := ⟨0x30000+0x100*n+0x20, 1, 1, .ro, 0⟩
def STILL (n : Nat) : Fld := ⟨0x30000+0x100*n+0x20, 0, 0, .ro, 1⟩
def PERIOD (n : Nat) : Fld := ⟨0x30000+0x100*n+0x24, 31, 0, .ro, 0⟩
def ZCAP_LO (n : Nat) : Fld := ⟨0x30000+0x100*n+0x28, 31, 0, .ro, 0⟩
def ZCAP_SIGN (n : Nat) : Fld := ⟨0x30000+0x100*n+0x2C, 31, 16, .ro, 0⟩
def ZCAP_HI (n : Nat) : Fld := ⟨0x30000+0x100*n+0x2C, 15, 0, .ro, 0⟩
def HOMEPOS_LO (n : Nat) : Fld := ⟨0x30000+0x100*n+0x30, 31, 0, .rw, 0⟩
def HOMEPOS_HI (n : Nat) : Fld := ⟨0x30000+0x100*n+0x34, 15, 0, .rw, 0⟩
def ZPITCH (n : Nat) : Fld := ⟨0x30000+0x100*n+0x38, 31, 0, .rw, 0⟩
def ZPHASE (n : Nat) : Fld := ⟨0x30000+0x100*n+0x3C, 31, 0, .rw, 0⟩
def HOME_CANCEL (n : Nat) : Fld := ⟨0x30000+0x100*n+0x40, 2, 2, .wo, 0⟩
def PRESET (n : Nat) : Fld := ⟨0x30000+0x100*n+0x40, 1, 1, .wo, 0⟩
def HOME_GO (n : Nat) : Fld := ⟨0x30000+0x100*n+0x40, 0, 0, .wo, 0⟩
def ZSLIP_CNT (n : Nat) : Fld := ⟨0x30000+0x100*n+0x44, 31, 16, .w1c, 0⟩
def QERR_CNT (n : Nat) : Fld := ⟨0x30000+0x100*n+0x44, 15, 0, .w1c, 0⟩
def SSI_REJ_CNT (n : Nat) : Fld := ⟨0x30000+0x100*n+0x48, 31, 16, .w1c, 0⟩
def HOMED (n : Nat) : Fld := ⟨0x30000+0x100*n+0x48, 3, 3, .ro, 0⟩
def HOMING (n : Nat) : Fld := ⟨0x30000+0x100*n+0x48, 2, 2, .ro, 0⟩
def LIM_HIT (n : Nat) : Fld := ⟨0x30000+0x100*n+0x48, 1, 1, .w1c, 0⟩
def WREJ (n : Nat) : Fld := ⟨0x30000+0x100*n+0x48, 0, 0, .w1c, 0⟩
end Cu

/-! Fields of stake i (R91). -/
namespace St
def LATE_POL (i : Nat) : Fld := ⟨0x30800+0x20*i+0x00, 7, 7, .rw, 0⟩
def DIR (i : Nat) : Fld := ⟨0x30800+0x20*i+0x00, 4, 3, .rw, 0⟩
def CU (i : Nat) : Fld := ⟨0x30800+0x20*i+0x00, 1, 0, .rw, 0⟩
def TGT_LO (i : Nat) : Fld := ⟨0x30800+0x20*i+0x04, 31, 0, .rw, 0⟩
def TGT_HI (i : Nat) : Fld := ⟨0x30800+0x20*i+0x08, 15, 0, .rw, 0⟩
def REPEAT (i : Nat) : Fld := ⟨0x30800+0x20*i+0x0C, 31, 0, .rw, 0⟩
def DISARM (i : Nat) : Fld := ⟨0x30800+0x20*i+0x10, 1, 1, .wo, 0⟩
def ARM (i : Nat) : Fld := ⟨0x30800+0x20*i+0x10, 0, 0, .wo, 0⟩
def WREJ (i : Nat) : Fld := ⟨0x30800+0x20*i+0x14, 3, 3, .w1c, 0⟩
def FIRED_LATE (i : Nat) : Fld := ⟨0x30800+0x20*i+0x14, 2, 2, .w1c, 0⟩
def LATE (i : Nat) : Fld := ⟨0x30800+0x20*i+0x14, 1, 1, .w1c, 0⟩
def ARMED (i : Nat) : Fld := ⟨0x30800+0x20*i+0x14, 0, 0, .ro, 0⟩
def HITCNT (i : Nat) : Fld := ⟨0x30800+0x20*i+0x18, 31, 0, .ro, 0⟩
def HITTIME (i : Nat) : Fld := ⟨0x30800+0x20*i+0x1C, 31, 0, .ro, 0⟩
end St

/-! Fields of the shared chainage registers (R92). -/
namespace Sh
def SYNC_DRV : Fld := ⟨0x30c00, 0, 0, .rw, 0⟩
def RX_CNT : Fld := ⟨0x30c04, 15, 0, .ro, 0⟩
def TB_LO : Fld := ⟨0x30c08, 31, 0, .ro, 0⟩
def TB_HI : Fld := ⟨0x30c0c, 31, 0, .ro, 0⟩
end Sh

/-! Fields of the traverse and fire governor of channel n (R118). -/
namespace Tr
def START_ST (n : Nat) : Fld := ⟨0x20100+0x1000*n+0x00, 15, 12, .rw, 0⟩
def START_SRC (n : Nat) : Fld := ⟨0x20100+0x1000*n+0x00, 9, 8, .rw, 0⟩
def FIRST_BWD (n : Nat) : Fld := ⟨0x20100+0x1000*n+0x00, 7, 7, .rw, 0⟩
def MODE (n : Nat) : Fld := ⟨0x20100+0x1000*n+0x00, 5, 4, .rw, 0⟩
def CU (n : Nat) : Fld := ⟨0x20100+0x1000*n+0x00, 1, 0, .rw, 0⟩
def PITCH (n : Nat) : Fld := ⟨0x20100+0x1000*n+0x04, 31, 0, .rw, 0x10000⟩
def OFS_INT (n : Nat) : Fld := ⟨0x20100+0x1000*n+0x08, 31, 0, .rw, 0⟩
def OFS_FRAC (n : Nat) : Fld := ⟨0x20100+0x1000*n+0x0C, 15, 0, .rw, 0⟩
def ANCHOR_LO (n : Nat) : Fld := ⟨0x20100+0x1000*n+0x10, 31, 0, .rw, 0⟩
def ANCHOR_HI (n : Nat) : Fld := ⟨0x20100+0x1000*n+0x14, 15, 0, .rw, 0⟩
def LINE0_LO (n : Nat) : Fld := ⟨0x20100+0x1000*n+0x18, 31, 0, .rw, 0⟩
def LINE0_HI (n : Nat) : Fld := ⟨0x20100+0x1000*n+0x1C, 15, 0, .rw, 0⟩
def PASS_LINES (n : Nat) : Fld := ⟨0x20100+0x1000*n+0x20, 31, 16, .rw, 1⟩
def TRIM (n : Nat) : Fld := ⟨0x20100+0x1000*n+0x20, 15, 0, .rws, 0⟩
def REV_SHIFT (n : Nat) : Fld := ⟨0x20100+0x1000*n+0x24, 31, 0, .rw, 0⟩
def MIN_PER (n : Nat) : Fld := ⟨0x20100+0x1000*n+0x28, 31, 0, .rw, 80000⟩
def LMATCH_LO (n : Nat) : Fld := ⟨0x20100+0x1000*n+0x2C, 31, 0, .rw, 0⟩
def LMATCH_HI (n : Nat) : Fld := ⟨0x20100+0x1000*n+0x30, 15, 0, .rw, 0⟩
def NEXT_LO (n : Nat) : Fld := ⟨0x20100+0x1000*n+0x34, 31, 0, .ro, 0⟩
def NEXT_HI (n : Nat) : Fld := ⟨0x20100+0x1000*n+0x38, 15, 0, .ro, 0⟩
def LAST_INT (n : Nat) : Fld := ⟨0x20100+0x1000*n+0x3C, 31, 0, .ro, 0⟩
def STOP (n : Nat) : Fld := ⟨0x20100+0x1000*n+0x40, 1, 1, .wo, 0⟩
def START (n : Nat) : Fld := ⟨0x20100+0x1000*n+0x40, 0, 0, .wo, 0⟩
def STATE (n : Nat) : Fld := ⟨0x20100+0x1000*n+0x44, 7, 6, .ro, 0⟩
def PASS_DIR (n : Nat) : Fld := ⟨0x20100+0x1000*n+0x44, 5, 5, .ro, 0⟩
def ELOCK (n : Nat) : Fld := ⟨0x20100+0x1000*n+0x44, 4, 4, .ro, 1⟩
def WARN_NOW (n : Nat) : Fld := ⟨0x20100+0x1000*n+0x44, 3, 3, .ro, 0⟩
def WREJ (n : Nat) : Fld := ⟨0x20100+0x1000*n+0x48, 6, 6, .w1c, 0⟩
def START_LATE (n : Nat) : Fld := ⟨0x20100+0x1000*n+0x48, 5, 5, .w1c, 0⟩
def PASS_CUT (n : Nat) : Fld := ⟨0x20100+0x1000*n+0x48, 4, 4, .w1c, 0⟩
def GAP (n : Nat) : Fld := ⟨0x20100+0x1000*n+0x48, 3, 3, .w1c, 0⟩
def CATCHUP (n : Nat) : Fld := ⟨0x20100+0x1000*n+0x48, 2, 2, .w1c, 0⟩
def SPD_WARN (n : Nat) : Fld := ⟨0x20100+0x1000*n+0x48, 1, 1, .w1c, 0⟩
def OVERSPEED (n : Nat) : Fld := ⟨0x20100+0x1000*n+0x48, 0, 0, .w1c, 0⟩
def OVS_CNT (n : Nat) : Fld := ⟨0x20100+0x1000*n+0x4C, 31, 0, .w1c, 0⟩
def CATCHUP_CNT (n : Nat) : Fld := ⟨0x20100+0x1000*n+0x50, 31, 16, .w1c, 0⟩
def ELOCK_CNT (n : Nat) : Fld := ⟨0x20100+0x1000*n+0x50, 15, 0, .w1c, 0⟩
def GAP_CNT (n : Nat) : Fld := ⟨0x20100+0x1000*n+0x54, 31, 16, .w1c, 0⟩
def CUT_CNT (n : Nat) : Fld := ⟨0x20100+0x1000*n+0x54, 15, 0, .w1c, 0⟩
def LAT_COMP (n : Nat) : Fld := ⟨0x20100+0x1000*n+0x58, 7, 0, .ro, 41⟩
end Tr

/-! Fields of the line data block of channel n (R148). -/
namespace Ld
def COUNT (n : Nat) (r : Nat) : Fld := ⟨0x20200+0x1000*n+0x00 + 4 * r, 27, 16, .rw, 0⟩
def DELAY (n : Nat) (r : Nat) : Fld := ⟨0x20200+0x1000*n+0x00 + 4 * r, 11, 0, .rw, 0⟩
def Q_FLUSH (n : Nat) : Fld := ⟨0x20200+0x1000*n+0x20, 1, 1, .wo, 0⟩
def GEOM_APPLY (n : Nat) : Fld := ⟨0x20200+0x1000*n+0x20, 0, 0, .wo, 0⟩
def NOZZLES (n : Nat) : Fld := ⟨0x20200+0x1000*n+0x24, 28, 16, .ro, 0⟩
def GEOM_ERR (n : Nat) : Fld := ⟨0x20200+0x1000*n+0x24, 7, 4, .ro, 0⟩
def NROWS (n : Nat) : Fld := ⟨0x20200+0x1000*n+0x24, 3, 0, .ro, 0⟩
def BUDGET_SP (n : Nat) : Fld := ⟨0x20200+0x1000*n+0x28, 22, 0, .ro, 0⟩
def BUDGET_SCAN (n : Nat) : Fld := ⟨0x20200+0x1000*n+0x2C, 22, 0, .ro, 0⟩
def ROW_EN (n : Nat) : Fld := ⟨0x20200+0x1000*n+0x30, 7, 0, .rws, 0xff⟩
def Q_TAG_LO (n : Nat) : Fld := ⟨0x20200+0x1000*n+0x34, 31, 0, .rw, 0⟩
def Q_TAG_HI (n : Nat) : Fld := ⟨0x20200+0x1000*n+0x38, 15, 0, .rw, 0⟩
def Q_LINES (n : Nat) : Fld := ⟨0x20200+0x1000*n+0x3C, 23, 16, .ro, 0⟩
def Q_PART (n : Nat) : Fld := ⟨0x20200+0x1000*n+0x3C, 10, 0, .ro, 0⟩
def BYTES_IN (n : Nat) : Fld := ⟨0x20200+0x1000*n+0x40, 31, 0, .ro, 0⟩
def ADMIT_LO (n : Nat) : Fld := ⟨0x20200+0x1000*n+0x44, 31, 0, .ro, 0⟩
def ADMIT_HI (n : Nat) : Fld := ⟨0x20200+0x1000*n+0x48, 15, 0, .ro, 0⟩
def WREJ (n : Nat) : Fld := ⟨0x20200+0x1000*n+0x4C, 5, 5, .w1c, 0⟩
def UE (n : Nat) : Fld := ⟨0x20200+0x1000*n+0x4C, 4, 4, .w1c, 0⟩
def CE (n : Nat) : Fld := ⟨0x20200+0x1000*n+0x4C, 3, 3, .w1c, 0⟩
def LAGNULL (n : Nat) : Fld := ⟨0x20200+0x1000*n+0x4C, 2, 2, .w1c, 0⟩
def STALE (n : Nat) : Fld := ⟨0x20200+0x1000*n+0x4C, 1, 1, .w1c, 0⟩
def MISS (n : Nat) : Fld := ⟨0x20200+0x1000*n+0x4C, 0, 0, .w1c, 0⟩
def MISS_CNT (n : Nat) : Fld := ⟨0x20200+0x1000*n+0x50, 31, 16, .w1c, 0⟩
def STALE_CNT (n : Nat) : Fld := ⟨0x20200+0x1000*n+0x50, 15, 0, .w1c, 0⟩
def CE_CNT (n : Nat) : Fld := ⟨0x20200+0x1000*n+0x54, 31, 16, .w1c, 0⟩
def UE_CNT (n : Nat) : Fld := ⟨0x20200+0x1000*n+0x54, 15, 0, .w1c, 0⟩
def UE_WORD (n : Nat) : Fld := ⟨0x20200+0x1000*n+0x58, 17, 0, .ro, 0⟩
def LAGNULL_CNT (n : Nat) : Fld := ⟨0x20200+0x1000*n+0x5C, 15, 0, .w1c, 0⟩
end Ld

/-! Fields of the edit block, pattern and tile of channel n (R174, R175, R176). -/
namespace Ed
def BS_MODE (n : Nat) : Fld := ⟨0x20300+0x1000*n+0x00, 9, 8, .rws, 0⟩
def BS_H (n : Nat) : Fld := ⟨0x20300+0x1000*n+0x00, 2, 0, .rws, 1⟩
def MAP_LW (n : Nat) : Fld := ⟨0x20300+0x1000*n+0x04, 11, 10, .rw, 3⟩
def MAP_MW (n : Nat) : Fld := ⟨0x20300+0x1000*n+0x04, 9, 8, .rw, 2⟩
def MAP_SW (n : Nat) : Fld := ⟨0x20300+0x1000*n+0x04, 7, 6, .rw, 1⟩
def MAP_LF (n : Nat) : Fld := ⟨0x20300+0x1000*n+0x04, 5, 4, .rw, 3⟩
def MAP_MF (n : Nat) : Fld := ⟨0x20300+0x1000*n+0x04, 3, 2, .rw, 2⟩
def MAP_SF (n : Nat) : Fld := ⟨0x20300+0x1000*n+0x04, 1, 0, .rw, 1⟩
def SUB_BUMP (n : Nat) : Fld := ⟨0x20300+0x1000*n+0x08, 1, 0, .rws, 1⟩
def PM_YSTEP (n : Nat) : Fld := ⟨0x20300+0x1000*n+0x0C, 21, 16, .rw, 0⟩
def PM_YOFS (n : Nat) : Fld := ⟨0x20300+0x1000*n+0x0C, 13, 8, .rw, 0⟩
def PM_NPASS (n : Nat) : Fld := ⟨0x20300+0x1000*n+0x0C, 3, 0, .rw, 0⟩
def PASS_CNT (n : Nat) : Fld := ⟨0x20300+0x1000*n+0x10, 31, 0, .ro, 0⟩
def TBL_EFF_LO (n : Nat) : Fld := ⟨0x20300+0x1000*n+0x14, 31, 0, .ro, 0⟩
def TBL_EFF_HI (n : Nat) : Fld := ⟨0x20300+0x1000*n+0x18, 15, 0, .ro, 0⟩
def TBL_SEQ (n : Nat) : Fld := ⟨0x20300+0x1000*n+0x1C, 31, 0, .ro, 0⟩
def TBL_PEND (n : Nat) : Fld := ⟨0x20300+0x1000*n+0x20, 5, 0, .ro, 0⟩
def SUB_SKIP (n : Nat) : Fld := ⟨0x20300+0x1000*n+0x24, 4, 4, .w1c, 0⟩
def WREJ (n : Nat) : Fld := ⟨0x20300+0x1000*n+0x24, 3, 3, .w1c, 0⟩
def UE (n : Nat) : Fld := ⟨0x20300+0x1000*n+0x24, 2, 2, .w1c, 0⟩
def CE (n : Nat) : Fld := ⟨0x20300+0x1000*n+0x24, 1, 1, .w1c, 0⟩
def TBL_DROP (n : Nat) : Fld := ⟨0x20300+0x1000*n+0x24, 0, 0, .w1c, 0⟩
def SUB_SKIP_CNT (n : Nat) : Fld := ⟨0x20300+0x1000*n+0x28, 31, 16, .w1c, 0⟩
def TBL_DROP_CNT (n : Nat) : Fld := ⟨0x20300+0x1000*n+0x28, 15, 0, .w1c, 0⟩
def CE_CNT (n : Nat) : Fld := ⟨0x20300+0x1000*n+0x2C, 31, 16, .w1c, 0⟩
def UE_CNT (n : Nat) : Fld := ⟨0x20300+0x1000*n+0x2C, 15, 0, .w1c, 0⟩
def UE_ENTRY (n : Nat) : Fld := ⟨0x20300+0x1000*n+0x30, 12, 0, .ro, 0⟩
def LEVEL_ADJ (n : Nat) (h : Nat) : Fld := ⟨0x20400+0x1000*n+4*h, 2, 1, .rws, 0⟩
def RAIL (n : Nat) (h : Nat) : Fld := ⟨0x20400+0x1000*n+4*h, 0, 0, .rws, 0⟩
def TILE (n : Nat) (w : Nat) : Fld := ⟨0x20800+0x1000*n+4*w, 31, 0, .rws, 0⟩
end Ed

/-! Fields of the levelling block of channel n (R212). -/
namespace Lv
def W_SCALE (n : Nat) : Fld := ⟨0x20500+0x1000*n+0x00, 26, 16, .rws, 1024⟩
def SET_SEL (n : Nat) : Fld := ⟨0x20500+0x1000*n+0x00, 8, 8, .rw, 0⟩
def OC_BLANK (n : Nat) : Fld := ⟨0x20500+0x1000*n+0x04, 15, 8, .rw, 24⟩
def OC_LIM (n : Nat) : Fld := ⟨0x20500+0x1000*n+0x04, 7, 0, .rw, 60⟩
def THETA (n : Nat) : Fld := ⟨0x20500+0x1000*n+0x08, 26, 16, .ro, 1024⟩
def ACT_SET (n : Nat) : Fld := ⟨0x20500+0x1000*n+0x08, 8, 8, .ro, 0⟩
def BAL_OK (n : Nat) : Fld := ⟨0x20500+0x1000*n+0x08, 2, 2, .ro, 0⟩
def PRECHG (n : Nat) : Fld := ⟨0x20500+0x1000*n+0x08, 1, 1, .ro, 0⟩
def HV_ON (n : Nat) : Fld := ⟨0x20500+0x1000*n+0x08, 0, 0, .ro, 0⟩
def WREJ (n : Nat) : Fld := ⟨0x20500+0x1000*n+0x0C, 6, 6, .w1c, 0⟩
def WIPED (n : Nat) : Fld := ⟨0x20500+0x1000*n+0x0C, 5, 5, .w1c, 0⟩
def RES_FAULT (n : Nat) : Fld := ⟨0x20500+0x1000*n+0x0C, 4, 4, .w1c, 0⟩
def BAL_ERR (n : Nat) : Fld := ⟨0x20500+0x1000*n+0x0C, 3, 3, .w1c, 0⟩
def OC_RECOV (n : Nat) : Fld := ⟨0x20500+0x1000*n+0x0C, 2, 2, .w1c, 0⟩
def OC_W (n : Nat) : Fld := ⟨0x20500+0x1000*n+0x0C, 1, 1, .w1c, 0⟩
def OC_F (n : Nat) : Fld := ⟨0x20500+0x1000*n+0x0C, 0, 0, .w1c, 0⟩
def RECOV_CNT (n : Nat) : Fld := ⟨0x20500+0x1000*n+0x10, 31, 16, .w1c, 0⟩
def OC_CNT (n : Nat) : Fld := ⟨0x20500+0x1000*n+0x10, 15, 0, .w1c, 0⟩
def OC_LINE_LO (n : Nat) : Fld := ⟨0x20500+0x1000*n+0x14, 31, 0, .ro, 0⟩
def OC_LINE_HI (n : Nat) : Fld := ⟨0x20500+0x1000*n+0x18, 15, 0, .ro, 0⟩
def VDRV_MV (n : Nat) : Fld := ⟨0x20500+0x1000*n+0x1C, 31, 16, .ro, 0⟩
def VHV_MV (n : Nat) : Fld := ⟨0x20500+0x1000*n+0x1C, 15, 0, .ro, 0⟩
def RES_ERR (n : Nat) (k : Nat) : Fld := ⟨0x20500+0x1000*n+0x20 + 4 * (k - 1), 15, 0, .ro, 0⟩
def CHECK1 (n : Nat) : Fld := ⟨0x20500+0x1000*n+0x5C, 1, 1, .wo, 0⟩
def CHECK0 (n : Nat) : Fld := ⟨0x20500+0x1000*n+0x5C, 0, 0, .wo, 0⟩
def VALID1 (n : Nat) : Fld := ⟨0x20500+0x1000*n+0x60, 15, 15, .ro, 0⟩
def PROT1 (n : Nat) : Fld := ⟨0x20500+0x1000*n+0x60, 14, 14, .ro, 0⟩
def ERR1 (n : Nat) : Fld := ⟨0x20500+0x1000*n+0x60, 11, 8, .ro, 0⟩
def VALID0 (n : Nat) : Fld := ⟨0x20500+0x1000*n+0x60, 7, 7, .ro, 0⟩
def PROT0 (n : Nat) : Fld := ⟨0x20500+0x1000*n+0x60, 6, 6, .ro, 0⟩
def ERR0 (n : Nat) : Fld := ⟨0x20500+0x1000*n+0x60, 3, 0, .ro, 0⟩
def LINE_TIME (n : Nat) : Fld := ⟨0x20500+0x1000*n+0x64, 31, 0, .ro, 0⟩
def USAGE_W (n : Nat) : Fld := ⟨0x20500+0x1000*n+0x68, 7, 4, .ro, 0⟩
def USAGE_F (n : Nat) : Fld := ⟨0x20500+0x1000*n+0x68, 3, 0, .ro, 0⟩
end Lv

/-! Fields of waveform slot s of channel n (R213). -/
namespace Sl
def QUIET (n : Nat) (s : Nat) : Fld := ⟨0x20600+0x1000*n+0x80*s+0x00, 31, 16, .wo, 0⟩
def REST (n : Nat) (s : Nat) : Fld := ⟨0x20600+0x1000*n+0x80*s+0x00, 4, 0, .wo, 0⟩
def RAIL3 (n : Nat) (s : Nat) : Fld := ⟨0x20600+0x1000*n+0x80*s+0x04, 14, 14, .wo, 0⟩
def MASK3 (n : Nat) (s : Nat) : Fld := ⟨0x20600+0x1000*n+0x80*s+0x04, 13, 10, .wo, 0⟩
def RAIL2 (n : Nat) (s : Nat) : Fld := ⟨0x20600+0x1000*n+0x80*s+0x04, 9, 9, .wo, 0⟩
def MASK2 (n : Nat) (s : Nat) : Fld := ⟨0x20600+0x1000*n+0x80*s+0x04, 8, 5, .wo, 0⟩
def RAIL1 (n : Nat) (s : Nat) : Fld := ⟨0x20600+0x1000*n+0x80*s+0x04, 4, 4, .wo, 0⟩
def MASK1 (n : Nat) (s : Nat) : Fld := ⟨0x20600+0x1000*n+0x80*s+0x04, 3, 0, .wo, 0⟩
def SP_EN (n : Nat) (s : Nat) : Fld := ⟨0x20600+0x1000*n+0x80*s+0x08, 11, 8, .wo, 0⟩
def FIN_T (n : Nat) (s : Nat) : Fld := ⟨0x20600+0x1000*n+0x80*s+0x08, 7, 0, .wo, 0⟩
def STEP_R (n : Nat) (s : Nat) (j : Nat) : Fld := ⟨0x20600+0x1000*n+0x80*s+0x10+0x10*j+0x00, 23, 16, .wo, 0⟩
def SP_START (n : Nat) (s : Nat) (j : Nat) : Fld := ⟨0x20600+0x1000*n+0x80*s+0x10+0x10*j+0x00, 15, 0, .wo, 0⟩
def TGT_A (n : Nat) (s : Nat) (j : Nat) : Fld := ⟨0x20600+0x1000*n+0x80*s+0x10+0x10*j+0x04, 28, 16, .wo, 0⟩
def STEP_A (n : Nat) (s : Nat) (j : Nat) : Fld := ⟨0x20600+0x1000*n+0x80*s+0x10+0x10*j+0x04, 7, 0, .wo, 0⟩
def TGT_B (n : Nat) (s : Nat) (j : Nat) : Fld := ⟨0x20600+0x1000*n+0x80*s+0x10+0x10*j+0x08, 28, 16, .wo, 0⟩
def STEP_B (n : Nat) (s : Nat) (j : Nat) : Fld := ⟨0x20600+0x1000*n+0x80*s+0x10+0x10*j+0x08, 7, 0, .wo, 0⟩
def HOLD_A (n : Nat) (s : Nat) (j : Nat) : Fld := ⟨0x20600+0x1000*n+0x80*s+0x10+0x10*j+0x0C, 31, 16, .wo, 0⟩
def HOLD_B (n : Nat) (s : Nat) (j : Nat) : Fld := ⟨0x20600+0x1000*n+0x80*s+0x10+0x10*j+0x0C, 15, 0, .wo, 0⟩
end Sl

/-! Fields of the link block of channel n (R254). -/
namespace Lk
def TRAIN (n : Nat) : Fld := ⟨0x20700+0x1000*n+0x00, 0, 0, .wo, 0⟩
def FE_VER (n : Nat) : Fld := ⟨0x20700+0x1000*n+0x04, 31, 24, .ro, 0⟩
def FE_CAP (n : Nat) : Fld := ⟨0x20700+0x1000*n+0x04, 23, 16, .ro, 0⟩
def LTC_ERR (n : Nat) : Fld := ⟨0x20700+0x1000*n+0x04, 10, 8, .ro, 0⟩
def LSTATE (n : Nat) : Fld := ⟨0x20700+0x1000*n+0x04, 2, 0, .ro, 0⟩
def FE_TYPE (n : Nat) : Fld := ⟨0x20700+0x1000*n+0x08, 31, 16, .ro, 0⟩
def FE_NOZ (n : Nat) : Fld := ⟨0x20700+0x1000*n+0x08, 15, 0, .ro, 0⟩
def WREJ (n : Nat) : Fld := ⟨0x20700+0x1000*n+0x0C, 6, 6, .w1c, 0⟩
def FE_ERR (n : Nat) : Fld := ⟨0x20700+0x1000*n+0x0C, 5, 5, .w1c, 0⟩
def RETRAINED (n : Nat) : Fld := ⟨0x20700+0x1000*n+0x0C, 4, 4, .w1c, 0⟩
def EMPTY (n : Nat) : Fld := ⟨0x20700+0x1000*n+0x0C, 3, 3, .w1c, 0⟩
def NOLACK (n : Nat) : Fld := ⟨0x20700+0x1000*n+0x0C, 2, 2, .w1c, 0⟩
def LATE (n : Nat) : Fld := ⟨0x20700+0x1000*n+0x0C, 1, 1, .w1c, 0⟩
def UNDEL (n : Nat) : Fld := ⟨0x20700+0x1000*n+0x0C, 0, 0, .w1c, 0⟩
def RETX_CNT (n : Nat) : Fld := ⟨0x20700+0x1000*n+0x10, 31, 16, .w1c, 0⟩
def TMO_CNT (n : Nat) : Fld := ⟨0x20700+0x1000*n+0x10, 15, 0, .w1c, 0⟩
def UNDEL_CNT (n : Nat) : Fld := ⟨0x20700+0x1000*n+0x14, 31, 16, .w1c, 0⟩
def LATE_CNT (n : Nat) : Fld := ⟨0x20700+0x1000*n+0x14, 15, 0, .w1c, 0⟩
def NOLACK_CNT (n : Nat) : Fld := ⟨0x20700+0x1000*n+0x18, 31, 16, .w1c, 0⟩
def EMPTY_CNT (n : Nat) : Fld := ⟨0x20700+0x1000*n+0x18, 15, 0, .w1c, 0⟩
def RETRAIN_CNT (n : Nat) : Fld := ⟨0x20700+0x1000*n+0x1C, 31, 16, .w1c, 0⟩
def RX_CV_CNT (n : Nat) : Fld := ⟨0x20700+0x1000*n+0x1C, 15, 0, .w1c, 0⟩
def FE_ERR_CNT (n : Nat) : Fld := ⟨0x20700+0x1000*n+0x20, 31, 16, .w1c, 0⟩
def FE_ERR_CODE (n : Nat) : Fld := ⟨0x20700+0x1000*n+0x20, 15, 8, .ro, 0⟩
def FE_ERR_TAG (n : Nat) : Fld := ⟨0x20700+0x1000*n+0x20, 7, 0, .ro, 0⟩
def BUSY (n : Nat) : Fld := ⟨0x20700+0x1000*n+0x24, 31, 31, .ro, 0⟩
def FAIL (n : Nat) : Fld := ⟨0x20700+0x1000*n+0x24, 30, 30, .ro, 0⟩
def WR (n : Nat) : Fld := ⟨0x20700+0x1000*n+0x24, 16, 16, .rw, 0⟩
def ADDR (n : Nat) : Fld := ⟨0x20700+0x1000*n+0x24, 15, 8, .rw, 0x80⟩
def DATA (n : Nat) : Fld := ⟨0x20700+0x1000*n+0x24, 7, 0, .rw, 0⟩
def FE_GO (n : Nat) : Fld := ⟨0x20700+0x1000*n+0x28, 0, 0, .wo, 0⟩
end Lk

/-! Fields of the nozzle-health block of channel n (R289). -/
namespace Nh
def SNS_EN (n : Nat) : Fld := ⟨0x20780+0x1000*n+0x00, 31, 31, .rws, 0⟩
def SNS_CODES (n : Nat) : Fld := ⟨0x20780+0x1000*n+0x00, 26, 24, .rws, 7⟩
def SNS_LEN (n : Nat) : Fld := ⟨0x20780+0x1000*n+0x00, 23, 16, .rw, 150⟩
def SNS_DLY (n : Nat) : Fld := ⟨0x20780+0x1000*n+0x00, 13, 8, .rw, 5⟩
def SNS_MIN (n : Nat) : Fld := ⟨0x20780+0x1000*n+0x00, 7, 0, .rw, 32⟩
def RHO_OK (n : Nat) : Fld := ⟨0x20780+0x1000*n+0x04, 31, 24, .rw, 230⟩
def RHO_FAIL (n : Nat) : Fld := ⟨0x20780+0x1000*n+0x04, 23, 16, .rw, 128⟩
def AMP_FLAT (n : Nat) : Fld := ⟨0x20780+0x1000*n+0x04, 15, 8, .rw, 64⟩
def AMP_TOL (n : Nat) : Fld := ⟨0x20780+0x1000*n+0x04, 7, 0, .rw, 64⟩
def SWEEP (n : Nat) : Fld := ⟨0x20780+0x1000*n+0x08, 28, 16, .ro, 0⟩
def DEV_UPD (n : Nat) : Fld := ⟨0x20780+0x1000*n+0x08, 15, 8, .rw, 0⟩
def LAG_TOL (n : Nat) : Fld := ⟨0x20780+0x1000*n+0x08, 2, 0, .rw, 1⟩
def SIG_VALID (n : Nat) : Fld := ⟨0x20780+0x1000*n+0x0C, 23, 16, .ro, 0⟩
def LEARN (n : Nat) : Fld := ⟨0x20780+0x1000*n+0x0C, 15, 8, .w1s, 0⟩
def SIG_ROW (n : Nat) : Fld := ⟨0x20780+0x1000*n+0x10, 10, 8, .rw, 0⟩
def SIG_IDX (n : Nat) : Fld := ⟨0x20780+0x1000*n+0x10, 7, 0, .rw, 0⟩
def SIG_DATA (n : Nat) : Fld := ⟨0x20780+0x1000*n+0x14, 15, 0, .rw, 0⟩
def CLASS (n : Nat) : Fld := ⟨0x20780+0x1000*n+0x18, 31, 29, .ro, 0⟩
def NOZ (n : Nat) : Fld := ⟨0x20780+0x1000*n+0x18, 28, 16, .ro, 0⟩
def DEV (n : Nat) : Fld := ⟨0x20780+0x1000*n+0x18, 15, 8, .ro, 0⟩
def LAG (n : Nat) : Fld := ⟨0x20780+0x1000*n+0x18, 7, 4, .ro, 0⟩
def RHO (n : Nat) : Fld := ⟨0x20780+0x1000*n+0x1C, 31, 24, .ro, 0⟩
def AMP (n : Nat) : Fld := ⟨0x20780+0x1000*n+0x1C, 23, 16, .ro, 0⟩
def NSAMP (n : Nat) : Fld := ⟨0x20780+0x1000*n+0x1C, 15, 8, .ro, 0⟩
def ROW (n : Nat) : Fld := ⟨0x20780+0x1000*n+0x1C, 2, 0, .ro, 0⟩
def RES_LINE_LO (n : Nat) : Fld := ⟨0x20780+0x1000*n+0x20, 31, 0, .ro, 0⟩
def RES_LINE_HI (n : Nat) : Fld := ⟨0x20780+0x1000*n+0x24, 15, 0, .ro, 0⟩
def WREJ (n : Nat) : Fld := ⟨0x20780+0x1000*n+0x28, 5, 5, .w1c, 0⟩
def LEARN_DONE (n : Nat) : Fld := ⟨0x20780+0x1000*n+0x28, 4, 4, .w1c, 0⟩
def QSKIP (n : Nat) : Fld := ⟨0x20780+0x1000*n+0x28, 3, 3, .w1c, 0⟩
def LOST (n : Nat) : Fld := ⟨0x20780+0x1000*n+0x28, 2, 2, .w1c, 0⟩
def SHORT (n : Nat) : Fld := ⟨0x20780+0x1000*n+0x28, 1, 1, .w1c, 0⟩
def CLIP (n : Nat) : Fld := ⟨0x20780+0x1000*n+0x28, 0, 0, .w1c, 0⟩
def CAP_CNT (n : Nat) : Fld := ⟨0x20780+0x1000*n+0x2C, 31, 16, .w1c, 0⟩
def QSKIP_CNT (n : Nat) : Fld := ⟨0x20780+0x1000*n+0x2C, 15, 0, .w1c, 0⟩
def SHORT_CNT (n : Nat) : Fld := ⟨0x20780+0x1000*n+0x30, 31, 16, .w1c, 0⟩
def LOST_CNT (n : Nat) : Fld := ⟨0x20780+0x1000*n+0x30, 15, 0, .w1c, 0⟩
def CLIP_CNT (n : Nat) : Fld := ⟨0x20780+0x1000*n+0x34, 31, 16, .w1c, 0⟩
def STRIP_EN (n : Nat) : Fld := ⟨0x20780+0x1000*n+0x40, 31, 31, .rws, 0⟩
def STRIP_ST (n : Nat) : Fld := ⟨0x20780+0x1000*n+0x40, 27, 24, .rw, 0⟩
def STRIP_P (n : Nat) : Fld := ⟨0x20780+0x1000*n+0x40, 19, 16, .rw, 7⟩
def STRIP_G (n : Nat) : Fld := ⟨0x20780+0x1000*n+0x40, 11, 8, .rw, 4⟩
def STRIP_LEVEL (n : Nat) : Fld := ⟨0x20780+0x1000*n+0x40, 1, 0, .rw, 3⟩
def STRIP_S_LO (n : Nat) : Fld := ⟨0x20780+0x1000*n+0x44, 31, 0, .ro, 0⟩
def STRIP_S_HI (n : Nat) : Fld := ⟨0x20780+0x1000*n+0x48, 15, 0, .ro, 0⟩
def STRIP_PEND (n : Nat) : Fld := ⟨0x20780+0x1000*n+0x4C, 2, 2, .ro, 0⟩
def STRIP_OVL (n : Nat) : Fld := ⟨0x20780+0x1000*n+0x4C, 1, 1, .w1c, 0⟩
def STRIP_LATE (n : Nat) : Fld := ⟨0x20780+0x1000*n+0x4C, 0, 0, .w1c, 0⟩
def STRIP_CNT (n : Nat) : Fld := ⟨0x20780+0x1000*n+0x50, 31, 16, .w1c, 0⟩
def STRIP_LATE_CNT (n : Nat) : Fld := ⟨0x20780+0x1000*n+0x50, 15, 0, .w1c, 0⟩
def STRIP_OVL_CNT (n : Nat) : Fld := ⟨0x20780+0x1000*n+0x54, 31, 16, .w1c, 0⟩
end Nh

/-! Fields of the control block of channel n (R344). -/
namespace Cc
def CAUSE (n : Nat) : Fld := ⟨0x20000+0x1000*n+0x00, 15, 8, .ro, 0⟩
def HELD (n : Nat) : Fld := ⟨0x20000+0x1000*n+0x00, 3, 3, .ro, 0⟩
def CH_STATE (n : Nat) : Fld := ⟨0x20000+0x1000*n+0x00, 2, 0, .ro, 0⟩
def RETIRE (n : Nat) : Fld := ⟨0x20000+0x1000*n+0x04, 1, 1, .wo, 0⟩
def READMIT (n : Nat) : Fld := ⟨0x20000+0x1000*n+0x04, 0, 0, .wo, 0⟩
def RA_LINE_LO (n : Nat) : Fld := ⟨0x20000+0x1000*n+0x08, 31, 0, .rw, 0⟩
def RA_LINE_HI (n : Nat) : Fld := ⟨0x20000+0x1000*n+0x0C, 15, 0, .rw, 0⟩
def LAST_LO (n : Nat) : Fld := ⟨0x20000+0x1000*n+0x10, 31, 0, .ro, 0⟩
def LAST_HI (n : Nat) : Fld := ⟨0x20000+0x1000*n+0x14, 15, 0, .ro, 0⟩
def APPLIED_EPOCH (n : Nat) : Fld := ⟨0x20000+0x1000*n+0x18, 31, 0, .ro, 0⟩
def WREJ (n : Nat) : Fld := ⟨0x20000+0x1000*n+0x1C, 2, 2, .w1c, 0⟩
def RA_FAIL (n : Nat) : Fld := ⟨0x20000+0x1000*n+0x1C, 1, 1, .w1c, 0⟩
def ORDER (n : Nat) : Fld := ⟨0x20000+0x1000*n+0x1C, 0, 0, .w1c, 0⟩
def RETIRE_CNT (n : Nat) : Fld := ⟨0x20000+0x1000*n+0x20, 31, 16, .w1c, 0⟩
def READMIT_CNT (n : Nat) : Fld := ⟨0x20000+0x1000*n+0x20, 15, 0, .w1c, 0⟩
def D2D_CNT (n : Nat) : Fld := ⟨0x20000+0x1000*n+0x24, 31, 16, .w1c, 0⟩
def HOLD_CNT (n : Nat) : Fld := ⟨0x20000+0x1000*n+0x24, 15, 0, .w1c, 0⟩
def SKIP_CNT (n : Nat) : Fld := ⟨0x20000+0x1000*n+0x28, 31, 0, .w1c, 0⟩
end Cc

/-! Fields of the epoch block (R345). -/
namespace Ep
def EP_MASK : Fld := ⟨0x200, 23, 16, .rw, 0⟩
def EP_CU : Fld := ⟨0x200, 3, 2, .rw, 0⟩
def EP_TRIG : Fld := ⟨0x200, 1, 0, .rw, 0⟩
def EP_POS_LO : Fld := ⟨0x204, 31, 0, .rw, 0⟩
def EP_POS_HI : Fld := ⟨0x208, 15, 0, .rw, 0⟩
def CANCEL : Fld := ⟨0x20c, 2, 2, .wo, 0⟩
def COMMIT : Fld := ⟨0x20c, 1, 1, .wo, 0⟩
def PREPARE : Fld := ⟨0x20c, 0, 0, .wo, 0⟩
def FAIL_REASON : Fld := ⟨0x210, 18, 16, .ro, 0⟩
def FAIL_CH : Fld := ⟨0x210, 10, 8, .ro, 0⟩
def EP_STATE : Fld := ⟨0x210, 1, 0, .ro, 0⟩
def EP_NUM : Fld := ⟨0x214, 31, 0, .ro, 0⟩
def WREJ : Fld := ⟨0x218, 0, 0, .w1c, 0⟩
end Ep

/-! Fields of thermal input m (R368). -/
namespace Th
def TYPE (m : Nat) : Fld := ⟨0x400+0x20*m+0x00, 31, 30, .rw, 0⟩
def BRK_RETIRE (m : Nat) : Fld := ⟨0x400+0x20*m+0x00, 29, 29, .rw, 0⟩
def BAND (m : Nat) : Fld := ⟨0x400+0x20*m+0x00, 19, 16, .rw, 5⟩
def WARN_LIM (m : Nat) : Fld := ⟨0x400+0x20*m+0x00, 15, 0, .rw, 0x2800⟩
def P1 (m : Nat) : Fld := ⟨0x400+0x20*m+0x04, 31, 16, .rw, 0x4000⟩
def P2 (m : Nat) : Fld := ⟨0x400+0x20*m+0x04, 15, 0, .rw, 0⟩
def TEMP (m : Nat) : Fld := ⟨0x400+0x20*m+0x08, 31, 16, .ro, 0x8000⟩
def DIAG (m : Nat) : Fld := ⟨0x400+0x20*m+0x08, 3, 2, .ro, 0⟩
def BROKEN (m : Nat) : Fld := ⟨0x400+0x20*m+0x08, 1, 1, .ro, 0⟩
def FAST (m : Nat) : Fld := ⟨0x400+0x20*m+0x08, 0, 0, .ro, 0⟩
def WREJ (m : Nat) : Fld := ⟨0x400+0x20*m+0x0C, 4, 4, .w1c, 0⟩
def WARN (m : Nat) : Fld := ⟨0x400+0x20*m+0x0C, 3, 3, .w1c, 0⟩
def BRK (m : Nat) : Fld := ⟨0x400+0x20*m+0x0C, 2, 2, .w1c, 0⟩
def TRIP (m : Nat) : Fld := ⟨0x400+0x20*m+0x0C, 1, 1, .w1c, 0⟩
def THROTTLE (m : Nat) : Fld := ⟨0x400+0x20*m+0x0C, 0, 0, .w1c, 0⟩
def TRIP_CNT (m : Nat) : Fld := ⟨0x400+0x20*m+0x10, 31, 16, .w1c, 0⟩
def BRK_CNT (m : Nat) : Fld := ⟨0x400+0x20*m+0x10, 15, 0, .w1c, 0⟩
def DWELL_MS (m : Nat) : Fld := ⟨0x400+0x20*m+0x14, 15, 0, .ro, 0⟩
def AGE_OLD (m : Nat) : Fld := ⟨0x400+0x20*m+0x18, 31, 16, .ro, 0xffff⟩
def AGE_NEW (m : Nat) : Fld := ⟨0x400+0x20*m+0x18, 15, 0, .ro, 0xffff⟩
def RAW (m : Nat) : Fld := ⟨0x400+0x20*m+0x1C, 15, 0, .ro, 0⟩
end Th

/-! Fields of the die sensors (R369). -/
namespace Di
def DIE_LOGIC : Fld := ⟨0x540, 31, 16, .ro, 0x8000⟩
def DIE_DRIVE : Fld := ⟨0x540, 15, 0, .ro, 0x8000⟩
def DTRIP_DRIVE : Fld := ⟨0x544, 1, 1, .w1c, 0⟩
def DTRIP_LOGIC : Fld := ⟨0x544, 0, 0, .w1c, 0⟩
end Di

/-! Fields of DMA channel d (R393). -/
namespace Dm
def EN (d : Nat) : Fld := ⟨0x10000+0x80*d+0x00, 31, 31, .rw, 0⟩
def PAUSE (d : Nat) : Fld := ⟨0x10000+0x80*d+0x00, 30, 30, .rw, 0⟩
def SHADOW_ARM (d : Nat) : Fld := ⟨0x10000+0x80*d+0x00, 8, 8, .w1s, 0⟩
def STATE (d : Nat) : Fld := ⟨0x10000+0x80*d+0x04, 31, 29, .ro, 0⟩
def ERR (d : Nat) : Fld := ⟨0x10000+0x80*d+0x04, 28, 26, .ro, 0⟩
def ARM_ERR (d : Nat) : Fld := ⟨0x10000+0x80*d+0x04, 25, 23, .ro, 0⟩
def OPEN (d : Nat) : Fld := ⟨0x10000+0x80*d+0x04, 22, 22, .ro, 0⟩
def WREJ (d : Nat) : Fld := ⟨0x10000+0x80*d+0x04, 3, 3, .w1c, 0⟩
def SH_REJ (d : Nat) : Fld := ⟨0x10000+0x80*d+0x04, 2, 2, .w1c, 0⟩
def WITHDRAWN (d : Nat) : Fld := ⟨0x10000+0x80*d+0x04, 1, 1, .w1c, 0⟩
def ERRF (d : Nat) : Fld := ⟨0x10000+0x80*d+0x04, 0, 0, .w1c, 0⟩
def XF_REM (d : Nat) : Fld := ⟨0x10000+0x80*d+0x08, 14, 0, .ro, 0⟩
def CUR_SRC_LO (d : Nat) : Fld := ⟨0x10000+0x80*d+0x0C, 31, 0, .ro, 0⟩
def CUR_SRC_HI (d : Nat) : Fld := ⟨0x10000+0x80*d+0x10, 31, 0, .ro, 0⟩
def RD_CNT (d : Nat) : Fld := ⟨0x10000+0x80*d+0x14, 31, 0, .rw, 0⟩
def WR_CNT (d : Nat) : Fld := ⟨0x10000+0x80*d+0x18, 31, 0, .rw, 0⟩
def ACT_CFG (d : Nat) : Fld := ⟨0x10000+0x80*d+0x1C, 31, 0, .ro, 0⟩
def ACT_ADDR_LO (d : Nat) : Fld := ⟨0x10000+0x80*d+0x20, 31, 0, .ro, 0⟩
def ACT_ADDR_HI (d : Nat) : Fld := ⟨0x10000+0x80*d+0x24, 31, 0, .ro, 0⟩
def ACT_END (d : Nat) : Fld := ⟨0x10000+0x80*d+0x28, 31, 0, .ro, 0⟩
def ACT_DOFS (d : Nat) : Fld := ⟨0x10000+0x80*d+0x2C, 18, 0, .ro, 0⟩
def WDRAW_CNT (d : Nat) : Fld := ⟨0x10000+0x80*d+0x30, 31, 16, .w1c, 0⟩
def ERR_CNT (d : Nat) : Fld := ⟨0x10000+0x80*d+0x30, 15, 0, .w1c, 0⟩
def HANDOVER_CNT (d : Nat) : Fld := ⟨0x10000+0x80*d+0x34, 31, 0, .ro, 0⟩
def MODE (d : Nat) : Fld := ⟨0x10000+0x80*d+0x40, 31, 30, .rw, 0⟩
def TRIG (d : Nat) : Fld := ⟨0x10000+0x80*d+0x40, 29, 29, .rw, 0⟩
def ENDEN (d : Nat) : Fld := ⟨0x10000+0x80*d+0x40, 28, 28, .rw, 0⟩
def SWAP (d : Nat) : Fld := ⟨0x10000+0x80*d+0x40, 27, 26, .rw, 0⟩
def DST (d : Nat) : Fld := ⟨0x10000+0x80*d+0x40, 23, 20, .rw, 0⟩
def RING_LOG2 (d : Nat) : Fld := ⟨0x10000+0x80*d+0x40, 19, 15, .rw, 12⟩
def XFER_LEN (d : Nat) : Fld := ⟨0x10000+0x80*d+0x40, 14, 0, .rw, 0x4000⟩
def SH_ADDR_LO (d : Nat) : Fld := ⟨0x10000+0x80*d+0x44, 31, 0, .rw, 0⟩
def SH_ADDR_HI (d : Nat) : Fld := ⟨0x10000+0x80*d+0x48, 31, 0, .rw, 0⟩
def SH_END (d : Nat) : Fld := ⟨0x10000+0x80*d+0x4C, 31, 0, .rw, 0⟩
def SH_DOFS (d : Nat) : Fld := ⟨0x10000+0x80*d+0x50, 18, 0, .rw, 0⟩
end Dm

/-! Fields of the DMA engine (R394). -/
namespace De
def ACTIVE : Fld := ⟨0x10800, 4, 4, .ro, 0⟩
def GRANT : Fld := ⟨0x10800, 3, 0, .ro, 0⟩
def OUTSTANDING : Fld := ⟨0x10804, 6, 0, .ro, 0⟩
def SP_IN : Fld := ⟨0x10808, 31, 0, .ro, 0⟩
def BURST : Fld := ⟨0x1080c, 9, 0, .ro, 512⟩
end De

/-! The configuration space of the function (R417): identity, BAR0, Power Management, PCI Express, MSI-X and Advanced Error Reporting.
The layout of the header and of each capability is that of the PCI Express Base Specification, which the spec names and does not
print; where each capability lies is the model's choice (log entry 66). -/
namespace Cs
/-- Where configuration offset 0 lies among the register keys; it is no address of BAR0. -/
def base : Nat := 0xC000_0000
def VENDOR : Fld := ⟨0xC000_0000, 15, 0, .ro, 0x1FC7⟩
def DEVICE : Fld := ⟨0xC000_0000, 31, 16, .ro, 0x0820⟩
def CAP_LIST : Fld := ⟨0xC000_0004, 20, 20, .ro, 1⟩
def REVISION : Fld := ⟨0xC000_0008, 7, 0, .ro, 1⟩
def CLASS : Fld := ⟨0xC000_0008, 31, 8, .ro, 0x118000⟩
def HEADER : Fld := ⟨0xC000_000C, 23, 16, .ro, 0⟩
/-- BAR0: 64-bit, not prefetchable, 16 MiB. -/
def BAR0_LO : Fld := ⟨0xC000_0010, 31, 24, .rw, 0⟩
def BAR0_TYPE : Fld := ⟨0xC000_0010, 3, 0, .ro, 4⟩
def BAR0_HI : Fld := ⟨0xC000_0014, 31, 0, .rw, 0⟩
def SUB_VENDOR : Fld := ⟨0xC000_002C, 15, 0, .ro, 0x1FC7⟩
def SUB_DEVICE : Fld := ⟨0xC000_002C, 31, 16, .ro, 0x0820⟩
def CAP_PTR : Fld := ⟨0xC000_0034, 7, 0, .ro, 0x40⟩
def INT_PIN : Fld := ⟨0xC000_003C, 15, 8, .ro, 0⟩
/-- Power Management: capability 0x01 with No_Soft_Reset. -/
def PM_ID : Fld := ⟨0xC000_0040, 15, 0, .ro, 0x5001⟩
def PM_NSR : Fld := ⟨0xC000_0044, 3, 3, .ro, 1⟩
def PM_STATE : Fld := ⟨0xC000_0044, 1, 0, .rw, 0⟩
/-- PCI Express: capability 0x10, Max_Payload_Size Supported 512, Function Level Reset, ×4 at 16.0 GT/s, ASPM L1 only. -/
def EXP_ID : Fld := ⟨0xC000_0050, 15, 0, .ro, 0xA010⟩
def MPS_SUP : Fld := ⟨0xC000_0054, 2, 0, .ro, 2⟩
def FLR_CAP : Fld := ⟨0xC000_0054, 28, 28, .ro, 1⟩
def MPS : Fld := ⟨0xC000_0058, 7, 5, .rw, 0⟩
def MRRS : Fld := ⟨0xC000_0058, 14, 12, .rw, 2⟩
def LINK_SPEED : Fld := ⟨0xC000_005C, 3, 0, .ro, 4⟩
def LINK_WIDTH : Fld := ⟨0xC000_005C, 9, 4, .ro, 4⟩
def ASPM : Fld := ⟨0xC000_005C, 11, 10, .ro, 2⟩
/-- Completion Timeout ranges A and B; Completion Timeout Disable not supported; Completion Timeout Value. -/
def CTO_RANGES : Fld := ⟨0xC000_0074, 3, 0, .ro, 3⟩
def CTO_DIS : Fld := ⟨0xC000_0074, 4, 4, .ro, 0⟩
def CTV : Fld := ⟨0xC000_0078, 3, 0, .rw, 0⟩
/-- MSI-X: capability 0x11, 32 vectors, table and Pending Bit Array in BAR0 (R418). -/
def MSIX_ID : Fld := ⟨0xC000_00A0, 15, 0, .ro, 0x0011⟩
def MSIX_SIZE : Fld := ⟨0xC000_00A0, 26, 16, .ro, 31⟩
def MSIX_TABLE : Fld := ⟨0xC000_00A4, 31, 0, .ro, 0xF0000⟩
def MSIX_PBA : Fld := ⟨0xC000_00A8, 31, 0, .ro, 0xF0800⟩
/-- Advanced Error Reporting: Completion Timeout and Completer Abort of the Uncorrectable Error Status. -/
def AER_ID : Fld := ⟨0xC000_0100, 31, 0, .ro, 0x0002_0001⟩
def AER_CTO : Fld := ⟨0xC000_0104, 14, 14, .w1c, 0⟩
def AER_CA : Fld := ⟨0xC000_0104, 15, 15, .w1c, 0⟩
def fields : List Fld := [VENDOR, DEVICE, CAP_LIST, REVISION, CLASS, HEADER, BAR0_LO, BAR0_TYPE, BAR0_HI, SUB_VENDOR, SUB_DEVICE,
  CAP_PTR, INT_PIN, PM_ID, PM_NSR, PM_STATE, EXP_ID, MPS_SUP, FLR_CAP, MPS, MRRS, LINK_SPEED, LINK_WIDTH, ASPM, CTO_RANGES, CTO_DIS,
  CTV, MSIX_ID, MSIX_SIZE, MSIX_TABLE, MSIX_PBA, AER_ID, AER_CTO, AER_CA]
end Cs

/-! Fields of the memories (R414). -/
namespace Me
def BIST_EN : Fld := ⟨0x600, 31, 31, .rw, 1⟩
def BIST_GAP : Fld := ⟨0x600, 15, 0, .rw, 100⟩
def BIST_SWEEPS : Fld := ⟨0x604, 31, 0, .ro, 0⟩
def YIELD_CNT : Fld := ⟨0x608, 31, 16, .w1c, 0⟩
def SKIP_CNT : Fld := ⟨0x608, 15, 0, .w1c, 0⟩
def BIST_FAIL_CNT : Fld := ⟨0x60c, 31, 16, .w1c, 0⟩
def COLL_CNT : Fld := ⟨0x60c, 15, 0, .w1c, 0⟩
def FAIL_MEM : Fld := ⟨0x610, 31, 28, .ro, 0xf⟩
def FAIL_OFS : Fld := ⟨0x610, 19, 0, .ro, 0⟩
def PAR_CNT : Fld := ⟨0x614, 31, 16, .w1c, 0⟩
def ROM_CE_CNT : Fld := ⟨0x614, 15, 0, .w1c, 0⟩
def PAR_MEM : Fld := ⟨0x618, 31, 28, .ro, 0xf⟩
def PAR_OFS : Fld := ⟨0x618, 19, 0, .ro, 0⟩
def WREJ : Fld := ⟨0x61c, 4, 4, .w1c, 0⟩
def PAR : Fld := ⟨0x61c, 3, 3, .w1c, 0⟩
def COLL : Fld := ⟨0x61c, 2, 2, .w1c, 0⟩
def BIST_FAIL : Fld := ⟨0x61c, 1, 1, .w1c, 0⟩
def SKIP : Fld := ⟨0x61c, 0, 0, .w1c, 0⟩
def CUR_MEM : Fld := ⟨0x620, 31, 28, .ro, 0xf⟩
def CUR_SLICE : Fld := ⟨0x620, 9, 0, .ro, 0⟩
def WIPE_CNT : Fld := ⟨0x624, 15, 0, .ro, 0⟩
end Me

/-! Fields of the mailbox (R437). -/
namespace Mb
def INDEX : Fld := ⟨0x80000+0x000, 31, 16, .rw, 0⟩
def SUB : Fld := ⟨0x80000+0x000, 15, 8, .rw, 0⟩
def SEQ : Fld := ⟨0x80000+0x004, 31, 24, .rw, 0⟩
def CMD : Fld := ⟨0x80000+0x004, 23, 20, .rw, 0⟩
def LEN : Fld := ⟨0x80000+0x004, 18, 0, .rw, 0⟩
def BUF_OFS : Fld := ⟨0x80000+0x008, 18, 0, .rw, 0⟩
def GO : Fld := ⟨0x80000+0x00C, 0, 0, .wo, 0⟩
def REQ_DATA (i : Nat) : Fld := ⟨0x80000+0x040 + 4 * i, 31, 0, .rw, 0⟩
def RSP_SEQ : Fld := ⟨0x80000+0x100, 31, 24, .ro, 0⟩
def BUSY : Fld := ⟨0x80000+0x100, 1, 1, .ro, 0⟩
def DONE : Fld := ⟨0x80000+0x100, 0, 0, .ro, 0⟩
def RSP_ABORT : Fld := ⟨0x80000+0x104, 31, 0, .ro, 0⟩
def RSP_LEN : Fld := ⟨0x80000+0x108, 18, 0, .ro, 0⟩
def RSP_DATA (i : Nat) : Fld := ⟨0x80000+0x140 + 4 * i, 31, 0, .ro, 0⟩
end Mb

/-! Fields of the host block (R449). -/
namespace Ho
def DEV_REV : Fld := ⟨0x0, 31, 0, .ro, 0x10001⟩
def NODE_ID : Fld := ⟨0x4, 6, 0, .ro, 0⟩
def FLASH_NONE : Fld := ⟨0x8, 8, 8, .ro, 0⟩
def CAN_BUSOFF : Fld := ⟨0x8, 7, 7, .ro, 0⟩
def HB_LOST : Fld := ⟨0x8, 6, 6, .ro, 0⟩
def NMT : Fld := ⟨0x8, 5, 4, .ro, 0⟩
def EXP_PCIE : Fld := ⟨0x8, 3, 3, .ro, 0⟩
def EXP_CAN : Fld := ⟨0x8, 2, 2, .ro, 0⟩
def TOKEN : Fld := ⟨0x8, 1, 0, .ro, 0⟩
def TOKEN_CTL : Fld := ⟨0xc, 1, 0, .wo, 0⟩
def INT_STAT : Fld := ⟨0x10, 31, 0, .w1c, 0⟩
def INT_EN : Fld := ⟨0x14, 31, 0, .rw, 0⟩
def MB_OVR : Fld := ⟨0x18, 2, 2, .w1c, 0⟩
def TOKEN_MOVED : Fld := ⟨0x18, 1, 1, .w1c, 0⟩
def HOST_WREJ : Fld := ⟨0x18, 0, 0, .w1c, 0⟩
def TOKEN_CNT : Fld := ⟨0x1c, 31, 0, .ro, 0⟩
end Ho

/-! Fields of the protection block (R506). -/
namespace Pr
def WIPE_CAUSE : Fld := ⟨0x100, 11, 8, .ro, 0⟩
def DATUM_LOCKED : Fld := ⟨0x100, 7, 7, .ro, 1⟩
def KEY_LOADED : Fld := ⟨0x100, 6, 6, .ro, 0⟩
def DBG_STATE : Fld := ⟨0x100, 5, 4, .ro, 0⟩
def BOOT_SRC : Fld := ⟨0x100, 3, 2, .ro, 0⟩
def LC_STATE : Fld := ⟨0x100, 1, 0, .ro, 0⟩
def FW_VERSION : Fld := ⟨0x104, 31, 0, .ro, 0⟩
def DOMAIN_STATE : Fld := ⟨0x108, 9, 0, .ro, 0⟩
def TAMPER_LVL : Fld := ⟨0x10c, 3, 3, .ro, 0⟩
def TAMPER_EN : Fld := ⟨0x10c, 2, 2, .ro, 0⟩
def DEV_STATE : Fld := ⟨0x10c, 1, 0, .ro, 1⟩
def PWR_REQ : Fld := ⟨0x110, 1, 0, .rw, 1⟩
def WREJ : Fld := ⟨0x114, 0, 0, .w1c, 0⟩
end Pr

/-! Fields of the start-up block (R525). -/
namespace Su
def SAFE_COND : Fld := ⟨0x300, 8, 0, .ro, 0⟩
def SAFE_CAUSE : Fld := ⟨0x304, 15, 0, .ro, 0⟩
def SAFE_EXIT : Fld := ⟨0x308, 0, 0, .wo, 0⟩
def BM_RES (c : Nat) : Fld := ⟨0x30C, 4*c+3, 4*c, .ro, 0xF⟩
def BM_MS : Fld := ⟨0x310, 31, 16, .ro, 0⟩
def BM_VHV : Fld := ⟨0x310, 4, 4, .ro, 0⟩
def BM_OTP : Fld := ⟨0x310, 3, 3, .ro, 0⟩
def BM_SPAD : Fld := ⟨0x310, 2, 2, .ro, 0⟩
def BM_PIXMEM : Fld := ⟨0x310, 1, 1, .ro, 0⟩
def BM_PIXLOG : Fld := ⟨0x310, 0, 0, .ro, 0⟩
def RESET_SRC : Fld := ⟨0x314, 3, 0, .ro, 0⟩
def WREJ : Fld := ⟨0x318, 0, 0, .w1c, 0⟩
end Su

/-! The fields of each block, in the order of its table. -/
/-- Sinks 45 to 63 are reserved (R37). -/
def Ev.sinkFields (k : Nat) : List Fld :=
  if k < 45 then [Ev.EN k, Ev.PENDING k, Ev.SOURCE k] else []
def Ev.fields : List Fld :=
  [Ev.SWPULSE, Ev.WREJ, Ev.MERGE_CNT]
def Cu.plain (n : Nat) : List Fld :=
  [Cu.SRC n, Cu.INV_DIR n, Cu.Z_EN n, Cu.FILT n, Cu.PER_N n, Cu.HOME_MODE n,
   Cu.HOME_DIR n, Cu.SW_DEB n, Cu.LIMP_POL n, Cu.LIMN_POL n, Cu.HOME_POL n, Cu.SSI_BITS n,
   Cu.GRAY n, Cu.SSI_DIV n, Cu.FRAME_US n, Cu.TM_US n, Cu.MAX_JUMP n, Cu.STILL_T n,
   Cu.WIN n, Cu.POS_LO n, Cu.POS_SIGN n, Cu.POS_HI n, Cu.SPEED n, Cu.WIN_SEQ n,
   Cu.SSI_LOST n, Cu.LIMP n, Cu.LIMN n, Cu.HOME n, Cu.DIR n, Cu.REVERSAL n,
   Cu.PARTIAL n, Cu.STILL n, Cu.PERIOD n, Cu.ZCAP_LO n, Cu.ZCAP_SIGN n, Cu.ZCAP_HI n,
   Cu.HOMEPOS_LO n, Cu.HOMEPOS_HI n, Cu.ZPITCH n, Cu.ZPHASE n, Cu.HOME_CANCEL n, Cu.PRESET n,
   Cu.HOME_GO n, Cu.ZSLIP_CNT n, Cu.QERR_CNT n, Cu.SSI_REJ_CNT n, Cu.HOMED n, Cu.HOMING n,
   Cu.LIM_HIT n, Cu.WREJ n]
/-- Every field of chainage unit n. -/
def Cu.fields (n : Nat) : List Fld := Cu.plain n
def St.plain (i : Nat) : List Fld :=
  [St.LATE_POL i, St.DIR i, St.CU i, St.TGT_LO i, St.TGT_HI i, St.REPEAT i,
   St.DISARM i, St.ARM i, St.WREJ i, St.FIRED_LATE i, St.LATE i, St.ARMED i,
   St.HITCNT i, St.HITTIME i]
/-- Every field of stake i. -/
def St.fields (i : Nat) : List Fld := St.plain i
def Sh.plain : List Fld :=
  [Sh.SYNC_DRV, Sh.RX_CNT, Sh.TB_LO, Sh.TB_HI]
/-- Every field of the shared chainage registers. -/
def Sh.fields : List Fld := Sh.plain
def Tr.plain (n : Nat) : List Fld :=
  [Tr.START_ST n, Tr.START_SRC n, Tr.FIRST_BWD n, Tr.MODE n, Tr.CU n, Tr.PITCH n,
   Tr.OFS_INT n, Tr.OFS_FRAC n, Tr.ANCHOR_LO n, Tr.ANCHOR_HI n, Tr.LINE0_LO n, Tr.LINE0_HI n,
   Tr.PASS_LINES n, Tr.TRIM n, Tr.REV_SHIFT n, Tr.MIN_PER n, Tr.LMATCH_LO n, Tr.LMATCH_HI n,
   Tr.NEXT_LO n, Tr.NEXT_HI n, Tr.LAST_INT n, Tr.STOP n, Tr.START n, Tr.STATE n,
   Tr.PASS_DIR n, Tr.ELOCK n, Tr.WARN_NOW n, Tr.WREJ n, Tr.START_LATE n, Tr.PASS_CUT n,
   Tr.GAP n, Tr.CATCHUP n, Tr.SPD_WARN n, Tr.OVERSPEED n, Tr.OVS_CNT n, Tr.CATCHUP_CNT n,
   Tr.ELOCK_CNT n, Tr.GAP_CNT n, Tr.CUT_CNT n, Tr.LAT_COMP n]
/-- Every field of the traverse and fire governor of channel n. -/
def Tr.fields (n : Nat) : List Fld := Tr.plain n
def Ld.plain (n : Nat) : List Fld :=
  [Ld.Q_FLUSH n, Ld.GEOM_APPLY n, Ld.NOZZLES n, Ld.GEOM_ERR n, Ld.NROWS n, Ld.BUDGET_SP n,
   Ld.BUDGET_SCAN n, Ld.ROW_EN n, Ld.Q_TAG_LO n, Ld.Q_TAG_HI n, Ld.Q_LINES n, Ld.Q_PART n,
   Ld.BYTES_IN n, Ld.ADMIT_LO n, Ld.ADMIT_HI n, Ld.WREJ n, Ld.UE n, Ld.CE n,
   Ld.LAGNULL n, Ld.STALE n, Ld.MISS n, Ld.MISS_CNT n, Ld.STALE_CNT n, Ld.CE_CNT n,
   Ld.UE_CNT n, Ld.UE_WORD n, Ld.LAGNULL_CNT n]
/-- Every field of the line data block of channel n. -/
def Ld.fields (n : Nat) : List Fld := Ld.plain n ++
  (List.range 8).flatMap (fun r => [Ld.COUNT n r, Ld.DELAY n r])
def Ed.plain (n : Nat) : List Fld :=
  [Ed.BS_MODE n, Ed.BS_H n, Ed.MAP_LW n, Ed.MAP_MW n, Ed.MAP_SW n, Ed.MAP_LF n,
   Ed.MAP_MF n, Ed.MAP_SF n, Ed.SUB_BUMP n, Ed.PM_YSTEP n, Ed.PM_YOFS n, Ed.PM_NPASS n,
   Ed.PASS_CNT n, Ed.TBL_EFF_LO n, Ed.TBL_EFF_HI n, Ed.TBL_SEQ n, Ed.TBL_PEND n, Ed.SUB_SKIP n,
   Ed.WREJ n, Ed.UE n, Ed.CE n, Ed.TBL_DROP n, Ed.SUB_SKIP_CNT n, Ed.TBL_DROP_CNT n,
   Ed.CE_CNT n, Ed.UE_CNT n, Ed.UE_ENTRY n]
/-- Every field of the edit block, pattern and tile of channel n. -/
def Ed.fields (n : Nat) : List Fld := Ed.plain n
def Lv.plain (n : Nat) : List Fld :=
  [Lv.W_SCALE n, Lv.SET_SEL n, Lv.OC_BLANK n, Lv.OC_LIM n, Lv.THETA n, Lv.ACT_SET n,
   Lv.BAL_OK n, Lv.PRECHG n, Lv.HV_ON n, Lv.WREJ n, Lv.WIPED n, Lv.RES_FAULT n,
   Lv.BAL_ERR n, Lv.OC_RECOV n, Lv.OC_W n, Lv.OC_F n, Lv.RECOV_CNT n, Lv.OC_CNT n,
   Lv.OC_LINE_LO n, Lv.OC_LINE_HI n, Lv.VDRV_MV n, Lv.VHV_MV n, Lv.CHECK1 n, Lv.CHECK0 n,
   Lv.VALID1 n, Lv.PROT1 n, Lv.ERR1 n, Lv.VALID0 n, Lv.PROT0 n, Lv.ERR0 n,
   Lv.LINE_TIME n, Lv.USAGE_W n, Lv.USAGE_F n]
/-- Every field of the levelling block of channel n. -/
def Lv.fields (n : Nat) : List Fld := Lv.plain n ++
  (List.range 15).flatMap (fun k => [Lv.RES_ERR n (k + 1)])
def Sl.plain (n : Nat) (s : Nat) : List Fld :=
  [Sl.QUIET n s, Sl.REST n s, Sl.RAIL3 n s, Sl.MASK3 n s, Sl.RAIL2 n s, Sl.MASK2 n s,
   Sl.RAIL1 n s, Sl.MASK1 n s, Sl.SP_EN n s, Sl.FIN_T n s]
/-- Every field of waveform slot s of channel n. -/
def Sl.fields (n : Nat) (s : Nat) : List Fld := Sl.plain n s ++
  (List.range 4).flatMap (fun j => [Sl.STEP_R n s j, Sl.SP_START n s j, Sl.TGT_A n s j, Sl.STEP_A n s j, Sl.TGT_B n s j, Sl.STEP_B n s j, Sl.HOLD_A n s j, Sl.HOLD_B n s j])
def Lk.plain (n : Nat) : List Fld :=
  [Lk.TRAIN n, Lk.FE_VER n, Lk.FE_CAP n, Lk.LTC_ERR n, Lk.LSTATE n, Lk.FE_TYPE n,
   Lk.FE_NOZ n, Lk.WREJ n, Lk.FE_ERR n, Lk.RETRAINED n, Lk.EMPTY n, Lk.NOLACK n,
   Lk.LATE n, Lk.UNDEL n, Lk.RETX_CNT n, Lk.TMO_CNT n, Lk.UNDEL_CNT n, Lk.LATE_CNT n,
   Lk.NOLACK_CNT n, Lk.EMPTY_CNT n, Lk.RETRAIN_CNT n, Lk.RX_CV_CNT n, Lk.FE_ERR_CNT n, Lk.FE_ERR_CODE n,
   Lk.FE_ERR_TAG n, Lk.BUSY n, Lk.FAIL n, Lk.WR n, Lk.ADDR n, Lk.DATA n,
   Lk.FE_GO n]
/-- Every field of the link block of channel n. -/
def Lk.fields (n : Nat) : List Fld := Lk.plain n
def Nh.plain (n : Nat) : List Fld :=
  [Nh.SNS_EN n, Nh.SNS_CODES n, Nh.SNS_LEN n, Nh.SNS_DLY n, Nh.SNS_MIN n, Nh.RHO_OK n,
   Nh.RHO_FAIL n, Nh.AMP_FLAT n, Nh.AMP_TOL n, Nh.SWEEP n, Nh.DEV_UPD n, Nh.LAG_TOL n,
   Nh.SIG_VALID n, Nh.LEARN n, Nh.SIG_ROW n, Nh.SIG_IDX n, Nh.SIG_DATA n, Nh.CLASS n,
   Nh.NOZ n, Nh.DEV n, Nh.LAG n, Nh.RHO n, Nh.AMP n, Nh.NSAMP n,
   Nh.ROW n, Nh.RES_LINE_LO n, Nh.RES_LINE_HI n, Nh.WREJ n, Nh.LEARN_DONE n, Nh.QSKIP n,
   Nh.LOST n, Nh.SHORT n, Nh.CLIP n, Nh.CAP_CNT n, Nh.QSKIP_CNT n, Nh.SHORT_CNT n,
   Nh.LOST_CNT n, Nh.CLIP_CNT n, Nh.STRIP_EN n, Nh.STRIP_ST n, Nh.STRIP_P n, Nh.STRIP_G n,
   Nh.STRIP_LEVEL n, Nh.STRIP_S_LO n, Nh.STRIP_S_HI n, Nh.STRIP_PEND n, Nh.STRIP_OVL n, Nh.STRIP_LATE n,
   Nh.STRIP_CNT n, Nh.STRIP_LATE_CNT n, Nh.STRIP_OVL_CNT n]
/-- Every field of the nozzle-health block of channel n. -/
def Nh.fields (n : Nat) : List Fld := Nh.plain n
def Cc.plain (n : Nat) : List Fld :=
  [Cc.CAUSE n, Cc.HELD n, Cc.CH_STATE n, Cc.RETIRE n, Cc.READMIT n, Cc.RA_LINE_LO n,
   Cc.RA_LINE_HI n, Cc.LAST_LO n, Cc.LAST_HI n, Cc.APPLIED_EPOCH n, Cc.WREJ n, Cc.RA_FAIL n,
   Cc.ORDER n, Cc.RETIRE_CNT n, Cc.READMIT_CNT n, Cc.D2D_CNT n, Cc.HOLD_CNT n, Cc.SKIP_CNT n]
/-- Every field of the control block of channel n. -/
def Cc.fields (n : Nat) : List Fld := Cc.plain n
def Ep.plain : List Fld :=
  [Ep.EP_MASK, Ep.EP_CU, Ep.EP_TRIG, Ep.EP_POS_LO, Ep.EP_POS_HI, Ep.CANCEL,
   Ep.COMMIT, Ep.PREPARE, Ep.FAIL_REASON, Ep.FAIL_CH, Ep.EP_STATE, Ep.EP_NUM,
   Ep.WREJ]
/-- Every field of the epoch block. -/
def Ep.fields : List Fld := Ep.plain
def Th.plain (m : Nat) : List Fld :=
  [Th.TYPE m, Th.BRK_RETIRE m, Th.BAND m, Th.WARN_LIM m, Th.P1 m, Th.P2 m,
   Th.TEMP m, Th.DIAG m, Th.BROKEN m, Th.FAST m, Th.WREJ m, Th.WARN m,
   Th.BRK m, Th.TRIP m, Th.THROTTLE m, Th.TRIP_CNT m, Th.BRK_CNT m, Th.DWELL_MS m,
   Th.AGE_OLD m, Th.AGE_NEW m, Th.RAW m]
/-- Every field of thermal input m. -/
def Th.fields (m : Nat) : List Fld := Th.plain m
def Di.plain : List Fld :=
  [Di.DIE_LOGIC, Di.DIE_DRIVE, Di.DTRIP_DRIVE, Di.DTRIP_LOGIC]
/-- Every field of the die sensors. -/
def Di.fields : List Fld := Di.plain
def Dm.plain (d : Nat) : List Fld :=
  [Dm.EN d, Dm.PAUSE d, Dm.SHADOW_ARM d, Dm.STATE d, Dm.ERR d, Dm.ARM_ERR d,
   Dm.OPEN d, Dm.WREJ d, Dm.SH_REJ d, Dm.WITHDRAWN d, Dm.ERRF d, Dm.XF_REM d,
   Dm.CUR_SRC_LO d, Dm.CUR_SRC_HI d, Dm.RD_CNT d, Dm.WR_CNT d, Dm.ACT_CFG d, Dm.ACT_ADDR_LO d,
   Dm.ACT_ADDR_HI d, Dm.ACT_END d, Dm.ACT_DOFS d, Dm.WDRAW_CNT d, Dm.ERR_CNT d, Dm.HANDOVER_CNT d,
   Dm.MODE d, Dm.TRIG d, Dm.ENDEN d, Dm.SWAP d, Dm.DST d, Dm.RING_LOG2 d,
   Dm.XFER_LEN d, Dm.SH_ADDR_LO d, Dm.SH_ADDR_HI d, Dm.SH_END d, Dm.SH_DOFS d]
/-- Every field of DMA channel d. -/
def Dm.fields (d : Nat) : List Fld := Dm.plain d
def De.plain : List Fld :=
  [De.ACTIVE, De.GRANT, De.OUTSTANDING, De.SP_IN, De.BURST]
/-- Every field of the DMA engine. -/
def De.fields : List Fld := De.plain
def Me.plain : List Fld :=
  [Me.BIST_EN, Me.BIST_GAP, Me.BIST_SWEEPS, Me.YIELD_CNT, Me.SKIP_CNT, Me.BIST_FAIL_CNT,
   Me.COLL_CNT, Me.FAIL_MEM, Me.FAIL_OFS, Me.PAR_CNT, Me.ROM_CE_CNT, Me.PAR_MEM,
   Me.PAR_OFS, Me.WREJ, Me.PAR, Me.COLL, Me.BIST_FAIL, Me.SKIP,
   Me.CUR_MEM, Me.CUR_SLICE, Me.WIPE_CNT]
/-- Every field of the memories. -/
def Me.fields : List Fld := Me.plain
def Mb.plain : List Fld :=
  [Mb.INDEX, Mb.SUB, Mb.SEQ, Mb.CMD, Mb.LEN, Mb.BUF_OFS,
   Mb.GO, Mb.RSP_SEQ, Mb.BUSY, Mb.DONE, Mb.RSP_ABORT, Mb.RSP_LEN]
/-- Every field of the mailbox. -/
def Mb.fields : List Fld := Mb.plain ++
  (List.range 16).flatMap (fun i => [Mb.REQ_DATA i, Mb.RSP_DATA i])
def Ho.plain : List Fld :=
  [Ho.DEV_REV, Ho.NODE_ID, Ho.FLASH_NONE, Ho.CAN_BUSOFF, Ho.HB_LOST, Ho.NMT,
   Ho.EXP_PCIE, Ho.EXP_CAN, Ho.TOKEN, Ho.TOKEN_CTL, Ho.INT_STAT, Ho.INT_EN,
   Ho.MB_OVR, Ho.TOKEN_MOVED, Ho.HOST_WREJ, Ho.TOKEN_CNT]
/-- Every field of the host block. -/
def Ho.fields : List Fld := Ho.plain
def Pr.plain : List Fld :=
  [Pr.WIPE_CAUSE, Pr.DATUM_LOCKED, Pr.KEY_LOADED, Pr.DBG_STATE, Pr.BOOT_SRC, Pr.LC_STATE,
   Pr.FW_VERSION, Pr.DOMAIN_STATE, Pr.TAMPER_LVL, Pr.TAMPER_EN, Pr.DEV_STATE, Pr.PWR_REQ,
   Pr.WREJ]
/-- Every field of the protection block. -/
def Pr.fields : List Fld := Pr.plain
def Su.plain : List Fld :=
  [Su.SAFE_COND, Su.SAFE_CAUSE, Su.SAFE_EXIT, Su.BM_MS, Su.BM_VHV, Su.BM_OTP,
   Su.BM_SPAD, Su.BM_PIXMEM, Su.BM_PIXLOG, Su.RESET_SRC, Su.WREJ]
/-- Every field of the start-up block. -/
def Su.fields : List Fld := Su.plain ++
  (List.range 8).flatMap (fun c => [Su.BM_RES c])

end Sys2Proof.Machine
end

