-- ==== Sys2Proof/Machine/State.lean ====
section
/-! DEFINITION. The state of the block as plain data, its stop reasons, and the state right after reset. A register the
spec gives a table row lives in `regs` under its field's key (an unlisted key reads as the field's reset value); what
the spec only implies (a position before it is snapshot, a line between its boundary and its decision, a queue) has a
typed home of its own. -/
namespace Sys2Proof.Machine

/-! ### Modes -/

/-- CH_STATE (R319). -/
inductive ChState where
  | off | idle | run | stopping | retiring | retired | readmitting
deriving DecidableEq, Repr
/-- STATE of the traverse (R118). -/
inductive TravState where
  | stopped | waitStart | running | waitRev
deriving DecidableEq, Repr
/-- LSTATE (R246). -/
inductive LinkState where
  | down | training | up | retrain | failed
deriving DecidableEq, Repr
/-- EP_STATE (R345). -/
inductive EpState where
  | openE | prepared | armed
deriving DecidableEq, Repr
/-- NMT state (R428). -/
inductive Nmt where
  | init | preOp | operational | stopped
deriving DecidableEq, Repr
/-- DeviceState (R501, R459). -/
inductive DevState where
  | run | idle | standby | safe
deriving DecidableEq, Repr
/-- STATE of a DMA channel (R393). -/
inductive DmaState where
  | idle | ready | running | draining | stopped | error
deriving DecidableEq, Repr
/-- Apply class of an object (R10). -/
inductive Cls where
  | imm | line | epoch | idle | boot | none
deriving DecidableEq, Repr
/-- Where the device stands in its start (R513): reset held, waiting for the PLL, verifying slots, benchmark run, up. -/
inductive BootStage where
  | held | released | locked | benchmark | up
deriving DecidableEq, Repr
/-- The instruction in the TAP's instruction register (R497). -/
inductive TapIr where
  | bypass | idcode | sample | extest | clamp | highz | dbg
deriving DecidableEq, Repr

/-! ### Chainage -/

/-- Hidden state of a chainage unit (R52 to R76). `dir` is the last edge's direction (true: backward), `ivs` the valid edge
intervals as (ticks, edges), newest first, `homing` whether homing runs and whether the HOME switch has become active in
it (R74), `sw…` the debounced pin levels, `ssiAnew` that the next accepted frame only gives a new raw reference. -/
structure Cu where
  pos : Pos
  a : Bool
  b : Bool
  dir : Option Bool
  lastT : Option Nat
  ivs : List (Nat × Nat)
  still : Bool
  lastAcc : Nat
  winCnt : Int
  winEdge : Bool
  winRev : Bool
  winFresh : Bool
  speed : Int
  winSeq : Nat
  rev : Bool
  part : Bool
  homing : Option Bool
  swHome : Bool
  swLimP : Bool
  swLimN : Bool
  ssiRaw : Option Nat
  ssiBad : Nat
  ssiLost : Bool
  ssiAt : Option Nat
  ssiAnew : Bool
  zcap : Pos
deriving DecidableEq, Repr

/-- Hidden state of a stake (R77 to R85). `lateAt` is the cycle-bound hit that R81 owes. -/
structure Stake where
  tgt : Pos
  armed : Bool
  lateDue : Bool
deriving DecidableEq, Repr

/-! ### The channel -/

/-- How a line was scheduled: by prediction (R103), as a catch-up (R105), edge-locked (R107), or as a GAP that follows an
edge-locked line of the same SSI frame (R108). -/
inductive SchedKind where
  | pred | catchup | elock | gap
deriving DecidableEq, Repr
/-- A standing schedule: the line, its tick before LAT_COMP and TRIM (a catch-up takes neither), its kind. -/
structure Sched where
  line : Nat
  tick : Nat
  kind : SchedKind
deriving DecidableEq, Repr

/-- What a commit left for a channel (R113, R337, R338): its first line, the position C, the committed PITCH, OFFSET,
REV_SHIFT and waveform selection, the epoch's number, and whether the line has passed its boundary. -/
structure Rebase where
  kc : Nat
  c : Pos
  pitch : Nat
  ofs : Nat
  rev : Nat
  slot : Nat
  number : Nat
  bound : Bool
deriving DecidableEq, Repr

/-- Traverse and fire governor (R96 to R117). `early` holds the outcomes of lines decided before their boundary: true
for a line decided to fire (R142), false for one dropped (R141). `rebases` are commits not yet reached, oldest first,
`gapFrom` the lines from which lines already behind the position are GAP (R113), `first` the first line of the run (R236),
`decAt` the tick of the last decision, `runOf` the LINE0 that a commit left and the line the passes are counted from (R111,
R155), `lastX` where the last decided line lay (R112), `lmOld` and `lmAt` the LMATCH that holds in the cycle of its last write, and that cycle (R117). -/
structure Trav where
  st : TravState
  next : Nat
  sched : List Sched
  lastFired : Option Nat
  lastFiredLine : Option Nat
  warnNow : Bool
  early : List (Nat × Bool)
  rebases : List Rebase
  gapFrom : List Nat
  first : Nat
  decAt : Nat
  runOf : Option (Nat × Nat)
  lastX : Int
  lmOld : Nat
  lmAt : Nat
deriving DecidableEq, Repr

/-- A complete line of the staging queue: its tag, its bytes and the CORE_CLK cycle its last byte arrived in (R136). -/
structure QLine where
  tag : Nat
  data : List Byte
  doneAt : Nat
deriving DecidableEq, Repr

/-- The staging queue (R134 to R138): lines oldest first, the bytes of the partial line, Q_TAG, and the bytes of a 64-bit word that
is not whole yet (R123). -/
structure Queue where
  lines : List QLine
  part : List Byte
  tag : Nat
  word : List Byte
deriving DecidableEq, Repr

/-- An image line in the offset store: its number and the codes of its nozzles. -/
structure Image where
  no : Nat
  codes : List Nat
  strip : Bool
deriving DecidableEq, Repr

/-- The offset store and the line boundary (R124 to R142): geometry in effect as (COUNT, DELAY) of the used rows, the
image lines held, the start of the history, the next line to take its boundary, the last line past it, and the line the
edit stage is busy with. `blank` is R164's clearing of HIST at the next boundary. -/
structure Store where
  rows : List (Nat × Nat)
  img : List Image
  hist0 : Nat
  bNext : Option Nat
  entered : Option Nat
  busy : Option Nat
  blank : Bool
deriving DecidableEq, Repr

/-- A sub-pulse of a slot (R190). -/
structure SubPulse where
  start : Nat
  tgtA : Nat
  stepA : Nat
  holdA : Nat
  tgtB : Nat
  stepB : Nat
  holdB : Nat
  stepR : Nat
deriving DecidableEq, Repr
/-- What a slot holds (R190): REST, FIN_T, QUIET, SP_EN, the rail (true: W) and the mask of drive codes 1 to 3, and SP0 to SP3. -/
structure SlotDesc where
  rest : Nat
  fin : Nat
  quiet : Nat
  en : Nat
  rails : List Bool
  masks : List Nat
  sps : List SubPulse
deriving DecidableEq, Repr
/-- A slot of which nothing is defined. -/
def SlotDesc.blank : SlotDesc := ⟨0, 0, 0, 0, [], [], []⟩

/-- One frame of a line or of a far-end access, with how often it was sent (R223, R234). -/
structure Frame where
  type : Nat
  index : Nat
  last : Bool
  payload : List Nat
  sent : Nat
  acked : Bool
  waiting : Bool
deriving DecidableEq, Repr

/-- A line between its boundary and the end of its waveform: what the boundary fixed (R25), the contents of its slot among it, and how
far the link and the governor have brought it. `msgs` are the EMCY of its boundary, which leave with its decision (R48), as
(code, the bytes 1 to 4, or none for the line's number), `sending` whether TRANSMIT_LINE has handed its frames over, `spxSent` the sub-pulses
whose SPX has left. -/
structure Line where
  no : Nat
  codes : List Nat
  null : Bool
  held : Bool
  slot : Nat
  desc : SlotDesc
  theta : Nat
  wscale : Nat
  trim : Nat
  lineTime : Nat
  sense : Option Nat
  snsEn : Bool
  encoded : Bool
  msgs : List (Nat × List Byte)
  frames : List Frame
  reps : Nat
  undel : Bool
  latched : Option Bool
  lack : Option Bool
  lackAt : Nat
  decided : Bool
  runs : Bool
  cut : Bool
  sending : Bool
  spxSent : List Nat
deriving DecidableEq, Repr

/-- A transmission that awaits its answer (R227, R233), and the tick its EOF has left by. `line` is none for CONFIG and STATUS_REQ
frames. -/
structure Tx where
  fseq : Nat
  line : Option Nat
  frame : Nat
  till : Nat
deriving DecidableEq, Repr

/-- What a far-end access is for: the registers, the port that waits for its answer, or a TPDO that maps FarEndRead (R256, R462). -/
inductive FeFor where
  | reg
  | port (p : Port)
  | pdo (p : Nat)
deriving DecidableEq, Repr
/-- A far-end access in progress (R254 to R256). -/
structure FeAcc where
  addr : Nat
  val : Nat
  write : Bool
  use : FeFor
deriving DecidableEq, Repr

/-- The Ismaing link of a channel (R216 to R256). `ctl` are the CONFIG and STATUS_REQ frames not yet acknowledged, by
purpose: 0 the identity, 1 and 2 the drive tables of slots 0 and 1, 3 a far-end access. `cto` counts consecutive timeouts,
`retrains` are the starts of the last two retrainings, newest first. `free` is the tick the outbound lanes are free at, `kept` are
the dropped lines of which the far end still holds frames not latched (R227), `feQ` are the accesses that wait for `fe` (R438), `seen` is
the tick of the last event of the link, `eofs` are the ticks at which each FSEQ last had its EOF (R227). -/
structure Link where
  st : LinkState
  fseq : Nat
  tx : List Tx
  ctl : List (Nat × Frame)
  cto : Nat
  retrains : List Nat
  latched : Option Nat
  fe : Option FeAcc
  tsrSeen : Bool
  free : Nat
  kept : List Nat
  feQ : List FeAcc
  seen : Nat
  eofs : List (Nat × Nat)
deriving DecidableEq, Repr

/-- What an apply-queue edit changes (R45, R46, R169, R171). A table edit is `mask`ed: bits outside keep their value. -/
inductive EditBody where
  | obj (idx sub : Nat) (data : List Byte)
  | entry (i mask val : Nat)
  | closure (i mask val : Nat) (st : Nat) (why : Nat)
  | pattern (h val : Nat)
  | tile (w val : Nat)
deriving DecidableEq, Repr

/-- An edit waiting in an apply queue: its class, the port whose IMM write still waits for its answer (R47), and the
tick it was accepted at. A boundary takes the whole queue, so it never splits a request (R170). -/
structure Edit where
  body : EditBody
  cls : Cls
  owed : Option Port
  at0 : Nat
deriving DecidableEq, Repr

/-- An object write kept for a parked channel (R322). -/
structure Kept where
  idx : Nat
  sub : Nat
  data : List Byte
deriving DecidableEq, Repr

/-- A protected load in progress (R205, R492): the slot, the scratchpad offset, the package as copied, whether the copy met a
parity error, and the port that waits for the answer. -/
structure Load where
  slot : Nat
  ofs : Nat
  pkg : List Byte
  par : Bool
  port : Option Port
deriving DecidableEq, Repr

/-- A step of a ladder (R180): the switch in use opens, and the switch of the level closes. -/
structure LadderStep where
  opens : Nat
  closes : Nat
  level : Nat
deriving DecidableEq, Repr
/-- A move of a rail (R187): when the switch in use opens, when the steps begin, the levels visited, the ticks per step, and the
ticks the finishing stage then takes to a code that it holds. -/
structure RailMove where
  open0 : Nat
  at0 : Nat
  levels : List Nat
  step : Nat
  hold : Option (Nat × Nat)
deriving DecidableEq, Repr
/-- A rail: the level its ladder stood on and the code its finishing stage held when its plan was made, and the plan. -/
structure RailRun where
  lvl : Nat
  code : Option Nat
  moves : List RailMove
deriving DecidableEq, Repr

/-- Levelling hidden state: rails at REST, precharge running, lines of past overcurrents and parity failures (R204), the
slots whose protected contents wait to be zeroed after a wipe (R207), a ramp to LV0 and bleed in progress with the tick at which the
input switch opens (R185), the rails, the tick from which VHV is checked before the input switch closes (R186), and the tick at which
precharge was over (R516). -/
structure Drive where
  railsRest : Bool
  railF : RailRun
  railW : RailRun
  vhvAt : Option Nat
  precharging : Bool
  ocLines : List Nat
  d2dLines : List Nat
  wiped : List Nat
  wipeStop : Option Nat
  bleeding : Bool
  openAt : Option Nat
  prechgAt : Option Nat
  load : Option Load
deriving DecidableEq, Repr

/-! ### Nozzle health -/

/-- A sense capture in progress (R258, R260): its line, nozzle, drive code, scales and samples. -/
structure Cap where
  line : Nat
  noz : Nat
  sigma : Nat
deriving DecidableEq, Repr
/-- A classified capture (R264, R265): line, nozzle, class, deviation, lag, RHO, AMP, L and row. -/
structure SRes where
  line : Nat
  noz : Nat
  cls : Nat
  dev : Int
  lag : Int
  rho : Nat
  amp : Nat
  len : Nat
  row : Nat
deriving DecidableEq, Repr
/-- A row's signature: its samples and SIG_N (R263). -/
structure Sig where
  g : List Int
  n : Nat
deriving DecidableEq, Repr
/-- A learning in progress on a row (R267). -/
structure Learn where
  row : Nat
  count : Nat
  minLen : Nat
  sums : List Int
deriving DecidableEq, Repr
/-- A strip pending, printing or printed (R269, R271): its first line, its length, and where its lines lie without the channel's
OFFSET, in 1/65,536 edges (R274). -/
structure Strip where
  s0 : Nat
  len : Nat
  xs : List Int
deriving DecidableEq, Repr
/-- Kept observations of a nozzle (R279, R281): sense classes and strip findings, newest first, the run of OK strip findings,
how many of them have come since the last FAIL, and the last sense deviation (R266). -/
structure Evid where
  noz : Nat
  sd : Option Int
  sense : List Nat
  strip : List Nat
  okRun : Nat
  okSince : Nat
deriving DecidableEq, Repr
/-- One entry write of a decision (R285): the entry, the masked value, the statuses and the log's source. -/
structure VWrite where
  noz : Nat
  mask : Nat
  val : Nat
  why : Nat
deriving DecidableEq, Repr
/-- The reports of a channel's last analysed strip (R288): its frame as (context, frame), YRES in 1/16 edge, and the measured x of the
channel's nozzle 0 and last nozzle, in 1/65,536 px. -/
structure StripRep where
  ctx : Nat
  frame : Nat
  y : Int
  x0 : Option Int
  xl : Option Int
deriving DecidableEq, Repr
/-- What the closure engine measured of one dot of a strip (R276): its centroid less the expected x in 1/65,536 px. -/
structure StripDot where
  nozzle : Nat
  dev : Int
deriving DecidableEq, Repr
/-- Nozzle-health state of a channel. `last` is the last result, `results` those not yet in the sense result queue, `obs`
the observations not yet taken up by the closure engine, as (nozzle, whether of a strip, code, deviation). -/
structure Health where
  cap : Option Cap
  last : Option SRes
  results : List SRes
  obs : List (Nat × Bool × Nat × Int)
  sigs : List Sig
  learns : List Learn
  strip : Option Strip
  printed : List Strip
  evid : List Evid
  verdicts : List (List VWrite)
  rep : Option StripRep
deriving DecidableEq, Repr

/-- One channel (R24). Table entries are a sparse list by nozzle, an unlisted entry reading 0 (R168); `badEntries` are
those whose word reads uncorrectable (R168, R172). `cold` holds of a channel that retires and has never been IDLE (R515). -/
structure Chan where
  st : ChState
  trav : Trav
  q : Queue
  store : Store
  lines : List Line
  table : List (Nat × Nat)
  applyQ : List Edit
  link : Link
  drive : Drive
  health : Health
  lastLine : Option Nat
  ueWords : List Nat
  ueEntries : List Nat
  badEntries : List Nat
  readmitK : Option Nat
  kept : List Kept
  cold : Bool
deriving DecidableEq, Repr

/-! ### Camera -/

/-- The working copy of a context's bank (R310). -/
structure Bank where
  bl : List Nat
  gain : List Nat
  mtx : List Int
  en : Nat
deriving DecidableEq, Repr
/-- A frame (R297 to R300): its flags, lines received, lines still on their way through the pipeline, stamps and bank, and whether its
context has been disabled since, so that its lines are discarded. -/
structure CamFrame where
  id : Nat
  flags : Nat
  recv : Nat
  inPipe : Nat
  pos : Pos
  tb : Nat
  bank : Bank
  isOpen : Bool
  badBank : Bool
  void : Bool
deriving DecidableEq, Repr
/-- A received line in a port's FIFO (R304): its context, frame, number, data type and payload. -/
structure CamLine where
  ctx : Nat
  frame : Nat
  no : Nat
  dt : Nat
  bytes : List Byte
deriving DecidableEq, Repr
/-- A camera context: armed capture, frames open or closing (oldest first), curves, last output lines. -/
structure Context where
  armed : Bool
  frames : List CamFrame
  nextId : Nat
  curves : List (List Nat)
  out : List (Nat × List (Nat × Nat × Nat))
  bankBad : Bool
deriving DecidableEq, Repr
/-- A camera port: line FIFO oldest first, trigger output with the tick its width ends at, and whether its clock lane is active and
its skew calibrated (R317). -/
structure CamPort where
  fifo : List CamLine
  trig : Bool
  till : Nat
  clock : Bool
  skew : Bool
deriving DecidableEq, Repr
/-- The snapshot (R313), with the place in its buffer where the next line goes; the buffer keeps what an earlier one left. -/
structure Snap where
  armed : Bool
  frame : Option (Nat × Nat)
  lines : Nat
  done : Bool
  cancelled : Bool
  flagged : Bool
  at0 : Nat
  buf : List Byte
deriving DecidableEq, Repr
/-- A strip waiting for analysis (R278): channel, strip, the frame with its stamp, and the frame's lines in the closure engine's
working memory (R312). -/
structure StripJob where
  ch : Nat
  s0 : Nat
  pos : Pos
  ctx : Nat
  frame : Nat
  xs : List Int
  lines : List (Nat × List (Nat × Nat × Nat))
deriving DecidableEq, Repr
/-- PD_PIX: power, ports, contexts, snapshot, the port served last (R305), strips waiting. -/
structure Pix where
  on : Bool
  ready : Bool
  ports : List CamPort
  ctxs : List Context
  last : Nat
  snap : Snap
  jobs : List StripJob
deriving DecidableEq, Repr

/-! ### Thermal -/

/-- Hidden state of a thermal input (R353 to R364): the trip window, runs of out-of-range, valid and cool samples, the start
of the run below 60 °C, the cycle in which the restart condition was met, the last two trips newest first, THETA with the
cycle its result was ready in and the value before it, the cycle of the confirmation that holds the channel, and whether a
first held line or a broken sensor is still to be told. -/
structure Thermal where
  win : List Bool
  oor : Nat
  valid : Nat
  cool : Nat
  dwell0 : Option Nat
  restart : Option Nat
  trips : List Nat
  theta : Nat
  thetaAt : Nat
  thetaOld : Nat
  heldAt : Nat
  heldMsg : Bool
  brkMsg : Bool
deriving DecidableEq, Repr

/-! ### DMA -/

/-- A transfer (R374, R386): its length, the bytes written to the destination and those of them counted, the next source
address, the bytes not yet read, the bursts issued as (address, length, tick) oldest first, whether the last burst is written
and its read-back on the way (R392), for a list the address of its entry and whether the entry was marked END, what its set said of
the destination, SWAP and the scratchpad offset, and whether that set has ended meanwhile (R551). -/
structure Xfer where
  len : Nat
  got : Nat
  cred : Nat
  src : Nat
  rem : Nat
  out : List (Nat × Nat × Nat)
  fin : Bool
  ent : Nat
  last : Bool
  dst : Nat
  swap : Nat
  dofs : Nat
  old : Bool
deriving DecidableEq, Repr
/-- A DMA channel: whether a set is active, its transfers in the order granted, the address of the next list entry, that
entry once fetched as (address, length, END), whether the entry marked END has been granted, the LINKs in a row, the error
to raise once the transfers in progress are done, whether EN = 0 stopped a transfer (R387), the cycle of the last pulse that
found no closed set (R378), the ports whose Pause writes wait for DRAINING to end (R396), reads issued whose data is discarded
(R388, R389), and whether the entry to D3hot stopped it (R420). -/
structure Dma where
  act : Bool
  xf : List Xfer
  entAt : Nat
  ent : Option (Nat × Nat × Bool)
  ended : Bool
  links : Nat
  failing : Nat
  wd : Bool
  pulseAt : Option Nat
  owed : List Port
  junk : List (Nat × Nat × Nat)
  held : Bool
deriving DecidableEq, Repr

/-! ### Memories, OTP, protection -/

/-- The background test (R405, R406): the next place of the sweep, the slice under test as (memory, slice), the slice of each
yield of the present sweep, and the slices to test again, with whether another slice has begun since they yielded. -/
structure Bist where
  mem : Nat
  slice : Nat
  running : Option (Nat × Nat)
  yields : List (Nat × Nat)
  again : List ((Nat × Nat) × Bool)
deriving DecidableEq, Repr
/-- The 40 fuses of a physical OTP word at the normal and the tightened margin: [31:0] data, [38:32] check, [39] valid,
and whether a run that did not complete pulsed a fuse of it, or a verify of it failed (R470, R471). -/
structure OtpCell where
  idx : Nat
  norm : Nat
  tight : Nat
  torn : Bool
deriving DecidableEq, Repr
/-- A region's lock row (R467): write lock, read lock, remap tags and (region 0) life-cycle fuses, both margins. -/
structure LockRow where
  wl : Nat × Nat
  rl : Nat × Nat
  tags : List (Nat × Nat)
  lc : Nat × Nat
deriving DecidableEq, Repr
/-- OTP: words, lock rows, the armed region with its count (R476), whether the die lies in the window. -/
structure Otp where
  words : List OtpCell
  rows : List LockRow
  arm : Option (Nat × Nat)
  windowOk : Bool
deriving DecidableEq, Repr
/-- The datum block (R485) with debug, key register, whether a wipe has emptied it since the reset (R496), and challenge state (R490, R499). -/
structure Datum where
  locked : Bool
  lc : Nat
  dbg : Nat
  tokenPcie : Bool
  tamperEn : Bool
  dbgChal : Bool
  key : Bool
  wiped : Bool
  bootSrc : Nat
  fwVersion : Nat
  chal : Option (List Byte)
  chalFails : Nat
deriving DecidableEq, Repr
/-- A copy of the parameter store (R446): sequence number and saved values; none where the copy is not valid. -/
structure ParamCopy where
  seq : Nat
  vals : List (Nat × Nat × List Byte)
deriving DecidableEq, Repr
/-- A save in progress (R446): the values it writes, the tick by which it is done, and the port that waits for its answer. -/
structure Saving where
  vals : List (Nat × Nat × List Byte)
  due : Nat
  port : Option Port
deriving DecidableEq, Repr
/-- The flash as the device uses it: whether one is fitted that is not blank (R448), parameter copies, a save in progress, boot slot, the slot that
is to be it from the next reset on (R445), what an update has left in each slot
(none: the slot as delivered, log entry 8), the state of an update (R456) and the image bytes received. -/
structure Flash where
  present : Bool
  copies : List (Option ParamCopy)
  saving : Option Saving
  bootSlot : Nat
  nextBoot : Nat
  slots : List (Option (List Byte))
  prog : Nat
  image : List Byte
deriving DecidableEq, Repr

/-! ### Field bus and messages -/

/-- What an EMCY message carries (R341). -/
structure Msg where
  code : Nat
  src : Nat
  line : Nat
  info : List Byte
  record : Option Nat
deriving DecidableEq, Repr
/-- An entry of the fault log (R343). -/
structure LogEntry where
  code : Nat
  src : Nat
  line : Nat
  reg : Nat
  held : Nat
deriving DecidableEq, Repr
/-- When a code from a source was last sent, and how many occurrences the 10 ms rule has held back since (R342). -/
structure Sent where
  code : Nat
  src : Nat
  at0 : Nat
  held : Nat
deriving DecidableEq, Repr
/-- What a TPDO whose far-end accesses run does when they are over (R465): it leaves, it leaves if a value has changed, or a changed
value makes it due. -/
inductive PdoWait where
  | send | ifChanged | check
deriving DecidableEq, Repr
/-- A TPDO's run-time state (R465). -/
structure Tpdo where
  last : Option (List Byte)
  sentAt : Option Nat
  due : Bool
  syncs : Nat
  wait : Option PdoWait
deriving DecidableEq, Repr
/-- CAN FD side: NMT, node ID, RPDOs waiting for a SYNC, TPDOs, LSS fastscan position; `far` is the last value of each channel's FarEndRead
taken for a TPDO. -/
structure Can where
  nmt : Nmt
  nodeId : Nat
  rpdoWait : List (Nat × List Byte)
  tpdo : List Tpdo
  lssPos : Nat
  sent : List Sent
  queue : List Msg
  errs : List (Nat × Nat)
  log : List LogEntry
  conds : List (Nat × Nat)
  far : List (Nat × Nat)
deriving DecidableEq, Repr
/-- A mailbox request being served (R438): object, SEQ, and for CMD 3 the scratchpad offset of its answer. -/
structure MbReq where
  idx : Nat
  sub : Nat
  seq : Nat
  into : Option Nat
deriving DecidableEq, Repr
/-- PCI Express side: PD_HOST power, link, PERST, D3hot, the mailbox request in progress, and whether the host has configured the
function. -/
structure Pcie where
  on : Bool
  linkUp : Bool
  perst : Bool
  d3 : Bool
  mb : Option MbReq
  conf : Bool
deriving DecidableEq, Repr

/-- What leaves the block: the model's record of frames, groups, messages and answers, newest first. -/
inductive Out where
  | frame (n : Nat) (bytes : List Nat)
  | abortFrame (n : Nat)
  | group (n : Nat) (k : Nat) (b1 b2 chk : Nat)
  | trainBlocks (n : Nat) (second : Bool)
  | fired (n line : Nat) (null : Bool) (useF useW : Nat) (tgtF tgtW : List (Nat × Nat))
  | emcy (code reg src : Nat) (info : List Nat)
  | sdo (p : Port) (idx sub abort : Nat)
  | sdoData (p : Port) (idx sub : Nat) (data : List Byte)
  | regData (addr val : Nat)
  | barData (addr : Nat) (data : List Byte) (poisoned : Bool)
  | completerAbort (addr : Nat)
  | portS (ofs : Nat) (data : List Byte)
  | msix (v : Nat)
  | tpdo (p : Nat) (data : List Byte)
  | heartbeat (nmt : Nmt)
  | bootUp
  | lss (b : List Nat)
  | syncPulse
  | trig (p : Nat) (hi : Bool)
  | ssiClock (n : Nat)
  | tdo (v : Nat)
  | ladder (n : Nat) (w : Bool) (steps : List LadderStep)
  | balance (n k : Nat) (charge : Bool)
  | supervisor (resend : Bool)
  | released (v : Nat)
  | scan (i : TapIr) (cells : Nat)
  | debug (data : List Byte)
deriving DecidableEq, Repr

/-- The last command to a VHV input switch on the supervisor link (R21): its channel, whether it closes the switch, when it was sent, and
whether its word failed, so that it waits to be sent again. -/
structure SwitchCmd where
  ch : Nat
  close : Bool
  at0 : Nat
  held : Bool
deriving DecidableEq, Repr

/-- A retirement by a fault, as it found its channel (R326): the cycle, the channel, its state, CAUSE, RETIRE_CNT and verdict groups. -/
structure RetireMark where
  cyc : Nat
  ch : Nat
  st : ChState
  cause : Nat
  cnt : Nat
  verdicts : List (List VWrite)
deriving DecidableEq, Repr
/-- A head trip, as it found its sensor (R366): the cycle, the channel, the sensor, its flag TRIP and TRIP_CNT. -/
structure TripMark where
  cyc : Nat
  ch : Nat
  th : Thermal
  flag : Nat
  cnt : Nat
deriving DecidableEq, Repr
/-- A commit, as it found its channels (R335): the cycle, EP_NUM, and of each named channel its traverse and its values in effect. -/
structure CommitMark where
  cyc : Nat
  num : Nat
  chs : List (Nat × Trav × Rebase)
deriving DecidableEq, Repr

/-- Device-level state: boot stage, SAFE and power state (`safeAt` is the cycle of the last class S cause, R326), watchdog, whether an
uncorrectable error of the ROM has stopped the station processor (`romStop`, R413), supervisor link, benchmark run, the accesses
of port S that wait for the end of a wipe (`spWait`, R404), the boundary-scan register (`bsr`, R497), whether the debugger holds the
station processor halted (R500), whether VDDIO_33 is low (`ioLow`, R509), and what the retirements, head
trips and commits of the present cycle found, which a fault of the same cycle takes back (R326, R335, R366). -/
structure Dev where
  boot : BootStage
  pll : Bool
  safe : Bool
  safeEntry : Option (Nat × Nat)
  safeAt : Option Nat
  safeRun : Option (Option Port)
  standby : Bool
  standbyWait : Option (Option Port)
  waking : Option (Option Port)
  hostParkDue : Bool
  wdAt : Option Nat
  restarting : Bool
  romStop : Bool
  supFails : Nat
  supResend : Bool
  supCmd : Option SwitchCmd
  tests : List ChanTest
  bmAt : Nat
  dieHot : Bool × Bool
  wiping : Bool
  spWait : List SPort
  tamperLow : Bool
  tap : TapIr
  bsr : Nat
  dbgHalt : Bool
  token : Port
  expCan : Bool
  expPcie : Bool
  ioLow : Bool
  retires : List RetireMark
  trips : List TripMark
  commit : Option CommitMark
deriving DecidableEq, Repr

/-- The state of the block. `fresh` holds, of each shadow written in the present cycle, the field's key, what the shadow held
before the cycle, and the cycle: a line boundary of that cycle still takes the old value (R143). -/
structure State where
  pending : List Instr
  tb : Nat
  ctr : Nat
  regs : List (Nat × Nat)
  cu : Vector Cu 4
  stake : Vector Stake 16
  inFlight : List (Nat × Nat)
  ch : Vector Chan 8
  devQ : List Edit
  epoch : EpState
  pix : Pix
  verdictLog : List (Nat × Nat)
  th : Vector Thermal 10
  dma : Vector Dma 16
  granting : Option (Nat × Nat)
  sp : List Host.Cell
  parBad : List Nat
  bist : Bist
  otp : Otp
  datum : Datum
  flash : Flash
  can : Can
  pcie : Pcie
  deferred : List Instr
  fresh : List (Nat × Nat × Nat)
  dev : Dev
  out : List Out
deriving DecidableEq, Repr

/-! ### The state right after reset -/

/-- A chainage unit after reset: off (SRC = 2), in STILL (R90). The levels of A and B at reset are the pins'; log entry 5. -/
def Cu.reset : Cu :=
  { pos := 0, a := false, b := false, dir := none, lastT := none, ivs := [], still := true, lastAcc := 0, winCnt := 0,
    winEdge := false, winRev := false, winFresh := true, speed := 0, winSeq := 0, rev := false,
    part := false, homing := none, swHome := true, swLimP := true, swLimN := true, ssiRaw := none, ssiBad := 0,
    ssiLost := false, ssiAt := none, ssiAnew := false, zcap := 0 }
/-- A stake after reset: disarmed, target 0 (R91). -/
def Stake.reset : Stake := { tgt := 0, armed := false, lateDue := false }
/-- A traverse after reset: STOPPED (R118). -/
def Trav.reset : Trav :=
  { st := .stopped, next := 0, sched := [], lastFired := none, lastFiredLine := none, warnNow := false,
    early := [], rebases := [], gapFrom := [], first := 0, decAt := 0, runOf := none, lastX := 0, lmOld := 0, lmAt := 0 }
def Link.reset : Link :=
  { st := .down, fseq := 0, tx := [], ctl := [], cto := 0, retrains := [], latched := none, fe := none,
    tsrSeen := false, free := 0, kept := [], feQ := [], seen := 0, eofs := [] }
def Store.reset : Store :=
  { rows := [], img := [], hist0 := 0, bNext := none, entered := none, busy := none, blank := true }
def Drive.reset : Drive :=
  { railsRest := true, railF := ⟨0, none, []⟩, railW := ⟨0, none, []⟩, vhvAt := none, precharging := false, ocLines := [], d2dLines := [], wiped := [], wipeStop := none,
    bleeding := false, openAt := none, prechgAt := none, load := none }
def Health.reset : Health :=
  { cap := none, last := none, results := [], obs := [], sigs := List.replicate 8 ⟨[], 0⟩, learns := [], strip := none, printed := [],
    evid := [], verdicts := [], rep := none }
/-- A channel after reset: OFF with its domain parked (R319). -/
def Chan.reset : Chan :=
  { st := .off, trav := Trav.reset, q := ⟨[], [], 0, []⟩, store := Store.reset, lines := [], table := [], applyQ := [],
    link := Link.reset, drive := Drive.reset, health := Health.reset, lastLine := none, ueWords := [],
    ueEntries := [], badEntries := [], readmitK := none, kept := [], cold := false }
def Context.reset : Context :=
  { armed := false, frames := [], nextId := 0, curves := List.replicate 3 (List.replicate 1024 0), out := [],
    bankBad := false }
def CamPort.reset : CamPort := { fifo := [], trig := false, till := 0, clock := false, skew := false }
def Snap.reset : Snap :=
  { armed := false, frame := none, lines := 0, done := false, cancelled := false, flagged := false, at0 := 0, buf := [] }
def Pix.reset : Pix :=
  { on := false, ready := false, ports := List.replicate 2 CamPort.reset, ctxs := List.replicate 4 Context.reset, last := 1,
    snap := Snap.reset, jobs := [] }
/-- A thermal input after reset: no valid sample yet, throttle scale 1,024 (R368, R212). -/
def Thermal.reset : Thermal :=
  { win := [], oor := 0, valid := 0, cool := 0, dwell0 := none, restart := none, trips := [], theta := 1024,
    thetaAt := 0, thetaOld := 1024, heldAt := 0, heldMsg := false, brkMsg := false }
def Dma.reset : Dma :=
  { act := false, xf := [], entAt := 0, ent := none, ended := false, links := 0, failing := 0, wd := false,
    pulseAt := none, owed := [], junk := [], held := false }
/-- OTP as Onaxa ships it (R480): regions 0 to 3 write-locked; trims in region 0, keys and the revocation word in region 1; else blank. -/
def Otp.reset : Otp :=
  { words := shippedWords.map (fun i => ⟨i, shippedFuses i, shippedFuses i, false⟩), rows := (List.range 16).map (fun g => ⟨if g < 4 then (7, 7) else (0, 0), (0, 0), List.replicate 8 (0, 0), (0, 0)⟩),
    arm := none, windowOk := false }
def Datum.reset : Datum :=
  { locked := false, lc := 0, dbg := 1, tokenPcie := false, tamperEn := false, dbgChal := false, key := false, wiped := false,
    bootSrc := 0, fwVersion := 0, chal := none, chalFails := 0 }
/-- A flash that is fitted and holds no valid parameter copy; log entry 8. -/
def Flash.reset : Flash :=
  { present := true, copies := [none, none], saving := none, bootSlot := 0, nextBoot := 0, slots := [none, none], prog := 0, image := [] }
def Can.reset : Can :=
  { nmt := .init, nodeId := 0, rpdoWait := [], tpdo := List.replicate 4 ⟨none, none, false, 0, none⟩, lssPos := 0,
    sent := [], queue := [], errs := [], log := [], conds := [], far := [] }
def Pcie.reset : Pcie := { on := true, linkUp := false, perst := true, d3 := false, mb := none, conf := false }
def Dev.reset : Dev :=
  { boot := .held, pll := false, safe := false, safeEntry := none, safeAt := none, safeRun := none, standby := false, standbyWait := none, waking := none,
    hostParkDue := false, wdAt := none, restarting := false, romStop := false, supFails := 0, supResend := false, supCmd := none, tests := [], bmAt := 0,
    dieHot := (false, false), wiping := false, spWait := [], tamperLow := false, tap := .idcode, bsr := 0, dbgHalt := false, token := .can, expCan := false,
    expPcie := false, ioLow := false, retires := [], trips := [], commit := none }
def Bist.reset : Bist := { mem := 0, slice := 0, running := none, yields := [], again := [] }

/-- The block right after reset (R512): every register at its reset value, every domain as after reset, no command
waiting, the internal reset still held until RESET_RELEASE (R507, R513). -/
def State.reset : State :=
  { pending := [], tb := 0, ctr := 0, regs := [], cu := Vector.replicate 4 Cu.reset,
    stake := Vector.replicate 16 Stake.reset, inFlight := [], ch := Vector.replicate 8 Chan.reset, devQ := [],
    epoch := .openE, pix := Pix.reset, verdictLog := [], th := Vector.replicate 10 Thermal.reset,
    dma := Vector.replicate 16 Dma.reset, granting := none, sp := [], parBad := [], bist := Bist.reset,
    otp := Otp.reset, datum := Datum.reset, flash := Flash.reset, can := Can.reset, pcie := Pcie.reset,
    deferred := [], fresh := [], dev := Dev.reset, out := [] }

/-- Why a step stops with a fault. The model has no command whose effect the spec leaves wholly open, so nothing raises
one; the type stands for the interface. Safe. -/
inductive Fault where
  | unreachable
deriving DecidableEq, Repr

/-- Why a step is refused. `notModelled` is raised by the dispatcher's arm of a command that has no meaning yet; safe. -/
inductive Refusal where
  | notModelled (mnemonic : String)
deriving DecidableEq, Repr

end Sys2Proof.Machine
end

