-- ==== Sys2Proof/Machine/Operands.lean ====
section
/-! DEFINITION. Operand forms: byte strings as little-endian numbers (R5, R453), signed values, register words and their
bit ranges (R3), positions and their modular differences (R61, R62), and the roundings the chapters use. -/
namespace Sys2Proof.Machine

/-- The bits [m:l] of a number (R3). -/
def bits (v m l : Nat) : Nat := v / 2 ^ l % 2 ^ (m + 1 - l)
/-- The number with its bits [m:l] replaced. -/
def withBits (v m l x : Nat) : Nat :=
  v / 2 ^ (m + 1) * 2 ^ (m + 1) + x % 2 ^ (m + 1 - l) * 2 ^ l + v % 2 ^ l
/-- Bit i as a Boolean. -/
def bit (v i : Nat) : Bool := v / 2 ^ i % 2 = 1

/-- A little-endian byte string as a number (R5). -/
def leNat : List Byte → Nat
  | [] => 0
  | b :: r => b.toNat + 256 * leNat r
/-- A number as n little-endian bytes. -/
def leBytes : Nat → Nat → List Byte
  | 0, _ => []
  | n + 1, v => BitVec.ofNat 8 v :: leBytes n (v / 256)
/-- A number of w bits read as two's complement. -/
def sext (w v : Nat) : Int := if v % 2 ^ w < 2 ^ (w - 1) then (v % 2 ^ w : Int) else (v % 2 ^ w : Int) - 2 ^ w
/-- An integer as a w-bit two's-complement number. -/
def wrap (w : Nat) (v : Int) : Nat := (v % (2 ^ w : Int)).toNat

/-- The difference (P − T) modulo 2^48, taken into −2^47 to 2^47 − 1 (R62). -/
def posDiff (p t : Pos) : Int := (p - t).toInt

/-- A position difference in 1/65,536 edges, modulo 2^64, taken into −2^63 to 2^63 − 1 (R62, R96). -/
def gridDiff (x : Int) : Int := (x + 2 ^ 63) % 2 ^ 64 - 2 ^ 63

/-- Quotient rounded to nearest, a half away from zero (R198, R308), of an integer by a positive number. -/
def roundDiv (a : Int) (b : Nat) : Int :=
  if 0 ≤ a then (2 * a + b) / (2 * b) else -((2 * (-a) + b) / (2 * b))
/-- A value clamped to a range. -/
def clamp (lo hi v : Int) : Int := max lo (min hi v)
/-- Quotient rounded up. -/
def ceilDiv (a b : Nat) : Nat := (a + b - 1) / b

/-- Integer square root by binary digits: the largest r with r * r ≤ n, for n < 4^k. -/
def isqrtGo : Nat → Nat → Nat → Nat
  | 0, _, r => r
  | k + 1, n, r => if (r + 2 ^ k) * (r + 2 ^ k) ≤ n then isqrtGo k n (r + 2 ^ k) else isqrtGo k n r
def isqrt (n : Nat) : Nat := isqrtGo 64 n 0

/-- CRC-16 with polynomial 0x1021, initial value 0xFFFF, no reflection, no final XOR, over bytes (R224). -/
def crc16Bit : Nat → Nat → Nat
  | 0, c => c
  | k + 1, c => crc16Bit k (if c / 0x8000 % 2 = 1 then (c * 2 % 0x10000) ^^^ 0x1021 else c * 2 % 0x10000)
def crc16 (bs : List Nat) : Nat := bs.foldl (fun c b => crc16Bit 8 (c ^^^ (b * 256))) 0xFFFF

/-- The ticks of a number of microseconds (R55: 9.6 G ticks per second). -/
def usTicks (us : Nat) : Nat := us * 9600
/-- The CORE_CLK cycle of a tick (R30, R55: 16 ticks per cycle). -/
def cycleOf (t : Nat) : Nat := t / 16
/-- The end of the CORE_CLK cycle a tick lies in. -/
def cycleEnd (t : Nat) : Nat := (t / 16 + 1) * 16

/-- One byte of a number's little-endian image. -/
def byteOf (v i : Nat) : Nat := v / 256 ^ i % 256

/-- An element of a list of numbers, 0 beyond its end. -/
def nth (l : List Nat) (i : Nat) : Nat := l.getD i 0
/-- An element of a list of integers, 0 beyond its end. -/
def nthZ (l : List Int) (i : Nat) : Int := l.getD i 0

/-- Value of a key in a sparse list, with what an unlisted key reads as. -/
def sparseGet (d : Nat) : List (Nat × Nat) → Nat → Nat
  | [], _ => d
  | (k, v) :: r, q => if k = q then v else sparseGet d r q
/-- A sparse list without a key. -/
def sparseDrop : List (Nat × Nat) → Nat → List (Nat × Nat)
  | [], _ => []
  | (k, v) :: r, q => if k = q then sparseDrop r q else (k, v) :: sparseDrop r q
/-- A sparse list kept in rising order with a key's value inserted before the first greater key. -/
def sparseIns : List (Nat × Nat) → Nat → Nat → List (Nat × Nat)
  | [], q, x => [(q, x)]
  | (k, v) :: r, q, x => if q < k then (q, x) :: (k, v) :: r else (k, v) :: sparseIns r q x
/-- A key's value set; a value equal to what an unlisted key reads as leaves the key unlisted. -/
def sparsePut (d : Nat) (l : List (Nat × Nat)) (q x : Nat) : List (Nat × Nat) :=
  if x = d then sparseDrop l q else sparseIns (sparseDrop l q) q x

end Sys2Proof.Machine
end

