-- ==== Sys2Proof/Machine/Flags.lean ====
section
/-! DEFINITION. The register file and the flag rules: reading and setting a field, shadowed fields (R7, R143), flags set
and cleared, counters that saturate and counters that wrap, and how a written word changes the fields of a block. -/
namespace Sys2Proof.Machine

/-- The value a field holds: the last one set, or its reset value. For a shadowed field this is the shadow. -/
def State.get (s : State) (f : Fld) : Nat := sparseGet f.rst s.regs f.key
/-- The value in effect of a shadowed field (R7). -/
def State.eff (s : State) (f : Fld) : Nat := sparseGet f.rst s.regs f.effKey
/-- A field set to a value, cut to its width. -/
def State.put (s : State) (f : Fld) (v : Nat) : State :=
  { s with regs := sparsePut f.rst s.regs f.key (v % f.card) }
/-- The value in effect of a shadowed field set. -/
def State.putEff (s : State) (f : Fld) (v : Nat) : State :=
  { s with regs := sparsePut f.rst s.regs f.effKey (v % f.card) }
/-- Shadow and value in effect set together. -/
def State.putBoth (s : State) (f : Fld) (v : Nat) : State := (s.put f v).putEff f v
/-- A flag or bit set to 1. -/
def State.flag (s : State) (f : Fld) : State := s.put f 1
/-- A flag or bit cleared. -/
def State.unflag (s : State) (f : Fld) : State := s.put f 0
/-- A bit set to a Boolean. -/
def State.putB (s : State) (f : Fld) (b : Bool) : State := s.put f (if b then 1 else 0)
/-- Whether a one-bit field reads 1. -/
def State.has (s : State) (f : Fld) : Bool := s.get f = 1
/-- A saturating counter raised by n. -/
def State.bumpBy (s : State) (f : Fld) (n : Nat) : State := s.put f (min (s.get f + n) (f.card - 1))
/-- A saturating counter raised by one. -/
def State.bump (s : State) (f : Fld) : State := s.bumpBy f 1
/-- A wrapping counter raised by n. -/
def State.incrBy (s : State) (f : Fld) (n : Nat) : State := s.put f (s.get f + n)
/-- A wrapping counter raised by one. -/
def State.incr (s : State) (f : Fld) : State := s.incrBy f 1
/-- A flag set and its counter raised. -/
def State.flagBump (s : State) (fl cnt : Fld) : State := (s.flag fl).bump cnt
/-- A 48-bit or 64-bit value held as a low word and a high field. -/
def State.getPair (s : State) (lo hi : Fld) : Nat := s.get lo + 2 ^ 32 * s.get hi
def State.putPair (s : State) (lo hi : Fld) (v : Nat) : State := (s.put lo v).put hi (v / 2 ^ 32)

/-- A list of fields cleared to 0. -/
def State.clearAll (s : State) (fs : List Fld) : State := fs.foldl State.unflag s
/-- A list of fields returned to their reset values, shadow and value in effect. -/
def State.resetAll (s : State) (fs : List Fld) : State := fs.foldl (fun t f => t.putBoth f f.rst) s

/-- A shadow that is about to be written is remembered with what it held before the present cycle (R143). -/
def State.noteShadow (s : State) (f : Fld) : State :=
  let l := s.fresh.filter (fun x => x.2.2 = cycleOf s.tb)
  { s with fresh := if l.any (fun x => x.1 = f.key) then l else (f.key, s.get f, cycleOf s.tb) :: l }
/-- A shadow as it stood before the present cycle (R143). -/
def State.shadowAt (s : State) (f : Fld) : Nat :=
  match s.fresh.find? (fun x => x.1 = f.key && x.2.2 = cycleOf s.tb) with
  | some x => x.2.1
  | none => s.get f
/-- A field written by a register word (R7): RW takes the bits, RWS writes the shadow and, outside RUN, the value in
effect with it (R11), W1S sets, W1C clears (a counter's
whole field on any 1: R39, R90; INT_STAT bit by bit: R421), RO and WO keep nothing. -/
def State.writeFld (s : State) (f : Fld) (data : Nat) (inRun : Bool) : State :=
  match f.acc with
  | .rw => s.put f (bits data f.msb f.lsb)
  | .rws => if inRun then (s.noteShadow f).put f (bits data f.msb f.lsb) else s.putBoth f (bits data f.msb f.lsb)
  | .w1c =>
    if f = Ho.INT_STAT then s.put f (s.get f &&& (0xFFFFFFFF ^^^ bits data 31 0))
    else if bits data f.msb f.lsb = 0 then s else s.put f 0
  | .w1s => s.put f (s.get f ||| bits data f.msb f.lsb)
  | .wo => s
  | .ro => s
/-- A word written to a block: every field that lies in the word (R549: all together, once none is refused). -/
def State.writeWord (s : State) (fs : List Fld) (addr data : Nat) (inRun : Bool) : State :=
  (fs.filter (fun f => f.addr = addr)).foldl (fun t f => t.writeFld f data inRun) s
/-- The stored fields of a word put together; write-only fields read 0 (R7). -/
def State.readWord (s : State) (fs : List Fld) (addr : Nat) : Nat :=
  (fs.filter (fun f => f.addr = addr)).foldl (fun v f => if f.acc = .wo then v else v + s.get f * 2 ^ f.lsb) 0
/-- The new value a written word gives a field, and whether it differs from the value held (R549). -/
def State.changes (s : State) (f : Fld) (data : Nat) : Bool := bits data f.msb f.lsb ≠ s.get f

/-- SDO abort codes (R441). -/
def abCmd : Nat := 0x05040001
def abQueue : Nat := 0x05040005
def abRo : Nat := 0x06010002
def abNoObj : Nat := 0x06020000
def abPdoMap : Nat := 0x06040041
def abPdoLen : Nat := 0x06040042
def abCheck : Nat := 0x06040043
def abLen : Nat := 0x06070010
def abSub : Nat := 0x06090011
def abRange : Nat := 0x06090030
def abFail : Nat := 0x08000020
def abToken : Nat := 0x08000021
def abState : Nat := 0x08000022

/-- The first refusal of a list of (condition, abort) in the order of R550. -/
def firstBad : List (Bool × Nat) → Option Nat
  | [] => none
  | (c, a) :: r => if c then some a else firstBad r

end Sys2Proof.Machine
end

