-- ==== Sys2Proof/Machine/Ops.lean ====
section
/-! DEFINITION. Operations every chapter shares: the timebase, outputs, free values, event pulses (R36 to R40),
interrupt causes (R421), EMCY messages with the fault log and the error register (R341 to R343). -/
namespace Sys2Proof.Machine

/-- Time moved on to a tick; TB never runs backwards (R55). -/
def State.at (s : State) (t : Tick) : State := { s with tb := max s.tb t }
/-- Something leaves the block. -/
def State.emit (s : State) (o : Out) : State := { s with out := o :: s.out }
/-- A free value's index, and the state with the counter advanced. -/
def State.freeIx (s : State) : Nat := s.ctr
def State.freed (s : State) : State := { s with ctr := s.ctr + 1 }

/-- A channel, a unit, a stake replaced by the given function of itself. -/
def State.modCh (s : State) (n : Ch) (f : Chan → Chan) : State := { s with ch := s.ch.set n (f s.ch[n]) }
def State.modCu (s : State) (n : Cun) (f : Cu → Cu) : State := { s with cu := s.cu.set n (f s.cu[n]) }
def State.modStk (s : State) (i : Stk) (f : Stake → Stake) : State := { s with stake := s.stake.set i (f s.stake[i]) }
def State.modTh (s : State) (m : Thi) (f : Thermal → Thermal) : State := { s with th := s.th.set m (f s.th[m]) }
def State.modDma (s : State) (d : Dch) (f : Dma → Dma) : State := { s with dma := s.dma.set d (f s.dma[d]) }
def State.modTrav (s : State) (n : Ch) (f : Trav → Trav) : State := s.modCh n (fun c => { c with trav := f c.trav })
def State.modLink (s : State) (n : Ch) (f : Link → Link) : State := s.modCh n (fun c => { c with link := f c.link })
def State.modDrive (s : State) (n : Ch) (f : Drive → Drive) : State := s.modCh n (fun c => { c with drive := f c.drive })
def State.modHealth (s : State) (n : Ch) (f : Health → Health) : State :=
  s.modCh n (fun c => { c with health := f c.health })
def State.modDev (s : State) (f : Dev → Dev) : State := { s with dev := f s.dev }
def State.modCan (s : State) (f : Can → Can) : State := { s with can := f s.can }

/-- A camera context. -/
def State.cam (s : State) (c : Nat) : Context := s.pix.ctxs.getD c Context.reset
def State.modCam (s : State) (c : Nat) (f : Context → Context) : State :=
  { s with pix := { s.pix with ctxs := s.pix.ctxs.mapIdx (fun i x => if i = c then f x else x) } }

/-- All channels in turn. -/
def allCh : List Ch := [0, 1, 2, 3, 4, 5, 6, 7]
def allCu : List Cun := [0, 1, 2, 3]
def allStk : List Stk := [0, 1, 2, 3, 4, 5, 6, 7, 8, 9, 10, 11, 12, 13, 14, 15]
def allDma : List Dch := [0, 1, 2, 3, 4, 5, 6, 7, 8, 9, 10, 11, 12, 13, 14, 15]
def allTh : List Thi := [0, 1, 2, 3, 4, 5, 6, 7, 8, 9]
def State.forCh (s : State) (f : Ch → State → State) : State := allCh.foldl (fun t n => f n t) s

/-! ### Channel states -/

/-- RUN, STOPPING and READMITTING count as RUN for the apply classes and every refusal in RUN (R319). -/
def ChState.inRun : ChState → Bool
  | .run | .stopping | .readmitting => true
  | _ => false
/-- The states that DeviceState, NMT Reset Node, LifeCycleAdvance and the TAP treat as busy (R429, R482, R497, R501). -/
def ChState.busy : ChState → Bool
  | .run | .stopping | .readmitting | .retiring => true
  | _ => false
/-- OFF and RETIRED, whose domain is parked (R319, R322). -/
def ChState.parked : ChState → Bool
  | .off | .retired => true
  | _ => false
/-- CH_STATE (R319). -/
def ChState.code : ChState → Nat
  | .off => 0 | .idle => 1 | .run => 2 | .stopping => 3 | .retiring => 4 | .retired => 5 | .readmitting => 6
def State.chSt (s : State) (n : Ch) : ChState := s.ch[n].st
def State.inRun (s : State) (n : Ch) : Bool := (s.chSt n).inRun
def State.anyBusy (s : State) : Bool := allCh.any (fun n => (s.chSt n).busy)
def State.anyInRun (s : State) : Bool := allCh.any (fun n => s.inRun n)
/-- A channel reads chainage unit m (R96). -/
def State.chCu (s : State) (n : Ch) : Cun := Fin.ofNat 4 (s.get (Tr.CU n))
/-- Some channel in RUN reads the unit (R75, R94). -/
def State.cuInRun (s : State) (m : Cun) : Bool := allCh.any (fun n => s.inRun n && s.chCu n = m)
/-- PD_CHn is parked: RETIRED, or OFF outside a benchmark run and not powering up at a wake (R34, R319, R503, R504). -/
def State.chParked (s : State) (n : Ch) : Bool :=
  match s.chSt n with
  | .retired => true
  | .off => !(s.dev.boot = .benchmark || s.dev.safeRun.isSome ||
      (s.dev.waking.isSome && (s.has (Lv.HV_ON n) || s.ch[n].drive.vhvAt.isSome)))
  | _ => false
def State.chOn (s : State) (n : Ch) : Bool := !s.chParked n
/-- The benchmark run is not over (R515): writes of the listed kinds are refused. -/
def State.inBenchmark (s : State) : Bool := s.dev.boot ≠ .up || s.dev.safeRun.isSome

/-! ### Interrupts and events -/

namespace Mx
/-- MSI-X table entry v and its Pending Bit (R418, R421: as the PCI Express Base Specification lays them out). -/
def ADDR_LO (v : Nat) : Fld := ⟨0xF0000 + 16 * v, 31, 0, .rw, 0⟩
def ADDR_HI (v : Nat) : Fld := ⟨0xF0004 + 16 * v, 31, 0, .rw, 0⟩
def DATA (v : Nat) : Fld := ⟨0xF0008 + 16 * v, 31, 0, .rw, 0⟩
def MASK (v : Nat) : Fld := ⟨0xF000C + 16 * v, 0, 0, .rw, 1⟩
def PBA (v : Nat) : Fld := ⟨0xF0800, v, v, .ro, 0⟩
def fields : List Fld :=
  (List.range 32).flatMap (fun v => [ADDR_LO v, ADDR_HI v, DATA v, MASK v, PBA v])
end Mx

/-- A cause of vector v (R421): its INT_STAT bit sets; a message is sent on 0 to 1 with INT_EN, or pended when the vector
is masked; in D3hot no message is sent (R420). While PD_HOST is parked or in reset nothing is kept (R35, R423). -/
def State.cause (s : State) (v : Nat) : State :=
  if !s.pcie.on || s.pcie.perst then s
  else if bit (s.get Ho.INT_STAT) v then s
  else
    let t := s.put Ho.INT_STAT (s.get Ho.INT_STAT + 2 ^ v)
    if !bit (s.get Ho.INT_EN) v then t
    else if s.has (Mx.MASK v) then t.flag (Mx.PBA v)
    else if s.pcie.d3 then t
    else t.emit (.msix v)

/-- A pulse of an event source (R36): it reaches its sinks 2 CORE_CLK cycles later (R40). Source 0 and the reserved
sources never pulse. -/
def State.pulse (s : State) (src : Nat) : State :=
  if 0 < src ∧ src < 0x48 then { s with inFlight := s.inFlight ++ [(src, s.tb + 32)] } else s

/-! ### EMCY, error register, fault log -/

/-- The bit of 0x1001 a code drives (R342). -/
def errBit (code : Nat) : Nat :=
  if code / 0x1000 = 2 then 1 else if code / 0x1000 = 3 then 2 else if code / 0x1000 = 4 then 3
  else if code / 0x100 = 0x87 then 4 else 7
/-- 0x1001: bit 0 while any condition stands, and the bit of each standing code (R342). -/
def State.errReg (s : State) : Nat :=
  s.can.conds.foldl (fun r c => r ||| 1 ||| 2 ^ errBit c.1) 0

/-- Messages a source may still queue: 32 per channel (R28). -/
def State.roomFor (s : State) (src : Nat) : Bool := (s.can.queue.filter (fun m => m.src = src)).length < 32

namespace Hid
/-- Messages discarded because a queue was full (R28: counted; the spec gives the count no register), by source. -/
def LOST (src : Nat) : Fld := ⟨0x9000_0000 + src, 31, 0, .ro, 0⟩
end Hid

/-- 10 ms in ticks (R342). -/
def emcyGap : Nat := usTicks 10000

/-- A message enters the queue. Those of one channel stand in the order of the lines that caused them: it goes before the first of
its channel that a later line caused, and otherwise to the end (R48). -/
def queueMsg : List Msg → Msg → List Msg
  | [], m => [m]
  | x :: r, m => if x.src = m.src ∧ m.src < 8 ∧ m.line ≠ 0 ∧ m.line < x.line then m :: x :: r else x :: queueMsg r m
/-- An EMCY occurrence (R341 to R343): logged always, with 0x1003 and cause bit 1; sent unless the same code left from the
same source less than 10 ms ago; the newest is discarded and counted when the source's queue is full (R28). An occurrence held back makes an entry of its own, so that since the previous entry of its code and
source it is the one held back (R343, R347; log entry 60). -/
def State.emcyInfo (s : State) (code src line : Nat) (info : List Byte) : State :=
  let old := s.can.sent.find? (fun e => e.code = code ∧ e.src = src)
  let held := match old with | some e => decide (code ≠ 0 ∧ s.tb < e.at0 + emcyGap) | none => false
  let e' : Sent := match old with
    | some e => if held then { e with held := e.held + 1 } else ⟨code, src, s.tb, 0⟩
    | none => ⟨code, src, s.tb, 0⟩
  let s1 := s.modCan (fun c => { c with
    sent := e' :: c.sent.filter (fun e => ¬(e.code = code ∧ e.src = src)),
    errs := if code = 0 then c.errs else ((code, src) :: c.errs).take 16,
    log := (⟨code, src, line, s.errReg, if held then 1 else 0⟩ :: c.log).take 128 })
  let s2 := (s1.incr ⟨0x9000_0400, 31, 0, .ro, 0⟩).cause 1
  if held then s2
  else if s2.roomFor src then s2.modCan (fun c => { c with queue := queueMsg c.queue (⟨code, src, line, info, none⟩ : Msg) })
  else s2.bump (Hid.LOST src)
/-- An EMCY with the line number in its field (R341). -/
def State.emcyMsg (s : State) (code src line : Nat) : State := s.emcyInfo code src line (leBytes 4 line)
/-- Entries ever written to the fault log (FaultLogCount). -/
def logCount : Fld := ⟨0x9000_0400, 31, 0, .ro, 0⟩

/-- A list without its first element that a test picks, and without its last. -/
def dropFirst {α : Type} (p : α → Bool) : List α → List α
  | [] => []
  | e :: r => if p e then r else e :: dropFirst p r
def dropLast {α : Type} (p : α → Bool) (l : List α) : List α := (dropFirst p l.reverse).reverse
/-- The newest occurrence of a code from a source is taken back: its message if it has not left, and its log entry. -/
def State.unsay (s : State) (code src : Nat) : State :=
  let t := s.modCan (fun c => { c with
    queue := dropLast (fun m => decide (m.code = code ∧ m.src = src ∧ m.record = none)) c.queue
    errs := dropFirst (fun e => decide (e = (code, src))) c.errs
    log := dropFirst (fun e => decide (e.code = code ∧ e.src = src)) c.log
    sent := c.sent.filter (fun e => !decide (e.code = code ∧ e.src = src)) })
  t.put logCount (t.get logCount - 1)
/-- The newest pulse of a source that is still under way is taken back. -/
def State.unpulse (s : State) (src : Nat) : State := { s with inFlight := dropLast (fun x => decide (x.1 = src)) s.inFlight }
/-- A condition begins to stand (R342). -/
def State.condOn (s : State) (code src : Nat) : State :=
  if (code, src) ∈ s.can.conds then s else s.modCan (fun c => { c with conds := c.conds ++ [(code, src)] })
/-- A condition ends; when the register returns to 0, EMCY 0x0000 is queued (R342). -/
def State.condOff (s : State) (code src : Nat) : State :=
  if (code, src) ∈ s.can.conds then
    let t := s.modCan (fun c => { c with conds := c.conds.filter (fun x => x ≠ (code, src)) })
    if t.can.conds = [] then t.emcyMsg 0 0xFF 0 else t
  else s

/-- The object store: the value last written to an object that no register holds (R13). -/
def objFld (idx sub w rst : Nat) : Fld := ⟨0x8000_0000 + idx * 256 + sub, w - 1, 0, .rw, rst⟩
/-- The stored (BOOT) and prepared (EPOCH) value of an object, beside the value in effect (R46). -/
def prepFld (idx sub w rst : Nat) : Fld := ⟨0x8800_0000 + idx * 256 + sub, w - 1, 0, .rw, rst⟩

/-- An event record (R460) enters the channel's message queue while the node is OPERATIONAL, the channel is enabled in
EventChannels and a valid TPDO maps 0x2030:01; a full queue discards it and counts. `mapped` is that last condition. -/
def State.record (s : State) (n : Ch) (ev line : Nat) (mapped : Bool) : State :=
  if s.can.nmt = .operational ∧ mapped ∧ bit (s.get (objFld 0x2030 2 8 0xFF)) n then
    if s.roomFor n then
      let m : Msg := ⟨0, n, line, [], some (n * 2 ^ 56 + ev * 2 ^ 48 + line % 2 ^ 48)⟩
      s.modCan (fun c => { c with queue := queueMsg c.queue m })
    else s.bump (objFld 0x2030 3 32 0)
  else s

/-- The default COB-ID of TPDO p (R461). -/
def tpdoCobDflt (p node : Nat) : Nat :=
  (if p = 1 ∨ p = 2 then 0x8000_0000 else 0) + 0x180 + 0x100 * p + node
/-- The default mapping entry of TPDO p (R461). -/
def tpdoMapDflt (p e : Nat) : Nat :=
  if p = 0 ∧ 1 ≤ e ∧ e ≤ 8 then (0x3000 + 0x100 * (e - 1)) * 65536 + 0x0110
  else if p = 1 ∧ 1 ≤ e ∧ e ≤ 4 then (0x2100 + (e - 1)) * 65536 + 0x0620
  else if p = 2 ∧ 1 ≤ e ∧ e ≤ 8 then (0x4000 + (e - 1)) * 65536 + 0x0710
  else if p = 3 ∧ e = 1 then 0x20300140 else 0
def tpdoCntDflt (p : Nat) : Nat := if p = 0 ∨ p = 2 then 8 else if p = 1 then 4 else 1
def tpdoInhDflt (p : Nat) : Nat := if p = 0 then 100 else if p = 2 then 1000 else 0
def tpdoEvtDflt (p : Nat) : Nat := if p = 0 ∨ p = 2 then 1000 else 0
def tpdoTypDflt (p : Nat) : Nat := if p = 1 then 1 else 0xFE
namespace Pdo
/-- The PDO objects (R456, R461). -/
def rCob (p node : Nat) : Fld := objFld (0x1400 + p) 1 32 (0x8000_0200 + 0x100 * p + node)
def rTyp (p : Nat) : Fld := objFld (0x1400 + p) 2 8 0xFE
def rCnt (p : Nat) : Fld := objFld (0x1600 + p) 0 8 0
def rMap (p e : Nat) : Fld := objFld (0x1600 + p) e 32 0
def tCob (p node : Nat) : Fld := objFld (0x1800 + p) 1 32 (tpdoCobDflt p node)
def tTyp (p : Nat) : Fld := objFld (0x1800 + p) 2 8 (tpdoTypDflt p)
def tInh (p : Nat) : Fld := objFld (0x1800 + p) 3 16 (tpdoInhDflt p)
def tEvt (p : Nat) : Fld := objFld (0x1800 + p) 5 16 (tpdoEvtDflt p)
def tSyn (p : Nat) : Fld := objFld (0x1800 + p) 6 8 0
def tCnt (p : Nat) : Fld := objFld (0x1A00 + p) 0 8 (tpdoCntDflt p)
def tMap (p e : Nat) : Fld := objFld (0x1A00 + p) e 32 (tpdoMapDflt p e)
end Pdo
/-- A valid TPDO maps the event record (R460). -/
def State.recMapped (s : State) : Bool :=
  (List.range 4).any (fun p => !bit (s.get (Pdo.tCob p s.can.nodeId)) 31 &&
    (List.range (s.get (Pdo.tCnt p))).any (fun e => s.get (Pdo.tMap p (e + 1)) / 256 = 0x203001))

/-- DeviceState (R501). -/
def State.devState (s : State) : DevState :=
  if s.dev.safe then .safe else if s.dev.standby then .standby else if s.anyBusy then .run else .idle
def DevState.code : DevState → Nat
  | .run => 0 | .idle => 1 | .standby => 2 | .safe => 3
/-- CH_STATE changed (R319): its cause bit, that of a device state that changes with it (R421, R501), and its event record (R460). -/
def State.setCh (s : State) (n : Ch) (x : ChState) : State :=
  if s.chSt n = x then s
  else
    let u := s.modCh n (fun c => { c with st := x })
    let t := (if u.devState = s.devState then u else u.cause 3).cause (4 + n)
    t.record n (0x10 + x.code) (t.ch[n].lastLine.getD 0) t.recMapped

/-- The control token's holder may write printing-critical data (R433). -/
def State.holds (s : State) (p : Port) : Bool := s.dev.token = p

/-- The token moves (R434): TOKEN_MOVED, cause bit 2, TOKEN_CNT. -/
def State.moveToken (s : State) (p : Port) : State :=
  if s.dev.token = p then s
  else (((s.modDev (fun d => { d with token := p })).flag Ho.TOKEN_MOVED).cause 2).incr Ho.TOKEN_CNT
/-- PCI Express is lost while PD_HOST is in reset or parked, or the link is down (R435). -/
def State.pcieLost (s : State) : Bool := !s.pcie.on || s.pcie.perst || !s.pcie.linkUp
/-- CAN FD is lost while bus-off, in NMT STOPPED, or with HB_LOST set (R435). -/
def State.canLost (s : State) : Bool :=
  s.has Ho.CAN_BUSOFF || s.can.nmt = .stopped || s.has Ho.HB_LOST
/-- The token moves to CAN FD by itself while PCI Express holds it and is lost, from the end of the benchmark run on
(R435, R487). -/
def State.tokenCheck (s : State) : State :=
  if s.dev.token = .pcie ∧ s.pcieLost ∧ s.dev.boot = .up then s.moveToken .can else s

/-- The open frames of contexts on a unit take the flag POS: the unit is reset, preset or lost (R298). -/
def State.camPos (s : State) (m : Cun) : State :=
  [0, 1, 2, 3].foldl (fun (t : State) (c : Nat) =>
    if t.get (objFld (0x4210 + c) 1 8 0) = m then
      t.modCam c (fun x => { x with frames := x.frames.map (fun f => if f.isOpen then { f with flags := f.flags ||| 0x100 } else f) })
    else t) s

end Sys2Proof.Machine
end

