-- ==== Sys2Proof/Machine/Chainage.lean ====
section
/-! DEFINITION. Chainage (chapter 2): position, speed windows, edge period, homing and the index check, stakes, and the
register blocks of the units, the stakes and the shared registers. -/
namespace Sys2Proof.Machine

/-! ### Edge period (R71 to R73) -/

/-- The mean of the rates (ticks, edges), rounded down. -/
def meanRate (l : List (Nat × Nat)) : Nat :=
  let q := l.foldl (fun (a : Nat × Nat) (b : Nat × Nat) => (a.1 * b.2 + b.1 * a.2, a.2 * b.2)) (0, 1)
  q.1 / (q.2 * l.length)
/-- The edge period: the mean of the newest 2^PER_N intervals when all are valid, else none (R71, R72). -/
def State.period (s : State) (n : Cun) : Option Nat :=
  let k := 2 ^ s.get (Cu.PER_N n)
  if (s.cu[n]).ivs.length < k then none else some (meanRate ((s.cu[n]).ivs.take k))

/-! ### Stakes (R77 to R85) -/

/-- A hit: the stake, the target it reached and its HITTIME in TB ticks. -/
structure Hit where
  stk : Stk
  tgt : Pos
  t : Nat
deriving DecidableEq, Repr

/-- The unit a stake reads. -/
def State.stkCu (s : State) (i : Stk) : Cun := Fin.ofNat 4 (s.get (St.CU i))
/-- The hit condition of R77 for the position in force; `prev` is the position before the update, where there was one. -/
def State.hitHolds (s : State) (i : Stk) (prev : Option Pos) : Bool :=
  let t := (s.stake[i]).tgt
  let d := posDiff (s.cu[s.stkCu i]).pos t
  match s.get (St.DIR i) with
  | 0 => 0 ≤ d
  | 1 => d ≤ 0
  | _ => d = 0 || prev.any (fun p => decide (posDiff p t < 0) != decide (d < 0))
/-- A stake disarmed (R79, R83). -/
def State.stakeDisarm (s : State) (i : Stk) : State :=
  (s.modStk i (fun k => { k with armed := false, lateDue := false })).unflag (St.ARMED i)
/-- What both outcomes of a late arming share: source 0x3F (R80, R81) and EMCY 0xFF13 (R324). -/
def State.stakeLate (s : State) (i : Stk) : State := (s.pulse 0x3F).emcyMsg 0xFF13 (0x10 + s.get (St.CU i)) 0
/-- A stake armed with its present target and judged (R80, R81). -/
def State.stakeArm (s : State) (i : Stk) : State :=
  let a := (s.modStk i (fun k => { k with armed := true, lateDue := false })).flag (St.ARMED i)
  if a.hitHolds i none then
    if a.has (St.LATE_POL i) then a.modStk i (fun k => { k with lateDue := true })
    else ((a.stakeDisarm i).flag (St.LATE i)).stakeLate i
  else a
/-- A hit (R78): source 0x11 + i, HITCNT, HITTIME, disarmed, and re-armed by REPEAT. DESIGN CHOICE (log entry 28): TGT_LO and
TGT_HI keep the target last written; a repeat moves the stake's own target alone. -/
def State.stakeHit (s : State) (i : Stk) (t : Nat) : State :=
  let s1 := (((s.pulse (0x11 + i)).incr (St.HITCNT i)).put (St.HITTIME i) t).stakeDisarm i
  let r := s1.get (St.REPEAT i)
  if r = 0 then s1
  else
    let step : Pos := BitVec.ofNat 48 r
    (s1.modStk i (fun k => { k with tgt := if s.get (St.DIR i) = 1 then k.tgt - step else k.tgt + step })).stakeArm i
/-- The hit owed by FIRE_NOW, in the next cycle (R81): HITTIME is that cycle's first tick. DESIGN CHOICE (log entry 28): of the
two pulses of that cycle the hit's own is the first, source 0x3F the second. -/
def State.stakeLateHit (s : State) (i : Stk) : State × List Hit :=
  if (s.stake[i]).lateDue then
    let s0 := s.at (cycleEnd s.tb)
    ((((s0.stakeHit i s0.tb).flag (St.FIRED_LATE i)).stakeLate i), [⟨i, (s.stake[i]).tgt, s0.tb⟩])
  else (s, [])
/-- A target written and the stake armed (R79, R82). -/
def State.stakeTarget (s : State) (i : Stk) (t : Pos) : State :=
  ((s.putPair (St.TGT_LO i) (St.TGT_HI i) t.toNat).modStk i (fun k => { k with tgt := t })).stakeArm i
/-- The armed stakes on a unit judged again after a preset (R84). -/
def State.stakesJudge (s : State) (n : Cun) : State :=
  allStk.foldl (fun t i => if (t.stake[i]).armed && t.stkCu i = n then t.stakeArm i else t) s
/-- A position update of a unit: the new position, and every armed stake on it that hits (R77). -/
def State.posUpdate (s : State) (n : Cun) (p : Pos) (t : Nat) : State × List Hit :=
  let old := (s.cu[n]).pos
  allStk.foldl (fun (r : State × List Hit) i =>
    let k := r.1.stake[i]
    if k.armed && !k.lateDue && r.1.stkCu i = n && r.1.hitHolds i (some old)
    then (r.1.stakeHit i t, r.2 ++ [⟨i, k.tgt, t⟩]) else r)
    (s.modCu n (fun c => { c with pos := p }), [])

/-! ### Edges -/

/-- The bookkeeping of an edge with its direction (true: backward), its timestamp, the tick it is accepted at and the length it
spans: the interval (R71, R72), STILL (R67), the window's count and flags (R65, R68, R69). `start` is where its interval began. -/
def State.edgeTime (s : State) (n : Cun) (back : Bool) (t acc : Nat) (len : Nat) (start : Option Nat) : State :=
  s.modCu n (fun c =>
    let same := c.dir = some back
    { c with
      ivs := (match start with | some t0 => if same then ((t - t0, len) :: c.ivs).take 8 else [] | none => [])
      dir := some back, lastT := some t, still := false, lastAcc := acc
      winCnt := c.winCnt + (if back then -(len : Int) else len), winEdge := true
      winRev := c.winRev || (c.dir.isSome && !same) })

/-- An accepted change of the quadrature levels (R52, R54): QERR when both changed, one edge when one did, nothing
otherwise. A transition is accepted FILT + 1 cycles after the pin (R53, R86). The answer holds the hits and, for an edge, its
direction. DESIGN CHOICE (log entry 28): a QERR is no accepted edge for STILL and the window (R67). -/
def State.quadEdge (s : State) (n : Cun) (a b : Bool) (t : Nat) : State × List Hit × Option Bool :=
  let c := s.cu[n]
  let s0 := s.modCu n (fun c => { c with a := a, b := b })
  if s.get (Cu.SRC n) ≠ 0 || (a = c.a && b = c.b) then (s0, [], none)
  else if a ≠ c.a && b ≠ c.b then
    ((s0.modCu n (fun c => { c with lastT := none })).bump (Cu.QERR_CNT n), [], none)
  else
    let fwd := (if a ≠ c.a then a ≠ b else a = b) != s.has (Cu.INV_DIR n)
    let s1 := s0.edgeTime n (!fwd) t ((cycleOf t + s.get (Cu.FILT n) + 1) * 16) 1 c.lastT
    let r := s1.posUpdate n (if fwd then c.pos + 1 else c.pos - 1) t
    (r.1, r.2, some (!fwd))

/-! ### SSI (R56 to R58) -/

/-- Gray code to binary of a w-bit value. -/
def grayDecode : Nat → Nat → Nat
  | 0, _ => 0
  | w + 1, g => let r := grayDecode w (g / 2); r * 2 + (g + r) % 2
/-- A rejected frame (R57, R58): counted; three in a row set SSI_LOST, after which no interval is valid. -/
def State.ssiReject (s : State) (n : Cun) : State :=
  let s1 := (s.bump (Cu.SSI_REJ_CNT n)).modCu n (fun c => { c with ssiBad := c.ssiBad + 1 })
  if (s1.cu[n]).ssiBad ≥ 3 ∧ !(s1.cu[n]).ssiLost then
    let s2 := s1.modCu n (fun c => { c with ssiLost := true, ivs := [], lastT := none })
    ((s2.camPos n).condOn 0x7310 (0x10 + n)).emcyMsg 0x7310 (0x10 + n) 0
  else s1
/-- What a frame brought: the hits, whether it stands in for an edge (R108), the direction of a position change, and whether it
ended an SSI loss. -/
structure SsiRes where
  hits : List Hit
  counts : Bool
  back : Option Bool
  regained : Bool
deriving DecidableEq, Repr
def SsiRes.rejected : SsiRes := ⟨[], false, none, false⟩
/-- A raw value accepted: the reference of the next frame, and the end of a loss (R57, R58). -/
def State.ssiTake (s : State) (n : Cun) (v : Nat) : State :=
  let t := s.modCu n (fun c => { c with ssiRaw := some v, ssiBad := 0, ssiLost := false, ssiAnew := false })
  if (s.cu[n]).ssiLost then t.condOff 0x7310 (0x10 + n) else t
/-- The end of a frame whose bits are known (R57). DEDUCED (log entry 28): INV_DIR, which R52 gives to quadrature, does not act
on an SSI difference. DESIGN CHOICE (log entry 28): the first accepted frame, which sets the position, is an update that stakes see
and counts as no edge for STILL, the window and the period. The traverses take it up as any accepted frame (R108), in the direction
of the displacement that it brings. -/
def State.ssiFrameEnd (s : State) (n : Cun) (low : Bool) (raw : Nat) (chk : Bool) : State × SsiRes :=
  let c := s.cu[n]
  let w := s.get (Cu.SSI_BITS n)
  let t := c.ssiAt.getD s.tb
  let v := if s.has (Cu.GRAY n) then grayDecode w (raw % 2 ^ w) else raw % 2 ^ w
  let s0 := s.modCu n (fun c => { c with ssiAt := none })
  if low || chk then (s0.ssiReject n, .rejected)
  else
    match c.ssiRaw with
    | none =>
      let p := BitVec.ofNat 48 v
      let r := (s0.ssiTake n v).posUpdate n p t
      (r.1, ⟨r.2, true, if p = c.pos then none else some (decide (posDiff p c.pos < 0)), c.ssiLost⟩)
    | some v0 =>
      let d : Int := if c.ssiAnew then 0 else sext w (wrap w ((v : Int) - v0))
      if d.natAbs > s.get (Cu.MAX_JUMP n) then (s0.ssiReject n, .rejected)
      else
        let s2 := s0.ssiTake n v
        if d = 0 then
          (s2.modCu n (fun c => { c with lastT := if c.still then none else some t }), ⟨[], true, none, c.ssiLost⟩)
        else
          let r := (s2.edgeTime n (decide (d < 0)) t s.tb d.natAbs c.lastT).posUpdate n (c.pos + BitVec.ofInt 48 d) t
          (r.1, ⟨r.2, true, some (decide (d < 0)), c.ssiLost⟩)

/-! ### Homing, preset, reset (R64, R74 to R76) -/

/-- HOMEPOS. -/
def State.homePos (s : State) (n : Cun) : Pos := BitVec.ofNat 48 (s.getPair (Cu.HOMEPOS_LO n) (Cu.HOMEPOS_HI n))
/-- The position becomes HOMEPOS and HOMED sets (R74); stakes are judged again (R84). A lost SSI sensor takes a new raw
reference from its next good frame, with the difference 0 and no test against MAX_JUMP (DESIGN CHOICE, log entry 28: R58 says only
that the unit must be preset). DESIGN CHOICE (log entry 28): a unit that is off (SRC = 2) takes HOMEPOS too, and PRESET does not end
a homing that runs. -/
def State.cuPreset (s : State) (n : Cun) : State :=
  (((s.modCu n (fun c => { c with pos := s.homePos n, ssiAnew := c.ssiAnew || c.ssiLost })).flag (Cu.HOMED n)).camPos n).stakesJudge n
/-- Homing ended without a preset (R74). -/
def State.homeEnd (s : State) (n : Cun) : State :=
  (s.modCu n (fun c => { c with homing := none })).unflag (Cu.HOMING n)
/-- The qualifying event of homing (R74). -/
def State.homeDone (s : State) (n : Cun) : State := (s.homeEnd n).cuPreset n
def State.homingMode (s : State) (n : Cun) (m : Nat) : Bool := (s.cu[n]).homing.isSome && s.get (Cu.HOME_MODE n) = m
/-- The last edge was in direction HOME_DIR. -/
def State.homeDirOk (s : State) (n : Cun) : Bool := (s.cu[n]).dir = some (s.has (Cu.HOME_DIR n))

/-- An accepted rising edge of Z (R74, R76). DEDUCED (log entry 28): a unit that is off (R64) takes no capture. -/
def State.zEdge (s : State) (n : Cun) : State :=
  if !s.has (Cu.Z_EN n) || s.get (Cu.SRC n) = 2 then s
  else
    let q := s.homeDirOk n && (s.homingMode n 0 || (s.homingMode n 2 && (s.cu[n]).homing = some true))
    let s1 := if q then s.homeDone n else s
    let s2 := s1.modCu n (fun c => { c with zcap := c.pos })
    let p := s2.get (Cu.ZPITCH n)
    if p = 0 then s2
    else
      let r := ((s2.cu[n]).zcap.toInt - s2.get (Cu.ZPHASE n)) % p
      if min r (p - r) > 1 then (s2.bump (Cu.ZSLIP_CNT n)).emcyMsg 0x7320 (0x10 + n) 0 else s2

/-- The reset of a unit by a change of SRC or INV_DIR (R64). -/
def State.cuReset (s : State) (n : Cun) : State :=
  let s1 := (s.homeEnd n).modCu n (fun c => { c with
    pos := 0, dir := none, lastT := none, ivs := [], still := true, winCnt := 0, winEdge := false, winRev := false,
    winFresh := true, ssiRaw := none, ssiBad := 0, ssiLost := false, ssiAt := none, ssiAnew := false })
  let s2 := ((s1.unflag (Cu.HOMED n)).condOff 0x7310 (0x10 + n)).camPos n
  allStk.foldl (fun t i => if t.stkCu i = n then t.stakeDisarm i else t) s2

/-! ### Switches (R60) -/

def State.swActive (s : State) (n : Cun) (sw : Switch) : Bool :=
  match sw with
  | .home => (s.cu[n]).swHome == s.has (Cu.HOME_POL n)
  | .limP => (s.cu[n]).swLimP == s.has (Cu.LIMP_POL n)
  | .limN => (s.cu[n]).swLimN == s.has (Cu.LIMN_POL n)
/-- What follows when switches become active between two states: LIM_HIT (R60), homing by switch (R74). DESIGN CHOICE (log entry
28): a polarity write that makes a switch active counts as the switch becoming active, and HOME_MODE 2 waits for the switch to
become active after HOME_GO, even where it was active then. -/
def State.swFollow (s old : State) (n : Cun) : State :=
  let rose := fun sw => s.swActive n sw && !old.swActive n sw
  let s1 := if rose .limP || rose .limN then s.flag (Cu.LIM_HIT n) else s
  if rose .home then
    if s1.homingMode n 1 && s1.homeDirOk n then s1.homeDone n
    else if s1.homingMode n 2 then s1.modCu n (fun c => { c with homing := some true })
    else s1
  else s1

/-! ### Speed windows and STILL (R65 to R70) -/

/-- STILL as the unit reports it; a unit that is off reports STILL (R64). -/
def State.cuStill (s : State) (n : Cun) : Bool := s.get (Cu.SRC n) = 2 || (s.cu[n]).still
/-- The end of a speed window. -/
def State.windowEnd (s : State) (n : Cun) : State :=
  let st := s.cuStill n
  s.modCu n (fun c => { c with
    speed := if st then 0 else c.winCnt
    rev := c.winRev
    part := !st && c.winFresh && c.winEdge
    winFresh := c.winFresh && !(c.winEdge && !st)
    winSeq := (c.winSeq + 1) % 65536
    winCnt := 0, winEdge := false, winRev := false })
/-- The unit enters STILL: the next edge has no start and its window is PARTIAL (R67, R68, R72). DEDUCED (log entry 28): the period
stays valid, and CU_PERIOD readable, until that edge. -/
def State.enterStill (s : State) (n : Cun) : State :=
  s.modCu n (fun c => { c with still := true, winFresh := true, winEdge := false, lastT := none })

/-- CU_STAT live (R90). -/
def State.cuStat (s : State) (n : Cun) : Nat :=
  let c := s.cu[n]
  let b := fun (x : Bool) (i : Nat) => if x then 2 ^ i else 0
  c.winSeq * 65536 + b c.ssiLost 7 + b (s.swActive n .limP) 6 + b (s.swActive n .limN) 5 + b (s.swActive n .home) 4 +
    b (c.dir = some true) 3 + b c.rev 2 + b c.part 1 + b (s.cuStill n) 0
/-- The snapshot of R63, into the words that CU_POS_LO to CU_PERIOD read. -/
def State.cuSnap (s : State) (n : Cun) : State :=
  let c := s.cu[n]
  let p := c.pos.toNat
  let q := s.cuStat n
  let s1 := (((s.put (Cu.POS_LO n) p).put (Cu.POS_HI n) (p / 2 ^ 32)).put (Cu.POS_SIGN n)
    (if c.pos.msb then 0xFFFF else 0)).put (Cu.SPEED n) (wrap 32 c.speed)
  let s2 := [Cu.WIN_SEQ n, Cu.SSI_LOST n, Cu.LIMP n, Cu.LIMN n, Cu.HOME n, Cu.DIR n, Cu.REVERSAL n, Cu.PARTIAL n,
    Cu.STILL n].foldl (fun (t : State) (f : Fld) => t.put f (bits q f.msb f.lsb)) s1
  s2.put (Cu.PERIOD n) ((s.period n).getD 0)

/-! ### Register block of a unit (R90, R93, R94) -/

def State.cuCfgFields (n : Cun) : List Fld :=
  [Cu.SRC n, Cu.INV_DIR n, Cu.Z_EN n, Cu.FILT n, Cu.PER_N n, Cu.HOME_MODE n, Cu.HOME_DIR n]
/-- The IDLE-class fields of a unit (R94). -/
def cuIdle (n : Cun) : List Fld :=
  State.cuCfgFields n ++ [Cu.SSI_BITS n, Cu.GRAY n, Cu.SSI_DIV n, Cu.FRAME_US n, Cu.TM_US n, Cu.MAX_JUMP n,
    Cu.HOMEPOS_LO n, Cu.HOMEPOS_HI n, Cu.ZPITCH n, Cu.ZPHASE n]
/-- The value a word gives a field: the written bits if the field lies in the word, else the value held. -/
def State.newVal (s : State) (f : Fld) (addr data : Nat) : Nat :=
  if f.addr = addr then bits data f.msb f.lsb else s.get f
/-- Some field of the list in the word changes its value (R549). -/
def State.anyChange (s : State) (fs : List Fld) (addr data : Nat) : Bool :=
  fs.any (fun f => f.addr = addr && s.changes f data)
/-- FRAME_US is long enough (R59): microseconds of the frame rounded up. -/
def ssiFits (bitsN div frame tm : Nat) : Bool := ceilDiv ((bitsN + 1) * 2 * (div + 1)) 600 + tm ≤ frame

/-- The refusal of a word written to a unit, in the order range, state, check. -/
def cuJudge (n : Cun) (addr data : Nat) (s : State) : Option Nat :=
  let nv := fun f => s.newVal f addr data
  let go := fun f : Fld => f.addr = addr && bits data f.msb f.lsb = 1
  let cmds := [Cu.HOME_GO n, Cu.PRESET n, Cu.HOME_CANCEL n].countP go
  let ssi := [Cu.SSI_BITS n, Cu.SSI_DIV n, Cu.FRAME_US n, Cu.TM_US n]
  firstBad [
    ((Cu.SRC n).addr = addr && nv (Cu.SRC n) = 3, abRange),
    ((Cu.SSI_BITS n).addr = addr && (nv (Cu.SSI_BITS n) < 12 || nv (Cu.SSI_BITS n) > 32), abRange),
    ((Cu.SSI_DIV n).addr = addr && (nv (Cu.SSI_DIV n) < 29 || nv (Cu.SSI_DIV n) > 2999), abRange),
    ((Cu.TM_US n).addr = addr && nv (Cu.TM_US n) = 0, abRange),
    (s.cuInRun n && s.anyChange (cuIdle n) addr data, abState),
    (s.cuInRun n && (go (Cu.HOME_GO n) || go (Cu.PRESET n)), abState),
    (ssi.any (fun f => f.addr = addr) &&
      !ssiFits (nv (Cu.SSI_BITS n)) (nv (Cu.SSI_DIV n)) (nv (Cu.FRAME_US n)) (nv (Cu.TM_US n)), abCheck),
    (cmds > 1, abCheck),
    (go (Cu.HOME_GO n) && !s.has (Cu.Z_EN n) && s.get (Cu.HOME_MODE n) % 2 = 0, abCheck)]
/-- The word's effect once no field is refused: homing ended by a change of its fields (R74), the unit reset by SRC or
INV_DIR (R64), the commands of +0x40. -/
def cuApply (n : Cun) (addr data : Nat) (s : State) : State :=
  let endsHoming := (s.cu[n]).homing.isSome && ((Cu.Z_EN n).addr = addr) &&
    (s.changes (Cu.HOME_MODE n) data || s.changes (Cu.HOME_DIR n) data ||
      (s.has (Cu.Z_EN n) && bits data 28 28 = 0))
  let s0 := if endsHoming then s.homeEnd n else s
  let s1 := s0.writeWord (Cu.fields n) addr data false
  let s2 := if s.anyChange [Cu.SRC n, Cu.INV_DIR n] addr data then s1.cuReset n else s1
  let s3 := s2.swFollow s n
  if (Cu.HOME_GO n).addr = addr then
    if bit data 0 then (s3.modCu n (fun c => { c with homing := some false })).flag (Cu.HOMING n)
    else if bit data 1 then s3.cuPreset n
    else if bit data 2 then s3.homeEnd n else s3
  else s3
/-- A word written to a unit, judged and applied. -/
def cuStore (n : Cun) (addr data : Nat) (s : State) : Except Nat State :=
  match cuJudge n addr data s with
  | some a => .error a
  | none => .ok (cuApply n addr data s)

/-! ### Register block of a stake (R83, R91) -/

def stkJudge (i : Stk) (addr data : Nat) (s : State) : Option Nat :=
  let nv := fun f => s.newVal f addr data
  firstBad [
    ((St.DIR i).addr = addr && nv (St.DIR i) = 3, abRange),
    (((St.DIR i).addr = addr || (St.REPEAT i).addr = addr) && nv (St.DIR i) = 2 && nv (St.REPEAT i) ≠ 0, abCheck),
    ((St.ARM i).addr = addr && bit data 0 && bit data 1, abCheck)]
def stkApply (i : Stk) (addr data : Nat) (s : State) : State :=
  let s1 := s.writeWord (St.fields i) addr data false
  let s2 := if s.anyChange [St.CU i, St.DIR i] addr data then s1.stakeDisarm i else s1
  if (St.TGT_HI i).addr = addr then s2.stakeTarget i (BitVec.ofNat 48 (s2.getPair (St.TGT_LO i) (St.TGT_HI i)))
  else if (St.ARM i).addr = addr then
    if bit data 0 then s2.stakeArm i else if bit data 1 then s2.stakeDisarm i else s2
  else s2
def stkStore (i : Stk) (addr data : Nat) (s : State) : Except Nat State :=
  match stkJudge i addr data s with
  | some a => .error a
  | none => .ok (stkApply i addr data s)

/-- SYNC_DRV is refused while any channel is in RUN (R94). The shared registers have no WREJ bit (R92). -/
def shStore (addr data : Nat) (s : State) : Except Nat State :=
  if s.anyInRun && s.anyChange [Sh.SYNC_DRV] addr data then .error abState
  else .ok (s.writeWord Sh.fields addr data false)

end Sys2Proof.Machine
end

