-- ==== Sys2Proof/Machine/Ladder.lean ====
section
/-! DEFINITION. The rails of a channel (R180, R185, R187, R202): the steps of their ladders and the codes their finishing stages
hold, as plans that a decision, an overcurrent or a ramp makes. All times are TB ticks, 8 to a FIRE_CLK cycle. -/
namespace Sys2Proof.Machine

/-- The levels the ladder visits in a move from code a to code t (R187, R191): to the last one that does not pass the target. -/
def ladderVisits (a t : Nat) : List Nat :=
  if a < t then (List.range (t / 256 - a / 256)).map (fun i => a / 256 + 1 + i)
  else (List.range (ceilDiv a 256 - ceilDiv t 256)).map (fun i => ceilDiv a 256 - 1 - i)
/-- The steps of a move: at each the switch in use opens, and that of the next level closes a dead time of one FIRE_CLK cycle later
(R180). -/
def RailMove.steps (m : RailMove) : List LadderStep :=
  m.levels.zipIdx.map (fun (x : Nat × Nat) =>
    ⟨if x.2 = 0 then m.open0 else m.at0 + x.2 * m.step, m.at0 + x.2 * m.step + 8, x.1⟩)
/-- The end of a move: its last step has ended and the finishing stage has settled. -/
def RailMove.ends (m : RailMove) : Nat := m.at0 + m.levels.length * m.step + (match m.hold with | some h => h.1 | none => 0)
def RailRun.steps (r : RailRun) : List LadderStep := r.moves.flatMap RailMove.steps
/-- The level the ladder last connected the rail to, by a tick. -/
def RailRun.levelAt (r : RailRun) (t : Nat) : Nat :=
  match (r.steps.filter (fun x => x.closes ≤ t)).getLast? with | some x => x.level | none => r.lvl
/-- The level whose switch is closed at a tick: none in the dead time of a step. -/
def RailRun.switchAt (r : RailRun) (t : Nat) : Option Nat :=
  if r.steps.any (fun x => x.opens ≤ t && t < x.closes) then none else some (r.levelAt t)
/-- The code the finishing stage holds at a tick: the target of the last move begun, once it is over (R187). -/
def RailRun.heldAt (r : RailRun) (t : Nat) : Option Nat :=
  match (r.moves.filter (fun m => m.at0 ≤ t)).getLast? with
  | some m => if m.ends ≤ t then m.hold.map (fun h => h.2) else none
  | none => r.code
/-- The code at which a rail stands at a tick: the one held, else its level. -/
def RailRun.codeAt (r : RailRun) (t : Nat) : Nat := (r.heldAt t).getD (r.levelAt t * 256)
/-- The rail as it stands at a tick, with nothing more to do. -/
def RailRun.rest (r : RailRun) (t : Nat) : RailRun := ⟨r.levelAt t, r.heldAt t, []⟩
/-- The end of a plan, and the rail then. -/
def RailRun.ends (r : RailRun) : Nat := r.moves.foldl (fun (a : Nat) (m : RailMove) => max a m.ends) 0
def RailRun.done (r : RailRun) : RailRun := r.rest r.ends
/-- Levels down to LV0, and from there up to one. -/
def rampDown (l : Nat) : List Nat := (List.range l).reverse
def rampUp (l : Nat) : List Nat := (List.range l).map (fun i => i + 1)
/-- 200 ns in ticks: a step of a ramp (R185). -/
def rampStep : Nat := 1920

/-- A rail of a channel: `w` is rail W. -/
def Drive.rail (d : Drive) (w : Bool) : RailRun := if w then d.railW else d.railF
def State.setRail (s : State) (n : Ch) (w : Bool) (r : RailRun) : State :=
  s.modDrive n (fun d => if w then { d with railW := r } else { d with railF := r })
/-- A plan given to a rail: its step commands leave for the drive die. -/
def State.planRail (s : State) (n : Ch) (w : Bool) (r : RailRun) : State :=
  let t := s.setRail n w r
  if r.steps = [] then t else t.emit (.ladder n w r.steps)
/-- A rail ramps from where it stands now to LV0 at 200 ns per step, and then up again to a level that the finishing stage holds
(R185, R202). The switch in use opens at once; the first step comes after a delay. -/
def State.rampRail (s : State) (n : Ch) (delay : Nat) (up : Option Nat) (w : Bool) : State :=
  let l := ((s.ch[n]).drive.rail w).levelAt s.tb
  s.planRail n w ⟨l, none, [⟨s.tb, s.tb + delay, rampDown l ++ (match up with | some r => rampUp r | none => []), rampStep,
    up.map (fun r => (0, r * 256))⟩]⟩
/-- Both rails ramp. -/
def State.rampRails (s : State) (n : Ch) (delay : Nat) (up : Option Nat) : State :=
  (s.rampRail n delay up false).rampRail n delay up true
/-- Both rails stop where they stand, and both have done what their plans say. -/
def State.stopRails (s : State) (n : Ch) : State :=
  s.modDrive n (fun d => { d with railF := d.railF.rest s.tb, railW := d.railW.rest s.tb })
def State.railsDone (s : State) (n : Ch) : State := s.modDrive n (fun d => { d with railF := d.railF.done, railW := d.railW.done })
/-- The tick at which both rails have done what their plans say. -/
def State.railsEnd (s : State) (n : Ch) : Nat := max (s.ch[n]).drive.railF.ends (s.ch[n]).drive.railW.ends

end Sys2Proof.Machine
end

