-- ==== Sys2Proof/Machine/Memory.lean ====
section
/-! DEFINITION. On-chip memories (chapter 13): the scratchpad and its two ports, the aliases, collisions, the background test,
and the register block. -/
namespace Sys2Proof.Machine

/-! ### The scratchpad as data

Addresses strictly rising, and no listed byte 0, which is what an unlisted address reads as (R400). -/

def spSize : Nat := 0x80000
/-- The visible part ends where the secure part begins (R403). -/
def spVisible : Nat := 0x70000
/-- A byte of a memory. -/
def Memory.get : List Host.Cell → Nat → Byte
  | [], _ => 0
  | (k, v) :: r, a => if k = a then v else Memory.get r a
/-- A memory without an address. -/
def Memory.drop : List Host.Cell → Nat → List Host.Cell
  | [], _ => []
  | (k, v) :: r, a => if k = a then Memory.drop r a else (k, v) :: Memory.drop r a
/-- A byte listed before the first greater address. -/
def Memory.ins : List Host.Cell → Nat → Byte → List Host.Cell
  | [], a, b => [(a, b)]
  | (k, v) :: r, a, b => if a < k then (a, b) :: (k, v) :: r else (k, v) :: Memory.ins r a b
/-- A byte written; 0 leaves its address unlisted, and so does an address outside the scratchpad, where no byte is. -/
def Memory.put (m : List Host.Cell) (a : Nat) (b : Byte) : List Host.Cell :=
  if b = 0 ∨ spSize ≤ a then Memory.drop m a else Memory.ins (Memory.drop m a) a b
/-- The canonical form: addresses strictly rising from a bound, no byte 0, all inside the scratchpad. -/
def Memory.wfFrom : Nat → List Host.Cell → Bool
  | _, [] => true
  | lo, (k, v) :: r => decide (lo ≤ k) && decide (k < spSize) && decide (v ≠ 0) && Memory.wfFrom (k + 1) r
def Memory.wf (m : List Host.Cell) : Bool := Memory.wfFrom 0 m

/-- A byte of the scratchpad. -/
def State.spByte (s : State) (a : Nat) : Byte := Memory.get s.sp a
/-- Bytes of the scratchpad from an offset. -/
def State.spBytes (s : State) (a len : Nat) : List Byte := (List.range len).map (fun i => s.spByte (a + i))

/-! ### The background test (R405 to R409) -/

/-- The slices of a memory of R405. -/
def bistSlices (m : Nat) : Nat := if m = 0 then 448 else if m = 1 then 1024 else 64
/-- A memory may be tested (R405). -/
def State.bistMay (s : State) (m : Nat) : Bool :=
  if m = 0 then true else if m = 1 then s.pix.on
  else if m < 10 then let n : Ch := Fin.ofNat 8 (m - 2); s.chOn n && !s.inRun n else false
/-- The first slice that may be tested at or after a place in the sweep; none when the sweep is over. -/
def State.bistFrom (s : State) : Nat → Nat → Nat → Option (Nat × Nat)
  | 0, _, _ => none
  | f + 1, m, sl => if m ≥ 10 then none else if s.bistMay m ∧ sl < bistSlices m then some (m, sl) else State.bistFrom s f (m + 1) 0
/-- A word of a memory with bytes of wrong parity is reported (R411, R412). -/
def State.parityNote (s : State) (mem ofs : Nat) : State :=
  ((s.flagBump Me.PAR Me.PAR_CNT).put Me.PAR_MEM mem).put Me.PAR_OFS (ofs / 8 * 8)
/-- Bytes of the visible or the secure part take wrong parity. -/
def State.spoil (s : State) (as : List Nat) : State :=
  { s with parBad := s.parBad ++ as.filter (fun a => decide (a < spSize) && !s.parBad.contains a) }
/-- The closure working memory (R314): 736 KiB of the closure engine's own, the snapshot buffer, the context banks. -/
def snapBase : Nat := 0xB8000
def bankBase : Nat := 0xF8000
/-- A word of a bank of the closure memory, by its offset there, is known to be bad until the bank is rewritten (R412). -/
def State.bankSpoil (s : State) (ofs : Nat) : State :=
  if bankBase ≤ ofs then s.modCam ((ofs - bankBase) / 0x2000) (fun x => { x with bankBad := true }) else s
/-- A slice comes under test, and its copy reads every word of it (R408): a single error of a table word is corrected, another error of
any memory is reported, those known before among them, and the word restored with its check bits as read, so that it stays bad. -/
def State.bistGo (s : State) (single bad : List Nat) (r : Nat × Nat) (again : List ((Nat × Nat) × Bool)) : State :=
  let t : State := { s with bist := { s.bist with running := some r, again := again.map (fun (x : (Nat × Nat) × Bool) => (x.1, true)) } }
  if r.1 = 0 then
    let u := t.spoil (bad.map (fun i => 1024 * r.2 + i))
    let b := u.parBad.filter (fun a => decide (a / 1024 = r.2))
    if b = [] then u else (((u.flag Me.PAR).bumpBy Me.PAR_CNT b.length).put Me.PAR_MEM 0).put Me.PAR_OFS (b.headD 0 / 8 * 8)
  else if r.1 = 1 then bad.foldl (fun (u : State) (i : Nat) => (u.parityNote 1 (1024 * r.2 + i)).bankSpoil (1024 * r.2 + i)) t
  else
    let n : Ch := Fin.ofNat 8 (r.1 - 2)
    let u := single.foldl (fun (u : State) (_ : Nat) => u.flagBump (Ed.CE n) (Ed.CE_CNT n)) t
    let old := (s.ch[n]).badEntries
    let new := (bad.map (fun i => 128 * r.2 + i / 8)).filter (fun e => !old.contains e)
    let v := u.modCh n (fun c => { c with badEntries := old ++ new.dedup })
    (old.filter (fun e => decide (e / 128 = r.2)) ++ new.dedup).foldl (fun (u : State) (e : Nat) =>
      (u.flagBump (Ed.UE n) (Ed.UE_CNT n)).put (Ed.UE_ENTRY n) e) v
/-- A slice is begun (R405): one to be tested again once another has begun since, else the next of the sweep, else what is
still to be tested again, else the first of a new sweep. -/
def State.bistStart (s : State) (single bad : List Nat) : State :=
  if !s.has Me.BIST_EN ∨ s.bist.running.isSome ∨ !(s.dev.boot = .benchmark ∨ s.dev.boot = .up) then s
  else
    let ag := s.bist.again.filter (fun (x : (Nat × Nat) × Bool) => s.bistMay x.1.1)
    match ag.find? (fun x => x.2) with
    | some x => s.bistGo single bad x.1 (ag.erase x)
    | none =>
      match s.bistFrom 11 s.bist.mem s.bist.slice with
      | some r => State.bistGo { s with bist := { s.bist with mem := r.1, slice := r.2 + 1 } } single bad r ag
      | none =>
        match ag with
        | x :: rest => s.bistGo single bad x.1 rest
        | [] => State.bistGo ({ s with bist := { mem := 0, slice := 1, running := none, yields := [], again := [] } }.incr
            Me.BIST_SWEEPS) single bad (0, 0) []
/-- A slice test ends (R407): restored, with a failing word reported. -/
def State.bistDone (s : State) (failAt : Option Nat) : State :=
  match s.bist.running with
  | none => s
  | some r =>
    let t : State := { s with bist := { s.bist with running := none } }
    match failAt with
    | none => t
    | some a => ((t.flagBump Me.BIST_FAIL Me.BIST_FAIL_CNT).put Me.FAIL_MEM r.1).put Me.FAIL_OFS (a / 8 * 8)
/-- An access to slices of a memory: the slice under test yields, to be tested again unless it has yielded 16 times (R406). -/
def State.bistTouch (s : State) (m : Nat) (p : Nat → Bool) : State :=
  match s.bist.running with
  | some (m0, sl) =>
    if m0 = m ∧ p sl then
      let ys := (m0, sl) :: s.bist.yields
      let skip := 16 ≤ (ys.filter (fun y => y = (m0, sl))).length
      let t := State.bump { s with bist := { s.bist with
        running := none, yields := ys
        again := if skip then s.bist.again else s.bist.again ++ [((m0, sl), false)] } } Me.YIELD_CNT
      if skip then t.flagBump Me.SKIP Me.SKIP_CNT else t
    else s
  | none => s
/-- An access to bytes of a memory from an offset, in its slices of 1 KiB (R406). -/
def State.sliceTouch (s : State) (m ofs len : Nat) : State := s.bistTouch m (fun sl => decide (ofs / 1024 ≤ sl ∧ sl * 1024 < ofs + len))
/-- An access to one entry of a channel's per-nozzle table (R406), and the edit stage's to all of it (R164). -/
def State.entryTouch (s : State) (n : Ch) (i : Nat) : State := s.sliceTouch (2 + n) (8 * i) 8
def State.tableTouch (s : State) (n : Ch) : State := s.bistTouch (2 + n) (fun _ => true)
/-- An access of the closure engine to its own part. The spec gives no place to what it keeps there: whether the access meets the slice
under test is a free value (log entry 67). -/
def State.closureTouch (s : State) : State :=
  if s.bist.running.any (fun (r : Nat × Nat) => r.1 = 1 && decide (r.2 < snapBase / 1024)) then
    let f := Config.freeNat s.ctr
    State.bistTouch { s with ctr := s.ctr + 1 } 1 (fun _ => decide (f % 2 = 1))
  else s

/-! ### The two ports (R397 to R402) -/

/-- What an operation makes of a byte (R399). -/
def spOn (o : SpOp) (old new : Byte) : Byte :=
  match o with | .plain => new | .set => old ||| new | .clear => old &&& ~~~new
/-- The enabled bytes of an access as (offset, byte), those below a bound and at or above another. -/
def spLanes (ofs : Nat) (lanes : List (Option Byte)) (lo hi : Nat) : List (Nat × Byte) :=
  (lanes.zipIdx).filterMap (fun (x : Option Byte × Nat) => match x.1 with
    | some b => if lo ≤ ofs + x.2 ∧ ofs + x.2 < hi then some (ofs + x.2, b) else none
    | none => none)
/-- Bytes written with fresh parity (R397). -/
def State.spApply (s : State) (o : SpOp) (ls : List (Nat × Byte)) : State :=
  let t := ls.foldl (fun (t : State) (x : Nat × Byte) =>
    { t with sp := Memory.put t.sp x.1 (spOn o (t.spByte x.1) x.2), parBad := t.parBad.filter (· ≠ x.1) }) s
  t.bistTouch 0 (fun sl => ls.any (fun (x : Nat × Byte) => decide (x.1 / 1024 = sl)))
/-- A read of bytes of the scratchpad: a byte of wrong parity is reported (R411). -/
def State.spParity (s0 : State) (ofs len : Nat) : State × Bool :=
  let s := s0.sliceTouch 0 ofs len
  let bad := s.parBad.filter (fun a => ofs ≤ a ∧ a < ofs + len)
  if bad = [] then (s, false)
  else
    let a := bad.headD 0
    ((((s.flag Me.PAR).bumpBy Me.PAR_CNT bad.length).put Me.PAR_MEM (if a < spVisible then 0 else 10)).put Me.PAR_OFS (a / 8 * 8), true)
/-- An access of port S to the secure part waits while a wipe clears it (R404). -/
def State.sWaits (s : State) (a : SPort) : Bool := s.dev.wiping && decide (spVisible < a.ofs + a.lanes.length)
/-- The bytes an access of port S writes in its cycle. -/
def State.sLanes (s : State) (a : SPort) : List (Nat × Byte) :=
  if a.op.isNone || s.sWaits a then [] else spLanes a.ofs a.lanes 0 spSize
/-- An access of the station processor (R397, R399, R404): all 512 KiB, with the aliases' two operations. -/
def State.sAccess (s : State) (a : SPort) : State :=
  if s.sWaits a then s.modDev (fun d => { d with spWait := d.spWait ++ [a] })
  else match a.op with
  | some o => s.spApply o (s.sLanes a)
  | none =>
    let r := s.spParity a.ofs a.lanes.length
    r.1.emit (.portS a.ofs (r.1.spBytes a.ofs a.lanes.length))
/-- A write of port H and what port S does in the same cycle (R401, R402): H first, then S; a byte both write is a collision. -/
def State.spBoth (s : State) (o : SpOp) (h : List (Nat × Byte)) (sp : Option SPort) : State :=
  match sp with
  | none => s.spApply o h
  | some a =>
    let t := (s.spApply o h).sAccess a
    if h.any (fun (x : Nat × Byte) => (s.sLanes a).any (fun (y : Nat × Byte) => decide (x.1 = y.1))) then t.flagBump Me.COLL Me.COLL_CNT
    else t
/-- While this holds, the trained endpoint answers every configuration request with Configuration Request Retry Status: until step 5 of start-up ends (R514). No row of the table is such a request (log entry 66). -/
def State.configRetry (s : State) : Bool :=
  s.pcie.linkUp && !(s.dev.boot = .benchmark || s.dev.boot = .up)

/-- BAR0 is decoded: PD_HOST runs with its link up and the function configured, in D0, after boot step 5 (R420, R423). -/
def State.barOpen (s : State) : Bool :=
  s.pcie.on && !s.pcie.perst && s.pcie.linkUp && s.pcie.conf && !s.pcie.d3 && !s.configRetry
/-- A request of 1 to 128 bytes that crosses no 4 KiB boundary (R419). -/
def reqFits (addr len : Nat) : Bool := decide (1 ≤ len ∧ len ≤ 128 ∧ addr / 4096 = (addr + len - 1) / 4096)
/-- A request that breaks R419: Completer Abort, and AER logs it. -/
def State.completerAbort (s : State) (addr : Nat) : State := (s.emit (.completerAbort addr)).flag Cs.AER_CA
/-- A host write of the scratchpad or of an alias, with the access of port S of its cycle; a host that reaches no BAR0, and a request that
breaks R419, write nothing (R398, R419, R420). -/
def State.spWrite (s : State) (o : SpOp) (ofs : Nat) (lanes : List (Option Byte)) (sp : Option SPort) : State :=
  if !s.barOpen then s.spBoth o [] sp
  else if !reqFits ofs lanes.length then (s.completerAbort (0x200000 + ofs)).spBoth o [] sp
  else s.spBoth o (spLanes ofs lanes 0 spVisible) sp
/-- The secure part cleared with valid parity (R404). -/
def State.spClearSecure (s : State) : State :=
  { s with sp := s.sp.filter (fun c => c.1 < spVisible), parBad := s.parBad.filter (· < spVisible) }
/-! ### Register block (R414, R415) -/

def State.memLive (s : State) : State :=
  (s.put Me.CUR_MEM (match s.bist.running with | some r => r.1 | none => 0xF)).put Me.CUR_SLICE
    (match s.bist.running with | some r => r.2 | none => 0)
def memJudge (addr data : Nat) (_ : State) : Option Nat :=
  firstBad [(Me.BIST_GAP.addr = addr && bits data 15 0 < 10, abRange)]
def memApply (addr data : Nat) (s : State) : State := s.writeWord Me.fields addr data false

end Sys2Proof.Machine
end

