-- ==== Sys2Proof/Machine/Answer.lean ====
section
/-! DEFINITION. Answers of the object dictionary to its two ports: as the SDO answer, and for the mailbox in its registers
(R437 to R439). -/
namespace Sys2Proof.Machine

/-- The mailbox's answer: RSP_SEQ, RSP_ABORT, RSP_LEN and the data, then BUSY and DONE, then cause bit 0 (R438); a CMD 3
answer places its data in the scratchpad first (R439). With no request in progress the answer is lost (R423). -/
def State.mbAnswer (s : State) (idx sub abort : Nat) (data : List Byte) : State :=
  match s.pcie.mb with
  | none => s
  | some r =>
    if r.idx ≠ idx ∨ r.sub ≠ sub then s
    else
      let fits := match r.into with | some o => decide (o + data.length ≤ spVisible) | none => decide (data.length ≤ 64)
      let ab := if fits then abort else abRange
      let t : State := { s with pcie := { s.pcie with mb := none } }
      let t1 := ((t.put Mb.RSP_SEQ r.seq).put Mb.RSP_ABORT ab).put Mb.RSP_LEN (if ab = 0 then data.length else 0)
      let t2 := if ab ≠ 0 ∨ data = [] then t1 else match r.into with
        | some o => t1.spApply .plain (data.zipIdx.map (fun (x : Byte × Nat) => (o + x.2, x.1)))
        | none => (List.range 16).foldl (fun (u : State) (i : Nat) => u.put (Mb.RSP_DATA i) (leNat ((data.drop (4 * i)).take 4))) t1
      ((t2.unflag Mb.BUSY).flag Mb.DONE).cause 0
/-- The answer to a write, or the abort of a read. -/
def State.answer (s : State) (p : Port) (idx sub abort : Nat) : State :=
  let t := s.emit (.sdo p idx sub abort)
  match p with | .pcie => t.mbAnswer idx sub abort [] | .can => t
/-- The answer to a read. -/
def State.answerData (s : State) (p : Port) (idx sub : Nat) (data : List Byte) : State :=
  let t := s.emit (.sdoData p idx sub data)
  match p with | .pcie => t.mbAnswer idx sub 0 data | .can => t
/-- A register or object request answered, when an object's. -/
def State.reply (s : State) (p : Option Port) (idx sub abort : Nat) : State :=
  match p with | some q => s.answer q idx sub abort | none => s

end Sys2Proof.Machine
end

