-- ==== Sys2Proof/Machine/DmaSet.lean ====
section
/-! DEFINITION. A DMA channel's active set and what ends or stops it (R377, R379, R381, R386 to R389, R393): its state, the
answers that wait for DRAINING to end, its end, its errors, and a destination that parks. -/
namespace Sys2Proof.Machine

/-- The destination of a DMA channel's active set (R393). -/
def State.dmaDst (s : State) (d : Dch) : Nat := bits (s.get (Dm.ACT_CFG d)) 23 20
def State.dmaMode (s : State) (d : Dch) : Nat := bits (s.get (Dm.ACT_CFG d)) 31 30
def State.ringSize (s : State) (d : Dch) : Nat := 2 ^ bits (s.get (Dm.ACT_CFG d)) 19 15
def State.setBase (s : State) (d : Dch) : Nat := s.getPair (Dm.ACT_ADDR_LO d) (Dm.ACT_ADDR_HI d)
/-- The stream count of the next byte no transfer has been granted for. -/
def State.dmaPos (s : State) (d : Dch) : Nat :=
  ((s.dma[d]).xf.foldl (fun (a : Nat) (x : Xfer) => a + (x.len - x.cred)) (s.get (Dm.RD_CNT d))) % 2 ^ 32
/-- A transfer with reads still to be issued. -/
def State.dmaOpenXfer (s : State) (d : Dch) : Option Xfer := (s.dma[d]).xf.find? (fun x => 0 < x.rem)
/-- Reads issued and not written, or a last burst whose read-back is on the way. -/
def State.dmaFlight (s : State) (d : Dch) : Bool := (s.dma[d]).xf.any (fun x => !x.out.isEmpty || x.fin)
/-- Nothing may be issued for the channel: PAUSE (R386), no EN (R387), or the stop of D3hot (R420). -/
def State.dmaHalted (s : State) (d : Dch) : Bool := s.has (Dm.PAUSE d) || !s.has (Dm.EN d) || (s.dma[d]).held
/-- STATE (R386, R387, R393, R420). -/
def State.dmaState (s : State) (d : Dch) : DmaState :=
  if s.get (Dm.ERR d) ≠ 0 then .error
  else if s.dmaHalted d then
    if s.dmaFlight d then .draining
    else if s.has (Dm.PAUSE d) || (s.dma[d]).held || !(s.dma[d]).xf.isEmpty || (s.dma[d]).wd then .stopped else .idle
  else if s.dmaFlight d || s.granting.any (fun (g : Nat × Nat) => g.1 = (d : Nat)) then .running
  else if (s.dma[d]).act then .ready else .idle
def DmaState.code : DmaState → Nat
  | .idle => 0 | .ready => 1 | .running => 2 | .draining => 3 | .stopped => 4 | .error => 5
/-- Reads in flight across all channels, those to be discarded among them (R388, R394). -/
def State.dmaOutstanding (s : State) : Nat :=
  allDma.foldl (fun (a : Nat) (d : Dch) => (s.dma[d]).xf.foldl (fun (b : Nat) (x : Xfer) => b + x.out.length)
    (a + (s.dma[d]).junk.length)) 0
/-- A DMA channel holds a part-done transfer into a staging queue (R385). -/
def State.dmaInto (s : State) (n : Ch) : Bool := allDma.any (fun d => (s.dma[d]).xf.any (fun x => x.dst = n))
/-- The answers to the Pause writes that waited for DRAINING to end (R396). -/
def State.dmaSettle (s : State) (d : Dch) : State :=
  if s.dmaState d = .draining then s
  else (s.dma[d]).owed.foldl (fun (t : State) (p : Port) => t.answer p (0x4800 + d) 2 0) (s.modDma d (fun x => { x with owed := [] }))

/-- The active set ends (R377, R379): no set is active, and its words read 0 (log entry 38). Transfers of it that are still on their way
go on with what it said of them. -/
def State.dmaEnd (s : State) (d : Dch) : State :=
  (s.clearAll [Dm.OPEN d, Dm.ACT_CFG d, Dm.ACT_ADDR_LO d, Dm.ACT_ADDR_HI d, Dm.ACT_END d, Dm.ACT_DOFS d]).modDma d (fun x =>
    { x with act := false, ent := none, ended := false, links := 0, failing := 0, xf := x.xf.map (fun y => { y with old := true }) })
/-- The set has come to its end: RD_CNT at END_CNT, or the entry marked END done (R379, R381). -/
def State.dmaOver (s : State) (d : Dch) : Bool :=
  (s.dma[d]).act && (s.dma[d]).xf.isEmpty &&
    (if s.dmaMode d = 0 then bit (s.get (Dm.ACT_CFG d)) 28 && s.get (Dm.RD_CNT d) = s.get (Dm.ACT_END d)
     else (s.dma[d]).ended && (s.dma[d]).ent.isNone)
def State.dmaEndIf (s : State) (d : Dch) : State := if s.dmaOver d then s.dmaEnd d else s

/-- A DMA channel stops with an error (R382, R383, R388, R389): EN clears, ERRF sets. -/
def State.dmaError (s : State) (d : Dch) (err : Nat) : State :=
  ((((s.put (Dm.ERR d) err).unflag (Dm.EN d)).flag (Dm.ERRF d)).bump (Dm.ERR_CNT d)).modDma d (fun x => { x with failing := 0 })
/-- An error that waited for the transfers in progress is raised once there is none (R381, R382). -/
def State.dmaFailDue (s : State) (d : Dch) : State :=
  if (s.dma[d]).failing ≠ 0 ∧ (s.dma[d]).xf = [] then s.dmaError d (s.dma[d]).failing else s
/-- Reads stop: the engine is free of the channel. -/
def State.dmaStopIssue (s : State) (d : Dch) : State :=
  if s.granting.any (fun (g : Nat × Nat) => g.1 = (d : Nat)) then { s with granting := none } else s
namespace Hid
/-- The tick before which no read may be issued: 2 CORE_CLK cycles after the last one, of whatever transfer (R374). -/
def DMA_NEXT : Fld := ⟨0x9000_1504, 63, 0, .ro, 0⟩
end Hid

/-! ### Reads as they are issued (R374, R379) -/

/-- B = min(512, Max_Read_Request_Size). -/
def State.burst (s : State) : Nat := min 512 (128 * 2 ^ s.get Cs.MRRS)
/-- The length of the burst at a source address: up to a multiple of B, and not across a ring's end. -/
def State.burstLen (s : State) (d : Dch) (src rem : Nat) : Nat :=
  let b := s.burst
  let n := min rem (b - src % b)
  if s.dmaMode d = 0 then min n (s.ringSize d - (src - s.setBase d) % s.ringSize d) else n
/-- One read issued for the channel that holds the engine; the engine is free once the last read is out. -/
def State.issueOne (s : State) (d : Dch) (t : Nat) : State :=
  match s.dmaOpenXfer d with
  | none => { s with granting := none }
  | some x =>
    let n := s.burstLen d x.src x.rem
    let nx := if s.dmaMode d = 0 then s.setBase d + (x.src + n - s.setBase d) % s.ringSize d else x.src + n
    let u := s.modDma d (fun c => { c with xf := c.xf.map (fun y =>
      if y = x then { y with src := nx, rem := y.rem - n, out := y.out ++ [(y.src, n, t)] } else y) })
    { u.put Hid.DMA_NEXT (t + 32) with granting := if x.rem ≤ n then none else some (d, t + 32) }
/-- The reads due by now (R374); with `all`, time moves on to each as far as 64 reads outstanding allow. -/
def State.issueDue : Nat → Bool → State → State
  | 0, _, s => s
  | f + 1, all, s =>
    match s.granting with
    | none => s
    | some (d, t) =>
      let now := max t s.tb
      if 64 ≤ s.dmaOutstanding then s
      else if cycleOf t ≤ cycleOf s.tb then State.issueDue f all (s.issueOne (Fin.ofNat 16 d) t)
      else if all then State.issueDue f all (State.issueOne (s.at now) (Fin.ofNat 16 d) t)
      else s
def State.dmaTick (s : State) : State := State.issueDue 64 false s

/-! ### A destination that parks (R389) -/

/-- The reads of transfers that nothing is to take any more. -/
def xfReads (xs : List Xfer) : List (Nat × Nat × Nat) := xs.flatMap (fun x => x.out)
/-- What a part-done transfer of a list leaves to be done as an entry, in place of it (R389). -/
def Xfer.rest (x : Xfer) : Nat × Nat × Bool := ((x.out.headD (x.src, 0, 0)).1, x.len - x.got, x.last)
/-- Transfers into a parked queue are dropped: their issued reads complete and are discarded. -/
def Dma.dropInto (c : Dma) (n : Ch) : Dma :=
  { c with xf := c.xf.filter (fun x => x.dst ≠ n), junk := c.junk ++ xfReads (c.xf.filter (fun x => x.dst = n)) }
/-- A channel's transfers are given up where its destination parks (R389): issued reads will be discarded, the reservations are
released, and a list goes on in the entry of the transfer that is part-done. -/
def Dma.giveUp (c : Dma) (list : Bool) (n : Ch) : Dma :=
  let t : Dma := c.dropInto n
  match c.xf.find? (fun x => !x.old && decide (x.got < x.len)) with
  | some y => { t with ent := if list then some y.rest else none, entAt := y.ent, ended := false, links := 0 }
  | none => t
/-- The bytes of a channel's transfers into a queue that were written and are not counted yet. -/
def Dma.uncounted (c : Dma) (n : Ch) : Nat := c.xf.foldl (fun (a : Nat) (x : Xfer) => if x.dst = n then a + (x.got - x.cred) else a) 0
/-- PD_CHn parks: the DMA channels whose active set names its queue stop with ERR 4 (R389): RD_CNT counts what the queue
accepted, and the stream goes on at the first byte not delivered. -/
def State.dmaParked (s : State) (n : Ch) : State :=
  allDma.foldl (fun t d =>
    if t.dma[d].act && t.dmaDst d = n then
      let k := t.dma[d].uncounted n
      let t1 := (t.incrBy (Dm.RD_CNT d) k).modDma d (fun x => x.giveUp (t.dmaMode d = 1) n)
      ((((t1.dmaStopIssue d).incrBy (Ld.BYTES_IN n) k).dmaError d 4).dmaEndIf d).dmaSettle d
    else if t.dma[d].xf.any (fun x => x.dst = n) then
      let k := t.dma[d].uncounted n
      ((((t.incrBy (Dm.RD_CNT d) k).incrBy (Ld.BYTES_IN n) k).modDma d (fun x => x.dropInto n)).dmaEndIf d).dmaSettle d
    else t) s.dmaTick

end Sys2Proof.Machine
end

