-- ==== Sys2Proof/Machine/Send.lean ====
section
/-! DEFINITION. What leaves on an Ismaing link (R216 to R228, R233 to R235): frames, when the outbound lanes take them, and in which
order. -/
namespace Sys2Proof.Machine

/-! ### Lines -/

/-- Whether line k has passed its boundary. -/
def State.pastBoundary (s : State) (n : Ch) (k : Nat) : Bool :=
  match (s.ch[n]).store.bNext with | some b => k < b | none => false
def State.findLine (s : State) (n : Ch) (k : Nat) : Option Line := (s.ch[n]).lines.find? (fun l => l.no = k)
def State.modLine (s : State) (n : Ch) (k : Nat) (f : Line → Line) : State :=
  s.modCh n (fun c => { c with lines := c.lines.map (fun l => if l.no = k then f l else l) })

/-! ### Frames (R223 to R226) -/

def tyLine : Nat := 1
def tyConfig : Nat := 2
def tySense : Nat := 3
def tyStatus : Nat := 4
/-- A frame as it leaves: SOF, header, payload, CRC high byte first, EOF (R223, R224). -/
def frameBytes (f : Frame) (fseq tag : Nat) : List Nat :=
  let body := [f.type * 16 + fseq, tag % 256, f.index * 32 + (if f.last then 16 else 0), f.payload.length / 4] ++ f.payload
  let c := crc16 body
  0x1FB :: body ++ [c / 256, c % 256, 0x1FD]
def mkFrame (type index : Nat) (last : Bool) (payload : List Nat) : Frame :=
  { type := type, index := index, last := last, payload := payload, sent := 0, acked := false, waiting := false }
/-- Drive codes packed as R151: four to a byte, the lowest nozzle lowest, padded with 0 to whole words (R226). -/
def packCodes (codes : List Nat) : List Nat :=
  (List.range (4 * ceilDiv codes.length 16)).map (fun b =>
    nth codes (4 * b) + 4 * nth codes (4 * b + 1) + 16 * nth codes (4 * b + 2) + 64 * nth codes (4 * b + 3))
/-- The frames of a line (R226, R235, R242): none when every code is 0; a SENSE frame first when the far end can route. -/
def lineFrames (codes : List Nat) (sense : Option Nat) (route : Bool) : List Frame :=
  if codes.all (fun c => c = 0) then []
  else
    let p := packCodes codes
    let nf := ceilDiv p.length 160
    (match sense with
      | some i => if route then [mkFrame tySense 0 true [i % 256, i / 256 % 32, 0, 0]] else []
      | none => []) ++
    (List.range nf).map (fun i => mkFrame tyLine i (i + 1 = nf) ((p.drop (160 * i)).take 160))

/-- The far end can route the sense line (R242). -/
def State.canRoute (s : State) (n : Ch) : Bool := bit (s.get (Lk.FE_CAP n)) 0
def State.linkSt (s : State) (n : Ch) : LinkState := (s.ch[n]).link.st
def State.linkUp (s : State) (n : Ch) : Bool := s.linkSt n = .up

/-! ### Sending (R227, R233 to R235) -/

/-- A line's frame replaced by a function of itself. -/
def Line.modFrame (l : Line) (i : Nat) (f : Frame → Frame) : Line :=
  { l with frames := l.frames.mapIdx (fun j x => if j = i then f x else x) }
/-- When the next transmission can begin: the lanes are free, the state of the link is as the last event left it, and the EOF that last
carried its FSEQ lies 4.0 µs back (R227, R233). -/
def Link.nextAt (l : Link) : Nat :=
  max (max l.free l.seen) (match l.eofs.find? (fun e => e.1 = l.fseq) with | some e => e.2 + usTicks 4 | none => 0)
/-- When a frame that leaves next has left: the lanes carry 4 bytes in a symbol time of 12.5 ns, 120 ticks (R216, R223). -/
def Link.frameTill (l : Link) (f : Frame) : Nat := l.nextAt + 120 * (2 + f.payload.length / 4)
/-- The link after a frame has taken the lanes. -/
def Link.carry (l : Link) (f : Frame) (line : Option Nat) (i : Nat) : Link :=
  { l with
    fseq := (l.fseq + 1) % 16, tx := l.tx ++ [⟨l.fseq, line, i, l.frameTill f⟩], free := l.frameTill f
    eofs := (l.fseq, l.frameTill f) :: l.eofs.filter (fun e => e.1 ≠ l.fseq) }
/-- One more transmission may await an answer, and the next FSEQ is free (R227). -/
def linkRoom (l : Link) : Bool := l.tx.length < 8 && !l.tx.any (fun t => t.fseq = l.fseq)
/-- The line may be sent: no line two or more before it still waits for its LATCH, nor does the far end hold such a line that was
dropped (R227). -/
def lineAllowed (ls : List Line) (kept : List Nat) (k : Nat) : Bool :=
  ls.all (fun l => k < l.no + 2 || l.decided || l.latched.isSome) && kept.all (fun j => decide (k < j + 2))
/-- The first failed frame of the oldest line (R233). -/
def pickRepeat (ls : List Line) : Option (Nat × Nat) :=
  ls.findSome? (fun l => (l.frames.findIdx? (fun f => f.waiting)).map (fun i => (l.no, i)))
/-- The next frame never sent, oldest line first. -/
def pickNew (ls : List Line) (kept : List Nat) : Option (Nat × Nat) :=
  ls.findSome? (fun l => if l.encoded && !l.undel && !l.decided && lineAllowed ls kept l.no then
    (l.frames.findIdx? (fun f => f.sent = 0)).map (fun i => (l.no, i)) else none)

/-- A transmission of a line's frame. -/
def State.sendLine (s : State) (n : Ch) (k i : Nat) : State :=
  match s.findLine n k with
  | none => s
  | some l =>
    match l.frames[i]? with
    | none => s
    | some f =>
      let q := (s.ch[n]).link.fseq
      let s1 := if 0 < f.sent then s.bump (Lk.RETX_CNT n) else s
      ((s1.modLine n k (fun x => x.modFrame i (fun y => { y with sent := y.sent + 1, waiting := false }))).modLink n (fun x =>
        x.carry f (some k) i)).emit (.frame n (frameBytes f q k))
/-- A transmission of a CONFIG or STATUS_REQ frame. -/
def State.sendCtl (s : State) (n : Ch) (id : Nat) (f : Frame) : State :=
  let q := (s.ch[n]).link.fseq
  let s1 := if 0 < f.sent then s.bump (Lk.RETX_CNT n) else s
  (s1.modLink n (fun x => { x.carry f none id with
    ctl := x.ctl.map (fun (c : Nat × Frame) => if c.1 = id then (id, { c.2 with sent := c.2.sent + 1, waiting := false })
      else c) })).emit (.frame n (frameBytes f q 0))
/-- Frames leave while there is room and the lanes are free: repeats first, then new frames of the lines that TRANSMIT_LINE has
handed over, then CONFIG and STATUS_REQ once no LINE frame waits (R233, R235). LINE frames need the link UP; the others need the far end
to accept frames (R247). -/
def State.linkPump : Nat → Ch → State → State
  | 0, _, s => s
  | fuel + 1, n, s =>
    let c := s.ch[n]
    if !linkRoom c.link ∨ s.tb < c.link.nextAt then s
    else
      let ls := if s.linkUp n then c.lines else []
      match pickRepeat ls with
      | some (k, i) => State.linkPump fuel n (s.sendLine n k i)
      | none =>
        match pickNew ls c.link.kept with
        | some (k, i) => if (s.findLine n k).any (fun l => l.sending) then State.linkPump fuel n (s.sendLine n k i) else s
        | none =>
          match c.link.ctl.find? (fun x => x.2.waiting) with
          | some (id, f) => if c.link.tsrSeen then State.linkPump fuel n (s.sendCtl n id f) else s
          | none => s
/-- The frames that have left by now, as the last event left the link: at most 8 transmissions await an answer (R227). Every event that
changes what waits comes after this. -/
def State.linkTick (s : State) (n : Ch) : State := State.linkPump 8 n s
/-- The link as an event has left it: what may leave at this instant does. -/
def State.pump (s : State) (n : Ch) : State := (s.modLink n (fun l => { l with seen := max l.seen s.tb })).linkTick n

end Sys2Proof.Machine
end

