-- ==== Sys2Proof/Machine/Recovery.lean ====
section
/-! DEFINITION. The shared sequences of chapter 10 and chapter 18: RELEASE (R244, R245), the end of the traverse, the ramp
and the bleed (R185), retirement (R329), parking (R34, R138), loss of a prepared epoch (R335), entry to SAFE (R520). -/
namespace Sys2Proof.Machine

/-- Control code groups by their K28.x number (R222, R228). -/
def grpLatch : Nat := 1
def grpRelease : Nat := 2
def grpSns : Nat := 4
def grpSpx : Nat := 6

/-- A control group as it leaves: its code group, B1, B2, and CHK = B1 XOR B2 XOR 0xA5 (R228). -/
def ctlGroup (n k b1 b2 : Nat) : Out := .group n k b1 b2 ((b1 ^^^ b2) ^^^ 0xA5)
/-- A line as the far end's buffers and the transmitter lose it: no frame of it waits or awaits an answer. -/
def dropLineTx (l : Link) : Link := { l with tx := l.tx.filter (fun t => t.line.isNone) }

/-- A LINE frame that a test picks is in progress: its EOF has not left yet. -/
def State.frameOut (s : State) (n : Ch) (p : Nat → Bool) : Bool :=
  (s.ch[n]).link.tx.any (fun t => t.line.any p && decide (s.tb < t.till))
/-- A LINE frame in progress that a test picks ends with K30.7, and the lanes are free (R224, R234, R245). -/
def State.cutFrame (s : State) (n : Ch) (p : Nat → Bool) : State :=
  let t := s.linkTick n
  if t.frameOut n p then (t.emit (.abortFrame n)).modLink n (fun l => { l with free := s.tb }) else t
/-- RELEASE with a reason (R244, R245). Every reason ends the latch of the line in progress, so its SPX and SNS are cut.
Every reason but 0x01 flushes: a LINE frame in progress ends with K30.7 and lines not latched are discarded; 0x07 keeps
them, to be sent again from their first frames. -/
def State.release (s : State) (n : Ch) (reason : Nat) : State :=
  let s1 := s.emit (ctlGroup n grpRelease 0 reason)
  let s2 := s1.modCh n (fun c => { c with
    lines := c.lines.map (fun l => if l.decided then { l with cut := true, latched := none } else l)
    link := { c.link with latched := none } })
  if reason = 1 then s2
  else
    let s4 := (s2.cutFrame n (fun _ => true)).modLink n (fun l => { dropLineTx l with kept := [] })
    if reason = 7 then
      s4.modCh n (fun c => { c with lines := c.lines.map (fun l => if l.decided then l else
        { l with latched := none, lack := none, reps := 0,
                 frames := l.frames.map (fun f => { f with sent := 0, acked := false, waiting := false }) }) })
    else s4.modCh n (fun c => { c with lines := c.lines.filter (fun l => l.decided || l.latched.isSome) })

/-- The traverse stops: no line is decided any more and every schedule is gone (R118). -/
def State.travStop (s : State) (n : Ch) : State :=
  s.modTrav n (fun t => { t with st := .stopped, sched := [] })

/-- EMCY of a line (R341): with its number, or with the bytes given. -/
def State.lineMsgs (s : State) (n : Ch) (k : Nat) (ms : List (Nat × List Byte)) : State :=
  ms.foldl (fun (t : State) (m : Nat × List Byte) =>
    if m.2 = [] then t.emcyMsg m.1 n k else t.emcyInfo m.1 n k m.2) s
/-- The line boundaries end and lines encoded but not decided are discarded, never to fire (R320); what their boundaries
found is still told. -/
def State.dropUndecided (s0 : State) (n : Ch) : State :=
  let s := s0.ch[n].lines.foldl (fun t l => if l.decided then t else t.lineMsgs n l.no l.msgs) s0
  s.modCh n (fun c => { c with lines := [], store := { c.store with bNext := none, busy := none },
                               trav := { c.trav with early := [] } })

/-- A named channel leaves a passing state while an epoch is PREPARED or ARMED (R335). -/
def State.epochLose (s : State) (n : Ch) : State :=
  if s.epoch ≠ .openE ∧ bit (s.get Ep.EP_MASK) n then
    (({ s with epoch := .openE }).put Ep.FAIL_REASON 5).put Ep.FAIL_CH n
  else s

/-- A command to a channel's VHV input switch leaves on the supervisor link, in place of one that still waits (R21). -/
def State.switchSent (s : State) (n : Nat) (close : Bool) : State := s.modDev (fun d => { d with supCmd := some ⟨n, close, s.tb, false⟩ })
/-- The VHV input switch opens and the reservoirs bleed (R185). -/
def State.switchOpen (s : State) (n : Ch) : State :=
  ((s.switchSent n false).unflag (Lv.HV_ON n)).modDrive n (fun d => { d with openAt := none, bleeding := true })
/-- A ramp to LV0 that is over opens the switch (R185). -/
def State.openSettle (n : Ch) (s : State) : State := if (s.ch[n]).drive.openAt.any (fun t => decide (t ≤ s.tb)) then s.switchOpen n else s
/-- A switch command of the channel that waits to be sent again is of no more use. -/
def State.switchDrop (s : State) (n : Ch) : State :=
  if s.dev.supCmd.any (fun c => c.ch = (n : Nat)) then s.modDev (fun d => { d with supCmd := none }) else s
/-- Both rails ramp to LV0, and then the VHV input switch opens and the reservoirs bleed (R185). A channel that does so already does
not begin again (R366). -/
def State.rampAndOpen (s : State) (n : Ch) : State :=
  if (s.ch[n]).drive.bleeding then s
  else
    let t := (((s.switchDrop n).rampRails n 0 none).unflag (Lv.PRECHG n)).modDrive n (fun d =>
      { d with railsRest := false, precharging := false, bleeding := true, vhvAt := none })
    State.openSettle n (t.modDrive n (fun d => { d with openAt := some (t.railsEnd n) }))

/-- Committed values become the values in effect of a channel without a running grid (R338). -/
def State.epochSet (s : State) (n : Ch) (r : Rebase) : State :=
  (((((s.put (Tr.PITCH n) r.pitch).put (Tr.OFS_INT n) (r.ofs / 65536)).put (Tr.OFS_FRAC n) r.ofs).put (Tr.REV_SHIFT n)
    r.rev).put (Lv.SET_SEL n) r.slot).put (Cc.APPLIED_EPOCH n) r.number
/-- The values in effect of a channel, as a commit would leave them. -/
def State.epochNow (s : State) (n : Ch) : Rebase :=
  { kc := 0, c := 0, pitch := s.get (Tr.PITCH n), ofs := s.get (Tr.OFS_INT n) * 65536 + s.get (Tr.OFS_FRAC n),
    rev := s.get (Tr.REV_SHIFT n), slot := s.get (Lv.SET_SEL n), number := s.get (Cc.APPLIED_EPOCH n), bound := false }
/-- A channel gets back what a commit of this cycle found in it. -/
def State.commitBack (s : State) (x : Nat × Trav × Rebase) : State :=
  let n : Ch := Fin.ofNat 8 x.1
  (s.epochSet n x.2.2).modTrav n (fun t => { t with rebases := x.2.1.rebases, gapFrom := x.2.1.gapFrom, sched := x.2.1.sched })
/-- A channel retires in the cycle in which a commit that names it was taken: nothing commits, OPEN with reason 5 (R335). Lines that the
commit has decided as GAP stay decided (log entry 69). -/
def State.commitUndo (s : State) (n : Ch) : State :=
  match s.dev.commit with
  | some m =>
    if m.cyc = cycleOf s.tb ∧ m.chs.any (fun x => decide (x.1 = (n : Nat))) then
      let t := ((((m.chs.foldl State.commitBack s).put Ep.EP_NUM m.num).unpulse 0x3D).unsay 0xFF40 0xFF).modDev (fun d => { d with commit := none })
      (({ t with epoch := .openE }).put Ep.FAIL_REASON 5).put Ep.FAIL_CH n
    else s
  | none => s
/-- What a retirement finds is kept for its cycle (R326): one that the host asks for is no fault. -/
def State.retireMark (s : State) (n : Ch) (cause : Nat) : State :=
  if cause = 10 then s
  else
    let k : RetireMark := ⟨cycleOf s.tb, n, s.chSt n, s.get (Cc.CAUSE n), s.get (Cc.RETIRE_CNT n), (s.ch[n]).health.verdicts⟩
    s.modDev (fun d => { d with retires := k :: d.retires.filter (fun m => decide (m.cyc = k.cyc)) })
/-- A retirement by a fault in the cycle of a class S cause is none (R326): the channel, its cause and its counter are as before, and
neither its RELEASE, its source, its message nor its record has been. -/
def State.retireBack (s : State) (m : RetireMark) : State :=
  let n : Ch := Fin.ofNat 8 m.ch
  let t := (s.modCh n (fun c => { c with st := m.st, cold := false, health := { c.health with verdicts := m.verdicts } })).modCan (fun c =>
    { c with queue := dropLast (fun x => decide (x.src = m.ch) && x.record.any (fun v => decide (v / 2 ^ 48 % 256 = 0x10 + ChState.retiring.code))) c.queue })
  let u := (((t.put (Cc.CAUSE n) m.cause).put (Cc.RETIRE_CNT n) m.cnt).unpulse (0x31 + m.ch)).unsay 0xFF30 m.ch
  { u with out := dropFirst (fun o => decide (o = ctlGroup m.ch grpRelease 0 3)) u.out }
def State.retireUndo (s : State) : State :=
  let t := s.modDev (fun d => { d with retires := [] })
  (s.dev.retires.filter (fun m => decide (m.cyc = cycleOf s.tb))).foldl State.retireBack t

/-- A class S cause fell in this cycle: a fault of a channel in the same cycle is no retirement of its own (R326). -/
def State.safeNow (s : State) : Bool := s.dev.safeAt = some (cycleOf s.tb)
/-- Retirement (R329) of a channel with a cause (what it found is kept for its cycle, and a commit of that cycle is none): RETIRING, RELEASE 0x03 before the ramp, source 0x31 + n, EMCY 0xFF30 with
the last line decided, verdict groups not yet in the apply queue discarded (R287), switch open. From OFF it happens only
in a benchmark run (R321) or at a wake (R503), and a link whose clock does not run takes no RELEASE; RETIRING and RETIRED are left as they are. -/
def State.retire (s0 : State) (n : Ch) (cause : Nat) : State :=
  let s := (s0.retireMark n cause).commitUndo n
  if s0.safeNow ∧ cause ≠ 10 then s0
  else match s0.chSt n with
  | .retired | .retiring => s0
  | .off =>
    if s0.inBenchmark || s0.dev.waking.isSome then
      let s1 := (if (s.ch[n]).link.st = .down then s else s.release n 3).modCh n (fun c => { c with cold := true })
      let s2 := (((s1.put (Cc.CAUSE n) cause).bump (Cc.RETIRE_CNT n)).setCh n .retiring).pulse (0x31 + n)
      ((s2.emcyMsg 0xFF30 n (s2.ch[n].lastLine.getD 0)).epochLose n).rampAndOpen n
    else s0
  | _ =>
    let s1 := ((s.travStop n).put (Cc.CAUSE n) cause).bump (Cc.RETIRE_CNT n)
    let s2 := ((s1.release n 3).dropUndecided n).setCh n .retiring
    let s3 := (s2.rampAndOpen n).pulse (0x31 + n)
    let s4 := s3.emcyMsg 0xFF30 n (s3.ch[n].lastLine.getD 0)
    (s4.modHealth n (fun h => { h with verdicts := [] })).epochLose n

/-- PD_CHn parks (R34, R35, R138): the queue and the history are lost, the link's clock stops, sense and lines end; a far-end
access runs into its 20 µs (R255); the table, Q_TAG, the held and applied geometry and the slots are kept (R493). A table slice under test is restored (R409). -/
def State.parkCh (s : State) (n : Ch) : State :=
  let s1 := s.modCh n (fun c => { c with
    q := { c.q with lines := [], part := [], word := [] }
    store := { c.store with img := [], bNext := none, busy := none, blank := true }
    lines := []
    cold := false
    link := { c.link with st := .down, tx := [], ctl := [], cto := 0, latched := none, tsrSeen := false, kept := [] }
    drive := { c.drive with bleeding := false, openAt := none, prechgAt := none, precharging := false, vhvAt := none, railF := ⟨0, none, []⟩, railW := ⟨0, none, []⟩ }
    health := { c.health with cap := none, results := [], learns := [], strip := none } })
  let s2 := if s1.bist.running.any (fun (r : Nat × Nat) => r.1 = 2 + (n : Nat)) then { s1 with bist := { s1.bist with running := none } } else s1
  ((s2.put (Nh.LEARN n) 0).unflag (Nh.STRIP_PEND n)).dmaParked n

/-- The counters of chapter 9, which clear when PD_PIX parks (R315). -/
def camCounters : List Fld :=
  [0, 1].flatMap (fun p => [objFld (0x4100 + p) 6 32 0, objFld (0x4100 + p) 7 32 0, objFld (0x4100 + p) 8 32 0]) ++
  [0, 1, 2, 3].flatMap (fun c => [objFld (0x4108 + c) 0x0B 32 0, objFld (0x4108 + c) 0x0C 32 0,
    objFld (0x4108 + c) 0x10 32 0, objFld (0x4108 + c) 0x11 32 0])

/-- PD_PIX parks (R315, R409): open frames and FIFO lines are lost without a record, an armed capture or snapshot is
cancelled, CPp_TRIG falls (R302), the counters of chapter 9 clear; object values and curves stay with the station processor. -/
def State.pixPark (s : State) : State :=
  let t : State := { s with pix := { s.pix with
    on := false, ready := false,
    ports := s.pix.ports.map (fun _ => CamPort.reset),
    ctxs := s.pix.ctxs.map (fun c => { c with armed := false, frames := [], out := [] }),
    snap := (if s.pix.snap.armed then { s.pix.snap with armed := false, frame := none, cancelled := true } else s.pix.snap),
    jobs := [] } }
  let t := if t.bist.running.any (fun (r : Nat × Nat) => r.1 = 1) then { t with bist := { t.bist with running := none } } else t
  let u := ([0, 1] : List Nat).foldl (fun (u : State) (p : Nat) => if (s.pix.ports.getD p CamPort.reset).trig then u.emit (.trig p false) else u) t
  u.clearAll camCounters

/-- PD_PIX's condition (R504): a camera port enabled or ClosureEnable 1, while the device is in RUN or IDLE. -/
def State.pixAsked (s : State) : Bool := s.has (objFld 0x4100 1 1 0) || s.has (objFld 0x4101 1 1 0) || s.has (objFld 0x4200 1 1 0)
def State.pixWanted (s : State) : Bool := !s.dev.safe && !s.dev.standby && s.dev.safeEntry.isNone && s.pixAsked
/-- While SAFE or STANDBY is being entered, a PD_PIX that is on waits for the channels to park first (R502, R520). -/
def State.pixKept (s : State) : Bool :=
  !s.dev.safe && (!s.dev.standby || s.dev.standbyWait.isSome || s.dev.safeEntry.isSome) && s.pixAsked
/-- PD_PIX follows its condition: power-up leaves it waiting for PIX_RESTORE, a lost condition parks it (R504, R315). -/
def State.pixFollow (s : State) : State :=
  if s.pixWanted ∧ !s.pix.on then { s with pix := { s.pix with on := true, ready := false } }
  else if !s.pixKept ∧ s.pix.on then s.pixPark else s

/-- SAFE entry, steps 4 and 5 of R520, once every domain has parked. -/
def State.safeFinish (s : State) : State :=
  match s.dev.safeEntry with
  | none => s
  | some (code, _) =>
    if allCh.any (fun n => s.ch[n].drive.bleeding) then s
    else
      let s0 := s.modDev (fun d => { d with safe := true, safeEntry := none, standby := false })
      let s1 := State.pixPark { s0 with pcie := { s0.pcie with on := true } }
      let s2 := (if s1.get Su.SAFE_CAUSE = 0 then s1.put Su.SAFE_CAUSE code else s1).bump (objFld 0x5010 1 16 0)
      let s3 := s2.cause 3
      let s4 := if s3.can.nmt = .operational then s3.modCan (fun c => { c with nmt := .preOp }) else s3
      (s4.condOn code 0xFF).emcyMsg code 0xFF 0

/-- Steps 1 and 2 of R520 on one channel: decisions stop, RELEASE (0x04, or 0x06 already chosen by a die trip), the line in
progress is dropped, rails down, switch open; the channel reads STOPPING until its domain parks (R319). A channel that retires
gets the RELEASE too: every channel sends it. -/
def State.safeCh (s : State) (reason : Nat) (n : Ch) : State :=
  match s.chSt n with
  | .retired => s
  | .retiring => if (s.ch[n]).link.st = .down then s else s.release n reason
  | .off =>
    let t := if (s.ch[n]).link.st = .down then s else s.release n reason
    if t.has (Lv.HV_ON n) then t.rampAndOpen n else (t.switchDrop n).parkCh n
  | _ => ((((s.travStop n).release n reason).dropUndecided n).setCh n .stopping).rampAndOpen n

/-- Whether a benchmark run is in progress (R516, R523). -/
def State.benchOn (s : State) : Bool := s.dev.boot = .benchmark || s.dev.safeRun.isSome
/-- The length of the run so far, in whole ms (R525). -/
def State.benchMs (s : State) : State := s.put Su.BM_MS ((s.tb - s.dev.bmAt) / usTicks 1000)
/-- A failure of one channel (R519). -/
def State.benchFail (s : State) (n : Ch) (res cause : Nat) : State := (s.put (Su.BM_RES n) res).retire n cause
/-- B6 and B7 of a channel that has held its balance (R516): leakage, and IDLE. -/
def State.benchLast (s : State) (n : Ch) : State :=
  if s.chSt n ≠ .off then s
  else if !(s.dev.tests[(n : Nat)]?).all (fun t => t.leakOk) then s.benchFail n 5 0xD
  else (s.put (Su.BM_RES n) 0).setCh n .idle
/-- B5 lasts 5 ms from the end of precharge, B6 15 ms and B7 5 ms (R516). -/
def State.inB5 (s : State) (n : Ch) : Bool := (s.ch[n]).drive.prechgAt.any (fun t => decide (s.tb ≤ t + usTicks 5000))
def State.benchDue (s : State) (n : Ch) : Bool :=
  s.benchOn && s.chSt n = .off && s.has (Lv.PRECHG n) && s.linkUp n && (s.ch[n]).drive.prechgAt.any (fun t => decide (t + usTicks 25000 ≤ s.tb))
def State.benchSettle (n : Ch) (s : State) : State := if s.benchDue n then s.benchLast n else s

/-- A class S cause (R520, R522): its SAFE_COND bit stands; a first cause starts the entry, a further one sends its own
EMCY (R326: once, whichever channel saw it). A benchmark run in progress ends at once, with the outcomes reached (R519). -/
def State.enterSafe (s0 : State) (bitNo code reason : Nat) : State :=
  let s := (if s0.benchOn then (s0.forCh State.benchSettle).benchMs else s0).retireUndo
  let s1 := (s.put Su.SAFE_COND (s.get Su.SAFE_COND ||| 2 ^ bitNo)).modDev (fun d => { d with safeAt := some (cycleOf s.tb) })
  if (s1.dev.safe ∧ s1.dev.safeRun.isNone) ∨ s1.dev.safeEntry.isSome then (s1.condOn code 0xFF).emcyMsg code 0xFF 0
  else
    let owed := s1.dev.safeRun
    let asked := [s1.dev.standbyWait, s1.dev.waking].filterMap (fun (x : Option (Option Port)) => x.getD none)
    let s2 := s1.modDev (fun d => { d with safeEntry := some (code, bitNo), safeRun := none,
                                           boot := if d.boot = .benchmark then .up else d.boot, waking := none,
                                           standbyWait := none, hostParkDue := false })
    let s2 := if owed.isSome then s2.put Su.SAFE_CAUSE code else s2
    let s3 := match owed with | some (some p) => s2.answer p 0x2000 8 abFail | _ => s2
    let s3 := asked.foldl (fun (t : State) (p : Port) => t.answer p 0x2000 3 abState) s3
    (((s3.forCh (fun n t => (t.safeCh reason n).epochLose n)).tokenCheck).safeFinish)

/-- The last line decided, or 0 (LAST_LINE, R323). -/
def State.lastLine (s : State) (n : Ch) : Nat := s.ch[n].lastLine.getD 0
/-- The line whose waveform still runs: the last that fired, if none has cut it short. -/
def State.lineRuns (s : State) (n : Ch) : Option Nat :=
  (s.ch[n]).trav.lastFiredLine.filter (fun f => decide (s.tb < s.railsEnd n) &&
    (s.ch[n]).lines.any (fun l => l.no = f && l.decided && l.runs && !l.cut))
/-- The line in progress (R202): the one whose waveform runs, else the last line decided. -/
def State.lineInProgress (s : State) (n : Ch) : Nat := (s.lineRuns n).getD (s.lastLine n)
/-- The line in progress is dropped: it runs no further sub-pulse. -/
def State.dropInProgress (s : State) (n : Ch) : State :=
  s.modCh n (fun c => { c with lines := c.lines.map (fun l => if l.decided then { l with runs := false } else l) })

/-- A STOP (R118, R320): RUN moves to STOPPING; in READMITTING the channel is IDLE at once, and `readmitK` stays until its
precharge and training are done; elsewhere nothing changes. -/
def State.stopCh (s : State) (n : Ch) : State :=
  match s.chSt n with
  | .run => (s.travStop n).setCh n .stopping
  | .readmitting => (s.dropUndecided n).setCh n .idle
  | _ => s

end Sys2Proof.Machine
end

