-- ==== Sys2Proof/Machine/Traverse.lean ====
section
/-! DEFINITION. The traverse and the fire governor (chapter 3): the line grid, starting it, placement by prediction and
edge-locked, SSI frames, scanning passes, epoch re-basing, the governor's bookkeeping, and the register block. -/
namespace Sys2Proof.Machine

/-! ### The grid (R96, R111, R113) -/

/-- The grid that governs a line: `line0` lies at the anchor plus the offset, on grid index `j0` of a scanning pass. -/
structure Grid where
  anchor : Int
  ofs : Nat
  pitch : Nat
  rev : Int
  line0 : Nat
  j0 : Int
deriving DecidableEq, Repr

def State.line0 (s : State) (n : Ch) : Nat := s.getPair (Tr.LINE0_LO n) (Tr.LINE0_HI n)
/-- ChainageOffset as one 32.16 number (R120). -/
def State.ofsOf (s : State) (n : Ch) : Nat := s.get (Tr.OFS_INT n) * 65536 + s.get (Tr.OFS_FRAC n)
/-- The line that passes are counted from: LINE0 at START, also after a commit has re-based LINE0 (R111, R155). -/
def State.passBase (s : State) (n : Ch) : Nat :=
  match (s.ch[n]).trav.runOf with
  | some (l, b) => if l = s.line0 n then b else s.line0 n
  | none => s.line0 n
/-- Pass and index in the pass of line k (R111). -/
def State.passOf (s : State) (n : Ch) (k : Nat) : Nat × Nat :=
  let i := k - s.passBase n
  let pl := s.get (Tr.PASS_LINES n)
  (i / pl, i % pl)
/-- Whether line k is reached moving backward (R96, R111). -/
def State.passBack (s : State) (n : Ch) (k : Nat) : Bool :=
  match s.get (Tr.MODE n) with
  | 0 => false
  | 1 => true
  | _ => ((s.passOf n k).1 % 2 = 1) != s.has (Tr.FIRST_BWD n)
/-- The grid index of line k in its pass (R111). -/
def State.gridIndex (s : State) (n : Ch) (k : Nat) : Int :=
  if s.passBack n k then (s.get (Tr.PASS_LINES n) : Int) - 1 - (s.passOf n k).2 else (s.passOf n k).2
/-- The grid of line k: that of the last commit whose first line is not above k, else the registers' (R113). A commit inside a
run of passes puts its position at the grid index of its first line (log entry 36). -/
def State.gridAt (s : State) (n : Ch) (k : Nat) : Grid :=
  match ((s.ch[n]).trav.rebases.filter (fun r => r.kc ≤ k)).getLast? with
  | some r => ⟨r.c.toInt, r.ofs, r.pitch, sext 32 r.rev, r.kc, s.gridIndex n r.kc⟩
  | none => ⟨(BitVec.ofNat 48 (s.getPair (Tr.ANCHOR_LO n) (Tr.ANCHOR_HI n))).toInt, s.ofsOf n, s.get (Tr.PITCH n),
      sext 32 (s.get (Tr.REV_SHIFT n)), s.line0 n, if s.passBase n = s.line0 n then 0 else s.gridIndex n (s.line0 n)⟩
/-- X_k in 1/65,536 edges (R96, R111). -/
def State.lineX (s : State) (n : Ch) (k : Nat) : Int :=
  let g := s.gridAt n k
  if s.get (Tr.MODE n) = 2 then
    g.anchor * 65536 + g.ofs + (s.gridIndex n k - g.j0) * g.pitch + (if s.passBack n k then g.rev else 0)
  else
    let d : Int := g.ofs + ((k : Int) - g.line0) * g.pitch
    g.anchor * 65536 + (if s.get (Tr.MODE n) = 1 then -d else d)
/-- How far X_k lies ahead of a position in the pass direction, in 1/65,536 edges (R62, R96). -/
def State.lineAhead (s : State) (n : Ch) (k : Nat) (p : Pos) : Int :=
  let d := gridDiff (s.lineX n k - p.toInt * 65536)
  if s.passBack n k then -d else d
/-- The position of the unit the channel reads. -/
def State.chPos (s : State) (n : Ch) : Pos := (s.cu[s.chCu n]).pos
/-- X_k lies ahead of the present position, not at it (R101). -/
def State.startAhead (s : State) (n : Ch) (k : Nat) : Bool := s.lineAhead n k (s.chPos n) > 0

/-! ### Decisions that drop a line -/

/-- A commit's re-basing reaches the registers once its first line is next to decide and past its boundary (R113). -/
def State.rebaseSettle (s : State) (n : Ch) : State :=
  match (s.ch[n]).trav.rebases with
  | r :: rest =>
    if r.bound ∧ r.kc ≤ (s.ch[n]).trav.next then
      let s1 := (((s.putPair (Tr.ANCHOR_LO n) (Tr.ANCHOR_HI n) r.c.toNat).putPair (Tr.LINE0_LO n) (Tr.LINE0_HI n) r.kc).put
        (Tr.PITCH n) r.pitch).put (Tr.REV_SHIFT n) r.rev
      ((s1.put (Tr.OFS_INT n) (r.ofs / 65536)).put (Tr.OFS_FRAC n) r.ofs).modTrav n (fun t => { t with
        rebases := rest, runOf := some (r.kc, s.passBase n) })
    else s
  | [] => s

/-- LMATCH as a decision of this cycle compares it: a write counts from the next cycle on (R117). -/
def State.lmatch (s : State) (n : Ch) : Nat :=
  if (s.ch[n]).trav.lmAt = cycleOf s.tb then (s.ch[n]).trav.lmOld else s.getPair (Tr.LMATCH_LO n) (Tr.LMATCH_HI n)
/-- What every decision of line k does, whatever its outcome: LMATCH's pulse and event record (R117, R460), the messages
its boundary left, LAST_LINE, the next line, the wait at the end of a pass (R111), and the note for a line decided before
its boundary (R141, R142). -/
def State.decideMark (s : State) (n : Ch) (k : Nat) (fires : Bool) : State :=
  let s0 := match s.findLine n k with | some l => s.lineMsgs n k l.msgs | none => s
  let s1 := if s0.lmatch n = k then (s0.pulse (0x21 + n)).record n 1 k s0.recMapped else s0
  let s2 := s1.modCh n (fun c => { c with
    lastLine := some k
    lines := c.lines.map (fun l => if l.no = k then { l with msgs := [] } else l)
    trav := { c.trav with
      next := k + 1
      lastX := s1.lineX n k
      sched := c.trav.sched.filter (fun e => k < e.line)
      early := if s.pastBoundary n k then c.trav.early else c.trav.early ++ [(k, fires)] } })
  let s3 := s2.rebaseSettle n
  let wait : Bool := s3.get (Tr.MODE n) = 2 && (s3.passOf n (k + 1)).2 = 0 && (s3.ch[n]).trav.st = TravState.running
  if wait then s3.modTrav n (fun t => { t with st := .waitRev }) else s3

/-- A line with a sense nozzle that does not run its sub-pulses takes no capture (R258). -/
def State.senseLost (s : State) (n : Ch) (l : Option Line) : State :=
  if l.any (fun x => x.sense.isSome) then s.flagBump (Nh.LOST n) (Nh.LOST_CNT n) else s
/-- The far end holds frames of the line that no LATCH has named. -/
def Line.atFarEnd (l : Line) : Bool := l.latched.isNone && l.frames.any (fun f => decide (0 < f.sent))
/-- A dropped line's data is discarded and its frames are never sent again (R115, R239); the far end keeps what it holds of it until
the next LATCH (R227, R238). -/
def State.forgetLine (s : State) (n : Ch) (k : Nat) : State :=
  s.modCh n (fun c => { c with
    lines := c.lines.filter (fun x => x.no ≠ k)
    link := { c.link with
      tx := c.link.tx.filter (fun t => t.line ≠ some k)
      kept := c.link.kept ++ (c.lines.filter (fun x => x.no = k && x.atFarEnd)).map (fun x => x.no) } })
/-- A decision that drops line k (R98). -/
def State.dropPlain (s : State) (n : Ch) (k : Nat) : State :=
  ((s.decideMark n k false).senseLost n (s.findLine n k)).forgetLine n k
/-- A decision that drops line k with an EMCY code. -/
def State.dropLine (s : State) (n : Ch) (k : Nat) (code : Nat) : State := (s.dropPlain n k).emcyMsg code n k
/-- A line dropped as GAP (R108, R109, R113). -/
def State.gapDrop (s : State) (n : Ch) (k : Nat) : State := (s.flagBump (Tr.GAP n) (Tr.GAP_CNT n)).dropLine n k 0xFF12

/-- Drops as GAP the next lines while they lie behind a position: at it too when `atToo` (R109, R113). -/
def State.gapSweep : Nat → Bool → Ch → State → State
  | 0, _, _, s => s
  | f + 1, atToo, n, s =>
    let k := (s.ch[n]).trav.next
    let d := s.lineAhead n k (s.chPos n)
    if (s.ch[n]).trav.st = .running ∧ (d < 0 ∨ (atToo ∧ d = 0)) then State.gapSweep f atToo n (s.gapDrop n k) else s
/-- How many lines of at least one edge each can lie within a distance (R97). -/
def lineFuel (d : Int) : Nat := d.toNat / 65536 + 2
/-- The lines of committed grids that already lie behind the position, once they are next and the traverse runs (R113); while the
unit is lost no line is decided, so they wait (R109). -/
def State.gapRebase (s : State) (n : Ch) : State :=
  let k := (s.ch[n]).trav.next
  if (s.ch[n]).trav.st = .running ∧ !(s.cu[s.chCu n]).ssiLost ∧ (s.ch[n]).trav.gapFrom.any (fun k0 => decide (k0 ≤ k)) then
    (State.gapSweep (lineFuel (-(s.lineAhead n k (s.chPos n)))) false n s).modTrav n (fun t => { t with
      gapFrom := t.gapFrom.filter (fun k0 => decide (k < k0)) })
  else s

/-! ### Scheduling (R103 to R109) -/

/-- An edge or frame as the traverses receive it: position after it, direction, timestamp, period, the end of the cycle its
schedule is ready in, and for SSI the update's tick and 2 × FRAME_US in ticks. -/
structure EdgeRec where
  p : Pos
  back : Bool
  t : Nat
  period : Option Nat
  ready : Nat
  ssi : Option (Nat × Nat)
  regained : Bool
deriving DecidableEq, Repr

/-- TRIM of line k: the one its boundary fixed, else the one in effect (R106). -/
def State.trimOf (s : State) (n : Ch) (k : Nat) : Int :=
  sext 16 (match s.findLine n k with | some l => l.trim | none => s.eff (Tr.TRIM n))
/-- The decision tick of a schedule (R103, R105, R107). -/
def State.schedTick (s : State) (n : Ch) (e : Sched) : Nat :=
  match e.kind with
  | .pred => ((e.tick : Int) + s.trimOf n e.line - s.get (Tr.LAT_COMP n)).toNat
  | .elock | .gap => ((e.tick : Int) + s.trimOf n e.line).toNat
  | .catchup => e.tick
/-- ELOCK_BASE of the unit the channel reads (R107). -/
def State.elockBase (s : State) (n : Ch) : Nat := (s.get (Cu.FILT (s.chCu n)) + 8) * 16 + 512
def State.schedOf (s : State) (n : Ch) (k : Nat) : Option Sched := (s.ch[n]).trav.sched.find? (fun e => e.line = k)
/-- A line's schedule set, in line order. -/
def schedSet (l : List Sched) (e : Sched) : List Sched :=
  l.filter (fun x => x.line < e.line) ++ e :: l.filter (fun x => e.line < x.line)
def State.setSched (s : State) (n : Ch) (e : Sched) : State := s.modTrav n (fun t => { t with sched := schedSet t.sched e })
/-- Standing schedules not due by a tick are withdrawn (R104): all of them at an edge against the pass direction; at a record
without a valid period those that a prediction made, for an edge-locked line is decided from the first edge that passed it
(R107). DESIGN CHOICE (log entry 76): a schedule due by the end of the cycle in which the edge's own schedule is ready stands. -/
def State.withdraw (s : State) (n : Ch) (due : Nat) (all : Bool) : State :=
  let keep := (s.ch[n]).trav.sched.filter (fun e =>
    decide (s.schedTick n e ≤ due) || (!all && (decide (e.kind = .elock) || decide (e.kind = .gap))))
  s.modTrav n (fun t => { t with sched := keep })
/-- Line k belongs to the pass of the line that is next to decide (R111). -/
def State.thisPass (s : State) (n : Ch) (k : Nat) : Bool :=
  s.get (Tr.MODE n) ≠ 2 || (s.passOf n k).1 = (s.passOf n (s.ch[n]).trav.next).1

/-- Prediction from a record with a valid period, over the lines of the pass from k on (R103 to R105, R108). A line the position
has passed keeps a schedule whose predicted passing was not later than the edge; where the medium outran the prediction it is
decided at once (R105). -/
def State.predict : Nat → Ch → EdgeRec → Nat → Nat → State → State
  | 0, _, _, _, _, s => s
  | fuel + 1, n, r, per, k, s =>
    let f := s.lineAhead n k r.p
    let fT := (f * per / 65536).toNat
    let inReach := match r.ssi with
      | none => decide (f < 131072)
      | some (_, lim) => decide (f < 0) || decide (fT < lim)
    if !inReach || !s.thisPass n k then s
    else
      let soon := r.ready + 16
      let old := s.schedOf n k
      let e : Sched := if f < 0 then ⟨k, soon, .catchup⟩ else ⟨k, r.t + fT, .pred⟩
      let s1 := match old with
        | none => if f < 0 ∨ s.schedTick n e < soon then s.setSched n ⟨k, soon, .catchup⟩ else s.setSched n e
        | some o =>
          if o.kind ≠ .pred ∨ s.schedTick n o ≤ r.ready then s
          else if f < 0 then (if r.t < o.tick ∧ soon < s.schedTick n o then s.setSched n e else s)
          else if soon ≤ s.schedTick n e then s.setSched n e else s
      State.predict fuel n r per (k + 1) s1
/-- Edge-locked: the lines at or behind the position, from k on (R107); of one SSI frame the first is decided and the
others are GAP (R108). -/
def State.lockLines : Nat → Ch → EdgeRec → Nat → Bool → State → State
  | 0, _, _, _, _, s => s
  | fuel + 1, n, r, k, first, s =>
    if s.lineAhead n k r.p > 0 ∨ !s.thisPass n k then s
    else
      let s1 := if (s.schedOf n k).isSome then s else
        match r.ssi with
        | none => s.setSched n ⟨k, r.t + s.elockBase n, .elock⟩
        | some (u, _) => s.setSched n ⟨k, u + 512, if first then .elock else .gap⟩
      State.lockLines fuel n r (k + 1) false s1

/-- The lines of an unfinished pass dropped by a cut (R112). -/
def State.cutLines : Nat → Nat → Ch → State → State
  | 0, _, _, s => s
  | f + 1, p, n, s =>
    let k := (s.ch[n]).trav.next
    if (s.passOf n k).1 = p then State.cutLines f p n ((s.bump (Tr.CUT_CNT n)).dropLine n k 0xFF12) else s
/-- Motion more than one PITCH behind the last decided line of an unfinished pass (R112), where that line lay when it was decided: a
pass of which no line was decided, as after a readmission inside it, has none. -/
def State.passIsCut (s : State) (n : Ch) (r : EdgeRec) : Bool :=
  let k := (s.ch[n]).trav.next
  let d := gridDiff ((s.ch[n]).trav.lastX - r.p.toInt * 65536)
  s.get (Tr.MODE n) = 2 && (s.passOf n k).2 ≠ 0 && (s.ch[n]).lastLine = some (k - 1) &&
    decide ((if s.passBack n k then -d else d) > (s.gridAt n k).pitch)

/-- A record taken up in the direction of the line to decide. -/
def State.travPlace (s0 : State) (n : Ch) (r : EdgeRec) : State :=
  let s := s0.gapRebase n
  let k := (s.ch[n]).trav.next
  match r.period with
  | some per =>
    let f := s.lineAhead n k r.p
    let reach : Int := match r.ssi with | none => 131072 | some (_, lim) => (lim : Int) * 65536 / (max per 1) + 65536
    State.predict (lineFuel (reach - f)) n r per k s
  | none => State.lockLines (lineFuel (-(s.lineAhead n k r.p))) n r k true (s.withdraw n r.ready false)

/-- The first accepted frame after a loss drops as GAP the lines it has passed (R109). -/
def State.travRegain (s : State) (n : Ch) (r : EdgeRec) : State :=
  if r.regained then State.gapSweep (lineFuel (-(s.lineAhead n (s.ch[n]).trav.next r.p))) true n s else s
/-- A record reaches the traverse of channel n (R103 to R112). -/
def State.travRecord (s : State) (n : Ch) (r : EdgeRec) : State :=
  match (s.ch[n]).trav.st with
  | .stopped | .waitStart => s
  | .waitRev =>
    if s.passBack n (s.ch[n]).trav.next = r.back then
      ((s.modTrav n (fun t => { t with st := .running })).travRegain n r).travPlace n r
    else s
  | .running =>
    let s1 := s.travRegain n r
    let k := (s1.ch[n]).trav.next
    if s1.passBack n k = r.back then s1.travPlace n r
    else
      let s2 := s1.withdraw n r.ready true
      if s2.passIsCut n r then
        let s3 := State.cutLines (s2.get (Tr.PASS_LINES n)) (s2.passOf n k).1 n (s2.flag (Tr.PASS_CUT n))
        (s3.modTrav n (fun t => { t with st := .running })).travPlace n r
      else s2
/-- A record reaches every traverse that reads the unit. -/
def State.travRecords (s : State) (m : Cun) (r : EdgeRec) : State :=
  s.forCh (fun n t => if t.chCu n = m then t.travRecord n r else t)

/-! ### Starting (R99 to R102) -/

/-- The start is late (R101): START_LATE, then the STOP sequence at once. -/
def State.startLate (s : State) (n : Ch) : State :=
  (((((s.flag (Tr.START_LATE n)).travStop n).setCh n .stopping).release n 2).dropUndecided n).setCh n .idle
/-- START_ST hits while the channel waits (R99 to R102). DESIGN CHOICE (log entry 76): LINE0 on the target is due at HITTIME +
ELOCK_BASE on an SSI unit too, as R102 has it, and not 512 ticks after the update (R108). -/
def State.travHit (s : State) (n : Ch) (h : Hit) : State :=
  if (s.ch[n]).trav.st ≠ .waitStart ∨ s.get (Tr.START_ST n) ≠ h.stk ∨ s.stkCu h.stk ≠ s.chCu n then s
  else
    let s1 := s.putPair (Tr.ANCHOR_LO n) (Tr.ANCHOR_HI n) h.tgt.toNat
    let k := (s1.ch[n]).trav.next
    let exact := gridDiff (s1.lineX n k - h.tgt.toInt * 65536) = 0
    if !exact && !s1.startAhead n k then s1.startLate n
    else
      let s2 := s1.modTrav n (fun t => { t with st := .running })
      if exact then s2.setSched n ⟨k, h.t + s2.elockBase n, .elock⟩ else s2
/-- The stake START_ST does not read the unit named in CU (R100). -/
def State.startStakeBad (s : State) (n : Ch) : Bool :=
  s.has (Tr.START_SRC n) && s.get (St.CU (s.get (Tr.START_ST n))) ≠ s.get (Tr.CU n)

/-! ### The governor (R114 to R116) -/

/-- The interval since the last fired line is below MIN_PER × 20/19 (R116). -/
def State.warnClose (s : State) (n : Ch) (tick : Nat) : Bool :=
  match (s.ch[n]).trav.lastFired with
  | some t => decide ((tick - t) * 19 < s.get (Tr.MIN_PER n) * 20)
  | none => false
/-- A fired line's interval, warning and time (R115, R116). -/
def State.travFired (s : State) (n : Ch) (k tick : Nat) : State :=
  let w := s.warnClose n tick
  let s1 := match (s.ch[n]).trav.lastFired with
    | some t => s.put (Tr.LAST_INT n) (min (tick - t) 0xFFFFFFFF)
    | none => s
  let s2 := if w then (s1.flag (Tr.SPD_WARN n)).emcyMsg 0xFF11 n k else s1
  s2.modTrav n (fun t => { t with lastFired := some tick, lastFiredLine := some k, warnNow := w })
/-- An OVERSPEED drop (R115, R116). -/
def State.overspeed (s : State) (n : Ch) (k : Nat) : State :=
  let s1 := (((s.flagBump (Tr.OVERSPEED n) (Tr.OVS_CNT n)).flag (Tr.SPD_WARN n)).pulse (0x29 + n)).dropLine n k 0xFF10
  s1.emcyMsg 0xFF11 n k

/-! ### Register block (R118, R119) -/

/-- The live words: NEXT is latched by its own read; STATE, PASS_DIR and WARN_NOW are the traverse's, and ELOCK reads 1 while the
period of the unit is not valid (R107). DESIGN CHOICE (log entry 76): PASS_DIR is the direction of the pass of the next line, in
WAIT_REV and while STOPPED too. -/
def State.travLive (s : State) (n : Ch) : State :=
  let t := (s.ch[n]).trav
  let code := match t.st with | .stopped => 0 | .waitStart => 1 | .running => 2 | .waitRev => 3
  (((s.put (Tr.STATE n) code).putB (Tr.PASS_DIR n) (s.passBack n t.next)).putB (Tr.ELOCK n) (s.period (s.chCu n)).isNone).putB
    (Tr.WARN_NOW n) t.warnNow
/-- The fields refused in RUN (R119). -/
def travIdle (n : Ch) : List Fld :=
  [Tr.START_ST n, Tr.START_SRC n, Tr.FIRST_BWD n, Tr.MODE n, Tr.CU n, Tr.PITCH n, Tr.OFS_INT n, Tr.OFS_FRAC n,
   Tr.ANCHOR_LO n, Tr.ANCHOR_HI n, Tr.LINE0_LO n, Tr.LINE0_HI n, Tr.PASS_LINES n, Tr.REV_SHIFT n, Tr.MIN_PER n]
/-- The refusal of a word by value and by state; MODE's geometry check (R126) and START are the caller's. -/
def travJudge (n : Ch) (addr data : Nat) (s : State) : Option Nat :=
  let inw := fun f : Fld => f.addr = addr
  let v := fun f : Fld => bits data f.msb f.lsb
  let tr := sext 16 (v (Tr.TRIM n))
  firstBad [
    (inw (Tr.START_SRC n) && v (Tr.START_SRC n) > 1, abRange),
    (inw (Tr.MODE n) && v (Tr.MODE n) = 3, abRange),
    (inw (Tr.PITCH n) && v (Tr.PITCH n) < 0x10000, abRange),
    (inw (Tr.PASS_LINES n) && v (Tr.PASS_LINES n) = 0, abRange),
    (inw (Tr.TRIM n) && (tr < -512 || tr > 4095), abRange),
    (inw (Tr.MIN_PER n) && v (Tr.MIN_PER n) < 80000, abRange),
    (inw (Tr.START n) && bit data 0 && bit data 1, abCheck),
    (s.inRun n && s.anyChange (travIdle n) addr data, abState)]

end Sys2Proof.Machine
end

