-- ==== Sys2Proof/Machine/LineData.lean ====
section
/-! DEFINITION. Line data (chapter 4): image lines, row geometry and its checks, the staging queue, the offset store, the
line-memory errors, and the register block. -/
namespace Sys2Proof.Machine

/-! ### Geometry (R124 to R128) -/

/-- The held ROW_CFG values as (COUNT, DELAY). -/
def State.rowsHeld (s : State) (n : Ch) : List (Nat × Nat) :=
  (List.range 8).map (fun r => (s.get (Ld.COUNT n r), s.get (Ld.DELAY n r)))
def rowsUsed (rows : List (Nat × Nat)) : List (Nat × Nat) := rows.filter (fun r => 0 < r.1)
def rowsNozzles (rows : List (Nat × Nat)) : Nat := rows.foldl (fun (a : Nat) (r : Nat × Nat) => a + r.1) 0
/-- D_max (R127). -/
def rowsDmax (rows : List (Nat × Nat)) : Nat := (rowsUsed rows).foldl (fun (a : Nat) (r : Nat × Nat) => max a r.2) 0
/-- H_r (R128). -/
def rowH (scan : Bool) (dmax d : Nat) : Nat := if scan then max d (dmax - d) else d
/-- The budget in nozzle-lines (R128). -/
def rowsBudget (scan : Bool) (rows : List (Nat × Nat)) : Nat :=
  (rowsUsed rows).foldl (fun (a : Nat) (r : Nat × Nat) => a + r.1 * (rowH scan (rowsDmax rows) r.2 + 1)) 0
/-- A row in use follows a row that is not (R125, check 2). -/
def rowsGap : List (Nat × Nat) → Bool
  | [] => false
  | r :: rest => if r.1 = 0 then rest.any (fun x => 0 < x.1) else rowsGap rest
/-- Checks 4 to 6 of R125 for a MODE, and then all of 1 to 6: the first that fails, or 0. -/
def geomModeErr (mode pl : Nat) (rows : List (Nat × Nat)) : Nat :=
  if rowsBudget (decide (mode = 2)) rows > 5242880 then 4
  else if mode = 2 ∧ (rows.headD (0, 0)).2 ≠ 0 then 5
  else if mode = 2 ∧ pl ≤ rowsDmax rows then 6 else 0
def geomErr (mode pl : Nat) (rows : List (Nat × Nat)) : Nat :=
  if rows.all (fun r => r.1 = 0) then 1
  else if rowsGap rows then 2
  else if rowsNozzles rows > 5120 then 3
  else geomModeErr mode pl rows

/-- The history is blank from line k on (R129, R164). -/
def State.blankHistory (s : State) (n : Ch) (k : Nat) : State :=
  s.modCh n (fun c => { c with store := { c.store with hist0 := k, blank := true } })
/-- What every GEOM_APPLY reports, whether it succeeds or not: the budgets of the held geometry, and GEOM_ERR (R125, R128). -/
def State.geomReport (s : State) (n : Ch) (e : Nat) : State :=
  ((s.put (Ld.BUDGET_SP n) (min (rowsBudget false (s.rowsHeld n)) 0x7FFFFF)).put (Ld.BUDGET_SCAN n)
    (min (rowsBudget true (s.rowsHeld n)) 0x7FFFFF)).put (Ld.GEOM_ERR n) e
/-- GEOM_APPLY outside RUN (R125): the geometry when no check fails. -/
def State.geomApply (s : State) (n : Ch) : State :=
  let rows := s.rowsHeld n
  let e := geomErr (s.get (Tr.MODE n)) (s.get (Tr.PASS_LINES n)) rows
  let s1 := s.geomReport n e
  if e ≠ 0 then s1
  else
    let u := rowsUsed rows
    ((s1.put (Ld.NROWS n) u.length).put (Ld.NOZZLES n) (rowsNozzles u)).modCh n (fun c => { c with
      store := { c.store with rows := u, img := [], blank := true } })
/-- Nozzles in effect (R122). -/
def State.nozzles (s : State) (n : Ch) : Nat := s.get (Ld.NOZZLES n)
/-- The row of a nozzle and its place in it (R23). -/
def rowAt : List (Nat × Nat) → Nat → Nat → Nat × Nat
  | [], r, q => (r, q)
  | (c, _) :: rest, r, q => if q < c then (r, q) else rowAt rest (r + 1) (q - c)
/-- E_r at fire line k (R127). -/
def State.rowE (s : State) (n : Ch) (k r : Nat) : Nat :=
  let rows := (s.ch[n]).store.rows
  let d := (rows.getD r (0, 0)).2
  if s.get (Tr.MODE n) = 2 ∧ s.passBack n k then rowsDmax rows - d else d
def State.rowHist (s : State) (n : Ch) (r : Nat) : Nat :=
  let rows := (s.ch[n]).store.rows
  rowH (decide (s.get (Tr.MODE n) = 2)) (rowsDmax rows) (rows.getD r (0, 0)).2

/-! ### Staging queue (R134 to R138) -/

def lineBytes : Nat := 1280
def queueBytes : Nat := 261120
/-- Free space offered to the DMA engine (R134); none while the domain is parked (R35), nor before the channel enters IDLE (R515). -/
def State.queueFree (s : State) (n : Ch) : Nat :=
  if s.chParked n ∨ s.chSt n = .off ∨ (s.ch[n]).cold then 0
  else queueBytes - (lineBytes * (s.ch[n]).q.lines.length + (s.ch[n]).q.part.length + (s.ch[n]).q.word.length)
/-- Complete lines cut off the front of a byte string, each tagged by Q_TAG (R134, R135). -/
def cutQueue : Nat → Nat → List Byte → Nat → List QLine × List Byte × Nat
  | 0, _, bs, tag => ([], bs, tag)
  | f + 1, cyc, bs, tag =>
    if bs.length < lineBytes then ([], bs, tag)
    else
      let r := cutQueue f cyc (bs.drop lineBytes) ((tag + 1) % 2 ^ 48)
      (⟨tag, bs.take lineBytes, cyc⟩ :: r.1, r.2.1, r.2.2)
/-- Bytes written to the queue in the present cycle, which takes them in whole 64-bit words (R123): those of a word that a burst left
incomplete wait for the next; BYTES_IN counts them by R392. The queue of a parked domain takes nothing (R34). -/
def State.queuePush (s : State) (n : Ch) (bs : List Byte) : State :=
  if s.chParked n then s
  else s.modCh n (fun c =>
    let w := c.q.word ++ bs
    let k := w.length / 8 * 8
    let r := cutQueue (k / lineBytes + 1) (cycleOf s.tb) (c.q.part ++ w.take k) c.q.tag
    { c with q := { lines := c.q.lines ++ r.1, part := r.2.1, tag := r.2.2, word := w.drop k } })
def State.queueFlush (s : State) (n : Ch) : State :=
  s.modCh n (fun c => { c with q := { c.q with lines := [], part := [], word := [] } })
/-- The queue is empty, partial line included (R135). -/
def State.queueEmpty (s : State) (n : Ch) : Bool := (s.ch[n]).q.lines.isEmpty && (s.ch[n]).q.part.isEmpty && (s.ch[n]).q.word.isEmpty
def State.setQTag (s : State) (n : Ch) (t : Nat) : State := s.modCh n (fun c => { c with q := { c.q with tag := t % 2 ^ 48 } })

/-- The code of nozzle i in an image line (R121). -/
def imageCode (bs : List Byte) (i : Nat) : Nat := bits (bs.getD (i / 4) 0).toNat (2 * (i % 4) + 1) (2 * (i % 4))
/-- The codes of the nozzles in effect (R122). -/
def imageCodes (noz : Nat) (bs : List Byte) : List Nat := (List.range noz).map (imageCode bs)

/-- Stale lines at the head, present and tagged below k (R137, step 1), and how many of them count: a tag of a strip line
does not (R271). -/
def dropStale (free : Nat → Bool) : List QLine → Nat → Nat → List QLine × Nat
  | [], _, _ => ([], 0)
  | l :: r, k, cyc =>
    if l.doneAt < cyc ∧ l.tag < k then
      let x := dropStale free r k cyc
      (x.1, if free l.tag then x.2 else x.2 + 1)
    else (l :: r, 0)
/-- A tag that a strip of the channel prints in place of the host's line. -/
def State.stripTag (s : State) (n : Ch) (t : Nat) : Bool :=
  let h := (s.ch[n]).health
  (h.strip.toList ++ h.printed).any (fun x => decide (x.s0 ≤ t ∧ t < x.s0 + x.len))
/-- The queue at the boundary of line k (R136, R137): stale lines discarded, and the head line when it is tagged k. -/
def State.queueTake (s : State) (n : Ch) (k : Nat) : State × Option (List Byte) :=
  let d := dropStale (s.stripTag n) (s.ch[n]).q.lines k (cycleOf s.tb)
  let s1 := if d.2 = 0 then s else (s.flag (Ld.STALE n)).bumpBy (Ld.STALE_CNT n) d.2
  match d.1 with
  | l :: r =>
    if l.doneAt < cycleOf s.tb ∧ l.tag = k then (s1.modCh n (fun c => { c with q := { c.q with lines := r } }), some l.data)
    else (s1.modCh n (fun c => { c with q := { c.q with lines := d.1 } }), none)
  | [] => (s1.modCh n (fun c => { c with q := { c.q with lines := [] } }), none)

/-! ### Offset store (R127, R129, R145 to R147) -/

/-- An image line entered into the store; lines no row reaches any more are forgotten. -/
def State.storeImage (s : State) (n : Ch) (im : Image) : State :=
  s.modCh n (fun c => { c with store := { c.store with
    img := im :: c.store.img.filter (fun x => im.no ≤ x.no + rowsDmax c.store.rows) } })
/-- The code that fire line k reads for a nozzle with delay e, and whether it comes from a strip line (R127, R129, R272). -/
def storeRead (st : Store) (k e i : Nat) : Nat × Bool :=
  if k < e + st.hist0 then (0, false)
  else match st.img.find? (fun x => x.no = k - e) with
    | some x => (x.codes.getD i 0, x.strip)
    | none => (0, false)

/-- An address enters a list of the last 8 distinct errors (R325). -/
def ueList (l : List Nat) (a : Nat) : List Nat := (a :: l.filter (· ≠ a)).take 8
/-- Corrected words of line memory met at a boundary (R146). -/
def State.lineCe (s : State) (n : Ch) : State := s.flagBump (Ld.CE n) (Ld.CE_CNT n)
/-- An uncorrectable word met at a boundary (R147); a second one at a listed word retires the channel (R324). -/
def State.lineUe (s : State) (n : Ch) (w : Nat) : State :=
  let again := decide (w ∈ (s.ch[n]).ueWords)
  let s1 := ((s.flagBump (Ld.UE n) (Ld.UE_CNT n)).put (Ld.UE_WORD n) w).modCh n (fun c =>
    { c with ueWords := ueList c.ueWords w })
  if again then s1.retire n 4 else s1

/-! ### Register block (R148, R149) -/

namespace Hid
/-- Q_TAG_LO as last written and not yet committed by Q_TAG_HI (R148). -/
def QTAG_LO (n : Nat) : Fld := ⟨0x9000_1000 + 4 * n, 31, 0, .rw, 0⟩
end Hid
/-- The live words: Q_TAG and ADMIT are latched by a read of their low words, the rest are the queue's. -/
def State.lineLive (s : State) (n : Ch) : State :=
  ((s.put (Ld.Q_LINES n) (s.ch[n]).q.lines.length).put (Ld.Q_PART n) (s.ch[n]).q.part.length).put (Ld.Q_TAG_LO n)
    (s.ch[n]).q.tag
/-- The word commits a Q_TAG that differs from the one held: its high half commits both (R148). -/
def State.qTagChange (s : State) (n : Ch) (addr data : Nat) : Bool :=
  (Ld.Q_TAG_HI n).addr = addr && s.get (Hid.QTAG_LO n) + 2 ^ 32 * (data % 65536) ≠ (s.ch[n]).q.tag
/-- The refusal of a word, in the order range, state, check (R124, R125, R135, R138, R149). -/
def lineJudge (n : Ch) (addr data : Nat) (s : State) : Option Nat :=
  let cmd := (Ld.GEOM_APPLY n).addr = addr
  firstBad [
    ((List.range 8).any (fun r => (Ld.COUNT n r).addr = addr && bits data 27 16 > 2048), abRange),
    (cmd && bits data 1 0 ≠ 0 && s.inRun n, abState),
    (s.qTagChange n addr data && (s.inRun n || !s.queueEmpty n), abState),
    (cmd && bit data 0 && geomErr (s.get (Tr.MODE n)) (s.get (Tr.PASS_LINES n)) (s.rowsHeld n) ≠ 0, abCheck)]
/-- What a refused word still reports: GEOM_ERR and the budgets (R125, R128). -/
def lineRefused (n : Ch) (addr data : Nat) (s : State) : State :=
  if (Ld.GEOM_APPLY n).addr = addr ∧ bit data 0 then
    if s.inRun n then s.geomReport n 7 else s.geomApply n
  else s
def lineApply (n : Ch) (addr data : Nat) (s : State) : State :=
  if (Ld.GEOM_APPLY n).addr = addr then
    let s1 := if bit data 1 then s.queueFlush n else s
    if bit data 0 then s1.geomApply n else s1
  else if (Ld.Q_TAG_LO n).addr = addr then s.put (Hid.QTAG_LO n) data
  else if (Ld.Q_TAG_HI n).addr = addr then s.setQTag n (s.get (Hid.QTAG_LO n) + 2 ^ 32 * (data % 65536))
  else s.writeWord (Ld.fields n) addr data (s.inRun n)

end Sys2Proof.Machine
end

