-- ==== Sys2Proof/Machine/EditStage.lean ====
section
/-! DEFINITION. The edit stage (chapter 5): the per-nozzle entry, the eight steps of R153, history, the sense nozzle (R257),
table, pattern and tile edits, and the register block. -/
namespace Sys2Proof.Machine

/-! ### The per-nozzle entry (R166) -/

namespace Ent
def STATUS (e : Nat) : Nat := bits e 63 61
def CMASK (e : Nat) : Bool := bit e 60
def SUB_EN (e : Nat) : Bool := bit e 59
def HOLD (e : Nat) : Bool := bit e 58
def SUB_IDX (e : Nat) : Nat := bits e 57 45
def SENSE_DEV (e : Nat) : Nat := bits e 44 37
def CLOSE_CNT (e : Nat) : Nat := bits e 31 24
def DMAP (e : Nat) : Nat := bits e 23 16
def HMASK (e : Nat) : Bool := bit e 15
def HIST (e : Nat) : Nat := bits e 5 0
end Ent
/-- The fields a host write sets: all but HIST and the reserved bits (R168). -/
def entHost : Nat := 0xFFFFFFE0_FFFF8000
/-- The fields the closure engine writes (R171), and those of them that HOLD protects. -/
def entClosure : Nat := 0xFBFFFFE0_FF000000
def entHeld : Nat := 0x1BFFE000_00000000
/-- A value with the bits of a mask replaced. -/
def masked (old mask val : Nat) : Nat := (old &&& (0xFFFFFFFF_FFFFFFFF ^^^ mask)) ||| (val &&& mask)
/-- An entry with a closure write in it (R171): HOLD drops the fields it protects; CLOSE_CNT counts each of CMASK and the
substitution that it changes (R286). -/
def closureMerge (old mask val : Nat) : Nat :=
  let new := masked old (if Ent.HOLD old then mask &&& (entClosure ^^^ entHeld) else mask) val
  let cnt := (if Ent.CMASK old = Ent.CMASK new then 0 else 1) +
    (if Ent.SUB_EN old = Ent.SUB_EN new ∧ (Ent.SUB_IDX old = Ent.SUB_IDX new ∨ !Ent.SUB_EN old) then 0 else 1)
  withBits new 31 24 (min 255 (Ent.CLOSE_CNT old + cnt))
def State.entry (s : State) (n : Ch) (i : Nat) : Nat := sparseGet 0 (s.ch[n]).table i
def State.setEntry (s : State) (n : Ch) (i v : Nat) : State :=
  s.modCh n (fun c => { c with table := sparsePut 0 c.table i (v % 2 ^ 64) })
/-- The history of an entry moved on by one line (R161). -/
def histStep (e : Nat) (fired : Bool) : Nat := withBits e 5 0 ((Ent.HIST e * 2 + (if fired then 1 else 0)) % 64)
/-- A table with a 0 moved into every nozzle's history (R154, R165), and with every history cleared (R164). -/
def tableShift (t : List (Nat × Nat)) : List (Nat × Nat) :=
  (t.map (fun (x : Nat × Nat) => (x.1, histStep x.2 false))).filter (fun x => x.2 ≠ 0)
def tableBlank (t : List (Nat × Nat)) : List (Nat × Nat) :=
  (t.map (fun (x : Nat × Nat) => (x.1, withBits x.2 5 0 0))).filter (fun x => x.2 ≠ 0)

/-! ### The eight steps (R153 to R165) -/

/-- Density map (R157). -/
def densityMap (e c : Nat) : Nat := if c = 0 then 0 else c ^^^ bits (Ent.DMAP e) (2 * c + 1) (2 * c)
/-- The cell of the tile for row position q of pass p and image column x passes a code (R155). -/
def State.tilePasses (s : State) (n : Ch) (q p : Nat) (x : Int) : Bool :=
  let y := (q + s.get (Ed.PM_YOFS n) + p * s.get (Ed.PM_YSTEP n)) % 64
  let col := (x % 64).toNat
  let cell := s.eff (Ed.TILE n (y * 8 + col / 8)) / 16 ^ (col % 8) % 16
  cell = p % (s.get (Ed.PM_NPASS n) + 1)
/-- The pass mask on a code of nozzle position q read with delay e at fire line k (R155, R156). -/
def State.passMask (s : State) (n : Ch) (k q e c : Nat) : Nat :=
  if s.get (Tr.MODE n) ≠ 2 then c
  else
    let pi := s.passOf n k
    let x : Int := if s.passBack n k
      then (s.get (Tr.PASS_LINES n) : Int) - 1 - rowsDmax (s.ch[n]).store.rows - pi.2 + e
      else (pi.2 : Int) - e
    if s.tilePasses n q pi.1 x then c else 0

/-- The sources of the line as (target, value), and how many were skipped (R158). -/
def State.subSources (s : State) (n : Ch) (k : Nat) : List (Nat × Nat) × Nat :=
  let rows := (s.ch[n]).store.rows
  let noz := s.nozzles n
  (s.ch[n]).table.foldl (fun (a : List (Nat × Nat) × Nat) (x : Nat × Nat) =>
    let i := x.1
    let j := Ent.SUB_IDX x.2
    if Ent.SUB_EN x.2 ∧ i < noz then
      let ri := rowAt rows 0 i
      let ej := s.rowE n k (rowAt rows 0 j).1
      if j = i ∨ noz ≤ j ∨ s.rowHist n ri.1 < ej then (a.1, a.2 + 1)
      else
        let r := storeRead (s.ch[n]).store k ej i
        if r.2 then a else (a.1 ++ [(j, densityMap x.2 (s.passMask n k ri.2 ej r.1))], a.2)
    else a) ([], 0)

/-- Backsight: the rail and the level for a history (R162, R163). -/
def State.backsight (s : State) (n : Ch) (hist v : Nat) : Bool × Nat :=
  match s.eff (Ed.BS_MODE n) with
  | 0 => (false, v)
  | 1 => (hist % 2 ^ s.eff (Ed.BS_H n) ≠ 0, v)
  | _ =>
    let adj := s.eff (Ed.LEVEL_ADJ n hist)
    (s.eff (Ed.RAIL n hist) = 1, if adj = 1 then max 1 (v - 1) else if adj = 2 then min 3 (v + 1) else v)
/-- The code map (R152). -/
def State.codeMap (s : State) (n : Ch) (v : Nat) (warm : Bool) : Nat :=
  match v, warm with
  | 1, false => s.get (Ed.MAP_SF n)
  | 2, false => s.get (Ed.MAP_MF n)
  | 3, false => s.get (Ed.MAP_LF n)
  | 1, true => s.get (Ed.MAP_SW n)
  | 2, true => s.get (Ed.MAP_MW n)
  | 3, true => s.get (Ed.MAP_LW n)
  | _, _ => 0
/-- The drive code of nozzle i at fire line k (R153, R159, R160, R272). -/
def State.driveCode (s : State) (n : Ch) (k : Nat) (srcs : List (Nat × Nat)) (i : Nat) : Nat :=
  let rq := rowAt (s.ch[n]).store.rows 0 i
  let e := s.entry n i
  let er := s.rowE n k rq.1
  let c := storeRead (s.ch[n]).store k er i
  let rowOn := bit (s.eff (Ld.ROW_EN n)) rq.1
  let v := if c.2 then (if Ent.HMASK e || !rowOn then 0 else c.1)
    else
      let c' := densityMap e (s.passMask n k rq.2 er c.1)
      let smax := srcs.foldl (fun (a : Nat) (x : Nat × Nat) => if x.1 = i then max a x.2 else a) 0
      let v4 := if 0 < smax then min 3 (max c' smax + s.eff (Ed.SUB_BUMP n)) else c'
      if Ent.HMASK e || Ent.CMASK e || !rowOn then 0 else v4
  if v = 0 then 0
  else
    let r := s.backsight n (Ent.HIST e) v
    s.codeMap n r.2 r.1
/-- The drive codes of fire line k. -/
def State.driveCodes (s : State) (n : Ch) (k : Nat) (srcs : List (Nat × Nat)) : List Nat :=
  (List.range (s.nozzles n)).map (s.driveCode n k srcs)

/-- The sense nozzle (R257): the first nozzle at or after the pointer with a drive code enabled in SNS_CODES. -/
def senseFind (codes : List Nat) (en : Nat) : Nat → Nat → Option Nat
  | 0, _ => none
  | f + 1, i =>
    let j := i % codes.length
    let d := codes.getD j 0
    if d ≠ 0 ∧ bit en (d - 1) then some j else senseFind codes en f (i + 1)
/-- Uncorrectable entries in use are written back as HMASK alone (R172). -/
def State.tableUe (s : State) (n : Ch) (i : Nat) : State :=
  let again := decide (i ∈ (s.ch[n]).ueEntries)
  let s1 := ((s.flagBump (Ed.UE n) (Ed.UE_CNT n)).put (Ed.UE_ENTRY n) i).setEntry n i 0x8000
  let s2 := s1.modCh n (fun c => { c with ueEntries := ueList c.ueEntries i, badEntries := c.badEntries.filter (· ≠ i) })
  if again then s2.retire n 5 else s2

/-- The edit stage encodes line k (R153): drive codes, histories, skipped sources, sense nozzle. -/
def State.encodeCodes (s : State) (n : Ch) (k : Nat) : State × List Nat × Option Nat :=
  let src := s.subSources n k
  let codes := s.driveCodes n k src.1
  let s1 := if src.2 = 0 then s else (s.flag (Ed.SUB_SKIP n)).bumpBy (Ed.SUB_SKIP_CNT n) src.2
  let upd := ((List.range codes.length).zip codes).map (fun (x : Nat × Nat) => (x.1, histStep (s.entry n x.1) (x.2 ≠ 0)))
  let rest := (s.ch[n]).table.filter (fun x => codes.length ≤ x.1)
  let s2 := s1.modCh n (fun c => { c with table := upd.filter (fun x => x.2 ≠ 0) ++ rest })
  let sn := senseFind codes (s.eff (Nh.SNS_CODES n)) codes.length (s.get (Nh.SWEEP n))
  (match sn with | some i => s2.put (Nh.SWEEP n) ((i + 1) % codes.length) | none => s2, codes, sn)
/-- A line in which nothing is encoded moves a 0 into every history (R154, R165). -/
def State.shiftHistory (s : State) (n : Ch) : State := s.modCh n (fun c => { c with table := tableShift c.table })
/-- The history reads as 0 at this boundary (R164). -/
def State.clearHistory (s : State) (n : Ch) : State :=
  s.modCh n (fun c => { c with table := tableBlank c.table, store := { c.store with blank := false } })

/-! ### Table, pattern and tile edits (R167 to R173) -/

namespace Hid
/-- TBL_EFF before a read latches it (R174). -/
def TEFF_LO (n : Nat) : Fld := ⟨0x9000_1100 + 8 * n, 31, 0, .ro, 0⟩
def TEFF_HI (n : Nat) : Fld := ⟨0x9000_1104 + 8 * n, 15, 0, .ro, 0⟩
end Hid
/-- An edit applied: TBL_EFF names the line, TBL_SEQ counts it (R173). -/
def State.tblDone (s : State) (n : Ch) (line : Nat) : State :=
  (s.putPair (Hid.TEFF_LO n) (Hid.TEFF_HI n) line).incr (Ed.TBL_SEQ n)
/-- The nozzle's kept observations are cleared (R282). -/
def State.forgetNozzle (s : State) (n : Ch) (i : Nat) : State :=
  s.modHealth n (fun h => { h with evid := h.evid.filter (fun e => e.noz ≠ i) })
/-- A write changed what the closure engine judges by (R282). -/
def verdictMoved (old new : Nat) : Bool :=
  Ent.STATUS old ≠ Ent.STATUS new || Ent.CMASK old ≠ Ent.CMASK new || Ent.SUB_EN old ≠ Ent.SUB_EN new || Ent.SUB_IDX old ≠ Ent.SUB_IDX new
/-- A host edit of an entry (R168, R282). -/
def State.applyEntry (s : State) (n : Ch) (i mask val line : Nat) : State :=
  let whole := mask = 0xFFFFFFFF_FFFFFFFF
  if i ∈ (s.ch[n]).badEntries ∧ !whole then s.flag (Ed.WREJ n)
  else
    let old := s.entry n i
    let new := masked old (mask &&& entHost) val
    let s1 := (s.setEntry n i new).modCh n (fun c => { c with badEntries := c.badEntries.filter (· ≠ i) })
    (if verdictMoved old new then s1.forgetNozzle n i else s1).tblDone n line
/-- A pattern or tile edit (R175, R176). -/
def State.applyPattern (s : State) (n : Ch) (h val line : Nat) : State :=
  ((s.putEff (Ed.LEVEL_ADJ n h) (bits val 2 1)).putEff (Ed.RAIL n h) (bits val 0 0)).tblDone n line
def State.applyTile (s : State) (n : Ch) (w val line : Nat) : State := (s.putEff (Ed.TILE n w) val).tblDone n line

/-- The line a write outside RUN names in TBL_EFF: the next line to pass its boundary (R173). -/
def State.nextBoundary (s : State) (n : Ch) : Nat := ((s.ch[n]).store.bNext).getD (s.line0 n)
/-- A table edit, as TBL_PEND counts them (R169). -/
def EditBody.isTable : EditBody → Bool
  | .obj _ _ _ => false
  | _ => true
def State.tblPend (s : State) (n : Ch) : Nat := ((s.ch[n]).applyQ.filter (fun e => e.body.isTable)).length
/-- The last value written to an entry, with HIST as in effect (R178). -/
def State.entryWritten (s : State) (n : Ch) (i : Nat) : Nat :=
  (s.ch[n]).applyQ.foldl (fun (v : Nat) (e : Edit) => match e.body with
    | .entry j m x => if j = i then masked v (m &&& entHost) x else v
    | .closure j m x _ _ => if j = i then closureMerge v m x else v
    | _ => v) (s.entry n i)

/-- The live words: TBL_PEND; TBL_EFF is latched by a read of its low word. -/
def State.editLive (s : State) (n : Ch) : State := s.put (Ed.TBL_PEND n) (min 32 (s.tblPend n))
/-- The refusal of a word of the edit block, pattern or tile, in the order range, state (R173 to R177). -/
def editJudge (n : Ch) (addr data : Nat) (s : State) : Option Nat :=
  let idle := [Ed.MAP_LW n, Ed.MAP_MW n, Ed.MAP_SW n, Ed.MAP_LF n, Ed.MAP_MF n, Ed.MAP_SF n, Ed.PM_YSTEP n, Ed.PM_YOFS n,
    Ed.PM_NPASS n]
  firstBad [
    ((Ed.BS_MODE n).addr = addr && (bits data 9 8 = 3 || bits data 2 0 = 0 || bits data 2 0 = 7), abRange),
    ((Ed.SUB_BUMP n).addr = addr && bits data 1 0 = 3, abRange),
    ((Ed.RAIL n 0).addr ≤ addr && addr < (Ed.RAIL n 64).addr && bits data 2 1 = 3, abRange),
    (s.inRun n && s.anyChange idle addr data, abState)]

end Sys2Proof.Machine
end

