-- ==== Sys2Proof/Machine/Levelling.lean ====
section
/-! DEFINITION. Levelling drivers and waveforms (chapter 6): slots, their checks and times, scaling, which sub-pulses run,
precharge and reservoirs, overcurrents, and the register block. -/
namespace Sys2Proof.Machine

/-! ### Slots (R189 to R193) -/

def State.subPulse (s : State) (n : Ch) (sl j : Nat) : SubPulse :=
  ⟨s.get (Sl.SP_START n sl j), s.get (Sl.TGT_A n sl j), s.get (Sl.STEP_A n sl j), s.get (Sl.HOLD_A n sl j),
   s.get (Sl.TGT_B n sl j), s.get (Sl.STEP_B n sl j), s.get (Sl.HOLD_B n sl j), s.get (Sl.STEP_R n sl j)⟩
/-- Move time from code a to code t (R191). -/
def moveTime (a t step fin : Nat) : Nat :=
  if t = a then 0
  else if a < t then (t / 256 - a / 256) * step + fin
  else (ceilDiv a 256 - ceilDiv t 256) * step + fin
/-- END_j (R191). -/
def SubPulse.finish (p : SubPulse) (rest fin : Nat) : Nat :=
  p.start + moveTime (rest * 256) p.tgtA p.stepA fin + p.holdA + moveTime p.tgtA p.tgtB p.stepB fin + p.holdB +
    moveTime p.tgtB (rest * 256) p.stepR fin
/-- What a slot holds. -/
def State.slotDesc (s : State) (n : Ch) (sl : Nat) : SlotDesc :=
  { rest := s.get (Sl.REST n sl), fin := s.get (Sl.FIN_T n sl), quiet := s.get (Sl.QUIET n sl), en := s.get (Sl.SP_EN n sl)
    rails := [s.has (Sl.RAIL1 n sl), s.has (Sl.RAIL2 n sl), s.has (Sl.RAIL3 n sl)]
    masks := [s.get (Sl.MASK1 n sl), s.get (Sl.MASK2 n sl), s.get (Sl.MASK3 n sl)]
    sps := (List.range 4).map (fun j => s.subPulse n sl j) }
def SlotDesc.sp (d : SlotDesc) (j : Nat) : SubPulse := d.sps.getD j ⟨0, 0, 0, 0, 0, 0, 0, 0⟩
def SlotDesc.spEnd (d : SlotDesc) (j : Nat) : Nat := (d.sp j).finish d.rest d.fin
/-- The defined sub-pulses of a slot (R190). -/
def SlotDesc.defined (d : SlotDesc) : List Nat := (List.range 4).filter (fun j => bit d.en j)
def SlotDesc.largestEnd (d : SlotDesc) : Nat := d.defined.foldl (fun (a : Nat) (j : Nat) => max a (d.spEnd j)) 0
/-- The line time of a slot in TB ticks (R191). -/
def SlotDesc.lineTime (d : SlotDesc) : Nat := (d.largestEnd + d.quiet) * 8
/-- The drive table: rail and mask of drive code c (R193); code 0 has none. -/
def SlotDesc.rail (d : SlotDesc) (c : Nat) : Bool := 0 < c && d.rails.getD (c - 1) false
def SlotDesc.mask (d : SlotDesc) (c : Nat) : Nat := if c = 0 then 0 else d.masks.getD (c - 1) 0
def State.spEnd (s : State) (n : Ch) (sl j : Nat) : Nat := (s.slotDesc n sl).spEnd j
def State.spDefined (s : State) (n : Ch) (sl : Nat) : List Nat := (s.slotDesc n sl).defined
def State.largestEnd (s : State) (n : Ch) (sl : Nat) : Nat := (s.slotDesc n sl).largestEnd
def State.slotLineTime (s : State) (n : Ch) (sl : Nat) : Nat := (s.slotDesc n sl).lineTime
def State.driveRail (s : State) (n : Ch) (sl c : Nat) : Bool := (s.slotDesc n sl).rail c
def State.driveMask (s : State) (n : Ch) (sl c : Nat) : Nat := (s.slotDesc n sl).mask c

/-- The checks 1 to 7 of R192: the first that fails, or 0. -/
def State.slotErr (s : State) (n : Ch) (sl : Nat) : Nat :=
  let ds := s.spDefined n sl
  let sp := fun j => s.subPulse n sl j
  if !(0 ∈ ds) ∨ (sp 0).start ≠ 0 then 1
  else if ds ≠ List.range ds.length ∨ ds.any (fun j => decide (0 < j ∧ (sp j).start < s.spEnd n sl (j - 1))) then 2
  else if [0, 1, 2, 3].any (fun j => decide (4096 < (sp j).tgtA ∨ 4096 < (sp j).tgtB)) then 3
  else if ds.any (fun j => decide ((sp j).stepA = 0 ∨ (sp j).stepB = 0 ∨ (sp j).stepR = 0)) then 4
  else if s.get (Sl.FIN_T n sl) < 4 then 5
  else if s.get (Sl.REST n sl) > 16 then 6
  else if [1, 2, 3].any (fun d => (List.range 4).any (fun j => bit (s.driveMask n sl d) j && !(j ∈ ds))) then 7
  else 0

namespace Lv
/-- VALIDs, PROTs and ERRs of slot s. -/
def VALID (n s : Nat) : Fld := if s = 0 then VALID0 n else VALID1 n
def PROT (n s : Nat) : Fld := if s = 0 then PROT0 n else PROT1 n
def ERR (n s : Nat) : Fld := if s = 0 then ERR0 n else ERR1 n
end Lv

/-- The slot selected (R196). -/
def State.curSlot (s : State) (n : Ch) : Nat := s.get (Lv.SET_SEL n)
/-- The WaveformSet of the prepared epoch set. -/
def wavePrep (n : Nat) : Fld := prepFld (0x3040 + 0x100 * n) 1 8 0
/-- The slot may not change (R196): in effect in RUN, or selected by a prepared epoch. -/
def State.slotLocked (s : State) (n : Ch) (sl : Nat) : Bool :=
  (s.inRun n && s.curSlot n = sl) ||
  (s.epoch ≠ .openE && bit (s.get Ep.EP_MASK) n && s.get (wavePrep n) = sl)
/-- The slot's words, W1 first, as their address in the slot (R213). -/
def slotAddr (n sl w : Nat) : Nat := 0x20600 + 0x1000 * n + 0x80 * sl + 4 * w
def State.slotClear (s : State) (n : Ch) (sl : Nat) : State := s.clearAll (Sl.fields n sl)
/-- The contents of a slot are protected: it is PROT, or wiped and its words not yet zeroed (R206, R207). -/
def State.slotSecret (s : State) (n : Ch) (sl : Nat) : Bool := s.has (Lv.PROT n sl) || decide (sl ∈ (s.ch[n]).drive.wiped)
/-- A slot's protected contents are gone. -/
def State.slotForget (s : State) (n : Ch) (sl : Nat) : State :=
  ((s.slotClear n sl).unflag (Lv.PROT n sl)).modDrive n (fun d => { d with wiped := d.wiped.filter (· ≠ sl) })
/-- A word of a slot changes what the slot holds: one of its fields, or protected contents, which any write clears (R206, R549). -/
def State.slotChange (s : State) (n : Ch) (sl w data : Nat) : Bool :=
  s.slotSecret n sl || s.anyChange (Sl.fields n sl) (slotAddr n sl w) data
/-- A word written to a slot (R192, R206); while the slot may not change, one that repeats what it holds does nothing (R549). -/
def State.slotWrite (s : State) (n : Ch) (sl w data : Nat) : State :=
  if s.slotLocked n sl then s
  else
  let s1 := if s.slotSecret n sl then s.slotForget n sl else s
  let s2 := ((Sl.fields n sl).filter (fun f => f.addr = slotAddr n sl w)).foldl
    (fun (t : State) (f : Fld) => t.put f (bits data f.msb f.lsb)) s1
  s2.unflag (Lv.VALID n sl)
/-- What a slot holds, as an object read of Word returns it (R206). -/
def State.slotWord (s : State) (n : Ch) (sl w : Nat) : Nat :=
  if s.slotSecret n sl then 0
  else ((Sl.fields n sl).filter (fun f => f.addr = slotAddr n sl w)).foldl
    (fun (a : Nat) (f : Fld) => a + s.get f * 2 ^ f.lsb) 0
/-- The line time of the slot in effect (R191, R212). -/
def State.curLineTime (s : State) (n : Ch) : Nat := s.slotLineTime n (s.curSlot n)
/-- The fire governor's minimum interval for a line (R114). -/
def State.minInterval (s : State) (n : Ch) (k : Nat) : Nat :=
  max (s.get (Tr.MIN_PER n)) (match s.findLine n k with | some l => l.lineTime | none => s.curLineTime n)

/-! ### Scaling and usage (R194, R197, R198) -/

/-- A scaled target for a scale in 1/1,048,576 (R198). -/
def scaleTarget (rest t sigma : Nat) : Nat :=
  let c := ((rest * 256 : Nat) : Int) + roundDiv (((t : Int) - (rest * 256 : Nat)) * sigma) 1048576
  let v := c.toNat
  let lv := (v + 128) / 256 * 256
  if max v lv - min v lv ≤ 4 then lv else v
/-- The sub-pulses a rail runs on a line (R194), as a 4-bit set. -/
def SlotDesc.usage (d : SlotDesc) (codes : List Nat) (warm : Bool) : Nat :=
  [1, 2, 3].foldl (fun (u : Nat) (c : Nat) => if c ∈ codes ∧ d.rail c = warm then u ||| d.mask c else u) 0
/-- The scaled targets A and B of the sub-pulses a rail runs. -/
def SlotDesc.targets (d : SlotDesc) (use sigma : Nat) : List (Nat × Nat) :=
  (d.defined.filter (fun j => bit use j)).map (fun j =>
    (scaleTarget d.rest (d.sp j).tgtA sigma, scaleTarget d.rest (d.sp j).tgtB sigma))
/-- The moves of a sub-pulse that begins at a code, in a line decided at a tick: a scaled move starts where the unscaled slot puts it
(R199), and a move between equal codes takes no time and is none (R191). -/
def SlotDesc.moves (d : SlotDesc) (sigma t0 c0 j : Nat) : List RailMove :=
  let r := d.rest * 256
  let p := d.sp j
  let a := scaleTarget d.rest p.tgtA sigma
  let b := scaleTarget d.rest p.tgtB sigma
  let mv := fun (t x y step : Nat) => if x = y then [] else
    [(⟨t0 + 8 * t, t0 + 8 * t, ladderVisits x y, 8 * step, some (8 * d.fin, y)⟩ : RailMove)]
  let tB := p.start + moveTime r p.tgtA p.stepA d.fin + p.holdA
  let tR := tB + moveTime p.tgtA p.tgtB p.stepB d.fin + p.holdB
  mv p.start c0 a p.stepA ++ mv tB a b p.stepB ++ mv tR b r p.stepR
/-- The moves a rail makes on a line in the sub-pulses it runs (R190, R194, R198). The first starts from the code where the rail stands:
REST, or the REST of a slot before, from which the ladder goes on level by level (R180; log entry 61). -/
def SlotDesc.plan (d : SlotDesc) (use sigma t0 c0 : Nat) : List RailMove :=
  match d.defined.filter (fun j => bit use j) with
  | [] => []
  | j :: rest => d.moves sigma t0 c0 j ++ rest.flatMap (d.moves sigma t0 (d.rest * 256))
/-- REST of the slot in effect (R189: 0 to 16). -/
def State.restLevel (s : State) (n : Ch) : Nat := min 16 (s.get (Sl.REST n (s.curSlot n)))
/-- The rails run a line's sub-pulses from its decision on: what they run is their plan. -/
def State.runRail (s : State) (n : Ch) (l : Line) (use sigma : Nat) (w : Bool) : State :=
  let r := (s.ch[n]).drive.rail w
  s.planRail n w { r.rest s.tb with moves := l.desc.plan use sigma s.tb (r.codeAt s.tb) }
/-- A line fires: USAGE of the last fired line and what the rails run (R194, R197), by the slot as its boundary found it (R25). -/
def State.fireRails (s0 : State) (n : Ch) (l : Line) (runs : Bool) : State :=
  let uf := if runs then l.desc.usage l.codes false else 0
  let uw := if runs then l.desc.usage l.codes true else 0
  let sf := l.theta * 1024
  let sw := l.theta * l.wscale
  let s := if runs then (s0.runRail n l uf sf false).runRail n l uw sw true else s0
  ((s.put (Lv.USAGE_F n) uf).put (Lv.USAGE_W n) uw).emit (.fired n l.no (!runs) uf uw (l.desc.targets uf sf) (l.desc.targets uw sw))

/-! ### Precharge, reservoirs, rails (R182 to R185) -/

/-- The VHV input switch closes and precharge runs (R182). -/
def State.prechargeStart (s : State) (n : Ch) : State :=
  ((s.switchSent n true).flag (Lv.HV_ON n)).modDrive n (fun d => { d with precharging := true, bleeding := false, openAt := none, vhvAt := none })
/-- Before an input switch closes at a readmission or a wake, VHV at it is checked for 10 µs (R186). -/
def State.switchCheck (s : State) (n : Ch) : State := s.modDrive n (fun d => { d with vhvAt := some s.tb, bleeding := false, openAt := none })
/-- The check was passed: the switch closes. What only a closed switch can bring shows that it was. -/
def State.switchPass (s : State) (n : Ch) : State := if (s.ch[n]).drive.vhvAt.isSome then s.prechargeStart n else s
/-- The check is over at the present time. -/
def State.switchDue (s : State) (n : Ch) : Bool := (s.ch[n]).drive.vhvAt.any (fun t => decide (t + usTicks 10 ≤ s.tb))
/-- The balancer's comparison (R183): Δ is 256 codes. -/
def State.balance (s : State) (n : Ch) (errs : List Int) : State :=
  let s1 := (List.range 15).foldl (fun (t : State) (i : Nat) => t.put (Lv.RES_ERR n (i + 1)) (wrap 16 (nthZ errs i))) s
  let out10 := (List.range 15).any (fun i => decide (256 < 10 * (nthZ errs i).natAbs))
  let s2 := s1.putB (Lv.BAL_OK n) (!out10)
  let s3 := if out10 then s2.flag (Lv.BAL_ERR n) else s2
  (List.range 15).foldl (fun (t : State) (i : Nat) =>
    if 256 < 100 * (nthZ errs i).natAbs then t.emit (.balance n (i + 1) (decide (nthZ errs i < 0))) else t) s3
/-- A reservoir fault or a ramp step that does not settle (R184, R185). -/
def State.resFault (s : State) (n : Ch) : State :=
  ((s.flag (Lv.RES_FAULT n)).emcyMsg 0x3220 n (s.lineInProgress n)).retire n 6

/-! ### Overcurrent (R202 to R204) -/

namespace Hid
/-- OC_LINE before a read latches it (R212). -/
def OC_LO (n : Nat) : Fld := ⟨0x9000_1200 + 8 * n, 31, 0, .ro, 0⟩
def OC_HI (n : Nat) : Fld := ⟨0x9000_1204 + 8 * n, 15, 0, .ro, 0⟩
end Hid
/-- Two other lines of a list within the 999 before line k (R204). -/
def thirdWithin (ls : List Nat) (k : Nat) : Bool := 2 ≤ (ls.filter (fun x => x < k ∧ k ≤ x + 999)).length
/-- Both waveforms stop and the rails go down and back up to REST (R202): the line in progress is dropped, RELEASE 0x01. Rails that
ramp to LV0 for good, or were never charged, do not go up. DESIGN CHOICE (log entry 61): each rail goes up as soon as it has itself
reached LV0. -/
def State.railDrop (s : State) (n : Ch) (delay : Nat) : State :=
  let t := (s.dropInProgress n).release n 1
  if s.has (Lv.PRECHG n) then
    (t.rampRails n delay (some (s.restLevel n))).modDrive n (fun d => { d with railsRest := false })
  else t
/-- From the confirmation of an overcurrent to the first step of the ramp: 20 ns, as in the worked example of chapter 6. -/
def ocDelay : Nat := 192
/-- An overcurrent (R202, R204). With no line in progress, outside RUN, none counts toward the retirement; OC_LINE then names the
last line (log entry 61). -/
def State.overcurrent (s : State) (n : Ch) (w : Bool) : State :=
  let k := s.lineInProgress n
  let s1 := (((s.flag (if w then Lv.OC_W n else Lv.OC_F n)).bump (Lv.OC_CNT n)).putPair (Hid.OC_LO n) (Hid.OC_HI n) k)
  let s2 := s1.railDrop n ocDelay
  if !s.inRun n then s2.emcyMsg 0x2310 n k
  else
    let s3 := (s2.modDrive n (fun d => { d with ocLines := (k :: d.ocLines.filter (· ≠ k)).take 1000 })).emcyMsg 0x2310 n k
    if thirdWithin (s.ch[n]).drive.ocLines k then s3.retire n 1 else s3

/-! ### Register block (R212 to R214) -/

/-- The live words. VHV and VDRV are measurements the spec gives no value (log entry 3); OC_LINE is latched by a read. -/
def State.levelLive (s : State) (n : Ch) : State :=
  let on := s.chOn n
  (((s.put (Lv.LINE_TIME n) (s.curLineTime n)).put (Lv.VHV_MV n) (if on then Config.freeNat s.ctr else 0)).put (Lv.VDRV_MV n)
    (if on then Config.freeNat (s.ctr + 1) else 0))
def levelJudge (n : Ch) (addr data : Nat) (s : State) : Option Nat :=
  let inw := fun f : Fld => f.addr = addr
  let v := fun f : Fld => bits data f.msb f.lsb
  firstBad [
    (inw (Lv.W_SCALE n) && (v (Lv.W_SCALE n) < 717 || v (Lv.W_SCALE n) > 1024), abRange),
    (inw (Lv.OC_BLANK n) && (v (Lv.OC_BLANK n) < 12 || v (Lv.OC_BLANK n) > 60), abRange),
    (inw (Lv.OC_LIM n) && (v (Lv.OC_LIM n) < 16 || v (Lv.OC_LIM n) > 96), abRange),
    (s.inRun n && s.anyChange [Lv.SET_SEL n, Lv.OC_BLANK n, Lv.OC_LIM n] addr data, abState),
    (inw (Lv.CHECK0 n) && bit data 0 && s.slotLocked n 0, abState),
    (inw (Lv.CHECK0 n) && bit data 1 && s.slotLocked n 1, abState)]

end Sys2Proof.Machine
end

