-- ==== Sys2Proof/Machine/Link.lean ====
section
/-! DEFINITION. The Ismaing head link (chapter 7): frames and their delivery, control groups, latching, training and loss,
far-end accesses, the link check, and the register block. A frame leaves as a list of numbers, a byte below 0x100 and a
control code group K as 0x100 plus its byte; the line code of IEEE 802.3 itself is not modelled. -/
namespace Sys2Proof.Machine

/-! ### Repeats (R233 to R235) -/

/-- A CONFIG or STATUS_REQ frame queued under its purpose; an earlier one of the same purpose is replaced. -/
def State.queueCtl (s : State) (n : Ch) (id : Nat) (f : Frame) : State :=
  ((s.linkTick n).modLink n (fun l => { l with
    ctl := l.ctl.filter (fun c => c.1 ≠ id) ++ [(id, { f with waiting := true })]
    tx := l.tx.filter (fun t => t.line.isSome || t.frame ≠ id) })).pump n

/-- A line abandoned (R234, R237): a frame of it in progress ends with K30.7 and none is sent again. -/
def State.abandonLine (s : State) (n : Ch) (k : Nat) : State :=
  ((s.cutFrame n (· == k)).modLink n (fun l => { l with tx := l.tx.filter (fun t => t.line ≠ some k) })).modLine n k (fun l =>
    { l with undel := true, frames := l.frames.map (fun f => { f with waiting := false }) })
/-- A failed transmission of a line (R233, R234). A line given up raises its flag and its counter at its decision, in line order. -/
def State.lineFail (s : State) (n : Ch) (k i : Nat) : State :=
  match s.findLine n k with
  | none => s
  | some l =>
    match l.frames[i]? with
    | none => s
    | some f =>
      if f.acked || l.undel then s
      else if 4 ≤ f.sent || 6 ≤ l.reps then s.abandonLine n k
      else s.modLine n k (fun x => { x.modFrame i (fun y => { y with waiting := true }) with reps := x.reps + 1 })
/-- A failed transmission (R233): the line's frame or the CONFIG or STATUS_REQ frame waits to be sent again, at most 4
times in all. -/
def State.txFail (s : State) (n : Ch) (t : Tx) : State :=
  let s1 := match t.line with
    | some k => s.lineFail n k t.frame
    | none => s.modLink n (fun l => { l with
        ctl := l.ctl.map (fun (c : Nat × Frame) => if c.1 = t.frame then (c.1, { c.2 with waiting := decide (c.2.sent < 4) }) else c) })
  s1.pump n
/-- A transmission answered or timed out is taken off; none if no transmission carries the FSEQ. The answer comes after the EOF has left,
a timeout `late` ticks after it: time has come that far (DEDUCED, log entry 78). -/
def State.takeTx (s0 : State) (n : Ch) (q late : Nat) : Option (State × Tx) :=
  let s := s0.linkTick n
  ((s.ch[n]).link.tx.find? (fun t => t.fseq = q)).map (fun t =>
    (((s.at (t.till + late)).linkTick n).modLink n (fun l => { l with tx := l.tx.filter (fun x => x.fseq ≠ q) }), t))

/-! ### Training and loss (R246 to R250) -/

/-- The CONFIG frame with a slot's drive table (R225, R252). -/
def State.tableFrame (s : State) (n : Ch) (sl : Nat) : Frame :=
  mkFrame tyConfig 0 true ([1, 2, 3].flatMap (fun d =>
    [0x0F + 4 * sl + d, (if s.driveRail n sl d then 16 else 0) + s.driveMask n sl d]) ++ [0xFF, 0])
/-- The far end accepts frames: the link is UP, or its training has come to the TS2 blocks (R247). -/
def State.farListens (s : State) (n : Ch) : Bool :=
  s.linkUp n || ((s.linkSt n = .training || s.linkSt n = .retrain) && (s.ch[n]).link.tsrSeen)
/-- A slot's table is sent when the slot becomes VALID; a slot that is VALID before the training response is sent with it (R253). -/
def State.sendTable (s : State) (n : Ch) (sl : Nat) : State :=
  if s.farListens n then s.queueCtl n (1 + sl) (s.tableFrame n sl) else s
/-- Training starts (R247): the link is reset, TS1 blocks leave. -/
def State.trainBegin (s : State) (n : Ch) (st : LinkState) : State :=
  (s.modLink n (fun l => { l with
    st := st, tx := [], ctl := [], cto := 0, latched := none, tsrSeen := false, kept := [], free := s.tb, seen := s.tb })).emit (.trainBlocks n false)
/-- A training response (R247, steps 3 to 5): the 16 TS2 blocks leave, then the identity is asked for and the drive tables are
written. With a wrong version nothing follows. -/
def State.tsr (s : State) (n : Ch) (ver cap : Nat) : State :=
  let s1 := (s.put (Lk.FE_VER n) ver).put (Lk.FE_CAP n) cap
  if ver ≠ 1 then
    s1
  else
    let s2 := (s1.modLink n (fun l => { l with tsrSeen := true })).emit (.trainBlocks n true)
    let s3 := s2.queueCtl n 0 (mkFrame tyStatus 0 true [2, 3, 4, 5])
    [0, 1].foldl (fun (t : State) (sl : Nat) =>
      if t.has (Lv.VALID n sl) then t.queueCtl n (1 + sl) (t.tableFrame n sl) else t) s3
/-- LSTATE becomes UP once the identity request and the drive tables are acknowledged (R247). -/
def State.trainCheck (s : State) (n : Ch) : State :=
  let l := (s.ch[n]).link
  let open_ := l.ctl.any (fun (c : Nat × Frame) => decide (c.1 ≤ 2))
  if (l.st = .training ∨ l.st = .retrain) ∧ l.tsrSeen ∧ !open_ then
    (s.modLink n (fun x => { x with st := .up })).condOff 0x8710 n
  else s
/-- A retraining starts (R248, R249): the third within 1 ms of the first of the two before it retires the channel. -/
def State.retrain (s : State) (n : Ch) : State :=
  let l := (s.ch[n]).link
  let third := l.retrains.length = 2 && (l.retrains.getD 1 0) + usTicks 1000 > s.tb
  if third then s.retire n 2
  else
    let s1 := (((s.bump (Lk.RETRAIN_CNT n)).modLink n (fun x =>
      { x with retrains := (s.tb :: x.retrains).take 2 })).release n 7)
    s1.trainBegin n .retrain
/-- The link is lost (R248, R335). -/
def State.linkLoss (s : State) (n : Ch) : State :=
  if s.linkUp n then
    let s1 := ((s.flag (Lk.RETRAINED n)).condOn 0x8710 n).emcyMsg 0x8710 n (s.lastLine n)
    (s1.epochLose n).retrain n
  else s

/-! ### Far-end accesses (R254 to R256, R438) -/

/-- An access begins: BUSY, and its CONFIG or STATUS_REQ frame. -/
def State.feGo (s : State) (n : Ch) (a : FeAcc) : State :=
  ((s.modLink n (fun l => { l with fe := some a })).flag (Lk.BUSY n)).queueCtl n 3
    (if a.write then mkFrame tyConfig 0 true [a.addr, a.val, 0xFF, 0] else mkFrame tyStatus 0 true [a.addr, 0xFF, 0xFF, 0xFF])
/-- An access is asked for. They are served in the order they come: one that still runs keeps the next waiting (R438; that a write
of FE_GO waits too is the model's choice, log entry 62). -/
def State.feStart (s : State) (n : Ch) (addr val : Nat) (write : Bool) (use : FeFor) : State :=
  if (s.ch[n]).link.fe.isSome then s.modLink n (fun l => { l with feQ := l.feQ ++ [⟨addr, val, write, use⟩] })
  else s.feGo n ⟨addr, val, write, use⟩
/-- The access that runs is over: BUSY clears, FAIL tells how, and the next access begins. -/
def State.feOver (s : State) (n : Ch) (failed : Bool) : State :=
  let t := (s.linkTick n).modLink n (fun l => { l with
    fe := none, feQ := l.feQ.drop 1, ctl := l.ctl.filter (fun c => c.1 ≠ 3), tx := l.tx.filter (fun t => t.line.isSome || t.frame ≠ 3) })
  let u := if failed then (t.unflag (Lk.BUSY n)).flag (Lk.FAIL n) else (t.unflag (Lk.BUSY n)).unflag (Lk.FAIL n)
  match (s.ch[n]).link.feQ.head? with
  | some a => u.feGo n a
  | none => u
/-- What the port of an access is told when it is over. -/
def State.feTell (s : State) (a : FeAcc) (f : State → Port → State) : State :=
  match a.use with | .port p => f s p | _ => s

/-! ### Answers of the far end -/

/-- An ACK (R233): the transmission is complete. A far-end write ends with its ACK (R255). -/
def State.ackTx (s : State) (n : Ch) (q : Nat) : State :=
  match s.takeTx n q 0 with
  | none => s
  | some (s0, t) =>
    let s1 := s0.modLink n (fun l => { l with cto := 0 })
    let s2 := match t.line with
      | some k => s1.modLine n k (fun l => l.modFrame t.frame (fun f => { f with acked := true, waiting := false }))
      | none => s1.modLink n (fun l => { l with ctl := l.ctl.filter (fun c => c.1 ≠ t.frame) })
    let s3 := match t.line, (s.ch[n]).link.fe with
      | none, some a =>
        if t.frame = 3 ∧ a.write then
          (s2.feTell a (fun u p => u.answer p (0x3050 + 0x100 * n) 0x0E 0)).feOver n false
        else s2
      | _, _ => s2
    (s3.trainCheck n).pump n
/-- A NAK (R233). -/
def State.nakTx (s : State) (n : Ch) (q : Nat) : State :=
  match s.takeTx n q 0 with
  | none => s
  | some (s0, t) => (s0.modLink n (fun l => { l with cto := 0 })).txFail n t
/-- No answer within 2.0 µs of the EOF (R233); the fourth in a row loses the link (R248). -/
def State.txTimeout (s : State) (n : Ch) (q : Nat) : State :=
  match s.takeTx n q (usTicks 2) with
  | none => s
  | some (s0, t) =>
    let s1 := (s0.bump (Lk.TMO_CNT n)).modLink n (fun l => { l with cto := l.cto + 1 })
    if 4 ≤ (s1.ch[n]).link.cto ∧ s1.linkUp n then s1.linkLoss n else s1.txFail n t
/-- A far-end access ends without an answer (R255). -/
def State.feFail (s : State) (n : Ch) : State :=
  match (s.ch[n]).link.fe with
  | none => s
  | some a =>
    (s.feTell a (fun u p => u.answer p (0x3050 + 0x100 * n) (if a.write then 0x0E else 0x0D) abFail)).feOver n true
/-- A STAT message (R232): the answer of a far-end read, or a byte of the identity (R247, R252). -/
def State.stat (s : State) (n : Ch) (addr val : Nat) : State :=
  match (s.ch[n]).link.fe.filter (fun a => !a.write && a.addr = addr) with
  | some a =>
    (match a.use with
      | .port p => s.answerData p (0x3050 + 0x100 * n) 0x0D [BitVec.ofNat 8 val]
      | .pdo _ => s.modCan (fun c => { c with far := ((n : Nat), val) :: c.far.filter (fun x => x.1 ≠ (n : Nat)) })
      | .reg => s.put (Lk.DATA n) val).feOver n false
  | none =>
  if (s.ch[n]).link.st = .down then s
  else match addr with
    | 2 => s.put (Lk.FE_NOZ n) (withBits (s.get (Lk.FE_NOZ n)) 7 0 val)
    | 3 => s.put (Lk.FE_NOZ n) (withBits (s.get (Lk.FE_NOZ n)) 15 8 val)
    | 4 => s.put (Lk.FE_TYPE n) (withBits (s.get (Lk.FE_TYPE n)) 7 0 val)
    | 5 => s.put (Lk.FE_TYPE n) (withBits (s.get (Lk.FE_TYPE n)) 15 8 val)
    | _ => s
/-- A far-end error (R251): a line that FERR 0x02 cut short is a transient fault of that line (R324). -/
def State.ferr (s : State) (n : Ch) (code tag : Nat) : State :=
  let s1 := ((s.flagBump (Lk.FE_ERR n) (Lk.FE_ERR_CNT n)).put (Lk.FE_ERR_CODE n) code).put (Lk.FE_ERR_TAG n) tag
  if code = 2 then
    s1.emcyMsg 0x8730 n (match (s.ch[n]).lines.find? (fun l => l.latched.isSome ∧ l.no % 256 = tag) with
      | some l => l.no
      | none => s.lineInProgress n)
  else s1

/-! ### Latching (R236 to R240) -/

/-- A line's transmissions are all acknowledged. -/
def Line.delivered (l : Line) : Bool := l.frames.all (fun f => f.acked)
/-- The LATCH group of line k (R228, R237). -/
def State.sendLatch (s : State) (n : Ch) (l : Line) (null : Bool) : State :=
  ((((s.linkTick n).modCh n (fun c => { c with
    lines := (c.lines.filter (fun x => !(x.decided && x.no < l.no))).map (fun x =>
      if x.no = l.no then { x with latched := some null } else x)
    link := { c.link with latched := some l.no, kept := c.link.kept.filter (fun j => decide (l.no < j)) } })).emit
    (ctlGroup n grpLatch (l.no % 256) (l.slot * 2 + (if null then 1 else 0)))).pump n)
/-- The latch point of the next line has come at a tick (R236). 640 ns are 6,144 ticks. -/
def State.latchDue (s : State) (n : Ch) (l : Line) (tick : Nat) : Bool :=
  l.no = (s.ch[n]).trav.next && (s.ch[n]).drive.railsRest && l.latched.isNone && l.encoded &&
  (l.no = (s.ch[n]).trav.first || match (s.ch[n]).trav.lastFired with
    | some f => decide (f + s.minInterval n l.no ≤ tick + 6144)
    | none => true)
/-- The LATCH of the next line, once due and delivered or never to be delivered (R237). -/
def State.latchNext (s : State) (n : Ch) (tick : Nat) : State :=
  match s.findLine n (s.ch[n]).trav.next with
  | none => s
  | some l =>
    if s.linkUp n ∧ s.latchDue n l tick ∧ (l.undel ∨ l.delivered) then
      s.sendLatch n l (l.undel || l.frames.isEmpty)
    else s
/-- A LACK is accepted for the latched line of its tag (R239). -/
def State.lackLine (s : State) (n : Ch) (tag : Nat) (empty : Bool) : State :=
  s.modCh n (fun c => { c with lines := c.lines.map (fun l =>
    if l.latched.isSome && !l.decided && l.no % 256 = tag then { l with lack := some empty, lackAt := s.tb } else l) })
/-- The line in progress: the last decided line that the governor passed and no RELEASE has cut. -/
def State.liveLine (s : State) (n : Ch) : Option Line :=
  ((s.ch[n]).lines.filter (fun l => l.decided && !l.cut)).getLast?

/-! ### The link check (R241) -/

def State.ltc (s : State) (n : Ch) (sl : Nat) : Nat :=
  if !s.linkUp n then 1
  else if max (s.get (Tr.MIN_PER n)) (s.slotLineTime n sl) < 8 * s.largestEnd n sl + 6144 then 2
  else if (s.spDefined n sl).any (fun j => decide (0 < j) && (j - 1) ∈ s.spDefined n sl &&
      [1, 2, 3].any (fun d => bit (s.driveMask n sl d) j != bit (s.driveMask n sl d) (j - 1)) &&
      decide (s.get (Sl.SP_START n sl j) < s.spEnd n sl (j - 1) + 192)) then 3
  else if s.get (Lk.FE_NOZ n) < s.nozzles n then 4
  else if [1, 2, 3].any (fun d => s.driveRail n sl d && s.driveMask n sl d ≠ 0) && !bit (s.get (Lk.FE_CAP n)) 1 then 5
  else 0
/-- The link check, reported in LTC_ERR. -/
def State.linkCheck (s : State) (n : Ch) (sl : Nat) : State × Bool :=
  let e := s.ltc n sl
  (s.put (Lk.LTC_ERR n) e, decide (e = 0))

/-! ### Register block (R254, R255) -/

def LinkState.code : LinkState → Nat
  | .down => 0 | .training => 1 | .up => 2 | .retrain => 3 | .failed => 4
def State.linkLive (s : State) (n : Ch) : State := s.put (Lk.LSTATE n) (s.linkSt n).code
def linkJudge (n : Ch) (addr data : Nat) (s : State) : Option Nat :=
  let go := (Lk.FE_GO n).addr = addr && bit data 0
  let wr := s.has (Lk.WR n)
  firstBad [
    (go && wr && s.get (Lk.ADDR n) < 0x80, abRange),
    (go && (!s.linkUp n || (wr && s.inRun n)), abState),
    ((Lk.TRAIN n).addr = addr && bit data 0 && (s.inRun n || s.inBenchmark || s.dev.safe), abState)]
def linkApply (n : Ch) (addr data : Nat) (s : State) : State :=
  if (Lk.TRAIN n).addr = addr then if bit data 0 then s.trainBegin n .training else s
  else if (Lk.FE_GO n).addr = addr then
    if bit data 0 then s.feStart n (s.get (Lk.ADDR n)) (s.get (Lk.DATA n)) (s.has (Lk.WR n)) .reg else s
  else s.writeWord (Lk.fields n) addr data (s.inRun n)

end Sys2Proof.Machine
end

