-- ==== Sys2Proof/Machine/Health.lean ====
section
/-! DEFINITION. Nozzle health (chapter 8): the sense capture and its classifier, signatures, check strips, the closure
engine's evidence and verdicts, reports, and the register block. -/
namespace Sys2Proof.Machine

/-! ### The classifier (R263 to R266) -/

/-- The correlation at lag λ over the first m samples (R264): C, E_s and E_g. -/
def corr (s g : List Int) (m : Nat) (lag : Int) : Int × Nat × Nat :=
  (List.range m).foldl (fun (a : Int × Nat × Nat) (i : Nat) =>
    let j : Int := (i : Int) + lag
    if j < 0 ∨ (m : Int) ≤ j then a
    else
      let x := nthZ s j.toNat
      let y := nthZ g i
      (a.1 + x * y, a.2.1 + (x * x).toNat, a.2.2 + (y * y).toNat)) (0, 0, 0)
/-- A value of ρ kept as sign(ρ) × ρ², a fraction. -/
structure Rho where
  num : Int
  den : Nat
deriving DecidableEq, Repr
def Rho.lt (a b : Rho) : Bool := decide (a.num * b.den < b.num * a.den)
/-- ρ at a lag (R264). With an energy of 0 the spec states no value: a free one between −1 and 1 (log entry 3). -/
def rhoAt (s g : List Int) (m ix : Nat) (lag : Int) : Rho :=
  let c := corr s g m lag
  if c.2.1 * c.2.2 = 0 then ⟨((Config.freeNat (ix + (lag + 4).toNat) % 131073 : Nat) : Int) - 65536, 65536⟩
  else ⟨(if c.1 < 0 then -1 else 1) * (c.1 * c.1), c.2.1 * c.2.2⟩
/-- The lags in the order of the choice of R264: the smallest magnitude first. The spec does not rank +λ and −λ of equal ρ;
the negative one is taken (log entry 30). -/
def lagOrder : List Int := [0, -1, 1, -2, 2, -3, 3, -4, 4]
def bestLag (s g : List Int) (m ix : Nat) : Int × Rho :=
  lagOrder.foldl (fun (a : Int × Rho) (l : Int) =>
    let r := rhoAt s g m ix l
    if Rho.lt a.2 r then (l, r) else a) (0, rhoAt s g m ix 0)
/-- RHO: ρ in 1/256 rounded down, clamped to 0 and 255. -/
def Rho.report (r : Rho) : Nat :=
  if r.num ≤ 0 then 0 else min 255 (isqrt (r.num.toNat * 65536 / r.den))
/-- A in 1/256 rounded down, with σ in 1/1,048,576; a free value where E_g or σ is 0 (log entry 3). -/
def ampRaw (es eg sigma ix : Nat) : Nat :=
  if eg * sigma = 0 then Config.freeNat (ix + 9) % 65536
  else isqrt (65536 * es * 2 ^ 40 / (eg * sigma * sigma))
/-- AMP: A in 1/128 rounded to nearest, as the chapter's example has it, saturating (R264). -/
def ampReport (a : Nat) : Nat := min 255 ((a + 1) / 2)
/-- SD: 64 × (A − 1) rounded to nearest, saturating (R266). -/
def senseDev (a : Nat) : Int := clamp (-128) 127 (((a + 2) / 4 : Nat) - 64)
/-- A² as a fraction (numerator, denominator), consistent with `ampRaw` where it is free. -/
def ampSq (es eg sigma ix : Nat) : Nat × Nat :=
  if eg * sigma = 0 then let a := Config.freeNat (ix + 9) % 65536; (a * a, 65536)
  else (es * 2 ^ 40, eg * sigma * sigma)
/-- A compared with (256 + d)/256: below, and above. -/
def ampBelow (q : Nat × Nat) (d : Int) : Bool := decide (0 < 256 + d ∧ (q.1 : Int) * 65536 < q.2 * ((256 + d) * (256 + d)))
def ampAbove (q : Nat × Nat) (d : Int) : Bool := decide ((q.2 : Int) * ((256 + d) * (256 + d)) < q.1 * 65536)

/-- A capture of L samples classified (R261, R263 to R265). -/
def State.classify (s : State) (n : Ch) (cap : Cap) (smp : List Int) : SRes :=
  let h := (s.ch[n]).health
  let row := (rowAt (s.ch[n]).store.rows 0 cap.noz).1
  let sig := h.sigs.getD row ⟨[], 0⟩
  let L := smp.length
  let m := min L sig.n
  let plain := fun c => (⟨cap.line, cap.noz, c, 0, 0, 0, 0, L, row⟩ : SRes)
  let clip := smp.any (fun x => decide (x = -2048 ∨ x = 2047))
  if L < s.get (Nh.SNS_MIN n) then plain 3
  else if clip then plain 4
  else if bit (s.get (Nh.LEARN n)) row then plain 6
  else if !bit (s.get (Nh.SIG_VALID n)) row || m < s.get (Nh.SNS_MIN n) then plain 5
  else
    let b := bestLag smp sig.g m s.ctr
    let c := corr smp sig.g m b.1
    let q := ampSq c.2.1 c.2.2 cap.sigma s.ctr
    let a := ampRaw c.2.1 c.2.2 cap.sigma s.ctr
    let rho := b.2.report
    let tol : Int := s.get (Nh.AMP_TOL n)
    let cls :=
      if rho < s.get (Nh.RHO_FAIL n) || ampBelow q ((s.get (Nh.AMP_FLAT n) : Int) - 256) then 2
      else if rho < s.get (Nh.RHO_OK n) || ampAbove q tol || ampBelow q (-tol) || decide (s.get (Nh.LAG_TOL n) < b.1.natAbs) then 1
      else 0
    ⟨cap.line, cap.noz, cls, senseDev a, b.1, rho, ampReport a, L, row⟩

/-- A learning row takes a capture without CLIP (R267); the 256th completes the signature. -/
def State.learnTake (s : State) (n : Ch) (row : Nat) (smp : List Int) : State :=
  match (s.ch[n]).health.learns.find? (fun l => l.row = row) with
  | none => s
  | some l =>
    let sums := (List.range 150).map (fun i => nthZ l.sums i + nthZ smp i)
    let l' : Learn := { l with count := l.count + 1, minLen := min l.minLen smp.length, sums := sums }
    if l'.count < 256 then
      s.modHealth n (fun h => { h with learns := h.learns.map (fun x => if x.row = row then l' else x) })
    else
      let g := (sums.take l'.minLen).map (fun x => roundDiv x 256)
      (((s.modHealth n (fun h => { h with
        learns := h.learns.filter (fun x => x.row ≠ row), sigs := h.sigs.set row ⟨g, l'.minLen⟩ })).put (Nh.LEARN n)
        (s.get (Nh.LEARN n) &&& (0xFF ^^^ 2 ^ row))).put (Nh.SIG_VALID n) (s.get (Nh.SIG_VALID n) ||| 2 ^ row)).flag
        (Nh.LEARN_DONE n)
/-- The capture ends (R260, R261): its result is the last result and waits for the sense result queue. -/
def State.captureEnd (s : State) (n : Ch) (samples : List Int) : State :=
  match (s.ch[n]).health.cap with
  | none => s
  | some cap =>
    let smp := (samples.take (s.get (Nh.SNS_LEN n))).map (clamp (-2048) 2047)
    let r := s.classify n cap smp
    let clip := smp.any (fun x => decide (x = -2048 ∨ x = 2047))
    let s1 := { s with ctr := s.ctr + 10 }.modHealth n (fun h =>
      { h with cap := none, last := some r, results := h.results ++ [r] })
    let s2 := match r.cls with
      | 3 => s1.flagBump (Nh.SHORT n) (Nh.SHORT_CNT n)
      | 4 => s1.flagBump (Nh.CLIP n) (Nh.CLIP_CNT n)
      | 0 | 1 | 2 => s1.bump (Nh.CAP_CNT n)
      | _ => s1
    if clip then s2 else s2.learnTake n r.row smp
/-- Sense results waiting in the channel's queue (R28). -/
def State.senseQueued (s : State) (n : Ch) : Nat := ((s.ch[n]).health.obs.filter (fun o => !o.2.1)).length
/-- The oldest result enters the queue of 16, or is skipped (R262). -/
def State.senseResult (s : State) (n : Ch) : State :=
  match (s.ch[n]).health.results with
  | [] => s
  | r :: rest =>
    let s1 := s.modHealth n (fun h => { h with results := rest })
    if s.senseQueued n < 16 then
      s1.modHealth n (fun h => { h with obs := h.obs ++ [(r.noz, false, r.cls, r.dev)] })
    else s1.flagBump (Nh.QSKIP n) (Nh.QSKIP_CNT n)
/-- The SNS trigger (R258, R260, R264): a capture opens with the scale of the rail the nozzle fired on. -/
def State.senseOpen (s : State) (n : Ch) (l : Line) (i : Nat) : State :=
  let sg := if l.desc.rail (nth l.codes i) then l.theta * l.wscale else l.theta * 1024
  s.modHealth n (fun h => { h with cap := some ⟨l.no, i, sg⟩ })

/-! ### Signatures (R267, R268) -/

/-- The rows in effect. -/
def State.nrows (s : State) (n : Ch) : Nat := s.get (Ld.NROWS n)
/-- Learning starts on rows (R267). -/
def State.learnStart (s : State) (n : Ch) (rows : Nat) : State :=
  let new := (List.range 8).filter (fun r => bit rows r && !bit (s.get (Nh.LEARN n)) r)
  (s.put (Nh.LEARN n) (s.get (Nh.LEARN n) ||| rows)).modHealth n (fun h =>
    { h with learns := h.learns ++ new.map (fun r => ⟨r, 0, 150, []⟩) })
/-- What the signature window reads (R289). -/
def State.sigRead (s : State) (n : Ch) : Nat :=
  let sig := (s.ch[n]).health.sigs.getD (s.get (Nh.SIG_ROW n)) ⟨[], 0⟩
  let i := s.get (Nh.SIG_IDX n)
  if i = 150 then sig.n else wrap 16 (nthZ sig.g i)
/-- An access moves the window on; after SIG_N it starts again at sample 0 (log entry 31). -/
def State.sigStep (s : State) (n : Ch) : State :=
  s.put (Nh.SIG_IDX n) (if s.get (Nh.SIG_IDX n) < 150 then s.get (Nh.SIG_IDX n) + 1 else 0)
/-- SIG_N of a row written (R268). -/
def State.sigLen (s : State) (n : Ch) (row len : Nat) : State :=
  let v := s.get (Nh.SIG_VALID n) &&& (0xFF ^^^ 2 ^ row)
  (s.modHealth n (fun h => { h with sigs := h.sigs.set row { h.sigs.getD row ⟨[], 0⟩ with n := len } })).put
    (Nh.SIG_VALID n) (if len = 0 then v else v ||| 2 ^ row)
/-- A sample of a row written (R268). -/
def State.sigSample (s : State) (n : Ch) (row i : Nat) (x : Int) : State :=
  (s.modHealth n (fun h =>
    let sig := h.sigs.getD row ⟨[], 0⟩
    let g := (List.range 150).map (fun j => if j = i then x else nthZ sig.g j)
    { h with sigs := h.sigs.set row { sig with g := g } })).put (Nh.SIG_VALID n)
      (s.get (Nh.SIG_VALID n) &&& (0xFF ^^^ 2 ^ row))
/-- A write through the window, and the refusal of one: a row not in effect, or a value out of range (R289, R290). -/
def State.sigJudge (s : State) (n : Ch) (v : Nat) : Option Nat :=
  let i := s.get (Nh.SIG_IDX n)
  firstBad [
    (i = 150 && v > 150, abRange),
    (i < 150 && (sext 16 v < -2048 || sext 16 v > 2047), abRange),
    (s.nrows n ≤ s.get (Nh.SIG_ROW n), abState)]
def State.sigWrite (s : State) (n : Ch) (v : Nat) : State :=
  let i := s.get (Nh.SIG_IDX n)
  (if i = 150 then s.sigLen n (s.get (Nh.SIG_ROW n)) v else s.sigSample n (s.get (Nh.SIG_ROW n)) i (sext 16 v)).sigStep n

/-! ### Check strips (R269 to R278) -/

namespace Cl
/-- The objects of the closure engine (R292). -/
def ENABLE : Fld := objFld 0x4200 1 1 0
def SENSE_POL : Fld := objFld 0x4200 2 8 0x34
def STRIP_POL : Fld := objFld 0x4200 3 8 0x23
def COMBINE : Fld := objFld 0x4200 4 8 0
def ACT_MISSING : Fld := objFld 0x4200 5 8 2
def ACT_WEAK : Fld := objFld 0x4200 6 8 0
def ACT_DEVIATED : Fld := objFld 0x4200 7 8 2
def RECOV : Fld := objFld 0x4200 8 8 3
def RADIUS : Fld := objFld 0x4200 9 16 48
def THRESH : Fld := objFld 0x4200 0x0A 32 0x40A66020
def DECISIONS : Fld := objFld 0x4200 0x0B 32 0
def LOG_CNT : Fld := objFld 0x4200 0x0C 32 0
def LOG_IX : Fld := objFld 0x4200 0x0D 8 0
def STRIPS : Fld := objFld 0x4200 0x10 32 0
def CAM_CU (c : Nat) : Fld := objFld (0x4210 + c) 1 8 0
def CAM_OFS (c : Nat) : Fld := objFld (0x4210 + c) 2 48 0
def CAM_LP (c : Nat) : Fld := objFld (0x4210 + c) 3 32 0x10000
def CONTEXT (n : Nat) : Fld := objFld (0x4220 + n) 1 8 0xFF
def ROW_X0 (n r : Nat) : Fld := objFld (0x4220 + n) (2 + r) 32 0
def ROW_PITCH (n r : Nat) : Fld := objFld (0x4220 + n) (0x0A + r) 32 0
def STITCH (n : Nat) : Fld := objFld (0x4220 + n) 0x12 8 0xFF
def ROW_RES (n r : Nat) : Fld := objFld (0x4220 + n) (0x13 + r) 16 0
def ALONG (n : Nat) : Fld := objFld (0x4220 + n) 0x1B 32 0
def GAP (n : Nat) : Fld := objFld (0x4220 + n) 0x1C 32 0
def STITCH_ALONG (n : Nat) : Fld := objFld (0x4220 + n) 0x1D 32 0
def REPORT (n : Nat) : Fld := objFld (0x4220 + n) 0x1E 48 0
def EV_IX (n : Nat) : Fld := objFld (0x4230 + n) 1 16 0
/-- AnalysisComponent n (R312). -/
def COMPONENT (n : Nat) : Fld := objFld 0x4104 (n + 1) 8 1
end Cl

def State.stripP (s : State) (n : Ch) : Nat := s.get (Nh.STRIP_P n) + 1
/-- Image lines of a strip (R271). -/
def State.stripLen (s : State) (n : Ch) : Nat := s.nrows n * (s.stripP n + s.get (Nh.STRIP_G n))
/-- The codes of strip line u (R271). -/
def State.stripCodes (s : State) (n : Ch) (u : Nat) : List Nat :=
  let P := s.stripP n
  let band := P + s.get (Nh.STRIP_G n)
  let p := u % band
  (List.range (s.nozzles n)).map (fun i =>
    let rq := rowAt (s.ch[n]).store.rows 0 i
    if rq.1 = u / band ∧ p < P ∧ rq.2 % P = p then s.get (Nh.STRIP_LEVEL n) else 0)
namespace Hid
/-- S of the pending or last strip, before a read latches its high word (R289). -/
def STRIP_LO (n : Nat) : Fld := ⟨0x9000_1300 + 8 * n, 31, 0, .ro, 0⟩
def STRIP_HI (n : Nat) : Fld := ⟨0x9000_1304 + 8 * n, 15, 0, .ro, 0⟩
end Hid
/-- The smallest image line from a grid's first line on whose X lies at or beyond C + s × OFFSET (R269). -/
def State.stripFirst (s : State) (n : Ch) (g : Grid) (c : Pos) : Nat :=
  let d := gridDiff (c.toInt * 65536 - g.anchor * 65536)
  let ahead := if s.get (Tr.MODE n) = 1 then -d else d
  g.line0 + ceilDiv ahead.toNat (max g.pitch 1)
def State.stripStart (s : State) (n : Ch) (c : Pos) : Nat :=
  (s.ch[n]).trav.rebases.foldl (fun (m : Nat) (r : Rebase) =>
    if m < r.kc then m else s.stripFirst n (s.gridAt n r.kc) c) (s.stripFirst n (s.gridAt n 0) c)
/-- X_m less s × OFFSET. -/
def State.stripX (s : State) (n : Ch) (m : Nat) : Int :=
  s.lineX n m + (if s.get (Tr.MODE n) = 1 then 1 else -1) * ((s.gridAt n m).ofs : Int)
/-- A stake hit seen by the strip logic of channel n (R269, R270). -/
def State.stripHit (s : State) (n : Ch) (h : Hit) : State :=
  let moving := (s.ch[n]).trav.st = .running ∨ (s.ch[n]).trav.st = .waitRev
  if s.eff (Nh.STRIP_EN n) ≠ 1 ∨ s.get (Nh.STRIP_ST n) ≠ h.stk ∨ s.stkCu h.stk ≠ s.chCu n ∨ s.get (Tr.MODE n) = 2 ∨ !moving
  then s
  else if (s.ch[n]).health.strip.isSome then s.flagBump (Nh.STRIP_OVL n) (Nh.STRIP_OVL_CNT n)
  else
    let m := s.stripStart n h.tgt
    if s.pastBoundary n m then s.flagBump (Nh.STRIP_LATE n) (Nh.STRIP_LATE_CNT n)
    else
      let len := s.stripLen n
      ((s.modHealth n (fun x => { x with strip := some ⟨m, len, (List.range len).map (fun u => s.stripX n (m + u))⟩ })).putPair
        (Hid.STRIP_LO n) (Hid.STRIP_HI n) m).flag (Nh.STRIP_PEND n)
/-- The strip line that image line k is, if it is one. -/
def State.stripLine (s : State) (n : Ch) (k : Nat) : Option Nat :=
  match (s.ch[n]).health.strip with
  | some t => if t.s0 ≤ k ∧ k < t.s0 + t.len then some (k - t.s0) else none
  | none => none
/-- A strip has printed every band once line S + len − 1 + D_max has been decided (R132, R273). -/
def State.stripDecided (s : State) (n : Ch) (k : Nat) : State :=
  match (s.ch[n]).health.strip with
  | some t =>
    if t.s0 + t.len + rowsDmax (s.ch[n]).store.rows ≤ k + 1 then
      ((s.modHealth n (fun h => { h with strip := none, printed := h.printed ++ [t] })).unflag (Nh.STRIP_PEND n)).bump
        (Nh.STRIP_CNT n)
    else s
  | none => s
/-- STRIP_EN taken to 0 cancels a strip that has not begun (R273). -/
def State.stripCancel (s : State) (n : Ch) : State :=
  match (s.ch[n]).health.strip with
  | some t => if s.pastBoundary n t.s0 then s
    else (s.modHealth n (fun h => { h with strip := none })).unflag (Nh.STRIP_PEND n)
  | none => s

/-- The counters of analysed and of ignored or rejected strips (R292): 16 bits each, taken as saturating. -/
def State.stripSeen (s : State) : State :=
  let v := s.get Cl.STRIPS
  s.put Cl.STRIPS (withBits v 31 16 (min 0xFFFF (bits v 31 16 + 1)))
def State.stripIgnored (s : State) : State :=
  let v := s.get Cl.STRIPS
  s.put Cl.STRIPS (withBits v 15 0 (min 0xFFFF (bits v 15 0 + 1)))
/-- SEARCH, DEV_THR, WEAK_THR, MISS_THR. -/
def State.thresh (s : State) (i : Nat) : Nat := byteOf (s.get Cl.THRESH) i
/-- The prediction of R274 in camera lines, rounded toward minus infinity. -/
def State.camLine (s : State) (c : Nat) (x : Int) (pos : Pos) : Int :=
  (x + (sext 48 (s.get (Cl.CAM_OFS c)) - pos.toInt) * 65536) / ((max (s.get (Cl.CAM_LP c)) 1 : Nat) : Int)
/-- The same, rounded toward plus infinity. -/
def State.camLineUp (s : State) (c : Nat) (x : Int) (pos : Pos) : Int :=
  -((-(x + (sext 48 (s.get (Cl.CAM_OFS c)) - pos.toInt) * 65536)) / ((max (s.get (Cl.CAM_LP c)) 1 : Nat) : Int))
/-- The checks of R275 that do not concern the frame's extent. -/
def State.stripFits (s : State) (n : Ch) (c : Nat) : Bool :=
  s.get (Cl.CAM_LP c) ≤ s.get (Tr.PITCH n) && s.get (Cl.CAM_CU c) = s.get (Tr.CU n) &&
  (List.range (s.nrows n)).all (fun r => decide (6 * 65536 ≤ s.stripP n * (sext 32 (s.get (Cl.ROW_PITCH n r))).natAbs))
/-- A completed frame meets the printed strips of the channels of its context (R274, R275, R278): one wholly in the frame
waits for analysis, at most 8 in all; one cut by its edge or already behind it is ignored; one still to come stays. -/
def State.stripFrame (s : State) (c : Nat) (f : CamFrame) (px : List (Nat × List (Nat × Nat × Nat))) (lines : Nat) : State :=
  let flagged := f.flags ≠ 0 || f.badBank
  s.forCh (fun n t =>
    if t.get (Cl.CONTEXT n) ≠ c then t
    else (t.ch[n]).health.printed.foldl (fun (u : State) (p : Strip) =>
      let a := u.camLine c (p.xs.headD 0) f.pos
      let b := u.camLine c (p.xs.getLastD 0) f.pos
      let se : Int := u.thresh 0
      let lo := min a b - se
      let hi := max a b + se
      let gone := fun (v : State) => v.modHealth n (fun h => { h with printed := h.printed.filter (fun x => x ≠ p) })
      if (lines : Int) ≤ lo then u
      else if lo < 0 ∨ (lines : Int) ≤ hi ∨ flagged ∨ !u.stripFits n c ∨ 8 ≤ u.pix.jobs.length then (gone u).stripIgnored
      else { gone u with pix := { u.pix with jobs := u.pix.jobs ++ [⟨n, p.s0, f.pos, c, f.id, p.xs, px⟩] } }) t)

/-- Twice the median of a list. -/
def median2 (l : List Int) : Int :=
  let q := l.mergeSort (fun a b => decide (a ≤ b))
  nthZ q ((q.length - 1) / 2) + nthZ q (q.length / 2)
/-- The component of a pixel that AnalysisComponent names (R312). -/
def pixComp (k : Nat) (p : Nat × Nat × Nat) : Nat :=
  match k with | 0 => p.1 | 1 => p.2.1 | 2 => p.2.2 | _ => (p.1 + p.2.1 + p.2.2) / 3
/-- The nominal x of a nozzle in 1/65,536 px (R276). -/
def State.nozX (s : State) (n : Ch) (i : Nat) : Int :=
  let rq := rowAt (s.ch[n]).store.rows 0 i
  sext 32 (s.get (Cl.ROW_X0 n rq.1)) + rq.2 * sext 32 (s.get (Cl.ROW_PITCH n rq.1))
/-- The strip line that nozzle q of row r prints on (R271). -/
def State.dotLine (s : State) (n : Ch) (r q : Nat) : Nat := r * (s.stripP n + s.get (Nh.STRIP_G n)) + q % s.stripP n
/-- The camera lines of image line u of a strip, before the shift: from the one it begins in to the one it ends in (R276). -/
def State.dotRows (s : State) (n : Ch) (j : StripJob) (u : Nat) : Int × Int :=
  let x := nthZ j.xs u
  let y := x + (if s.get (Tr.MODE n) = 1 then -1 else 1) * (s.get (Tr.PITCH n) : Int)
  let lo := s.camLine j.ctx (min x y) j.pos
  (lo, max lo (s.camLineUp j.ctx (max x y) j.pos - 1))
/-- The pixels of a range of camera lines of a strip's frame, as the component analysed. -/
def StripJob.inLines (j : StripJob) (lo hi : Int) : List (Nat × List (Nat × Nat × Nat)) :=
  j.lines.filter (fun l => decide (lo ≤ (l.1 : Int)) && decide ((l.1 : Int) ≤ hi))
/-- The paper level of a band at a displacement (R276): the mean over the camera lines of its G blank lines, but for the first and the
last of them where there are others (DESIGN CHOICE, log entry 64). -/
def State.paperLevel (s : State) (n : Ch) (j : StripJob) (r : Nat) (move : Int) : Nat :=
  let rs := (List.range (s.get (Nh.STRIP_G n))).map (fun g => s.dotRows n j (r * (s.stripP n + s.get (Nh.STRIP_G n)) + s.stripP n + g))
  let lo := rs.foldl (fun (a : Int) (x : Int × Int) => min a x.1) ((rs.headD (0, 0)).1) + move
  let hi := rs.foldl (fun (a : Int) (x : Int × Int) => max a x.2) ((rs.headD (0, 0)).2) + move
  let inner := j.inLines (lo + 1) (hi - 1)
  let px := (if inner = [] then j.inLines lo hi else inner).flatMap (fun l => l.2.map (pixComp (s.get (Cl.COMPONENT n))))
  (roundDiv (px.foldl (· + ·) 0 : Nat) px.length).toNat
/-- The darkness D of a dot, and its moment about the nominal x in 1/65,536 px (R276): paper less pixel over its box, which is P ×
|XPITCH| / 2 wide about its nominal x and reaches over the camera lines of its image line, displaced, and one line on each side. -/
def State.dotSum (s : State) (n : Ch) (j : StripJob) (i : Nat) (move : Int) (paper : Nat) : Int × Int :=
  let rq := rowAt (s.ch[n]).store.rows 0 i
  let ab := s.dotRows n j (s.dotLine n rq.1 rq.2)
  let half : Nat := s.stripP n * (sext 32 (s.get (Cl.ROW_PITCH n rq.1))).natAbs / 4
  let k := s.get (Cl.COMPONENT n)
  (j.inLines (ab.1 + move - 1) (ab.2 + move + 1)).foldl (fun (a : Int × Int) (l : Nat × List (Nat × Nat × Nat)) =>
    l.2.zipIdx.foldl (fun (b : Int × Int) (p : (Nat × Nat × Nat) × Nat) =>
      let x : Int := (p.2 : Int) * 65536 - s.nozX n i
      let d : Int := (paper : Int) - pixComp k p.1
      if x.natAbs ≤ half then (b.1 + d, b.2 + d * x) else b) a) (0, 0)
/-- The nozzles of a row that print dots. -/
def State.bandDots (s : State) (n : Ch) (r : Nat) : List Nat :=
  (List.range (s.nozzles n)).filter (fun i => (rowAt (s.ch[n]).store.rows 0 i).1 = r && !Ent.HMASK (s.entry n i))
/-- The dot response of a band at a displacement (R276): the darkness of its dots together (DESIGN CHOICE, log entry 64). -/
def State.bandResp (s : State) (n : Ch) (j : StripJob) (r : Nat) (move : Int) : Int :=
  let p := s.paperLevel n j r move
  (s.bandDots n r).foldl (fun (a : Int) (i : Nat) => a + (s.dotSum n j i move p).1) 0
/-- The displacement of up to k lines with the strongest response, the smallest of equals. -/
def bestMove (k : Nat) (f : Int → Int) : Int :=
  ((List.range k).flatMap (fun (i : Nat) => [-((i : Int) + 1), (i : Int) + 1])).foldl (fun (b : Int × Int) (d : Int) =>
    let v := f d
    if b.2 < v then (d, v) else b) (0, f 0) |>.1
/-- The strip's displacement δ, and with it that of a band, refined by up to 2 lines (R276). -/
def State.stripShift (s : State) (n : Ch) (j : StripJob) : Int :=
  bestMove (s.thresh 0) (fun d => (List.range (s.nrows n)).foldl (fun (a : Int) (r : Nat) => a + s.bandResp n j r d) 0)
def State.bandShift (s : State) (n : Ch) (j : StripJob) (shift : Int) (r : Nat) : Int :=
  shift + bestMove 2 (fun d => s.bandResp n j r (shift + d))
/-- What is measured of a dot: its centroid and its darkness. The spec states no centroid of a dot of darkness 0: a free value (log
entry 3). -/
def State.measureDot (s : State) (n : Ch) (j : StripJob) (i : Nat) (move : Int) (paper : Nat) : StripDot × Int :=
  let x := s.dotSum n j i move paper
  (⟨i, if x.1 = 0 then (Config.freeNat (s.ctr + i) : Int) else roundDiv (if x.1 < 0 then -x.2 else x.2) x.1.natAbs⟩, x.1)
/-- The dots of a strip as measured, band by band. -/
def State.stripDots (s : State) (n : Ch) (j : StripJob) (shift : Int) : List (StripDot × Int) :=
  let bands := (List.range (s.nrows n)).map (fun r => let m := s.bandShift n j shift r; (m, s.paperLevel n j r m))
  (List.range (s.nozzles n)).map (fun i =>
    let b := bands.getD (rowAt (s.ch[n]).store.rows 0 i).1 (0, 0)
    s.measureDot n j i b.1 b.2)
/-- The finding of a dot (R277): 0 OK, 1 WEAK, 2 MISSING, 3 DEVIATED, 4 MASKED. -/
def State.dotFinding (s : State) (n : Ch) (med2 : Int) (res : Int) (row : Nat) (dark : Int) (d : StripDot) : Nat :=
  if Ent.HMASK (s.entry n d.nozzle) then 4
  else if dark * 512 < s.thresh 3 * med2 then 2
  else if dark * 512 < s.thresh 2 * med2 then 1
  else if s.thresh 1 * (sext 32 (s.get (Cl.ROW_PITCH n row))).natAbs < (d.dev - res).natAbs * 256 then 3
  else 0
/-- XRES of a row (R276): the mean offset of its dots that are neither masked, missing nor weak (log entry 64). -/
def meanDev (l : List Int) : Int := if l = [] then 0 else roundDiv (l.foldl (· + ·) 0) l.length
/-- The stitch reports of a channel and its neighbour, once both strips lay in the same frame (R288). -/
def State.stitchReport (s : State) (n : Ch) : State :=
  let m := s.get (Cl.STITCH n)
  match (s.ch[n]).health.rep, (if m < 8 ∧ m ≠ n then (s.ch[(Fin.ofNat 8 m : Ch)]).health.rep else none) with
  | some a, some b =>
    if a.ctx ≠ b.ctx ∨ a.frame ≠ b.frame then s
    else
      let t := s.put (Cl.STITCH_ALONG n) (wrap 32 (b.y - a.y))
      match b.x0, a.xl with
      | some x, some y => t.put (Cl.GAP n) (wrap 32 (roundDiv (x - y - sext 32 (s.get (Cl.ROW_PITCH n (s.nrows n - 1)))) 4096))
      | _, _ => t
  | _, _ => s
/-- The reports of R288: each row's residual, the residual along the web, the strip's line, and the stitch to and from a neighbour. -/
def State.stripReport (s : State) (n : Ch) (j : StripJob) (dots : List StripDot) (rowX : List Int) (shift : Int) : State :=
  let y := roundDiv (shift * s.get (Cl.CAM_LP j.ctx)) 4096
  let xOf := fun (i : Nat) => (dots.find? (fun d => d.nozzle = i)).map (fun d => s.nozX n i + d.dev)
  let s1 := (List.range (s.nrows n)).foldl (fun (t : State) (r : Nat) =>
    t.put (Cl.ROW_RES n r) (wrap 16 (roundDiv (nthZ rowX r) 4096))) s
  let s2 := ((s1.put (Cl.ALONG n) (wrap 32 y)).put (Cl.REPORT n) j.s0).modHealth n (fun h => { h with
    rep := some ⟨j.ctx, j.frame, y, xOf 0, xOf (s.nozzles n - 1)⟩ })
  s2.forCh (fun m t => if m = n ∨ s.get (Cl.STITCH m) = n then t.stitchReport m else t)
/-- A strip's analysis (R276 to R278, R288): findings of an accepted strip become observations, in the order of the nozzles. One that met
a parity error at an offset of the closure working memory is ignored, and the error is reported (R412). -/
def State.stripAnalysis (s : State) (n : Ch) (par : Option Nat) : State :=
  match s.pix.jobs.find? (fun j => j.ch = (n : Nat)) with
  | none => s
  | some j =>
    let s1 : State := State.closureTouch { s with pix := { s.pix with jobs := s.pix.jobs.erase j } }
    match par with
    | some ofs => (s1.parityNote 1 ofs).stripIgnored
    | none =>
      let shift := s.stripShift n j
      let rowOf := fun i => (rowAt (s.ch[n]).store.rows 0 i).1
      let dark := s.stripDots n j shift
      let med := fun (r : Nat) => median2 ((dark.filter (fun x => rowOf x.1.nozzle = r)).map (fun x => x.2))
      let rowX := (List.range (s.nrows n)).map (fun r => meanDev ((dark.filter (fun (x : StripDot × Int) =>
        rowOf x.1.nozzle = r && (let f := s.dotFinding n (med r) x.1.dev r x.2 x.1; f = 0))).map (fun x => x.1.dev)))
      let fd := dark.map (fun (x : StripDot × Int) =>
        let r := rowOf x.1.nozzle
        (x.1.nozzle, s.dotFinding n (med r) (nthZ rowX r) r x.2 x.1))
      let judged := fd.filter (fun (x : Nat × Nat) => x.2 ≠ 4)
      let good := (judged.filter (fun (x : Nat × Nat) => x.2 = 0)).length
      let s2 := State.stripReport { s1.stripSeen with ctr := s1.ctr + s.nozzles n } n j (dark.map (fun x => x.1)) rowX shift
      if 4 * good < 3 * judged.length then s2.stripIgnored
      else s2.modHealth n (fun h => { h with obs := h.obs ++ fd.map (fun (x : Nat × Nat) => (x.1, true, x.2, 0)) })

/-! ### Evidence and verdicts (R279 to R287) -/

def atLeast (k : Nat) (l : List Nat) (p : Nat → Bool) : Bool := k ≤ (l.filter p).length
/-- Sense evidence as a STATUS code (R279). -/
def senseEvid (pol : Nat) (l : List Nat) : Nat :=
  let k := pol / 16
  let m := l.take (pol % 16)
  if l.length < pol % 16 then 0
  else if atLeast k m (fun c => c = 2) then 4 else if atLeast k m (fun c => c = 2 || c = 1) then 2 else 1
/-- Camera evidence as a STATUS code (R279). -/
def stripEvid (pol : Nat) (l : List Nat) : Nat :=
  let k := pol / 16
  let m := l.take (pol % 16)
  if l.length < pol % 16 then 0
  else if atLeast k m (fun c => c = 2) then 4
  else if atLeast k m (fun c => c = 3) then 3
  else if atLeast k m (fun c => c = 2 || c = 1) then 2 else 1
/-- The kept observations of a nozzle. -/
def State.evidOf (s : State) (n : Ch) (i : Nat) : Evid :=
  ((s.ch[n]).health.evid.find? (fun e => e.noz = i)).getD ⟨i, none, [], [], 0, 0⟩
def State.setEvid (s : State) (n : Ch) (e : Evid) : State :=
  s.modHealth n (fun h => { h with evid := h.evid.filter (fun x => x.noz ≠ e.noz) ++ [e] })
/-- An observation kept (R279, R281). -/
def Evid.keep (e : Evid) (strip : Bool) (code : Nat) (dev : Int) : Evid :=
  if strip then
    { e with strip := (code :: e.strip).take 8, okRun := if code = 0 then min 255 (e.okRun + 1) else 0
             okSince := if code = 0 then min 255 (e.okSince + 1) else 0 }
  else { e with sense := (code :: e.sense).take 8, sd := some dev, okSince := if code = 2 then 0 else e.okSince }

/-- What the engine wrote last to an entry, groups not yet passed on included. -/
def State.entryView (s : State) (n : Ch) (i : Nat) : Nat :=
  (s.ch[n]).health.verdicts.flatten.foldl (fun (v : Nat) (w : VWrite) =>
    if w.noz = i then closureMerge v w.mask w.val else v)
    (s.entryWritten n i)
/-- Another entry than i names j as its target. -/
def State.named (s : State) (n : Ch) (i j : Nat) : Bool :=
  (List.range (s.nozzles n)).any (fun x => x ≠ i && (let e := s.entryView n x; Ent.SUB_EN e && Ent.SUB_IDX e = j))
/-- j may substitute for i (R283); `not` are the nozzle that is failing in this decision and the targets it has given out. A radius
of 0 leaves the same row only (R292). -/
def State.subOk (s : State) (n : Ch) (i j : Nat) (not : List Nat) : Bool :=
  let rows := (s.ch[n]).store.rows
  let ri := (rowAt rows 0 i).1
  let rj := (rowAt rows 0 j).1
  let e := s.entryView n j
  let geo := s.get (Cl.CONTEXT n) ≠ 0xFF
  let near := ri = rj && (j = i + 1 || i = j + 1)
  let far := geo && (ri = rj || (s.get (Tr.MODE n) ≠ 2 && 0 < s.get Cl.RADIUS)) && s.rowE n 0 rj ≤ s.rowHist n ri &&
    (s.nozX n j - s.nozX n i).natAbs ≤ s.get Cl.RADIUS * 4096
  j ≠ i && !not.contains j && j < s.nozzles n && Ent.STATUS e ≤ 1 && !Ent.CMASK e && !Ent.HMASK e && !Ent.SUB_EN e && (near || far) &&
    !s.named n i j
/-- The substitute of nozzle i (R283): the nearest candidate, the lower number first on a tie. -/
def State.substitute (s : State) (n : Ch) (i : Nat) (not : List Nat) : Option Nat :=
  let cs := (List.range (s.nozzles n)).filter (fun j => s.subOk n i j not)
  cs.foldl (fun (b : Option Nat) (j : Nat) => match b with
    | none => some j
    | some x => if s.get (Cl.CONTEXT n) ≠ 0xFF ∧ (s.nozX n j - s.nozX n i).natAbs < (s.nozX n x - s.nozX n i).natAbs then some j else b) none
/-- The engine's fields of an entry as a masked value: STATUS, CMASK, SUB_EN, SUB_IDX and, where known, SENSE_DEV. -/
def verdictVal (status : Nat) (cmask : Bool) (sub : Option Nat) (subIx : Nat) (sd : Option Int) : Nat × Nat :=
  (0xFBFFE000_00000000 + (if sd.isSome then 0x1FE0_00000000 else 0),
   status * 2 ^ 61 + (if cmask then 2 ^ 60 else 0) + (if sub.isSome then 2 ^ 59 else 0) + sub.getD subIx * 2 ^ 45 +
     wrap 8 (sd.getD 0) * 2 ^ 37)
/-- The judged status of a nozzle and whether it takes its action (R280). -/
def State.judgedStatus (s : State) (e : Evid) : Nat × Bool :=
  let a := senseEvid (s.get Cl.SENSE_POL) e.sense
  let c := stripEvid (s.get Cl.STRIP_POL) e.strip
  match s.get Cl.COMBINE with
  | 0 => (max a c, true)
  | 1 => (max a c, decide (max a c ≤ c))
  | 2 => (c, true)
  | _ => (a, true)
def State.action (s : State) (status : Nat) : Nat :=
  match status with
  | 4 => s.get Cl.ACT_MISSING | 3 => s.get Cl.ACT_DEVIATED | 2 => s.get Cl.ACT_WEAK | _ => 0
/-- The sources of a failing target, re-pointed in its decision (R284), one after the other, so that no two take one target: at most 3
beside the nozzle's own write, a group's 4 (log entry 63). `own` is the target the nozzle itself takes. -/
def State.repoint (s : State) (n : Ch) (j why : Nat) (own : Option Nat) : List VWrite :=
  ((((List.range (s.nozzles n)).filter (fun i => i ≠ j && (let e := s.entryView n i; Ent.SUB_EN e && Ent.SUB_IDX e = j))).take 3).foldl
    (fun (a : List VWrite × List Nat) (i : Nat) =>
      let e := s.entryView n i
      let t := s.substitute n i a.2
      let v := verdictVal (Ent.STATUS e) (Ent.CMASK e) t (Ent.SUB_IDX e) (s.evidOf n i).sd
      (a.1 ++ [⟨i, v.1, v.2, why⟩], t.toList ++ a.2)) ([], j :: own.toList)).1
/-- Places of a channel's verdict queue (R28). -/
def verdictDepth : Nat := 64
/-- The engine holds a verdict for want of a place in the channel's queue, and takes no further observation of it (R28). -/
def State.engineHolds (s : State) (n : Ch) : Bool := verdictDepth < (s.ch[n]).health.verdicts.length
/-- A SENSE_DEV update by itself (R266): a closure write without a decision. -/
def State.devUpdate (s : State) (n : Ch) (i : Nat) (e : Evid) : State :=
  let upd := s.get (Nh.DEV_UPD n)
  match e.sd with
  | some d =>
    if 0 < upd ∧ upd ≤ (d - sext 8 (Ent.SENSE_DEV (s.entryView n i))).natAbs then
      s.modHealth n (fun h => { h with verdicts := h.verdicts ++ [[⟨i, 0x1FE0_00000000, wrap 8 d * 2 ^ 37, 0⟩]] })
    else s
  | none => s
/-- A decision enters the verdict queue (R285). -/
def State.decideGroup (s : State) (n : Ch) (g : List VWrite) : State :=
  (s.modHealth n (fun h => { h with verdicts := h.verdicts ++ [g] })).incr Cl.DECISIONS
/-- The nozzle judged again after an observation (R281): recovery, a changed verdict, or a sense deviation that moved
(R266). `why` is 1 for a sense class, 2 for a strip finding. A held entry recovers in STATUS alone (R285). -/
def State.rejudge (s : State) (n : Ch) (i why : Nat) : State :=
  let e := s.evidOf n i
  let v := s.entryView n i
  let js := s.judgedStatus e
  let rec_ := Ent.CMASK v && 0 < s.get Cl.RECOV && s.get Cl.COMBINE ≠ 3 && s.get Cl.RECOV ≤ e.okSince
  if rec_ && (!Ent.HOLD v || Ent.STATUS v ≠ 1) then
    let w := verdictVal 1 false none (Ent.SUB_IDX v) e.sd
    s.decideGroup n [⟨i, w.1, w.2, why⟩]
  else
    let act := if js.2 && !Ent.HOLD v then s.action js.1 else 0
    let cm := Ent.CMASK v || 1 ≤ act
    let sub := if Ent.SUB_EN v then some (Ent.SUB_IDX v) else if act = 2 then s.substitute n i [i] else none
    let w := verdictVal js.1 cm sub (Ent.SUB_IDX v) e.sd
    let differs := js.1 ≠ Ent.STATUS v || cm != Ent.CMASK v || sub.isSome != Ent.SUB_EN v
    if differs then
      let fails := 2 ≤ js.1 && (Ent.STATUS v < js.1 || Ent.STATUS v = 5)
      s.decideGroup n (⟨i, w.1, w.2, why⟩ :: (if fails then s.repoint n i why sub else []))
    else if why = 1 then s.devUpdate n i e
    else s
/-- A MASKED finding (R277): the engine writes STATUS 5, the other fields of the verdict as they stand (R266, R285). -/
def State.maskedVerdict (s : State) (n : Ch) (i : Nat) : State :=
  let v := s.entryView n i
  let w := verdictVal 5 (Ent.CMASK v) (if Ent.SUB_EN v then some (Ent.SUB_IDX v) else none) (Ent.SUB_IDX v) (s.evidOf n i).sd
  if Ent.STATUS v = 5 then s else s.decideGroup n [⟨i, w.1, w.2, 2⟩]
/-- The closure engine takes the oldest observation (R262, R277, R279, R287), unless it holds a verdict. With ClosureEnable 0 no
decision is made, but SENSE_DEV follows. A channel whose far end cannot route keeps no sense class (R545). -/
def State.closureObservation (s : State) (n : Ch) : State :=
  match (s.ch[n]).health.obs with
  | [] => s
  | (i, strip, code, dev) :: rest =>
    if !s.pix.on || s.engineHolds n then s
    else
      let s1 := s.modHealth n (fun h => { h with obs := rest })
      let live := s.has Cl.ENABLE
      if strip && code = 4 then (if live then s1.maskedVerdict n i else s1)
      else if !strip && (3 ≤ code || !s.canRoute n) then s1
      else
        let s2 := s1.setEvid n ((s.evidOf n i).keep strip code dev)
        if live then s2.rejudge n i (if strip then 2 else 1)
        else if strip then s2
        else s2.devUpdate n i (s2.evidOf n i)

/-- LogDetail of a write that took an entry from `old` to `new` (R292). -/
def logDetail (old new why : Nat) : Nat :=
  let b := fun (x : Bool) (k : Nat) => if x then 2 ^ k else 0
  Ent.STATUS new * 2 ^ 29 + Ent.STATUS old * 2 ^ 26 + b (Ent.CMASK new) 25 + b (Ent.SUB_EN new) 24 + Ent.SUB_IDX new * 2 ^ 11 + why * 2 ^ 9
/-- An entry of the verdict log, and its cause (R286, R421). -/
def State.verdictNote (s : State) (n : Ch) (i line old new why : Nat) : State :=
  (State.incr { s with verdictLog :=
    (((n : Nat) * 2 ^ 61 + i * 2 ^ 48 + line % 2 ^ 48, logDetail old new why) :: s.verdictLog).take 256 } Cl.LOG_CNT).cause 20
/-- A closure write takes effect on line k (R171, R286): CLOSE_CNT, the verdict log, and the EMCY of R341 for a decision's
write; a SENSE_DEV update alone tells nothing. The bytes of that EMCY are returned. DESIGN CHOICE (log entry 77): a write whose entry
reads uncorrectable is discarded, with no WREJ, no count and no log entry. -/
def State.applyClosure (s : State) (n : Ch) (i mask val line why : Nat) : State × Option (List Byte) :=
  let old := s.entry n i
  let new := closureMerge old mask val
  if i ∈ (s.ch[n]).badEntries then (s, none)
  else
    let s1 := (s.setEntry n i new).tblDone n line
    if why = 0 then (s1, none)
    else
      let b := fun (x : Bool) (k : Nat) => if x then 2 ^ k else 0
      (s1.verdictNote n i line old new why,
       some (leBytes 2 i ++ [BitVec.ofNat 8 (Ent.STATUS new + b (Ent.CMASK new) 3 + b (Ent.SUB_EN new) 4), 0]))

/-! ### Register block (R289, R290) -/

/-- A read of RES_LINE_LO takes the words of the last result together (R289). -/
def State.resultLatch (s : State) (n : Ch) : State :=
  match (s.ch[n]).health.last with
  | none => s
  | some r =>
    [(Nh.CLASS n, r.cls), (Nh.NOZ n, r.noz), (Nh.DEV n, wrap 8 r.dev), (Nh.LAG n, wrap 4 r.lag), (Nh.RHO n, r.rho),
      (Nh.AMP n, r.amp), (Nh.NSAMP n, r.len), (Nh.ROW n, r.row), (Nh.RES_LINE_LO n, r.line),
      (Nh.RES_LINE_HI n, r.line / 2 ^ 32)].foldl (fun (t : State) (x : Fld × Nat) => t.put x.1 x.2) s
/-- A stake that does not read the channel's unit, or MODE 2, refuses STRIP_EN = 1 (R270, R273). -/
def State.stripStakeBad (s : State) (n : Ch) (stk : Nat) : Bool := s.get (St.CU stk) ≠ s.get (Tr.CU n)
def healthJudge (n : Ch) (addr data : Nat) (s : State) : Option Nat :=
  let inw := fun f : Fld => f.addr = addr
  let v := fun f : Fld => bits data f.msb f.lsb
  let en := inw (Nh.STRIP_EN n) && bit data 31
  firstBad [
    (inw (Nh.SNS_EN n) && (v (Nh.SNS_CODES n) = 0 || v (Nh.SNS_LEN n) < 16 || v (Nh.SNS_LEN n) > 150 ||
      v (Nh.SNS_DLY n) < 5 || v (Nh.SNS_MIN n) < 16 || v (Nh.SNS_MIN n) > 150), abRange),
    (inw (Nh.DEV_UPD n) && (v (Nh.DEV_UPD n) > 127 || v (Nh.LAG_TOL n) > 4), abRange),
    (inw (Nh.SIG_IDX n) && v (Nh.SIG_IDX n) > 150, abRange),
    (inw (Nh.STRIP_EN n) && (v (Nh.STRIP_P n) = 0 || v (Nh.STRIP_LEVEL n) = 0), abRange),
    (inw (Nh.LEARN n) && (List.range 8).any (fun r => bit (v (Nh.LEARN n)) r && s.nrows n ≤ r), abState),
    (inw (Nh.SIG_ROW n) && s.nrows n ≤ v (Nh.SIG_ROW n) && v (Nh.SIG_ROW n) ≠ s.get (Nh.SIG_ROW n), abState),
    (s.inRun n && s.anyChange [Nh.STRIP_ST n, Nh.STRIP_P n, Nh.STRIP_G n, Nh.STRIP_LEVEL n] addr data, abState),
    (en && !s.has (Nh.STRIP_EN n) && s.get (Tr.MODE n) = 2, abState),
    (en && s.stripStakeBad n (v (Nh.STRIP_ST n)) && s.changes (Nh.STRIP_EN n) data, abCheck)] <|>
  (if inw (Nh.SIG_DATA n) then s.sigJudge n (data % 65536) else none)
/-- STRIP_EN's value in effect taken to 0 cancels a pending strip. -/
def healthApply (n : Ch) (addr data : Nat) (s : State) : State :=
  if (Nh.SIG_DATA n).addr = addr then s.sigWrite n (data % 65536)
  else if (Nh.LEARN n).addr = addr then s.learnStart n (bits data 15 8)
  else
    let t := s.writeWord (Nh.fields n) addr data (s.inRun n)
    if (Nh.STRIP_EN n).addr = addr ∧ !bit data 31 ∧ !s.inRun n then t.stripCancel n else t

end Sys2Proof.Machine
end

