-- ==== Sys2Proof/Machine/Camera.lean ====
section
/-! DEFINITION. Camera inputs and the image pipeline (chapter 9): packets and frames, line FIFOs, pixel processing, capture
start, snapshots, and the refusals of the chapter's objects. -/
namespace Sys2Proof.Machine

namespace Ca
/-- The objects of ports, contexts, banks, curves and the snapshot (R317, R318). -/
def PORT_EN (p : Nat) : Fld := objFld (0x4100 + p) 1 1 0
def LANES (p : Nat) : Fld := objFld (0x4100 + p) 2 8 4
def RATE (p : Nat) : Fld := objFld (0x4100 + p) 3 16 2500
def POLARITY (p : Nat) : Fld := objFld (0x4100 + p) 4 8 0
def HDR_ERR (p : Nat) : Fld := objFld (0x4100 + p) 6 32 0
def DROPS (p : Nat) : Fld := objFld (0x4100 + p) 7 32 0
def PEAK (p : Nat) : Fld := objFld (0x4100 + p) 8 32 0
def TRIG_W (p : Nat) : Fld := objFld (0x4100 + p) 9 8 2
def COMPONENT (n : Nat) : Fld := Cl.COMPONENT n
def EN (c : Nat) : Fld := objFld (0x4108 + c) 1 1 0
def PORT (c : Nat) : Fld := objFld (0x4108 + c) 2 8 0
def VC (c : Nat) : Fld := objFld (0x4108 + c) 3 8 0
def DT (c : Nat) : Fld := objFld (0x4108 + c) 4 8 0x2A
def WIDTH (c : Nat) : Fld := objFld (0x4108 + c) 5 16 4096
def LINES (c : Nat) : Fld := objFld (0x4108 + c) 6 16 1024
def MODE (c : Nat) : Fld := objFld (0x4108 + c) 7 8 0
def TRIG (c : Nat) : Fld := objFld (0x4108 + c) 8 1 0
def TIMEOUT (c : Nat) : Fld := objFld (0x4108 + c) 9 16 100
def TO_CL (c : Nat) : Fld := objFld (0x4108 + c) 0x0A 1 1
def FRAMES (c : Nat) : Fld := objFld (0x4108 + c) 0x0B 32 0
def FLAGGED (c : Nat) : Fld := objFld (0x4108 + c) 0x0C 32 0
def LAST (c : Nat) : Fld := objFld (0x4108 + c) 0x0D 64 0
def LAST_LINES (c : Nat) : Fld := objFld (0x4108 + c) 0x0E 32 0
def LAST_TIME (c : Nat) : Fld := objFld (0x4108 + c) 0x0F 64 0
def LINE_DROPS (c : Nat) : Fld := objFld (0x4108 + c) 0x10 32 0
def SKIPPED (c : Nat) : Fld := objFld (0x4108 + c) 0x11 32 0
def BLACK (c k : Nat) : Fld := objFld (0x4110 + c) (1 + k) 16 0
def GAIN (c k : Nat) : Fld := objFld (0x4110 + c) (4 + k) 16 0x1000
def MATRIX (c i j : Nat) : Fld := objFld (0x4110 + c) (7 + 3 * i + j) 16 (if i = j then 0x1000 else 0)
def CURVES (c : Nat) : Fld := objFld (0x4110 + c) 0x10 8 0
def CV_SEL (c : Nat) : Fld := objFld (0x4118 + c) 1 8 0
def CV_IX (c : Nat) : Fld := objFld (0x4118 + c) 2 16 0
def SN_CTX : Fld := objFld 0x4120 1 8 0
def SN_FIRST : Fld := objFld 0x4120 2 16 0
def SN_LINES : Fld := objFld 0x4120 3 16 1
def SN_DEC : Fld := objFld 0x4120 4 8 1
def SN_FMT : Fld := objFld 0x4120 5 8 0
end Ca

/-- A 16-bit half of a counter object raised, saturating; the spec does not say what it does at its end (log entry 32). -/
def State.half (s : State) (f : Fld) (hi : Bool) : State :=
  let v := s.get f
  if hi then s.put f (withBits v 31 16 (min 0xFFFF (bits v 31 16 + 1))) else s.put f (withBits v 15 0 (min 0xFFFF (bits v 15 0 + 1)))

/-! ### Packets and frames (R294 to R303) -/

/-- The pipeline and its ports run (R315). -/
def State.pixLive (s : State) : Bool := s.pix.on && s.pix.ready
/-- The enabled context that claims a packet of a port (R295). -/
def State.claim (s : State) (p vc : Nat) : Option Nat :=
  if !s.has (Ca.PORT_EN p) then none
  else [0, 1, 2, 3].find? (fun c => s.has (Ca.EN c) && s.get (Ca.PORT c) = p && s.get (Ca.VC c) = vc)
/-- A packet no context claims (R295); a port that is off receives nothing. -/
def State.unclaimed (s : State) (p : Nat) : State := if s.has (Ca.PORT_EN p) then s.half (Ca.DROPS p) false else s
def State.openFrame (s : State) (c : Nat) : Option CamFrame := (s.cam c).frames.find? (fun f => f.isOpen)
def State.modFrame (s : State) (c id : Nat) (f : CamFrame → CamFrame) : State :=
  s.modCam c (fun x => { x with frames := x.frames.map (fun y => if y.id = id then f y else y) })
/-- The snapshot ends DONE, with its frame's flags told (R313). -/
def State.snapDone (s : State) (flagged : Bool) : State :=
  { s with pix := { s.pix with snap := { s.pix.snap with armed := false, frame := none, done := true, flagged := flagged } } }
/-- The open frame closes with extra flags (R298, R299), and with it a snapshot of it that still waits for lines (R313). -/
def State.closeFrame (s : State) (c extra : Nat) : State :=
  match s.openFrame c with
  | none => s
  | some f =>
    let fl := f.flags ||| extra ||| (if f.recv < s.get (Ca.LINES c) then 1 else 0)
    let t := s.modFrame c f.id (fun y => { y with isOpen := false, flags := fl })
    if s.pix.snap.frame = some (c, f.id) then t.snapDone (fl ≠ 0) else t
/-- The bank as a frame takes it (R310). -/
def State.bankOf (s : State) (c : Nat) : Bank :=
  { bl := [0, 1, 2].map (fun k => s.get (Ca.BLACK c k)), gain := [0, 1, 2].map (fun k => s.get (Ca.GAIN c k))
    mtx := [0, 1, 2].flatMap (fun i => [0, 1, 2].map (fun j => sext 16 (s.get (Ca.MATRIX c i j)))), en := s.get (Ca.CURVES c) }
def State.camPort (s : State) (p : Nat) : CamPort := s.pix.ports.getD p CamPort.reset
def State.modPort (s : State) (p : Nat) (f : CamPort → CamPort) : State :=
  { s with pix := { s.pix with ports := s.pix.ports.mapIdx (fun i x => if i = p then f x else x) } }
/-- A packet's header comes in on an enabled port: its clock lane runs, above 1,500 Mbit/s its skew is calibrated (R293, R317; log entry
65), and a single-bit error of the header is corrected and counted (R294). -/
def State.headerIn (s : State) (p : Nat) (ecc : Bool) : State :=
  if !s.pixLive || !s.has (Ca.PORT_EN p) then s
  else
    let t := s.modPort p (fun q => { q with clock := true, skew := decide (1500 < s.get (Ca.RATE p)) })
    if ecc then t.half (Ca.HDR_ERR p) true else t
/-- PortStatus (R317). -/
def State.portStatus (s : State) (p : Nat) : Nat :=
  let q := s.camPort p
  if s.has (Ca.PORT_EN p) then 1 + 2 * q.clock.toNat + 4 * q.skew.toNat else 0
/-- The bank a frame is to take reads with a parity error: reported, until the station processor has rewritten it (R412). The bank of
context c is the 8 KiB from 0x057_8000 + 0x2000 × c (R314). -/
def State.bankParity (s : State) (c : Nat) (ofs : Option Nat) : State :=
  match ofs with
  | some o => (s.parityNote 1 (bankBase + 0x2000 * c + o % 0x2000)).modCam c (fun x => { x with bankBad := true })
  | none => s
/-- A Frame Start (R297, R299, R301, R303, R310, R313). -/
def State.frameStart (s0 : State) (p vc : Nat) (bank : Option Nat) : State :=
  if !s0.pixLive then s0
  else match s0.claim p vc with
  | none => s0.unclaimed p
  | some c =>
    let s := (s0.sliceTouch 1 (bankBase + 0x2000 * c) 32).bankParity c bank
    let s1 := s.closeFrame c 0x40
    if s.get (Ca.MODE c) = 1 ∧ !(s.cam c).armed then s1.incr (Ca.SKIPPED c)
    else
      let m : Cun := Fin.ofNat 4 (s.get (Cl.CAM_CU c))
      let id := (s.cam c).nextId
      let f : CamFrame := { id := id, flags := if (s.cu[m]).ssiLost then 0x100 else 0, recv := 0, inPipe := 0,
                            pos := (s.cu[m]).pos, tb := s.tb, bank := s.bankOf c, isOpen := true, badBank := (s.cam c).bankBad, void := false }
      let s2 := s1.modCam c (fun x => { x with armed := false, nextId := id + 1, frames := x.frames ++ [f] })
      if s.pix.snap.armed ∧ s.pix.snap.frame = none ∧ s.get Ca.SN_CTX = c then
        { s2 with pix := { s2.pix with snap := { s2.pix.snap with frame := some (c, id) } } }
      else s2
/-- The expected word count of a line (R296). -/
def wordCount (dt w : Nat) : Nat :=
  if dt = 0x2A then w else if dt = 0x2B then 5 * w / 4 else if dt = 0x2C then 3 * w / 2 else 3 * w
def fifoBytes : Nat := 262144
def fifoFill (f : List CamLine) : Nat := f.foldl (fun (a : Nat) (l : CamLine) => a + l.bytes.length) 0
def longTypes : List Nat := [0x2A, 0x2B, 0x2C, 0x24]
/-- A long packet (R294, R295, R297, R298, R304). -/
def State.longPacket (s : State) (p vc dt : Nat) (bytes : List Byte) (crcOk : Bool) : State :=
  if !s.pixLive then s
  else match s.claim p vc with
  | none => s.unclaimed p
  | some c =>
    match s.openFrame c with
    | none => s.unclaimed p
    | some f =>
      if !(dt ∈ longTypes) then s.unclaimed p
      else
        let N := s.get (Ca.LINES c)
        let other := decide (dt ≠ s.get (Ca.DT c))
        let late := decide (N ≤ f.recv)
        let full := decide (fifoBytes < fifoFill (s.camPort p).fifo + bytes.length)
        let fl := (if late then 2 else 0) + (if other then 0x200 else 0) +
          (if !other && !late && bytes.length ≠ wordCount dt (s.get (Ca.WIDTH c)) then 4 else 0) +
          (if !other && !late && full then 8 else 0) + (if !other && !late && !crcOk then 0x10 else 0)
        let s1 := s.modFrame c f.id (fun y => { y with recv := y.recv + 1, flags := y.flags ||| fl })
        if other || late then s1
        else if full then (s1.half (Ca.DROPS p) true).incr (Ca.LINE_DROPS c)
        else
          let s2 := (s1.modFrame c f.id (fun y => { y with inPipe := y.inPipe + 1 })).modPort p (fun q =>
            { q with fifo := q.fifo ++ [⟨c, f.id, f.recv, dt, bytes⟩] })
          s2.put (Ca.PEAK p) (max (s2.get (Ca.PEAK p)) (fifoFill (s2.camPort p).fifo))
/-- A Frame End (R295, R299). -/
def State.frameEnd (s : State) (p vc : Nat) : State :=
  if !s.pixLive then s
  else match s.claim p vc with
  | none => s.unclaimed p
  | some c => if (s.openFrame c).isSome then s.closeFrame c 0 else s.unclaimed p
/-- No packet for FrameTimeout (R299); 0 disables it. -/
def State.frameTimeout (s : State) (c : Nat) : State :=
  if s.get (Ca.TIMEOUT c) = 0 then s else s.closeFrame c 0x40
/-- A packet with an uncorrectable header (R294, R298). -/
def State.badHeader (s : State) (p : Nat) : State :=
  if !s.pixLive || !s.has (Ca.PORT_EN p) then s
  else [0, 1, 2, 3].foldl (fun (t : State) (c : Nat) =>
    if t.get (Ca.PORT c) = p then
      t.modCam c (fun x => { x with frames := x.frames.map (fun f => if f.isOpen then { f with flags := f.flags ||| 0x20 } else f) })
    else t) (s.half (Ca.HDR_ERR p) false)

/-! ### Pixel processing (R307 to R309) -/

/-- The pixel components of a raw line, undone from the CSI-2 packing (log entry 33) and shifted to 12 bits (R307). -/
def unpack (dt w : Nat) (bs : List Byte) : List (Nat × Nat × Nat) :=
  let b := fun i => (bs.getD i 0).toNat
  let mono := fun (v : Nat) => (v, v, v)
  (List.range w).map (fun x =>
    if dt = 0x2A then mono (b x * 16)
    else if dt = 0x2B then mono ((b (x / 4 * 5 + x % 4) * 4 + b (x / 4 * 5 + 4) / 4 ^ (x % 4) % 4) * 4)
    else if dt = 0x2C then mono (b (x / 2 * 3 + x % 2) * 16 + b (x / 2 * 3 + 2) / 16 ^ (x % 2) % 16)
    else (b (3 * x + 2) * 16, b (3 * x + 1) * 16, b (3 * x) * 16))
/-- The tone curve (R309). -/
def toneCurve (t : List Nat) (v : Nat) : Nat :=
  let a := v / 4
  let f := v % 4
  (((4 - f) * nth t a + f * nth t (min (a + 1) 1023)) * 2 + 4) / 8
/-- The four steps of R308 on one pixel. -/
def pixel (bk : Bank) (curves : List (List Nat)) (px : Nat × Nat × Nat) : Nat × Nat × Nat :=
  let v2 := [px.1, px.2.1, px.2.2].mapIdx (fun k v0 => min 4095 (((v0 - nth bk.bl k) * nth bk.gain k * 2 + 4096) / 8192))
  let out := fun i =>
    let sum := (List.range 3).foldl (fun (a : Int) (j : Nat) => a + nthZ bk.mtx (3 * i + j) * nth v2 j) 0
    let v3 := (clamp 0 4095 (roundDiv sum 4096)).toNat
    if bit bk.en i then toneCurve (curves.getD i []) v3 else v3
  (out 0, out 1, out 2)
/-- The bytes a snapshot keeps of a line (R313). -/
def snapBytes (fmt dec : Nat) (px : List (Nat × Nat × Nat)) : List Byte :=
  ((List.range px.length).filter (fun x => x % max dec 1 = 0)).flatMap (fun x =>
    let v := px.getD x (0, 0, 0)
    let y := [v.1, v.2.1, v.2.2].map (fun (c : Nat) => BitVec.ofNat 8 (c / 16))
    if fmt = 0 then y else [y.getD (fmt - 1) 0])
/-- A processed line reaches the closure engine and the snapshot (R312, R313). -/
def State.lineOut (s : State) (l : CamLine) (f : CamFrame) (px : List (Nat × Nat × Nat)) : State :=
  let s1 := if s.has (Ca.TO_CL l.ctx) then (s.modCam l.ctx (fun x => { x with out := x.out ++ [(l.no, px)] })).closureTouch else s
  let first := s.get Ca.SN_FIRST
  if s.pix.snap.frame = some (l.ctx, l.frame) ∧ first ≤ l.no ∧ l.no < first + s.get Ca.SN_LINES then
    let bs := snapBytes (s.get Ca.SN_FMT) (s.get Ca.SN_DEC) px
    let at0 := s1.pix.snap.at0
    let s2 : State := State.sliceTouch { s1 with pix := { s1.pix with snap := { s1.pix.snap with
      lines := s1.pix.snap.lines + 1, at0 := at0 + bs.length
      buf := s1.pix.snap.buf.take at0 ++ bs ++ s1.pix.snap.buf.drop (at0 + bs.length) } } } 1 (snapBase + at0) bs.length
    if l.no + 1 = first + s.get Ca.SN_LINES then s2.snapDone (f.flags ≠ 0) else s2
  else s1
/-- The port served next (R305). -/
def State.pipePort (s : State) : Option Nat :=
  match (s.camPort 0).fifo, (s.camPort 1).fifo with
  | [], [] => none
  | _ :: _, [] => some 0
  | [], _ :: _ => some 1
  | _, _ => some (1 - s.pix.last % 2)
/-- The pipeline's reads of the enabled curves of a bank for a line (R309, R406). -/
def State.curvesTouch (s : State) (c en : Nat) : State :=
  [0, 1, 2].foldl (fun (t : State) (i : Nat) =>
    if bit en i then t.sliceTouch 1 (bankBase + 0x2000 * c + 0x800 + 0x800 * i) 0x800 else t) s
/-- The place in a bank of a word of wrong parity that a line met: offsets from 0x4_0000 on stand for the bank, those below for the FIFO. -/
def curvePar (par : Option Nat) : Option Nat := par.bind (fun o => if o < 0x40000 then none else some (o - 0x40000))
/-- The pipeline takes one line (R299, R304, R305); a parity error of the FIFO's word is reported and the byte goes on as stored, and so is
one of a word of the bank whose curves the line is corrected with (R411, R412). Lines of a context disabled since are discarded. -/
def State.pipelineLine (s : State) (par : Option Nat) : State :=
  if !s.pixLive then s
  else match s.pipePort with
  | none => s
  | some p =>
    match (s.camPort p).fifo with
    | [] => s
    | l :: rest =>
      let s0 := match par with | some o => (if o < 0x40000 then s.parityNote (11 + p) o else s) | none => s
      let s1 := s0.modPort p (fun q => { q with fifo := rest })
      let s2 : State := { s1 with pix := { s1.pix with last := p } }
      match (s.cam l.ctx).frames.find? (fun f => f.id = l.frame) with
      | none => s2
      | some f =>
        let s3 := s2.modFrame l.ctx f.id (fun y => { y with inPipe := y.inPipe - 1 })
        if f.void then s3
        else ((s3.curvesTouch l.ctx f.bank.en).bankParity l.ctx (curvePar par)).lineOut l f ((unpack l.dt (s.get (Ca.WIDTH l.ctx)) l.bytes).map (pixel f.bank (s.cam l.ctx).curves))
/-- The oldest frame of a context is complete (R300, R313, R275). -/
def State.frameComplete (s : State) (c : Nat) : State :=
  match (s.cam c).frames with
  | [] => s
  | f :: rest =>
    if f.isOpen ∨ f.inPipe ≠ 0 ∨ !s.pixLive then s
    else
      let s1 := s.modCam c (fun x => { x with frames := rest, out := [] })
      let s2 := (s1.put (Ca.LAST c) (f.flags * 2 ^ 48 + f.pos.toNat)).incr (Ca.FRAMES c)
      let s3 := (s2.put (Ca.LAST_LINES c) (min f.recv 0xFFFF * 65536 + (f.id + 1) % 65536)).put (Ca.LAST_TIME c) f.tb
      let s4 := (if f.flags = 0 then s3 else s3.incr (Ca.FLAGGED c)).pulse (0x39 + c)
      if s.has (Ca.TO_CL c) then s4.stripFrame c f (s.cam c).out (s.get (Ca.LINES c)) else s4

/-! ### Capture start, snapshot, curves (R301, R302, R311, R313) -/

/-- A pulse at sink 32 + c (R301, R302): CPp_TRIG rises 2 CORE_CLK cycles later, for TriggerWidth from then. -/
def State.captureSink (s : State) (c : Nat) : State :=
  if !s.pix.on then s
  else
    let s1 := if s.get (Ca.MODE c) = 1 then s.modCam c (fun x => { x with armed := true }) else s
    let p := s.get (Ca.PORT c)
    if s.has (Ca.TRIG c) then (s1.modPort p (fun q => { q with trig := true, till := s.tb + 32 + usTicks (s.get (Ca.TRIG_W p)) })).emit (.trig p true) else s1
/-- CPp_TRIG falls, unless a pulse has restarted its width (R302). -/
def State.trigEnd (s : State) (p : Nat) : State :=
  if (s.camPort p).trig ∧ (s.camPort p).till ≤ s.tb then (s.modPort p (fun q => { q with trig := false })).emit (.trig p false) else s
/-- Bytes of the snapshot set up (R313). -/
def State.snapSize (s : State) : Nat :=
  s.get Ca.SN_LINES * ceilDiv (s.get (Ca.WIDTH (s.get Ca.SN_CTX))) (max (s.get Ca.SN_DEC) 1) * (if s.get Ca.SN_FMT = 0 then 3 else 1)
def snapJudge (v : Nat) (s : State) : Option Nat :=
  firstBad [(v > 1, abRange), (v = 1 && s.snapSize > 262144, abRange)]
def State.snapArm (s : State) (v : Nat) : State :=
  if v = 1 then { s with pix := { s.pix with snap :=
    { armed := true, frame := none, lines := 0, done := false, cancelled := false, flagged := false, at0 := 0, buf := s.pix.snap.buf } } }
  else if s.pix.snap.armed then { s with pix := { s.pix with snap :=
    { s.pix.snap with armed := false, frame := none, cancelled := true } } }
  else s
/-- SnapStatus (R318). -/
def State.snapStatus (s : State) : Nat :=
  let t := s.pix.snap
  let b := fun (x : Bool) (k : Nat) => if x then 2 ^ k else 0
  min t.lines 0xFFFF * 65536 + b t.flagged 3 + b t.cancelled 2 + b t.done 1 + b t.armed 0
/-- The curve entry that CurveSelect and CurveIndex name, and the move of the index past an access; it wraps (log 31). -/
def State.curveRead (s : State) (c : Nat) : Nat := nth ((s.cam c).curves.getD (s.get (Ca.CV_SEL c)) []) (s.get (Ca.CV_IX c))
def State.curveStep (s : State) (c : Nat) : State := s.put (Ca.CV_IX c) ((s.get (Ca.CV_IX c) + 1) % 1024)
def curveJudge (c v : Nat) (s : State) : Option Nat :=
  firstBad [(v > 4095, abRange), (s.has (Ca.EN c), abState)]
def State.curveWrite (s : State) (c v : Nat) : State :=
  ((s.modCam c (fun x => { x with curves := x.curves.mapIdx (fun i t =>
    if i = s.get (Ca.CV_SEL c) then t.set (s.get (Ca.CV_IX c)) v else t) })).sliceTouch 1
      (bankBase + 0x2000 * c + 0x800 + 0x800 * s.get (Ca.CV_SEL c) + 2 * s.get (Ca.CV_IX c)) 2).curveStep c
/-- A context disabled (R299, R301): its open frame closes with ABORT, and without its own Frame End; lines of it in the FIFO are
discarded when they reach the head. -/
def State.contextOff (s : State) (c : Nat) : State :=
  ((s.closeFrame c 0xC0).modCam c (fun x => { x with frames := x.frames.map (fun f => { f with void := true }) })).put (Ca.EN c) 0

/-- The refusal of a value of an object of this chapter by its range beyond a plain interval, then by state (R296, R316,
R317). -/
def camJudge (idx sub v : Nat) (s : State) : Option Nat :=
  if idx = 0x4100 ∨ idx = 0x4101 then
    let p := idx - 0x4100
    let busy := [0, 1, 2, 3].any (fun c => s.has (Ca.EN c) && s.get (Ca.PORT c) = p)
    firstBad [
      (sub = 2 && !(v ∈ [1, 2, 4]), abRange),
      (sub = 1 && v = 0 && s.has (Ca.PORT_EN p) && busy, abState),
      (sub = 2 && s.has (Ca.PORT_EN p), abState),
      (sub = 3 && s.has (Ca.PORT_EN p), abState),
      (sub = 4 && s.has (Ca.PORT_EN p), abState)]
  else if 0x4108 ≤ idx ∧ idx < 0x410C then
    let c := idx - 0x4108
    let clash := [0, 1, 2, 3].any (fun d => d ≠ c && s.has (Ca.EN d) && s.get (Ca.PORT d) = s.get (Ca.PORT c) &&
      s.get (Ca.VC d) = s.get (Ca.VC c))
    firstBad [
      (sub = 4 && !(v ∈ longTypes), abRange),
      (sub = 5 && v % 4 ≠ 0, abRange),
      (s.has (Ca.EN c) && [2, 3, 4, 5, 6, 7, 0x0A].contains sub, abState),
      (sub = 1 && v = 1 && !s.has (Ca.EN c) && clash, abState)]
  else if idx = 0x4120 ∧ sub = 4 then firstBad [(!(v ∈ [1, 2, 4, 8]), abRange)]
  else none

end Sys2Proof.Machine
end

