-- ==== Sys2Proof/Machine/Thermal.lean ====
section
/-! DEFINITION. Temperature sensing and protection (chapter 11): samples, throttle, trip and hold, broken sensors, what a line
boundary takes of them, the die trips, and the register blocks. -/
namespace Sys2Proof.Machine

/-! ### Samples (R349 to R351) -/

/-- Binary digits of log2 of a number in [1, 2) scaled by 2^60: k digits after the point. -/
def log2Frac : Nat → Nat → Nat → Nat
  | 0, _, a => a
  | k + 1, x, a =>
    let y := x * x / 2 ^ 60
    if 2 ^ 61 ≤ y then log2Frac k (y / 2) (2 * a + 1) else log2Frac k y (2 * a)
/-- ln(a / b) in 1/2^48, for positive a and b. -/
def lnRatio (a b : Nat) : Int :=
  let e : Int := (Nat.log2 a : Int) - Nat.log2 b
  let x := a * 2 ^ (60 + Nat.log2 b) / (b * 2 ^ Nat.log2 a)
  let x1 := if x < 2 ^ 60 then x * 2 else x
  let e1 := if x < 2 ^ 60 then e - 1 else e
  (e1 * 2 ^ 48 + log2Frac 48 x1 0) * 195103586505167 / 2 ^ 48
/-- A sample in 1/128 °C, to nearest (log entry 34): out of range with its DIAG, valid, or (an NTC whose P2 is 0) not stated. -/
inductive Sample where
  | bad (diag : Nat)
  | good (code : Int)
deriving DecidableEq, Repr
/-- Codes outside −40.0 °C to +150.0 °C are implausible (R351). -/
def plausible (code : Int) : Sample := if code < -5120 ∨ 19200 < code then .bad 3 else .good code
/-- A diode's sample from the two voltages in µV (R349); ΔV in units of 0.1 µV. -/
def diodeSample (p1 p2 v10 v100 : Nat) : Sample :=
  if v100 > 1000000 then .bad 1 else if v100 < 150000 then .bad 2
  else
    let dv : Int := ((v100 : Int) - v10) * 10 - 9 * p2
    if p1 = 0 then .bad 3
    else plausible (roundDiv (dv * 16384 * 128 * 10 - 349632 * 1984 * p1) (1984 * p1 * 10))
/-- An NTC's sample from ρ in 1/65,536 (R350); P2 = 0 leaves the result unstated, a free value (log entry 3). -/
def ntcSample (p1 p2 rho ix : Nat) : Sample :=
  if 995 * 65536 < rho * 1000 then .bad 1 else if rho * 1000 < 5 * 65536 then .bad 2
  else if p2 = 0 then plausible (((Config.freeNat ix % 24321 : Nat) : Int) - 5120)
  else
    let l := lnRatio (rho * 4096) ((65536 - rho) * p2)
    let den : Int := 100 * p1 * 2 ^ 48 + 29815 * l
    if den ≤ 0 then .bad 3
    else plausible (roundDiv ((128 * 29815 * (p1 : Int) * 2 ^ 48 * 10) - 349632 * den) (den * 10).toNat)
/-- RAW: the last ΔV in 10 µV, or ρ (R368). -/
def rawOf (p2 : Nat) : Conv → Nat
  | .diode a b => min 0xFFFF ((((b : Int) - a) * 10 - 9 * p2).toNat / 100)
  | .ntc r => min 0xFFFF r
/-- What TYPE makes of the conversions; a conversion of another kind than TYPE is none of this input's. -/
def State.sampleOf (s : State) (m : Thi) (c : Conv) : Option Sample :=
  match s.get (Th.TYPE m), c with
  | 1, .diode a b => some (diodeSample (s.get (Th.P1 m)) (s.get (Th.P2 m)) a b)
  | 2, .ntc r => some (ntcSample (s.get (Th.P1 m)) (s.get (Th.P2 m)) r s.ctr)
  | _, _ => none

/-! ### Throttle, trip, hold, broken (R353 to R364) -/

def isHead (m : Thi) : Bool := (m : Nat) < 8
def headCh (m : Thi) : Ch := Fin.ofNat 8 m
/-- A thermal flag sets: cause 21 (R421). -/
def State.thFlag (s : State) (f : Fld) : State := (s.flag f).cause 21
/-- The throttle scale of a sample (R354). -/
def throttle (band : Nat) (code : Int) : Nat :=
  let ts : Int := 8960 - 128 * band
  if band = 0 ∨ code ≤ ts then 1024 else max 717 (1024 - (307 * (code - ts) / (128 * band : Int)).toNat)
/-- A new THETA, governing from the boundary after its cycle (R355). -/
def State.setTheta (s : State) (m : Thi) (v : Nat) : State :=
  s.modTh m (fun x => { x with
    thetaOld := if x.thetaAt < cycleOf s.tb then x.theta else x.thetaOld, theta := v, thetaAt := cycleOf s.tb })
/-- Slow sampling with an empty window (R353, R361, R364, R368). -/
def State.goSlow (s : State) (m : Thi) : State := (s.unflag (Th.FAST m)).modTh m (fun x => { x with win := [], cool := 0 })
/-- 600 s and 2 s in ticks. -/
def tripWindow : Nat := usTicks 600000000
def dwellTime : Nat := usTicks 2000000
/-- A confirmed trip of a head sensor (R356, R357, R359); one in the cycle of a die trip is that die trip alone (R366). -/
def State.trip (s : State) (m : Thi) : State :=
  let n := headCh m
  if s.has (Cc.HELD n) ∨ (s.safeNow ∧ bit (s.get Su.SAFE_COND) 0) then s
  else
    let earlier := ((s.th[m]).trips.filter (fun t => s.tb ≤ t + tripWindow)).length
    let k : TripMark := ⟨cycleOf s.tb, n, s.th[m], s.get (Th.TRIP m), s.get (Th.TRIP_CNT m)⟩
    let s0 := s.modDev (fun d => { d with trips := k :: d.trips.filter (fun x => decide (x.cyc = k.cyc)) })
    let s1 := (((s0.thFlag (Th.TRIP m)).bump (Th.TRIP_CNT m)).flag (Cc.HELD n)).condOn 0x4210 n
    let s2 := s1.modTh m (fun x => { x with
      trips := (s.tb :: x.trips).take 2, heldAt := cycleOf s.tb, heldMsg := true, restart := none })
    if 2 ≤ earlier then s2.retire n 3 else s2
/-- The run below 60.0 °C (R358). -/
def State.dwell (s : State) (m : Thi) (code : Int) : State :=
  if 7680 ≤ code then s.modTh m (fun x => { x with dwell0 := none })
  else
    let t0 := (s.th[m]).dwell0.getD s.tb
    let s1 := s.modTh m (fun x => { x with dwell0 := some t0 })
    if isHead m ∧ t0 + dwellTime ≤ s.tb ∧ s.has (Cc.HELD (headCh m)) ∧ (s.th[m]).restart = none then
      s1.modTh m (fun x => { x with restart := some (cycleOf s.tb) })
    else s1
/-- A valid sample of a board input at or above its warning level, BROKEN or not (R365, R546). -/
def State.boardWarn (s : State) (m : Thi) (code : Int) : State :=
  if !isHead m ∧ sext 16 (s.get (Th.WARN_LIM m)) ≤ code then s.thFlag (Th.WARN m) else s
/-- A valid sample of an input that is not BROKEN (R353 to R356, R365). -/
def State.validSample (s : State) (m : Thi) (code : Int) : State :=
  let s1 := s.put (Th.TEMP m) (wrap 16 code)
  if !isHead m then s1.boardWarn m code
  else
    let s2 := s1.setTheta m (throttle (s.get (Th.BAND m)) code)
    if !s.has (Th.FAST m) then
      if 8192 ≤ code then (s2.flag (Th.FAST m)).modTh m (fun x => { x with cool := 0, win := [] }) else s2
    else
      let w := (decide (8960 ≤ code) :: (s.th[m]).win).take 4
      let cool := if code < 8064 then (s.th[m]).cool + 1 else 0
      let s3 := s2.modTh m (fun x => { x with win := w, cool := cool })
      let s4 := if 3 ≤ (w.filter id).length then s3.trip m else s3
      if 100 ≤ cool then s4.goSlow m else s4
/-- An out-of-range sample (R358, R361, R362). -/
def State.badSample (s : State) (m : Thi) (diag : Nat) : State :=
  let s1 := (s.put (Th.DIAG m) diag).modTh m (fun x => { x with oor := x.oor + 1, valid := 0, cool := 0, dwell0 := none })
  if s.has (Th.BROKEN m) ∨ (s1.th[m]).oor < 8 then s1
  else
    let s2 := ((((s1.flag (Th.BROKEN m)).thFlag (Th.BRK m)).bump (Th.BRK_CNT m)).put (Th.TEMP m) 0x8000).goSlow m
    if !isHead m then s2
    else
      let s3 := (s2.setTheta m 1024).modTh m (fun x => { x with brkMsg := true })
      if s.has (Th.BRK_RETIRE m) then s3.retire (headCh m) 8 else s3
/-- A sample of an input (R351 to R365). -/
def State.thermalSample (s : State) (m : Thi) (c : Conv) : State :=
  match s.sampleOf m c with
  | none => s
  | some smp =>
    let s0 := { s with ctr := s.ctr + 1 }.put (Th.RAW m) (rawOf (if s.get (Th.TYPE m) = 1 then s.get (Th.P2 m) else 0) c)
    match smp with
    | .bad d => s0.badSample m d
    | .good code =>
      let s1 := (s0.modTh m (fun x => { x with oor := 0, valid := x.valid + 1 })).dwell m code
      if s.has (Th.BROKEN m) then
        let s2 := s1.boardWarn m code
        if 8 ≤ (s1.th[m]).valid then
          let s3 := ((s2.unflag (Th.BROKEN m)).goSlow m).put (Th.TEMP m) (wrap 16 code)
          if isHead m then s3.condOff 0x4212 (headCh m) else s3
        else s2
      else s1.validSample m code
/-- A write that changes TYPE (R368). -/
def State.typeChanged (s : State) (m : Thi) : State :=
  let s1 := (((s.unflag (Th.BROKEN m)).goSlow m).put (Th.TEMP m) 0x8000).modTh m (fun x => { x with oor := 0, valid := 0 })
  if isHead m then s1.condOff 0x4212 (headCh m) else s1

/-! ### A line boundary (R355, R357, R358, R361) -/

/-- THETA for a line whose boundary lies in a cycle (R355). -/
def State.thetaAt (s : State) (n : Ch) (cyc : Nat) : Nat :=
  let x := s.th[Fin.castLE (by decide : 8 ≤ 10) n]
  if x.thetaAt < cyc then x.theta else x.thetaOld
/-- What the boundary in a cycle takes: HELD ends or holds, THETA is fixed, and the EMCY codes of the line are told. -/
def State.thermalBoundary (s : State) (n : Ch) (cyc : Nat) : State × Bool × List Nat :=
  let m : Thi := Fin.castLE (by decide : 8 ≤ 10) n
  let ended := s.has (Cc.HELD n) && (match (s.th[m]).restart with | some c => decide (c < cyc) | none => false)
  let s1 := if ended then
      ((s.unflag (Cc.HELD n)).modTh m (fun x => { x with restart := none, heldMsg := false })).condOff 0x4210 n
    else s
  let held := s1.has (Cc.HELD n) && decide ((s1.th[m]).heldAt < cyc)
  let heldMsg := held && (s1.th[m]).heldMsg
  let brkMsg := (s1.th[m]).brkMsg
  let th := s1.thetaAt n cyc
  let falls := th < 1024 && 1024 ≤ s1.get (Lv.THETA n)
  let s2 := (s1.put (Lv.THETA n) th).modTh m (fun x => { x with
    heldMsg := if heldMsg then false else x.heldMsg, brkMsg := false })
  let s3 := if th < 1024 then (s2.thFlag (Th.THROTTLE m)).condOn 0x4211 n else s2.condOff 0x4211 n
  let s4 := if brkMsg && s3.has (Th.BROKEN m) then s3.condOn 0x4212 n else s3
  (s4, held, (if heldMsg then [0x4210] else []) ++ (if falls then [0x4211] else []) ++ (if brkMsg then [0x4212] else []))

/-! ### Die trips (R366) -/

def State.dieStands (s : State) : Bool := s.dev.dieHot.1 || s.dev.dieHot.2
/-- A head trip in the cycle of a die trip is none (R366): flag, counter, trip times and hold are as before. -/
def State.tripBack (s : State) (k : TripMark) : State :=
  let n : Ch := Fin.ofNat 8 k.ch
  let m : Thi := Fin.castLE (by decide : 8 ≤ 10) n
  let t := (((s.put (Th.TRIP m) k.flag).put (Th.TRIP_CNT m) k.cnt).unflag (Cc.HELD n)).modCan (fun c =>
    { c with conds := c.conds.filter (fun x => !decide (x = (0x4210, k.ch))) })
  t.modTh m (fun x => { x with trips := k.th.trips, heldAt := k.th.heldAt, heldMsg := k.th.heldMsg, restart := k.th.restart })
def State.tripUndo (s : State) : State :=
  let t := s.modDev (fun d => { d with trips := [] })
  (s.dev.trips.filter (fun k => decide (k.cyc = cycleOf s.tb))).foldl State.tripBack t
/-- A die trip acts: RELEASE 0x06, every rail down, SAFE; a head trip of its cycle is none. -/
def State.dieTrip (s0 : State) (drive : Bool) : State :=
  let s := s0.tripUndo
  let s1 := s.modDev (fun d => { d with dieHot := if drive then (d.dieHot.1, true) else (true, d.dieHot.2) })
  (s1.thFlag (if drive then Di.DTRIP_DRIVE else Di.DTRIP_LOGIC)).enterSafe 0 0x4220 6
/-- A die has been cool for 10 s: its condition clears; bit 0 of SAFE_COND clears with the last of them. -/
def State.dieClear (s : State) (drive : Bool) : State :=
  let s1 := s.modDev (fun d => { d with dieHot := if drive then (d.dieHot.1, false) else (false, d.dieHot.2) })
  if s1.dieStands then s1
  else (s1.put Su.SAFE_COND (withBits (s1.get Su.SAFE_COND) 0 0 0)).condOff 0x4220 0xFF
/-- A die temperature, and the OTP window 0 °C to 85 °C of the logic die (R367). -/
def State.dieSample (s : State) (drive : Bool) (temp : Int) : State :=
  if drive then s.put Di.DIE_DRIVE (wrap 16 temp)
  else
    let t := s.put Di.DIE_LOGIC (wrap 16 temp)
    { t with otp := { t.otp with windowOk := decide (0 ≤ temp ∧ temp ≤ 10880) } }

/-! ### Register blocks (R368 to R370) -/

/-- Ages of the last two trips (R359), and the length of the run below 60 °C. -/
def State.thermalLive (s : State) (m : Thi) : State :=
  let x := s.th[m]
  let age := fun i => match x.trips[i]? with | some t => min 0xFFFE ((s.tb - t) / usTicks 1000000) | none => 0xFFFF
  ((s.put (Th.AGE_NEW m) (age 0)).put (Th.AGE_OLD m) (age 1)).put (Th.DWELL_MS m)
    (match x.dwell0 with | some t => min 0xFFFF ((s.tb - t) / usTicks 1000) | none => 0)
/-- Fields that do not exist on this input are reserved (R368). -/
def thermalFields (m : Thi) : List Fld :=
  (Th.fields m).filter (fun f => if isHead m then f ≠ Th.WARN_LIM m else f ≠ Th.BRK_RETIRE m ∧ f ≠ Th.BAND m)
/-- Ranges of P1 and P2 by type (R371); with no sensor, either type's. -/
def p1Ok (ty v : Nat) : Bool :=
  let d := 0x3800 ≤ v && v ≤ 0x4800
  let n := 2000 ≤ v && v ≤ 6000
  if ty = 1 then d else if ty = 2 then n else d || n
def p2Ok (ty v : Nat) : Bool :=
  let d := v ≤ 10000
  let n := 0x400 ≤ v && v ≤ 0x4000
  if ty = 1 then d else if ty = 2 then n else d || n
def warnOk (v : Nat) : Bool := decide (-5120 ≤ sext 16 v) && decide (sext 16 v ≤ 19200)
def thermalJudge (m : Thi) (addr data : Nat) (s : State) : Option Nat :=
  let inw := fun f : Fld => f.addr = addr
  let v := fun f : Fld => bits data f.msb f.lsb
  let ch := fun f => s.changes f data
  firstBad [
    (inw (Th.TYPE m) && v (Th.TYPE m) = 3, abRange),
    (inw (Th.TYPE m) && !isHead m && ch (Th.WARN_LIM m) && !warnOk (v (Th.WARN_LIM m)), abRange),
    (inw (Th.P1 m) && ((ch (Th.P1 m) && !p1Ok (s.get (Th.TYPE m)) (v (Th.P1 m))) ||
      (ch (Th.P2 m) && !p2Ok (s.get (Th.TYPE m)) (v (Th.P2 m)))), abRange),
    (isHead m && s.inRun (headCh m) && s.anyChange [Th.TYPE m, Th.P1 m, Th.P2 m, Th.BRK_RETIRE m] addr data, abState)]
def thermalApply (m : Thi) (addr data : Nat) (s : State) : State :=
  let t := s.writeWord (thermalFields m) addr data false
  if s.anyChange [Th.TYPE m] addr data then t.typeChanged m else t
/-- Clearing a die flag is refused while its condition stands (R369). -/
def dieJudge (addr data : Nat) (s : State) : Option Nat :=
  firstBad [(addr = Di.DTRIP_LOGIC.addr && ((bit data 0 && s.dev.dieHot.1) || (bit data 1 && s.dev.dieHot.2)), abState)]

end Sys2Proof.Machine
end

