-- ==== Sys2Proof/Machine/Channel.lean ====
section
/-! DEFINITION. Channel control and the epoch commit (chapter 10): START and STOP, readmission, the control block, the epoch
block, and the line a commit begins at (R113). -/
namespace Sys2Proof.Machine

/-! ### The committed values (R337, R338) -/

def prepPitch (n : Nat) : Fld := prepFld (0x3010 + 0x100 * n) 3 32 0x10000
def prepOfs (n : Nat) : Fld := prepFld (0x3010 + 0x100 * n) 4 48 0
def prepRev (n : Nat) : Fld := prepFld (0x3010 + 0x100 * n) 0x0C 32 0
/-- A START takes the values of a commit its channel did not reach, without re-basing (log entry 36). -/
def State.rebaseDrop (s : State) (n : Ch) : State :=
  match ((s.ch[n]).trav.rebases).getLast? with
  | some r => (s.epochSet n r).modTrav n (fun t => { t with rebases := [], gapFrom := [] })
  | none => s

/-! ### START and STOP (R99 to R101, R126, R196, R241, R320, R323, R360) -/

/-- A line of a start or readmission is not above LAST_LINE (R323). -/
def State.orderBad (s : State) (n : Ch) (k : Nat) : Bool := (s.ch[n]).lastLine.any (fun l => k ≤ l)
def thOf (n : Ch) : Thi := Fin.castLE (by decide : 8 ≤ 10) n
/-- Why a START is refused, before the checks of a chapter: the state of the channel, its unit, its sensor, its slot, its
supplies, its link, the order of its lines. -/
def State.startRefused (s : State) (n : Ch) : Option Nat :=
  firstBad [
    (s.chSt n ≠ .idle || s.inBenchmark || s.dev.safe || s.dev.standby, abState),
    (s.has (Cu.HOMING (s.chCu n)), abState),
    (s.orderBad n (s.line0 n), abState),
    (s.get (Th.TYPE (thOf n)) = 0, abState),
    (!s.has (Lv.VALID n (s.curSlot n)) || !s.has (Lv.PRECHG n) || !s.has (Lv.HV_ON n), abState),
    (s.ltc n (s.curSlot n) ≠ 0, abState),
    (s.startStakeBad n, abCheck),
    (s.get (Ld.NROWS n) = 0, abCheck)]
/-- What a START reports whatever its outcome: ORDER, LTC_ERR of a slot that passed its CHECK, GEOM_ERR. -/
def State.startReport (s : State) (n : Ch) : State :=
  if s.chSt n ≠ .idle ∨ s.inBenchmark then s
  else
    let s1 := if s.orderBad n (s.line0 n) then s.flag (Cc.ORDER n) else s
    let s2 := if s.has (Lv.VALID n (s.curSlot n)) then s1.put (Lk.LTC_ERR n) (s.ltc n (s.curSlot n)) else s1
    if s.get (Ld.NROWS n) = 0 then s2.put (Ld.GEOM_ERR n) 1 else s2
/-- The line boundaries begin at line k with a blank history (R129, R140, R164, R333). -/
def State.pipeStart (s : State) (n : Ch) (k : Nat) : State :=
  let s1 := s.modCh n (fun c => { c with
    lines := []
    store := { c.store with img := [], hist0 := k, blank := true, bNext := some k, busy := none }
    trav := { c.trav with next := k, first := k, sched := [], early := [] } })
  (s1.modHealth n (fun h => { h with strip := none })).unflag (Nh.STRIP_PEND n)
/-- An accepted START (R99, R101, R338): the abort of a start that comes late is returned. A register word that starts late reports
START_LATE alone, and not WREJ (DESIGN CHOICE, log entry 68: R101 names no WREJ). -/
def State.startGo (s0 : State) (n : Ch) : State × Nat :=
  let s := (s0.rebaseDrop n).modTrav n (fun t => { t with runOf := none })
  let k := s.line0 n
  let s1 := s.pipeStart n k
  if s.has (Tr.START_SRC n) then (((s1.setCh n .run).modTrav n (fun t => { t with st := .waitStart })).epochLose n, 0)
  else
    let s2 := s1.modTrav n (fun t => { t with st := .running })
    if s2.startAhead n k then (s2.setCh n .run, 0) else (s2.startLate n, abState)
/-- A START judged on the values it would run with, and taken. -/
def State.startTry (s : State) (n : Ch) : State × Nat :=
  let v := s.rebaseDrop n
  match v.startRefused n with
  | some a =>
    let r := v.startReport n
    ((((if r.has (Cc.ORDER n) then s.flag (Cc.ORDER n) else s).put (Lk.LTC_ERR n) (r.get (Lk.LTC_ERR n))).put (Ld.GEOM_ERR n)
      (r.get (Ld.GEOM_ERR n))), a)
  | none => (s.startReport n).startGo n
/-- The STOP sequence ends (R207, R244, R320): RELEASE 0x02, or 0x05 after a wipe, undecided lines discarded, IDLE. -/
def State.stopDone (s : State) (n : Ch) : State :=
  if s.chSt n = .stopping ∧ s.dev.safeEntry.isNone ∧ (s.ch[n]).drive.railsRest then
    let r := if (s.ch[n]).drive.wipeStop.isSome then 5 else 2
    (((s.release n r).dropUndecided n).modDrive n (fun d => { d with wipeStop := none })).setCh n .idle
  else s

/-! ### Readmission (R331 to R333) -/

def State.raLine (s : State) (n : Ch) : Nat := s.getPair (Cc.RA_LINE_LO n) (Cc.RA_LINE_HI n)
def State.readmitRefused (s : State) (n : Ch) : Option Nat :=
  firstBad [
    ((s.chSt n ≠ .retired && s.chSt n ≠ .idle) || s.inBenchmark || s.dev.safe || s.dev.safeEntry.isSome || s.dev.standby, abState),
    (s.has (Cu.HOMING (s.chCu n)), abState),
    (s.get (Th.TYPE (thOf n)) = 0, abState),
    (s.orderBad n (s.raLine n), abState)]
/-- The windows and lists a readmission empties (R325). -/
def State.freshWindows (s : State) (n : Ch) : State :=
  s.modCh n (fun c => { c with
    ueWords := [], ueEntries := [], drive := { c.drive with ocLines := [], d2dLines := [] }
    link := { c.link with retrains := [] } })
/-- PD_CHn powers up with its line memory clear (R139, R331). -/
def State.powerCh (s : State) (n : Ch) : State :=
  s.modCh n (fun c => { c with
    q := { c.q with lines := [], part := [], word := [] }
    store := { c.store with img := [], blank := true } })
/-- An accepted readmission. From RETIRED the domain powers up, Q_TAG takes k, precharge and training start; the objects kept
for it are written in by the caller (R322). -/
def State.readmitGo (s : State) (n : Ch) : State :=
  let k := s.raLine n
  let s1 := ((s.freshWindows n).modCh n (fun c => { c with readmitK := some k })).setCh n .readmitting
  if s.chSt n = .retired then
    ((((s1.powerCh n).setQTag n k).switchCheck n).trainBegin n .training).epochLose n
  else s1.epochLose n
def State.readmitOrder (s : State) (n : Ch) : State :=
  if (s.chSt n = .retired ∨ s.chSt n = .idle) ∧ s.orderBad n (s.raLine n) then s.flag (Cc.ORDER n) else s
/-- Precharge or training fails outside the benchmark run (R320, R332). -/
def State.readmitFail (s : State) (n : Ch) : State :=
  ((s.flag (Cc.RA_FAIL n)).modCh n (fun c => { c with readmitK := none })).retire n 9
/-- The traverse of a readmission begins once PRECHG is 1 and the link is UP (R331 to R333). -/
def State.readmitBegin (s : State) (n : Ch) : State :=
  match (s.ch[n]).readmitK with
  | none => s
  | some k =>
    if s.chSt n ≠ .readmitting ∨ !s.has (Lv.PRECHG n) ∨ !s.linkUp n then s
    else
      let s0 := s.modCh n (fun c => { c with readmitK := none })
      if !s0.startAhead n k then s0.startLate n
      else
        let skip := match (s.ch[n]).lastLine with | some l => k - l - 1 | none => 0
        let s1 := ((s0.bumpBy (Cc.SKIP_CNT n) skip).bump (Cc.READMIT_CNT n)).emcyMsg 0xFF31 n k
        ((s1.pipeStart n k).modTrav n (fun t => { t with st := .running })).setCh n .run

/-! ### Control block (R322, R330, R344) -/

/-- A host Retire (R330): refused in OFF, RETIRED and in a benchmark run. -/
def State.retireRefused (s : State) (n : Ch) : Option Nat :=
  firstBad [(s.chSt n = .off || s.chSt n = .retired || s.inBenchmark, abState)]
/-- The live words; LAST_LINE is latched by a read of its low word. -/
def State.ctlLive (s : State) (n : Ch) : State := s.put (Cc.CH_STATE n) (s.chSt n).code
def ctlJudge (n : Ch) (addr data : Nat) (s : State) : Option Nat :=
  if (Cc.RETIRE n).addr = addr then
    (if bit data 1 then s.retireRefused n else none) <|> (if bit data 0 then s.readmitRefused n else none)
  else none

/-! ### The first line of a commit (R113) -/

/-- The first line from k on whose X on grid g lies at or beyond a target in its pass direction. Two passes always hold it. -/
def firstAtOrBeyond : Nat → State → Ch → Grid → Int → Nat → Nat
  | 0, _, _, _, _, k => k
  | f + 1, s, n, g, c, k =>
    let pitch : Int := max g.pitch 1
    let d := gridDiff (c - g.anchor * 65536)
    match s.get (Tr.MODE n) with
    | 0 => max k (g.line0 + (-((-d) / pitch)).toNat)
    | 1 => max k (g.line0 + (-(d / pitch)).toNat)
    | _ =>
      let pi := s.passOf n k
      let pl := s.get (Tr.PASS_LINES n)
      let need : Int := if s.passBack n k then (pl : Int) - 1 - g.j0 - (d - g.rev) / pitch else g.j0 - (-d) / pitch
      let i := max pi.2 need.toNat
      if i < pl then k + (i - pi.2) else firstAtOrBeyond f s n g c (k + (pl - pi.2))
/-- k_c: the smallest undecided line whose position on its present grid lies at or beyond C + s × OFFSET (R113). -/
def State.commitLine (s : State) (n : Ch) (c : Pos) : Nat :=
  let nx := (s.ch[n]).trav.next
  (s.ch[n]).trav.rebases.foldl (fun (m : Nat) (r : Rebase) =>
    if m < r.kc then m else firstAtOrBeyond 3 s n (s.gridAt n r.kc) (c.toInt * 65536) (max nx r.kc))
    (firstAtOrBeyond 3 s n (s.gridAt n nx) (c.toInt * 65536) nx)

/-! ### The epoch commit (R334 to R338) -/

def State.epMask (s : State) : List Ch := allCh.filter (fun n => bit (s.get Ep.EP_MASK) n)
def State.epPos (s : State) : Pos := BitVec.ofNat 48 (s.getPair Ep.EP_POS_LO Ep.EP_POS_HI)
/-- The check of a named channel against the prepared set (R334): its reason, or 0. -/
def State.epochCheck (s : State) (n : Ch) : Nat :=
  let sl := s.get (wavePrep n)
  if !(s.chSt n = .idle ∨ s.chSt n = .run) ∨ (s.ch[n]).trav.st = .waitStart then 1
  else if !s.has (Lv.VALID n sl) then 2
  else if s.ltc n sl ≠ 0 then 3
  else if s.get (Tr.CU n) ≠ s.get Ep.EP_CU then 4
  else 0
def State.epochFail (s : State) (n reason : Nat) : State :=
  (({ s with epoch := .openE }).put Ep.FAIL_REASON reason).put Ep.FAIL_CH n
/-- Nothing is PREPARED or ARMED, or every named channel still passes. -/
def State.epochStands (s : State) : Bool := s.epoch = .openE || s.epMask.all (fun n => s.epochCheck n = 0)
/-- A named channel has lost its passing state while an epoch is PREPARED or ARMED, whatever took it: OPEN with reason 5 (R335). -/
def State.epochWatch (s : State) : State :=
  if s.epoch = .openE then s
  else match s.epMask.find? (fun n => s.epochCheck n ≠ 0) with
    | some n => s.epochFail n 5
    | none => s
/-- LTC_ERR shows the link check of each named channel as far as the checks ran. -/
def State.epochLtc (s : State) : State :=
  (s.epMask.takeWhile (fun n => s.epochCheck n = 0) ++ (s.epMask.filter (fun n => s.epochCheck n ≠ 0)).take 1).foldl
    (fun (t : State) (n : Ch) => t.put (Lk.LTC_ERR n) (s.ltc n (s.get (wavePrep n)))) s
/-- PREPARE (R334): the abort answered with the outcome. -/
def State.prepareGo (s : State) : State × Nat :=
  let s1 := s.epochLtc
  match s.epMask.find? (fun n => s.epochCheck n ≠ 0) with
  | some n => (s1.epochFail n (s.epochCheck n), abCheck)
  | none => ((({ s1 with epoch := .prepared }).put Ep.FAIL_REASON 0).put Ep.FAIL_CH 0, 0)
/-- What the prepared set holds for a channel. -/
def State.preparedOf (s : State) (n : Ch) (kc number : Nat) : Rebase :=
  { kc := kc, c := s.epPos, pitch := s.get (prepPitch n), ofs := s.get (prepOfs n), rev := s.get (prepRev n),
    slot := s.get (wavePrep n), number := number, bound := false }
/-- The commit reaches one named channel (R113, R338). A commit supersedes an earlier one at or after its own line, and on a
channel in IDLE every earlier one; schedules of the old grid from its line on are gone. -/
def State.commitCh (s : State) (n : Ch) (number : Nat) : State :=
  if s.chSt n = .idle then (s.epochSet n (s.preparedOf n 0 number)).modTrav n (fun t => { t with rebases := [], gapFrom := [] })
  else
    let kc := s.commitLine n s.epPos
    let r := s.preparedOf n kc number
    s.modTrav n (fun t => { t with
      rebases := t.rebases.filter (fun x => x.kc < kc) ++ [r], gapFrom := t.gapFrom.filter (fun k0 => k0 < kc) ++ [kc]
      sched := t.sched.filter (fun e => e.line < kc) })
/-- Line k is not above ADMIT, the last line past its boundary (R148, R336). -/
def State.admitted (s : State) (n : Ch) (k : Nat) : Bool := (s.ch[n]).store.entered.any (fun a => decide (k ≤ a))
/-- The commit is taken (R335, R336): all named channels, or none. -/
def State.commitTake (s : State) : State × Nat :=
  match s.epMask.find? (fun n => s.epochCheck n ≠ 0) with
  | some n => (s.epochFail n 5, abState)
  | none =>
    match s.epMask.find? (fun n => s.chSt n = .run && s.admitted n (s.commitLine n s.epPos)) with
    | some n => ((s.epochFail n 6).emcyMsg 0xFF41 0xFF 0, abCheck)
    | none =>
      let num := (s.get Ep.EP_NUM + 1) % 2 ^ 32
      let m : CommitMark := ⟨cycleOf s.tb, s.get Ep.EP_NUM, s.epMask.map (fun (n : Ch) => ((n : Nat), (s.ch[n]).trav, s.epochNow n))⟩
      let s1 := s.epMask.foldl (fun (t : State) (n : Ch) => t.commitCh n num) (s.modDev (fun d => { d with commit := some m }))
      let s2 := ((({ s1 with epoch := .openE }).put Ep.EP_NUM num).pulse 0x3D).emcyMsg 0xFF40 0xFF 0
      (s.epMask.foldl (fun (t : State) (n : Ch) => t.gapRebase n) s2, 0)
/-- COMMIT (R336). -/
def State.commitGo (s : State) : State × Nat :=
  if s.get Ep.EP_TRIG = 1 then ({ s with epoch := .armed }, 0) else s.commitTake
/-- Source 0x3E pulses while a commit is armed (R89, R336). -/
def State.commitSync (s : State) : State := if s.epoch = .armed then s.commitTake.1 else s
def State.cancelGo (s : State) : State := { s with epoch := .openE }

def EpState.code : EpState → Nat
  | .openE => 0 | .prepared => 1 | .armed => 2
def State.epochLive (s : State) : State := s.put Ep.EP_STATE s.epoch.code
/-- The refusals of PREPARE and COMMIT (R334). -/
def State.prepareRefused (s : State) : Option Nat := firstBad [(s.epoch = .armed, abState)]
def State.commitRefused (s : State) : Option Nat := firstBad [(s.epoch ≠ .prepared, abState)]
def epochJudge (addr data : Nat) (s : State) : Option Nat :=
  let cmd := Ep.PREPARE.addr = addr
  let many := [0, 1, 2].countP (fun i => bit data i)
  firstBad [
    (Ep.EP_TRIG.addr = addr && bits data 1 0 > 1, abRange),
    (s.epoch ≠ .openE && s.anyChange [Ep.EP_MASK, Ep.EP_CU, Ep.EP_TRIG, Ep.EP_POS_LO, Ep.EP_POS_HI] addr data, abState),
    (cmd && bit data 0 && s.prepareRefused.isSome, abState),
    (cmd && bit data 1 && s.commitRefused.isSome, abState),
    (cmd && many > 1, abCheck)]
def epochApply (addr data : Nat) (s : State) : State :=
  if Ep.PREPARE.addr = addr then
    if bit data 0 then s.prepareGo.1 else if bit data 1 then s.commitGo.1 else if bit data 2 then s.cancelGo else s
  else s.writeWord Ep.fields addr data false

end Sys2Proof.Machine
end

