-- ==== Sys2Proof/Machine/Engine.lean ====
section
/-! DEFINITION. The DMA engine (chapter 12): sets and hand-over, grants, reads and completions, lists, stopping and resuming,
and the register block. Reads leave one every two CORE_CLK cycles from the grant (R374); completions are taken in source
order, whatever order they arrived in. -/
namespace Sys2Proof.Machine

namespace Hid
/-- The DMA channel granted last; 15 until the first grant, so that the first search begins at D0 (log entry 38). -/
def DMA_LAST : Fld := ⟨0x9000_1500, 3, 0, .ro, 15⟩
end Hid

/-- Space of a staging queue that no transfer has reserved (R134, R385). -/
def State.dmaFree (s : State) (n : Ch) : Nat :=
  s.queueFree n - allDma.foldl (fun (a : Nat) (d : Dch) =>
    (s.dma[d]).xf.foldl (fun (b : Nat) (x : Xfer) => if x.dst = n then b + (x.len - x.got) else b) a) 0

/-! ### Arming and hand-over (R376 to R378) -/

/-- The shadow as one word, in the layout of +0x40. -/
def State.dmaShadow (s : State) (d : Dch) : Nat :=
  s.get (Dm.MODE d) * 2 ^ 30 + s.get (Dm.TRIG d) * 2 ^ 29 + s.get (Dm.ENDEN d) * 2 ^ 28 + s.get (Dm.SWAP d) * 2 ^ 26 +
    s.get (Dm.DST d) * 2 ^ 20 + s.get (Dm.RING_LOG2 d) * 2 ^ 15 + s.get (Dm.XFER_LEN d)
/-- The destinations a channel's active and armed sets name. -/
def State.dmaNames (s : State) (d : Dch) (dst : Nat) : Bool :=
  ((s.dma[d]).act && s.dmaDst d = dst) || (s.has (Dm.SHADOW_ARM d) && s.get (Dm.DST d) = dst)
/-- The first failing check of R376, or 0. -/
def State.armErr (s : State) (d : Dch) : Nat :=
  let base := s.getPair (Dm.SH_ADDR_LO d) (Dm.SH_ADDR_HI d)
  let mode := s.get (Dm.MODE d)
  let dst := s.get (Dm.DST d)
  let lg := s.get (Dm.RING_LOG2 d)
  let len := s.get (Dm.XFER_LEN d)
  if 2 ≤ mode ∨ 9 ≤ dst ∨ (mode = 0 ∧ dst = 8) then 1
  else if lg < 12 ∨ 26 < lg ∨ (mode = 0 ∧ base % 2 ^ lg ≠ 0) then 2
  else if len % 8 ≠ 0 ∨ len < 8 ∨ 16384 < len then 3
  else if mode = 1 ∧ base % 16 ≠ 0 then 4
  else if dst = 8 ∧ (s.get (Dm.SH_DOFS d) % 8 ≠ 0 ∨ spVisible ≤ s.get (Dm.SH_DOFS d)) then 5
  else if dst < 8 ∧ allDma.any (fun e => decide (e ≠ d) && s.dmaNames e dst) then 6
  else if mode = 0 ∧ !((s.dma[d]).act && s.dmaMode d = 0) ∧
      2 ^ lg < (s.get (Dm.WR_CNT d) + 2 ^ 32 - s.get (Dm.RD_CNT d)) % 2 ^ 32 then 7
  else 0
/-- SHADOW_ARM once its check has passed; in ERROR it ends the active set (R551), and transfers all of whose reads are out still
complete. -/
def State.dmaArm (s : State) (d : Dch) : State :=
  let t := (s.flag (Dm.SHADOW_ARM d)).put (Dm.ARM_ERR d) 0
  if s.dmaState d = .error then (t.modDma d (fun x => { x with xf := x.xf.filter (fun y => y.rem = 0), wd := false })).dmaEnd d else t
/-- The hand-over (R377, R378): a pulse of this very cycle opens a triggered set. -/
def State.handover (s : State) (d : Dch) : State :=
  if !s.has (Dm.SHADOW_ARM d) ∨ (s.dma[d]).act then s
  else
    let base := s.getPair (Dm.SH_ADDR_LO d) (Dm.SH_ADDR_HI d)
    let trig := s.has (Dm.TRIG d)
    let now := (s.dma[d]).pulseAt = some (cycleOf s.tb)
    let s1 := ((s.put (Dm.ACT_CFG d) (s.dmaShadow d)).putPair (Dm.ACT_ADDR_LO d) (Dm.ACT_ADDR_HI d) base).put (Dm.ACT_END d)
      (s.get (Dm.SH_END d))
    let s2 := ((((s1.put (Dm.ACT_DOFS d) (s.get (Dm.SH_DOFS d))).unflag (Dm.SHADOW_ARM d)).incr (Dm.HANDOVER_CNT d)).put
      (Dm.ERR d) 0).putB (Dm.OPEN d) (!trig || now)
    (s2.modDma d (fun x => { x with
      act := true, entAt := base, ent := none, ended := false, links := 0, failing := 0, pulseAt := none })).dmaEndIf d
/-- A pulse at sink d (R378); while PD_HOST is parked or in reset it is discarded (R35, R504). -/
def State.dmaTrigger (s : State) (d : Dch) : State :=
  if !s.pcie.on || s.pcie.perst then s
  else if (s.dma[d]).act && !s.has (Dm.OPEN d) then s.flag (Dm.OPEN d)
  else s.modDma d (fun x => { x with pulseAt := some (cycleOf s.tb) })

/-! ### Reads and grants (R373, R374, R379, R383, R385) -/

/-- The length of the transfer a ring set has ready, or 0 (R379); a queue takes whole 64-bit words (R123). -/
def State.ringReady (s : State) (d : Dch) : Nat :=
  let cfg := s.get (Dm.ACT_CFG d)
  let pos := s.dmaPos d
  let gap := fun (v : Nat) => (v + 2 ^ 32 - pos) % 2 ^ 32
  let l := min (bits cfg 14 0) (gap (s.get (Dm.WR_CNT d)))
  let l := if bit cfg 28 then min l (gap (s.get (Dm.ACT_END d))) else l
  l / 8 * 8
/-- The next transfer of the active set as (length, source, entry address, END), if one is ready. -/
def State.dmaReady (s : State) (d : Dch) : Option (Nat × Nat × Nat × Bool) :=
  if s.dmaMode d = 0 then
    let l := s.ringReady d
    if l = 0 then none else some (l, s.setBase d + s.dmaPos d % s.ringSize d, 0, false)
  else (s.dma[d]).ent.map (fun (e : Nat × Nat × Bool) => (e.2.1, e.1, (s.dma[d]).entAt, e.2.2))
/-- The channel requests the engine (R373): a part-done transfer, or one that is ready and fits its destination. -/
def State.dmaWants (s : State) (d : Dch) : Bool :=
  !s.dmaHalted d && s.get (Dm.ERR d) = 0 &&
  ((s.dmaOpenXfer d).isSome ||
    ((s.dma[d]).act && s.has (Dm.OPEN d) && (match s.dmaReady d with
      | some (l, _, _, _) => s.dmaDst d = 8 || decide (l ≤ s.dmaFree (Fin.ofNat 8 (s.dmaDst d)))
      | none => false)))
/-- Where a set's next byte goes in the scratchpad: ACT_DOFS and what its transfers still bring. -/
def State.dmaDofs (s : State) (d : Dch) : Nat :=
  (s.dma[d]).xf.foldl (fun (a : Nat) (x : Xfer) => if x.old then a else a + (x.len - x.got)) (s.get (Dm.ACT_DOFS d))
/-- The engine takes a channel's transfer (R374, R383, R385). -/
def State.grantTo (s : State) (d : Dch) : State :=
  let s1 := (s.put De.GRANT d).put Hid.DMA_LAST d
  let at0 := max s.tb (s.get Hid.DMA_NEXT)
  if (s.dmaOpenXfer d).isSome then State.issueDue 64 false { s1 with granting := some (d, at0) }
  else match s.dmaReady d with
  | none => s
  | some (l, src, ea, last) =>
    if s.dmaDst d = 8 ∧ spVisible < s.dmaDofs d + l then s1.dmaError d 3
    else
      let x : Xfer := {
        len := l, got := 0, cred := 0, src := src, rem := l, out := [], fin := false, ent := ea, last := last, dst := s.dmaDst d,
        swap := bits (s.get (Dm.ACT_CFG d)) 27 26, dofs := s.dmaDofs d, old := false }
      let s2 := s1.modDma d (fun c => { c with
        xf := c.xf ++ [x], ent := none, wd := false
        entAt := if s.dmaMode d = 0 then c.entAt else c.entAt + 16
        ended := c.ended || last })
      State.issueDue 64 false { s2 with granting := some (d, at0) }
/-- PCI Express carries completions; in D3hot it issues no read, and those already issued complete (R420, R423). -/
def State.dmaLink (s : State) : Bool := s.pcie.on && !s.pcie.perst && s.pcie.linkUp
def State.dmaHost (s : State) : Bool := s.dmaLink && !s.pcie.d3
/-- A grant (R373, R374): round robin from the channel after the last one, once the last transfer's reads are all out. -/
def State.grant (s0 : State) : State :=
  if !s0.dmaHost then s0
  else
    let s := State.issueDue 64 true s0
    if s.granting.isSome then s
    else
      let last := s.get Hid.DMA_LAST
      match ((List.range 16).map (fun i => (Fin.ofNat 16 (last + 1 + i) : Dch))).find? (fun d => s.dmaWants d) with
      | some d => s.grantTo d
      | none => s

/-! ### Completions (R374, R384, R392) -/

/-- The bytes of a burst as they reach the destination (R384). A byte whose place is taken from outside the burst is one the
spec gives no value: a free value (log entry 3). -/
def swapBytes (mode src ix : Nat) (bs : List Byte) : List Byte :=
  (List.range bs.length).map (fun i =>
    let a := (src + i) ^^^ mode
    if src ≤ a ∧ a < src + bs.length then bs.getD (a - src) 0 else BitVec.ofNat 8 (Config.freeNat (ix + i)))
/-- Bytes counted (R392): RD_CNT and the destination's counter move together. -/
def State.dmaCount (s : State) (d : Dch) (dst k : Nat) : State :=
  let s1 := s.incrBy (Dm.RD_CNT d) k
  if dst = 8 then s1.incrBy De.SP_IN k else s1.incrBy (Ld.BYTES_IN (Fin.ofNat 8 dst : Ch)) k
/-- Bytes of a transfer written at its destination; with DST 8 over port H, beside an access of port S to one of their words (R397,
R402). -/
def State.dmaWriteOut (s : State) (d : Dch) (x : Xfer) (sp : Option SPort) (bs : List Byte) : State :=
  if x.dst = 8 then
    let t := s.spBoth .plain (bs.zipIdx.map (fun (y : Byte × Nat) => (x.dofs + x.got + y.2, y.1))) sp
    if x.old then t else t.put (Dm.ACT_DOFS d) (x.dofs + x.got + bs.length)
  else State.spBoth (s.queuePush (Fin.ofNat 8 x.dst) bs) .plain [] sp
/-- The channel's first transfer replaced by a function of itself where a test holds. -/
def modFirst (p : Xfer → Bool) (f : Xfer → Xfer) : List Xfer → List Xfer
  | [] => []
  | x :: r => if p x then f x :: r else x :: modFirst p f r
/-- The channel's transfers up to now: reads issued, and, where it has none out, its next one. -/
def State.dmaNow (s0 : State) (d : Dch) : State :=
  let s := s0.dmaTick
  if !s.dmaFlight d && (s.dma[d]).junk.isEmpty && s.granting.any (fun (g : Nat × Nat) => g.1 = (d : Nat)) then State.issueDue 1 true s
  else s
/-- The next issue waits for a place among the 64 outstanding reads (R374): one has just come free. -/
def State.dmaPlace (s : State) (full : Bool) : State :=
  { s with granting := s.granting.map (fun (g : Nat × Nat) => (g.1, if full then max g.2 s.tb else g.2)) }
/-- A read whose data is discarded has completed (R388, R389). -/
def State.dmaJunk (s : State) (d : Dch) : State :=
  (s.modDma d (fun c => { c with junk := c.junk.drop 1 })).dmaPlace (64 ≤ s.dmaOutstanding)
/-- The channel's next burst returns with its data (R374, R388, R392): discarded where it is an older read's to be discarded, else
written in source order, the last burst of a transfer counted with its read-back. -/
def State.dmaCompletion (s0 : State) (d : Dch) (data : List Byte) (sp : Option SPort) : State :=
  let s := s0.dmaNow d
  if !s.dmaLink then s
  else match (s.dma[d]).junk with
  | (_, n, _) :: _ => if data.length ≠ n then s else s.dmaJunk d
  | [] => match (s.dma[d]).xf.find? (fun x => !x.out.isEmpty) with
    | none => s
    | some x =>
      match x.out with
      | [] => s
      | (a, n, _) :: rest =>
        if data.length ≠ n then s
        else
          let bs := swapBytes x.swap a s.ctr data
          let fin := rest.isEmpty && x.rem = 0
          let u := (State.dmaWriteOut { s with ctr := s.ctr + n } d x sp bs).modDma d (fun c => { c with
            xf := modFirst (fun y => !y.out.isEmpty) (fun y => { y with
              out := rest, got := y.got + n, cred := if fin then y.cred else y.cred + n, fin := fin }) c.xf })
          ((if fin then u else u.dmaCount d x.dst n).dmaPlace (64 ≤ s.dmaOutstanding)).dmaSettle d
/-- A transfer's read-back returns (R392): counted, source 0x01 + d pulses, the set may end, an entry that failed is raised. -/
def State.transferDone (s : State) (d : Dch) : State :=
  match (s.dma[d]).xf with
  | x :: rest =>
    if !x.fin then s
    else
      let s1 := ((s.modDma d (fun c => { c with xf := rest })).dmaCount d x.dst (x.got - x.cred)).pulse (1 + d)
      ((s1.dmaEndIf d).dmaFailDue d).dmaSettle d
  | [] => s
/-- The transfers that a failing read leaves behind (R388): those before it and its own, at the failing burst; one of a set that has
ended is abandoned, as later transfers are, whose list entries are then to be fetched again. -/
def Dma.failed (c : Dma) (list : Bool) (x : Xfer) : Dma :=
  let t : Dma := { c with junk := (xfReads c.xf).drop 1, links := 0 }
  let before := c.xf.takeWhile (fun z => z.out.isEmpty)
  if x.old then
    match c.xf.find? (fun z => !z.old) with
    | some z => { t with xf := before, ent := none, entAt := if list then z.ent else c.entAt, ended := false }
    | none => { t with xf := before }
  else
    let y : Xfer := { x with src := (x.out.headD (x.src, 0, 0)).1, rem := x.len - x.got, out := [] }
    { t with xf := before ++ [y], ent := none, entAt := if list then y.ent + 16 else c.entAt, ended := y.last }
/-- The channel's next read fails (R388): it stops at the failing burst, later reads are to be discarded, and a later transfer of
the channel is abandoned. A failure of a read to be discarded changes nothing else. -/
def State.dmaReadFail (s0 : State) (d : Dch) : State :=
  let s := s0.dmaNow d
  if !s.dmaLink then s
  else if (s.dma[d]).junk ≠ [] then s.dmaJunk d
  else match (s.dma[d]).xf.find? (fun x => !x.out.isEmpty) with
  | none => s
  | some x =>
    (((s.modDma d (fun c => c.failed (s.dmaMode d = 1) x)).dmaStopIssue d).dmaError d 1).dmaSettle d
/-- The completion timeout in ticks, by the Completion Timeout Value (R417). -/
def State.ctoTicks (s : State) : Nat :=
  match s.get Cs.CTV with
  | 1 => usTicks 75 | 2 => usTicks 5000 | 5 => usTicks 30000 | 6 => usTicks 100000 | _ => usTicks 10000
/-- The oldest read of a channel that has not completed. -/
def State.oldestRead (s : State) (d : Dch) : Option (Nat × Nat × Nat) := ((s.dma[d]).junk ++ xfReads (s.dma[d]).xf).head?
/-- The channel's oldest read times out, at its own time (R388, R417), and AER logs the Completion Timeout. -/
def State.dmaTimeout (s0 : State) (d : Dch) : State :=
  let s := s0.dmaNow d
  match s.oldestRead d with
  | none => s
  | some r => if !s.dmaLink then s else (State.dmaReadFail (s.at (r.2.2 + s.ctoTicks)) d).flag Cs.AER_CTO

/-! ### Lists (R381, R382) -/

/-- What a fetched entry is: an error, a LINK, or a data entry. -/
inductive ListEnt where
  | bad
  | link (at_ : Nat)
  | data (addr len : Nat) (last : Bool)
deriving DecidableEq, Repr
def listEntry (addr len flags : Nat) : ListEnt :=
  if flags / 4 ≠ 0 ∨ flags = 3 then .bad
  else if flags = 2 then .link addr
  else if addr % 8 ≠ 0 ∨ len % 8 ≠ 0 ∨ len < 8 ∨ 16384 < len then .bad
  else .data addr len (flags = 1)
/-- An error of an entry, raised at once or when the transfers in progress are done (R381, R382). -/
def State.entryFail (s : State) (d : Dch) (err : Nat) : State :=
  if (s.dma[d]).xf = [] then s.dmaError d err else s.modDma d (fun x => { x with failing := err })
/-- A list entry's fetch returns (R381, R382). -/
def State.listFetch (s0 : State) (d : Dch) (res : FetchRes) : State :=
  let s := s0.dmaTick
  let c := s.dma[d]
  if !c.act ∨ s.dmaMode d ≠ 1 ∨ c.ent.isSome ∨ c.ended ∨ c.failing ≠ 0 ∨ s.get (Dm.ERR d) ≠ 0 ∨ !s.dmaHost then s
  else match res with
  | .error => s.entryFail d 1
  | .entry addr len flags =>
    match listEntry addr len flags with
    | .bad => s.entryFail d 2
    | .link a => if 3 ≤ c.links then s.entryFail d 2 else s.modDma d (fun x => { x with entAt := a, links := x.links + 1 })
    | .data a l last => s.modDma d (fun x => { x with ent := some (a, l, last), links := 0 })

/-! ### Stopping and resuming (R386, R387, R390, R551) -/

def State.dmaPauseSet (s : State) (d : Dch) (on : Bool) : State :=
  let t := s.putB (Dm.PAUSE d) on
  if on then t.dmaStopIssue d else t.modDma d (fun x => { x with held := false })
/-- D3hot: a channel that is issuing reads stops as by R386 (R420); a write of PAUSE = 0 or of EN = 1 resumes it (log entry 66). -/
def State.dmaHold (s : State) : State :=
  match s.granting with
  | some (d, _) => { s.modDma (Fin.ofNat 16 d) (fun x => { x with held := true }) with granting := none }
  | none => s
/-- EN written (R387, R551). -/
def State.dmaEnSet (s : State) (d : Dch) (on : Bool) : State :=
  if on then
    let e := s.get (Dm.ERR d)
    let t := ((s.flag (Dm.EN d)).put (Dm.ERR d) 0).modDma d (fun x => { x with wd := false, held := false })
    if e = 2 then t.modDma d (fun x => { x with ent := none, links := 0 }) else t
  else if s.has (Dm.EN d) ∧ !(s.dma[d]).xf.isEmpty then
    ((((s.unflag (Dm.EN d)).flagBump (Dm.WITHDRAWN d) (Dm.WDRAW_CNT d)).modDma d (fun x => { x with wd := true }))).dmaStopIssue d
  else s.unflag (Dm.EN d)
/-- RD_CNT may be written (R390). -/
def State.rdOpen (s : State) (d : Dch) : Bool := s.dmaState d ∈ [DmaState.idle, .stopped, .error]
/-- RD_CNT written (R390): a part-done transfer is abandoned with its reservation; one all of whose reads are out stays, until its
read-back counts it. Where RD_CNT may not be written, the word repeats its value and changes nothing (R549). -/
def State.dmaRdSet (s : State) (d : Dch) (v : Nat) : State :=
  if !s.rdOpen d then s
  else
    let t := (s.put (Dm.RD_CNT d) v).modDma d (fun x => { x with xf := x.xf.filter (fun y => y.rem = 0), wd := false })
    ((t.dmaEndIf d).dmaFailDue d).dmaSettle d
/-- The engine and every DMA channel at their reset values (R391, R423). A Pause write that waited is answered over CAN FD; the
mailbox request of PCI Express loses its answer. -/
def State.dmaReset (s : State) : State :=
  let t := allDma.foldl (fun (t : State) (d : Dch) => t.resetAll (Dm.fields d)) s
  let u := ((t.resetAll De.fields).put Hid.DMA_LAST 15).put Hid.DMA_NEXT 0
  let v : State := { u with
    dma := Vector.ofFn (fun (d : Dch) => { Dma.reset with owed := (s.dma[d]).owed.filter (fun p => p = .can) }), granting := none }
  allDma.foldl (fun (w : State) (d : Dch) => w.dmaSettle d) v

/-! ### Register block (R393 to R395) -/

/-- The live words; CUR_SRC and ACT_ADDR are latched together by a read of their low words. -/
def State.dmaLive (s : State) (d : Dch) : State :=
  ((s.put (Dm.STATE d) (s.dmaState d).code).put (Dm.XF_REM d)
    ((s.dma[d]).xf.foldl (fun (a : Nat) (x : Xfer) => a + x.rem) 0))
def State.dmaCurSrc (s : State) (d : Dch) : Nat :=
  match s.dmaOpenXfer d with
  | some x => x.src
  | none =>
    if !(s.dma[d]).act then s.getPair (Dm.CUR_SRC_LO d) (Dm.CUR_SRC_HI d)
    else if s.dmaMode d = 0 then s.setBase d + s.dmaPos d % s.ringSize d
    else match (s.dma[d]).ent with | some e => e.1 | none => s.getPair (Dm.CUR_SRC_LO d) (Dm.CUR_SRC_HI d)
def State.dmaActAddr (s : State) (d : Dch) : Nat :=
  if !(s.dma[d]).act then 0
  else if s.dmaMode d = 0 then s.setBase d
  else match (s.dma[d]).xf with | x :: _ => x.ent | [] => (s.dma[d]).entAt
/-- The engine's live words. -/
def State.engineLive (s : State) : State :=
  ((s.putB De.ACTIVE s.granting.isSome).put De.OUTSTANDING s.dmaOutstanding).put De.BURST s.burst
def dmaShadowFields (d : Dch) : List Fld :=
  [Dm.MODE d, Dm.TRIG d, Dm.ENDEN d, Dm.SWAP d, Dm.DST d, Dm.RING_LOG2 d, Dm.XFER_LEN d, Dm.SH_ADDR_LO d, Dm.SH_ADDR_HI d,
   Dm.SH_END d, Dm.SH_DOFS d]
/-- A write that changes a shadow field while the shadow is armed (R377, R549). -/
def State.shadowHeld (s : State) (d : Dch) (addr data : Nat) : Bool :=
  s.has (Dm.SHADOW_ARM d) && s.anyChange (dmaShadowFields d) addr data
/-- The bound of WR_CNT (R380). -/
def State.wrBound (s : State) (d : Dch) : Nat :=
  if (s.dma[d]).act && s.dmaMode d = 0 then s.ringSize d else 2 ^ s.get (Dm.RING_LOG2 d)
def State.armTakes (s : State) (d : Dch) (addr data : Nat) : Bool :=
  decide ((Dm.EN d).addr = addr) && bit data 8 && (!s.has (Dm.SHADOW_ARM d) || s.dmaState d = .error)
def dmaJudge (d : Dch) (addr data : Nat) (s0 : State) : Option Nat :=
  let s := s0.dmaTick
  firstBad [
    ((Dm.WR_CNT d).addr = addr && data % 8 ≠ 0, abRange),
    (s.shadowHeld d addr data, abState),
    ((Dm.RD_CNT d).addr = addr && s.changes (Dm.RD_CNT d) data && !s.rdOpen d, abState),
    ((Dm.WR_CNT d).addr = addr && decide (s.wrBound d < (data % 2 ^ 32 + 2 ^ 32 - s.get (Dm.RD_CNT d)) % 2 ^ 32), abCheck),
    (s.armTakes d addr data && s.armErr d ≠ 0, abCheck)]
/-- What a refused word reports: ARM_ERR, or SH_REJ in place of WREJ (R376, R377, R395). -/
def dmaRefused (d : Dch) (addr data : Nat) (s : State) : State :=
  if s.armTakes d addr data ∧ s.armErr d ≠ 0 then s.put (Dm.ARM_ERR d) (s.armErr d) else s
/-- A word written to a DMA channel: SHADOW_ARM meets the state before the word, EN takes effect with it (R549, R551). -/
def dmaApply (d : Dch) (addr data : Nat) (s0 : State) : State :=
  let s := s0.dmaTick
  if (Dm.EN d).addr = addr then
    let s1 := s.dmaPauseSet d (bit data 30)
    let s2 := if s.armTakes d addr data then s1.dmaArm d else s1
    (if bit data 31 != s.has (Dm.EN d) then s2.dmaEnSet d (bit data 31) else s2).dmaSettle d
  else if (Dm.RD_CNT d).addr = addr then s.dmaRdSet d data
  else s.writeWord (Dm.fields d) addr data false

end Sys2Proof.Machine
end

