-- ==== Sys2Proof/Machine/Otp.lean ====
section
/-! DEFINITION. One-time-programmable memory and life-cycle (chapter 16): fuses at two margins, resolution through spares,
programming, locks, and the life-cycle transitions. A function that serves a request answers its abort code, 0 for done. -/
namespace Sys2Proof.Machine

/-! ### Fuses (R467, R470 to R473) -/

/-- A codeword of 39 fuses (R472). -/
def isCode (w : Nat) : Bool := otpChk (w % 2 ^ 32) = w / 2 ^ 32
/-- What 39 fuses read as: the data and whether a bit was corrected, or none if uncorrectable. -/
def codeRead (w : Nat) : Option (Nat × Bool) :=
  if isCode w then some (w % 2 ^ 32, false)
  else ((List.range 39).find? (fun i => isCode (w ^^^ 2 ^ i))).map (fun i => ((w ^^^ 2 ^ i) % 2 ^ 32, true))
def State.otpCell (s : State) (ix : Nat) : OtpCell := (s.otp.words.find? (fun c => c.idx = ix)).getD ⟨ix, 0, 0, false⟩
def State.setCell (s : State) (c : OtpCell) : State :=
  { s with otp := { s.otp with words := s.otp.words.filter (fun x => x.idx ≠ c.idx) ++ [c] } }
def OtpCell.valid (c : OtpCell) : Bool := bit c.norm 39
def OtpCell.blank (c : OtpCell) : Bool := c.norm = 0 && c.tight = 0 && !c.torn
/-- A torn word: fuses blown or pulsed without the valid fuse, a verify that failed, or a valid word that reads uncorrectable (R470,
R472). -/
def OtpCell.isTorn (c : OtpCell) : Bool :=
  c.torn || (if c.valid then (codeRead (c.norm % 2 ^ 39)).isNone else c.norm ≠ 0)
/-- A fuse counts as blown when it reads blown or is MARGINAL (R473). -/
def counts (q : Nat × Nat) (i : Nat) : Bool := bit q.1 i || bit q.1 i != bit q.2 i
/-- Two of three fuses from bit i on. -/
def majority (q : Nat × Nat) (i : Nat) : Bool := 2 ≤ ([i, i + 1, i + 2].filter (fun j => counts q j)).length
def State.row (s : State) (g : Nat) : LockRow := s.otp.rows.getD g ⟨(0, 0), (0, 0), [], (0, 0)⟩
def State.modRow (s : State) (g : Nat) (f : LockRow → LockRow) : State :=
  { s with otp := { s.otp with rows := s.otp.rows.mapIdx (fun i r => if i = g then f r else r) } }
def State.writeLocked (s : State) (g : Nat) : Bool := majority (s.row g).wl 0
def State.readLocked (s : State) (g : Nat) : Bool := majority (s.row g).rl 0

/-- A remap tag's parity fuse (log entry 20: even over [9:0]). -/
def tagParity (w : Nat) : Nat := ((List.range 9).filter (fun i => bit w i)).length % 2
/-- The tag that names a data word: its bits below the valid bit, and all of it. -/
def tagBits (w : Nat) : Nat := tagParity w * 512 + w
def tagOf (w : Nat) : Nat := 1024 + tagBits w
/-- The tag of spare k is valid and names a data word. -/
def State.tagNames (s : State) (g k w : Nat) : Bool :=
  let t := ((s.row g).tags.getD k (0, 0)).1
  bit t 10 && t = tagOf (t % 512) && t % 512 = w
/-- A spare stands in for a data word: the highest-numbered whose tag names it (R471). -/
def State.spareOf (s : State) (g w : Nat) : Option Nat := ((List.range 8).reverse).find? (fun k => s.tagNames g k w)
/-- The cell that supplies a data word. -/
def State.resolved (s : State) (g w : Nat) : OtpCell :=
  match s.spareOf g w with | some k => s.otpCell (g * 512 + 504 + k) | none => s.otpCell (g * 512 + w)
/-- MARGINAL (R471). -/
def State.otpMarginal (s : State) (g w : Nat) : Bool :=
  let diff := fun (c : OtpCell) => decide (c.norm ≠ c.tight)
  diff (s.otpCell (g * 512 + w)) || (match s.spareOf g w with
    | some k => diff (s.otpCell (g * 512 + 504 + k)) || (let t := (s.row g).tags.getD k (0, 0); decide (t.1 ≠ t.2))
    | none => false)
/-- What a data word returns, with its status bits valid, corrected and torn (R472). -/
def State.otpRead (s : State) (g w : Nat) : Nat × Bool × Bool × Bool :=
  let c := s.resolved g w
  if c.valid then
    match codeRead (c.norm % 2 ^ 39) with
    | some (v, fix) => (v, true, fix, false)
    | none => (0, false, false, true)
  else (0, false, false, decide (c.norm ≠ 0))
/-- The value the boot code takes: 0 for a blank or torn word (R486). -/
def State.otpValue (s : State) (ix : Nat) : Nat := (s.otpRead (ix / 512) (ix % 512)).1
def State.otpValid (s : State) (ix : Nat) : Bool := (s.otpRead (ix / 512) (ix % 512)).2.1
/-- OtpWordStatus. -/
def State.otpWordStatus (s : State) (ix : Nat) : Nat :=
  let r := s.otpRead (ix / 512) (ix % 512)
  let b := fun (x : Bool) (k : Nat) => if x then 2 ^ k else 0
  b r.2.1 0 + b (s.otpMarginal (ix / 512) (ix % 512)) 1 + b r.2.2.2 2 + b (s.spareOf (ix / 512) (ix % 512)).isSome 3 + b r.2.2.1 4
/-- Valid data words of a region. -/
def State.otpCount (s : State) (g : Nat) : Nat :=
  ((List.range 504).filter (fun w => (s.otpRead g w).2.1)).length
/-- OtpRegionStatus. -/
def State.otpRegionStatus (s : State) (g : Nat) : Nat :=
  let r := s.row g
  let b := fun (x : Bool) (k : Nat) => if x then 2 ^ k else 0
  b (s.writeLocked g) 31 + b (s.readLocked g) 30 +
    b (decide (r.wl.1 ≠ r.wl.2) || decide (r.rl.1 ≠ r.rl.2) || (g = 0 && decide (r.lc.1 ≠ r.lc.2))) 29 +
    (r.tags.filter (fun t => bit t.1 10)).length * 2 ^ 25 + b (s.otp.arm.any (fun (a : Nat × Nat) => a.1 = g)) 24 + s.otpCount g
/-- What a margin check counts: MARGINAL data words, torn physical words and tags (R474). -/
def State.otpCounts (s : State) : Nat :=
  let marg := (List.range 16).foldl (fun (a : Nat) (g : Nat) => a + ((List.range 504).filter (fun w => s.otpMarginal g w)).length) 0
  let torn := (s.otp.words.filter (fun c => c.isTorn)).length +
    s.otp.rows.foldl (fun (a : Nat) (r : LockRow) => a + (r.tags.filter (fun t => t.1 ≠ 0 && !bit t.1 10)).length) 0
  min marg 0xFFFF * 65536 + min torn 0xFFFF

/-! ### Programming (R469, R470, R478) -/

/-- The fuses of a number that must read 1, lowest first. -/
def onesOf (w n : Nat) : List Nat := (List.range n).filter (fun i => bit w i)
/-- A run that nothing stops, in which every fuse blows. -/
def fullRun : FuseRun := ⟨1000000, .window, [], []⟩
/-- The answer to a request whose work is stopped (R478): none where a reset stops it. -/
def cutAns (r : FuseRun) : Option Nat := if r.cut = .reset then none else some abState
/-- Fuses pulsed on a pair of readings: those in `weak` read blown at the normal margin alone, those in `dud` stay unblown. -/
def pulseFuses (q : Nat × Nat) (fs : List Nat) (r : FuseRun) : Nat × Nat :=
  fs.foldl (fun (a : Nat × Nat) (i : Nat) =>
    (if i ∈ r.dud then a.1 else a.1 ||| 2 ^ i, if i ∈ r.weak ∨ i ∈ r.dud then a.2 else a.2 ||| 2 ^ i)) q
/-- How the programming of a word or a tag ends. -/
inductive Blow where
  | done | failed | stopped
deriving DecidableEq, Repr
def Blow.ans (b : Blow) (r : FuseRun) : Option Nat :=
  match b with | .done => some 0 | .failed => some abFail | .stopped => cutAns r
/-- Steps 2 to 4 of R469 on blank fuses: those of w that must read 1 among the first n, a verify of them all at both margins, then
fuse n, which makes the word or tag valid, and its verify. -/
def blowWord (w n : Nat) (r : FuseRun) : (Nat × Nat) × Blow :=
  let fs := onesOf w n
  let a := pulseFuses (0, 0) (fs.take r.blown) r
  if r.blown < fs.length then (a, .stopped)
  else if a ≠ (w, w) then (a, .failed)
  else if r.blown = fs.length then (a, .stopped)
  else
    let b := pulseFuses a [n] r
    (b, if bit b.1 n && bit b.2 n then .done else .failed)
/-- Whether such programming has torn what it worked on (R470): a verify failed, or a fuse was pulsed before it was stopped. -/
def blowTears (w n : Nat) (r : FuseRun) : Bool :=
  match (blowWord w n r).2 with
  | .done => false
  | .failed => true
  | .stopped => !((onesOf w n).take r.blown).isEmpty
/-- A blank cell programmed with a value (R469). -/
def programCell (c : OtpCell) (v : Nat) (r : FuseRun) : OtpCell × Blow :=
  let w := v % 2 ^ 32 + otpChk (v % 2 ^ 32) * 2 ^ 32
  let b := blowWord w 39 r
  ({ c with norm := b.1.1, tight := b.1.2, torn := c.torn || blowTears w 39 r }, b.2)
/-- Work stopped by a sample outside the window: later requests are refused until a sample lies inside it (R478). -/
def State.cutSeen (s : State) (r : FuseRun) (b : Blow) : State :=
  if b = .stopped ∧ r.cut = .window then { s with otp := { s.otp with windowOk := false } } else s
/-- A spare that may take a word: no fuse of its data or tag is blown. -/
def State.spareFree (s : State) (g : Nat) : Option Nat :=
  (List.range 8).find? (fun k => (s.otpCell (g * 512 + 504 + k)).blank && (s.row g).tags.getD k (0, 0) = (0, 0))
/-- OTP work may begin: the die in its window, the device not in SAFE (R478, R521). -/
def State.otpMay (s : State) : Bool := s.otp.windowOk && !s.dev.safe && s.dev.safeEntry.isNone
/-- The tag of a spare whose data stand is programmed; one that tears leaves the spare torn (R470). -/
def State.spareTag (s : State) (g k w : Nat) (c : OtpCell) (r : FuseRun) : State × Option Nat :=
  let b := blowWord w 10 r
  let t := (s.modRow g (fun x => { x with tags := x.tags.set k b.1 })).setCell { c with torn := blowTears w 10 r }
  (t.cutSeen r b.2, b.2.ans r)
/-- A spare takes the word (R470): its data, then its tag. -/
def State.spareWrite (s : State) (g w k v : Nat) (rd rt : FuseRun) : State × Option Nat :=
  let d := programCell (s.otpCell (g * 512 + 504 + k)) v rd
  let t := (s.setCell d.1).cutSeen rd d.2
  let u := t.spareTag g k (tagBits w) d.1 rt
  (if d.2 = .done then u.1 else t, if d.2 = .done then u.2 else d.2.ans rd)
/-- OtpWord written (R469, R470): first the runs of the word or of a spare's data, then of the spare's tag. -/
def State.otpWrite (s0 : State) (ix v : Nat) (runs : List FuseRun) : State × Option Nat :=
  let g := ix / 512
  let w := ix % 512
  let s := if s0.otp.arm.any (fun (a : Nat × Nat) => a.1 = g) then { s0 with otp := { s0.otp with arm := none } } else s0
  let c := s.resolved g w
  if s.writeLocked g ∨ s.datum.lc = 3 ∨ !s.otpMay ∨ (c.valid ∧ !c.isTorn) then (s, some abState)
  else if !c.isTorn then
    let r := programCell c v (runs.headD fullRun)
    ((s.setCell r.1).cutSeen (runs.headD fullRun) r.2, r.2.ans (runs.headD fullRun))
  else match s.spareFree g with
  | none => (s, some abState)
  | some k => s.spareWrite g w k v (runs.headD fullRun) (runs.getD 1 fullRun)

/-! ### Locks (R475 to R477) -/

/-- A run with its fuses numbered from i on. -/
def shiftRun (r : FuseRun) (i : Nat) : FuseRun := { r with weak := r.weak.map (· + i), dud := r.dud.map (· + i) }
/-- Three fuses from bit i blown and verified one at a time. -/
def blowThree (q : Nat × Nat) (i : Nat) (r : FuseRun) : (Nat × Nat) × Blow :=
  let p := pulseFuses q ([i, i + 1, i + 2].take r.blown) (shiftRun r i)
  (p, if r.blown < 3 then .stopped
      else if 2 ≤ ([i, i + 1, i + 2].filter (fun j => bit p.1 j && bit p.2 j)).length then .done else .failed)
def State.otpArm (s : State) (n : Nat) (g : Nat) : State × Nat :=
  if s.dev.safe then (s, abState)
  else if s.otpCount g ≠ n then (s, abCheck) else ({ s with otp := { s.otp with arm := some (g, n) } }, 0)
def State.otpDisarm (s : State) : State := { s with otp := { s.otp with arm := none } }
def State.blowWriteLock (s : State) (g : Nat) (run : FuseRun) : State × Option Nat :=
  if s.writeLocked g ∨ s.otp.arm ≠ some (g, s.otpCount g) ∨ !s.otpMay then (s, some abState)
  else
    let r := blowThree (s.row g).wl 0 run
    (((s.modRow g (fun x => { x with wl := r.1 })).otpDisarm).cutSeen run r.2, r.2.ans run)
def State.blowReadLock (s : State) (g : Nat) (run : FuseRun) : State × Option Nat :=
  if s.readLocked g ∨ !s.writeLocked g ∨ !s.otpMay then (s, some abState)
  else
    let r := blowThree (s.row g).rl 0 run
    (((s.modRow g (fun x => { x with rl := r.1 })).otpDisarm).cutSeen run r.2, r.2.ans run)

/-- The objects that name a word and a region, and OtpCounts. -/
def otpIx : Fld := objFld 0x4C00 1 16 0
def otpReg : Fld := objFld 0x4C00 4 8 0
def otpCnt : Fld := objFld 0x4C00 9 32 0
/-- OtpMarginCheck, and the same read in the benchmark run: OtpCounts takes what it finds (R474). -/
def State.otpCheck (s : State) : State := s.put otpCnt s.otpCounts
/-- A write of OtpWord to the armed region, or of LifeCycleAdvance, disarms the lock, accepted or not (R476). -/
def State.otpTouch (s : State) (idx sub : Nat) : State :=
  if (idx = 0x4C00 ∧ sub = 2 ∧ s.otp.arm.any (fun (a : Nat × Nat) => a.1 = s.get otpIx / 512)) ∨ (idx = 0x4E00 ∧ sub = 2) then
    s.otpDisarm else s

/-! ### Life-cycle (R480 to R483) -/

/-- The state in force by the fuses (R473, R481). -/
def State.lcFuses (s : State) : Nat :=
  let q := (s.row 0).lc
  if majority q 6 then 3 else if majority q 3 then 2 else if majority q 0 then 1 else 0
/-- CustomerKeyStatus (R480). -/
def State.keyStatus (s : State) : Nat :=
  (if (List.range 9).all (fun i => s.otpValid (2048 + i)) then 1 else 0) + (if s.readLocked 4 then 2 else 0)
/-- Why a transition is refused (R482). -/
def State.lcRefused (s : State) (code : Nat) : Option Nat :=
  let t := code - 0x4C430000
  firstBad [
    (code < 0x4C430001 || 0x4C430003 < code, abRange),
    (t ≤ s.datum.lc || s.anyBusy || !s.otpMay, abState),
    (t = 2 && !(s.readLocked 4 && s.writeLocked 6), abCheck),
    (s.datum.lc = 2 && s.datum.dbg ≠ 2, abCheck)]
/-- The words and used spares of region 4 that RETURNED burns, and how many of their fuses are not blown. -/
def State.keyCells (s : State) : List OtpCell := s.otp.words.filter (fun c => c.idx / 512 = 4 && c.valid)
def OtpCell.unblown (c : OtpCell) : List Nat := (List.range 39).filter (fun i => !bit c.norm i)
/-- Every unblown data and check fuse of them blown, as far as the run reaches (R483, step 3). -/
def State.burnKey (s : State) (run : FuseRun) : State × Nat :=
  s.keyCells.foldl (fun (a : State × Nat) (c : OtpCell) =>
    let q := pulseFuses (c.norm, c.tight) (c.unblown.take a.2) run
    (a.1.setCell { c with norm := q.1, tight := q.2 }, a.2 - c.unblown.length)) (s, run.blown)
/-- Steps 2 to 4 of R483; the wipe of step 1 is the caller's. -/
def State.lcBlow (s0 : State) (t : Nat) (runs : List FuseRun) : State × Option Nat :=
  let s := s0.otpDisarm
  let k := runs.headD fullRun
  let f := if t = 3 then runs.getD 1 fullRun else k
  let need := s.keyCells.foldl (fun (a : Nat) (c : OtpCell) => a + c.unblown.length) 0
  let burn := if t = 3 then (s.burnKey k).1 else s
  if t = 3 ∧ k.blown < need then (burn.cutSeen k .stopped, cutAns k)
  else
    let r := blowThree (burn.row 0).lc (3 * (t - 1)) f
    ((burn.modRow 0 (fun x => { x with lc := r.1 })).cutSeen f r.2, r.2.ans f)

end Sys2Proof.Machine
end

