-- ==== Sys2Proof/Machine/Protection.lean ====
section
/-! DEFINITION. Slots as the host writes them (chapter 6), protected loads and wipes (R205, R207, R404, R490 to R496), debug
(R498 to R500), the test access port (R497), and the live words of the protection block (R506). -/
namespace Sys2Proof.Machine

/-! ### Slot words and checks (R192, R196, R206, R214) -/

/-- What CHECKs finds (R192). DESIGN CHOICE (log entry 77): a slot that is wiped and not yet zeroed defines nothing, ERR 1. -/
def State.checkErr (s : State) (n : Ch) (sl : Nat) : Nat := if sl ∈ (s.ch[n]).drive.wiped then 1 else s.slotErr n sl
/-- CHECKs of a slot: VALID and ERR; a slot that becomes VALID sends its drive table (R192, R253). -/
def State.slotCheck (s : State) (n : Ch) (sl : Nat) : State :=
  let e := s.checkErr n sl
  let t := (s.put (Lv.ERR n sl) e).putB (Lv.VALID n sl) (e = 0)
  if e = 0 then t.sendTable n sl else t
/-- A word of the levelling block once nothing of it is refused. -/
def levelApply (n : Ch) (addr data : Nat) (s : State) : State :=
  if (Lv.CHECK0 n).addr = addr then
    let t := if bit data 0 then s.slotCheck n 0 else s
    if bit data 1 then t.slotCheck n 1 else t
  else s.writeWord (Lv.fields n) addr data (s.inRun n)
/-- The slot and word of an address in a channel's slots. -/
def slotPlace (n : Ch) (addr : Nat) : Nat × Nat :=
  ((addr - slotAddr n 0 0) / 0x80, (addr - slotAddr n 0 0) % 0x80 / 4)

/-! ### Wipes (R207, R404, R496) -/

def wipeBit : WipeWhy → Nat
  | .tamper => 1 | .clockGlitch => 2 | .voltageGlitch => 4 | .lifeCycle => 8
/-- The wiped slots that no line past its boundary needs any more (R207). -/
def State.wipedFree (s : State) (n : Ch) : List Nat :=
  if (s.ch[n]).drive.wipeStop.isSome then []
  else (s.ch[n]).drive.wiped.filter (fun sl => !(s.ch[n]).lines.any (fun l => l.slot = sl && (!l.decided || (l.runs && !l.cut))))
/-- Their words are zeroed. -/
def State.wipeFree (s : State) (n : Ch) : State := (s.wipedFree n).foldl (fun (t : State) (sl : Nat) => t.slotForget n sl) s
/-- The words of every wiped slot are zeroed. -/
def State.wipeZero (s : State) (n : Ch) : State :=
  ((s.ch[n]).drive.wiped.foldl (fun (t : State) (sl : Nat) => t.slotClear n sl) s).modDrive n (fun d => { d with wiped := [] })
/-- The PROT slots of a channel, and whether one of them is in effect or taken by a commit still to be reached (log entry 40). -/
def State.protSlots (s : State) (n : Ch) : List Nat := [0, 1].filter (fun sl => s.has (Lv.PROT n sl))
def State.protInUse (s : State) (n : Ch) : Bool :=
  s.inRun n && (s.protSlots n).any (fun sl => s.curSlot n = sl || (s.ch[n]).trav.rebases.any (fun r => r.slot = sl))
/-- A wipe reaches one channel (R207): its load fails, its PROT slots are no longer VALID, and a channel that prints with one
decides no line whose boundary has not passed. -/
def State.wipeCh (n : Ch) (s : State) : State :=
  let s1 := match (s.ch[n]).drive.load with
    | some l => (((s.put (Lv.ERR n l.slot) 10).modDrive n (fun d => { d with load := none }))).reply l.port (0x3041 + 0x100 * n) 6 abFail
    | none => s
  let ps := s.protSlots n
  let use := s.protInUse n
  let s2 := ps.foldl (fun (t : State) (sl : Nat) =>
    ((t.unflag (Lv.VALID n sl)).unflag (Lv.PROT n sl)).put (Lv.ERR n sl) 10) s1
  if ps = [] then s2
  else if !use then (s2.modDrive n (fun d => { d with wiped := d.wiped.filter (fun x => !(x ∈ ps)) ++ ps })).wipeFree n
  else
    let b := ((s.ch[n]).store.bNext).getD (s.ch[n]).trav.next
    let s3 := (s2.modCh n (fun c => { c with
      store := { c.store with bNext := none }
      drive := { c.drive with wiped := ps, wipeStop := some b } })).emcyMsg 0xFF60 n (s.lastLine n)
    if s.chSt n = .run then s3 else ((s3.wipeZero n).flag (Lv.WIPED n)).stopCh n
/-- A trigger of a wipe (R404, R496). -/
def State.wipeGo (s : State) (why : WipeWhy) : State :=
  if s.dev.wiping then s.put Pr.WIPE_CAUSE (s.get Pr.WIPE_CAUSE ||| wipeBit why)
  else
    let s1 := ((s.put Pr.WIPE_CAUSE (wipeBit why)).modDev (fun d => { d with wiping := true })).spClearSecure
    State.forCh { s1 with datum := { s1.datum with key := false, wiped := true } } State.wipeCh
/-- The clear ends, and what waited on port S goes on (R404). -/
def State.wipeEnd (s : State) : State :=
  if s.dev.wiping then
    s.dev.spWait.foldl State.sAccess ((s.modDev (fun d => { d with wiping := false, spWait := [] })).incr Me.WIPE_CNT)
  else s
/-- The last line past its boundary before the wipe has been decided (R207): WIPED, and the channel stops. -/
def State.wipedClear (s : State) (n : Ch) : State :=
  if (s.ch[n]).drive.wipeStop.isSome ∧ s.chSt n = .run ∧ (s.ch[n]).lines.all (fun l => l.decided) then
    ((s.wipeZero n).flag (Lv.WIPED n)).stopCh n
  else s
/-- A channel that left RUN with wiped slots: their words are zeroed, and it stopped with WIPED set if a wipe stopped it. -/
def State.wipedSettle (s : State) (n : Ch) : State :=
  if !s.inRun n ∧ (s.ch[n]).drive.wiped ≠ [] then
    let t := (s.wipeZero n).modDrive n (fun d => { d with wipeStop := none })
    if (s.ch[n]).drive.wipeStop.isSome then t.flag (Lv.WIPED n) else t
  else s

/-! ### Protected loads (R205, R491, R492) -/

/-- The words of a region as little-endian bytes (the order of bytes within the key is PRESUMED, log entry 41). -/
def State.otpBytes (s : State) (ix n : Nat) : List Byte := (List.range n).flatMap (fun i => leBytes 4 (s.otpValue (ix + i)))
def State.loadRunning (s : State) : Bool := allCh.any (fun n => (s.ch[n]).drive.load.isSome)
def State.loadRefused (s : State) (n : Ch) (sl : Nat) : Option Nat :=
  firstBad [((s.chSt n).parked || s.dev.standby, abState), (s.slotLocked n sl, abState), ((s.ch[n]).drive.load.isSome, abState)]
/-- A load is taken: the package is copied into the secure part (R205). -/
def State.loadStart (s : State) (n : Ch) (sl ofs : Nat) (p : Option Port) : State :=
  let fits := ofs + 128 ≤ spVisible
  let r := if fits then s.spParity ofs 128 else (s, false)
  r.1.modDrive n (fun d => { d with load := some ⟨sl, ofs, if fits then s.spBytes ofs 128 else [], r.2, p⟩ })
/-- Bytes [a, a+k) of a package as a number. -/
def pkgNum (l : Load) (a k : Nat) : Nat := leNat ((l.pkg.drop a).take k)
/-- The checks of R492 up to the parity error: ERR 9, or 0. -/
def State.loadErr (s : State) (n : Ch) (l : Load) : Nat :=
  if l.ofs + 128 > spVisible ∨ pkgNum l 0 4 ≠ 0x5057584F ∨ pkgNum l 4 2 ≠ 1 ∨ pkgNum l 12 4 ≠ 80 ∨ pkgNum l 28 4 ≠ 0 then 9
  else if !s.datum.key ∨ pkgNum l 8 4 ≠ s.otpValue 2056 then 9
  else if pkgNum l 6 2 ≠ 0 ∧ pkgNum l 6 2 ≠ s.get (Lk.FE_TYPE n) then 9
  else if l.par then 9 else 0
/-- The decrypted words of a package, or none if the tag does not verify (R491). -/
def State.loadOpen (s : State) (l : Load) : Option (List Byte) :=
  Config.gcmOpen (s.otpBytes 2048 8) ((l.pkg.drop 16).take 12) (l.pkg.take 32) ((l.pkg.drop 32).take 80) (l.pkg.drop 112)
/-- The words of a slot. -/
def State.slotFill (s : State) (n : Ch) (sl : Nat) (clear : List Byte) : State :=
  (Sl.fields n sl).foldl (fun (t : State) (f : Fld) =>
    t.put f (bits (leNat ((clear.drop (f.addr - slotAddr n sl 0)).take 4)) f.msb f.lsb)) s
/-- The load ends (R205, R492); the secure part is zeroed. DESIGN CHOICE (log entry 77): a load accepted before a START that ends in RUN
writes the slot in effect. A parity error its package met there, at an offset of the secure part, is
reported and fails it (R411). -/
def State.loadDone (s0 : State) (n : Ch) (par : Option Nat) : State :=
  match (s0.ch[n]).drive.load with
  | none => s0
  | some l0 =>
    let s := match par with | some o => s0.parityNote 10 (spVisible + o) | none => s0
    let l : Load := { l0 with par := l0.par || par.isSome }
    let s0 := (s.modDrive n (fun d => { d with load := none })).spClearSecure
    let ix := 0x3041 + 0x100 * (n : Nat)
    if s.loadErr n l ≠ 0 then (s0.put (Lv.ERR n l.slot) 9).reply l.port ix 6 abFail
    else match s.loadOpen l with
    | none => (s0.put (Lv.ERR n l.slot) 8).reply l.port ix 6 abFail
    | some clear =>
      let s1 := (s0.slotForget n l.slot).slotFill n l.slot clear
      let e := s1.slotErr n l.slot
      let s2 := s1.put (Lv.ERR n l.slot) e
      if e ≠ 0 then
        (((s2.slotClear n l.slot).unflag (Lv.VALID n l.slot)).unflag (Lv.PROT n l.slot)).reply l.port ix 6 abCheck
      else (((s2.flag (Lv.VALID n l.slot)).flag (Lv.PROT n l.slot)).sendTable n l.slot).reply l.port ix 6 0

/-! ### Debug and the test access port (R497 to R500) -/

/-- DebugState at boot (R498). -/
def dbgAtBoot (lc : Nat) : Nat := if lc = 2 then 0 else 1
/-- A read of DebugChallenge. -/
def State.challengeNew (s : State) : State × List Byte :=
  let c := leBytes 16 (Config.challenge s.ctr).toNat
  ({ s with ctr := s.ctr + 1, datum := { s.datum with chal := some c } }, c)
def State.challengeExpire (s : State) : State := { s with datum := { s.datum with chal := none } }
/-- A DebugResponse: its answer with its effect (R499, R500). -/
def State.debugRespond (s : State) (sig : List Byte) : State × Nat :=
  match s.datum.chal with
  | none => (s, abState)
  | some c =>
    if s.datum.lc ≠ 2 ∨ !s.datum.dbgChal ∨ !(List.range 16).all (fun i => s.otpValid (2560 + i)) ∨ s.loadRunning ∨
        3 ≤ s.datum.chalFails then (s, abState)
    else if Config.ecdsaOk (s.otpBytes 2560 16) ([0x4F, 0x58, 0x44, 0x42, 0x47] ++ c) sig then
      ({ s with datum := { s.datum with chal := none, dbg := 2, key := false } }, 0)
    else ({ s with datum := { s.datum with chal := none, chalFails := s.datum.chalFails + 1 } }, abFail)
/-- Processor debug is open (R498). -/
def State.dbgOpen (s : State) : Bool := s.datum.dbg ≠ 0
/-- What the TAP's instruction acts as now (R497, R498): EXTEST, CLAMP and HIGHZ are BYPASS while a channel runs, DBG while debug is closed. -/
def State.tapActs (s : State) : TapIr :=
  match s.dev.tap with
  | .extest | .clamp | .highz => if s.anyBusy then .bypass else s.dev.tap
  | .dbg => if s.dbgOpen then .dbg else .bypass
  | x => x
/-- An instruction taken by the TAP. -/
def State.tapTake (s : State) (i : TapIr) : State := s.modDev (fun d => { d with tap := i })
/-- SAMPLE/PRELOAD: what the boundary-scan register captured of the pins leaves at TDO, and what was shifted in stands in it. The pins' levels
and the register's length are not stated (log entry 3). -/
def State.tapSample (s : State) (cells : Nat) : State :=
  let t := (s.tapTake .sample).modDev (fun d => { d with bsr := cells })
  (t.freed).emit (.tdo (Config.freeNat t.ctr))
/-- EXTEST and CLAMP drive the pins from the boundary-scan register, HIGHZ lets go of them. -/
def State.tapPins (s : State) (i : TapIr) : State :=
  let t := s.tapTake i
  if t.tapActs = i then t.emit (.scan i s.dev.bsr) else t

/-! ### The protection block (R501, R506) -/

/-- DomainState: the channels' domains, PD_PIX, PD_HOST. -/
def State.domainState (s : State) : Nat :=
  allCh.foldl (fun (a : Nat) (n : Ch) => a + (if s.chOn n then 2 ^ (n : Nat) else 0)) 0 +
    (if s.pix.on then 256 else 0) + (if s.pcie.on then 512 else 0)
def State.protLive (s : State) : State :=
  let s1 := ((((s.putB Pr.KEY_LOADED s.datum.key).put Pr.DBG_STATE s.datum.dbg).put Pr.BOOT_SRC s.datum.bootSrc).put
    Pr.LC_STATE s.datum.lc).put Pr.FW_VERSION s.datum.fwVersion
  (((s1.put Pr.DOMAIN_STATE s.domainState).putB Pr.TAMPER_LVL s.dev.tamperLow).putB Pr.TAMPER_EN s.datum.tamperEn).put
    Pr.DEV_STATE s.devState.code

end Sys2Proof.Machine
end

