-- ==== Sys2Proof/Machine/Power.lean ====
section
/-! DEFINITION. Power states and the life of the device (chapters 14, 17, 18): host-side resets, STANDBY and wake, the end of a
bleed, the benchmark run and SafeExit, device resets, the watchdog. -/
namespace Sys2Proof.Machine

/-! ### Host-side resets (R391, R423, R435) -/

/-- An answer owed to PCI Express is owed to none. -/
def notHost (p : Option Port) : Option Port := if p = some .pcie then none else p
def FeFor.notHost (u : FeFor) : FeFor := match u with | .port .pcie => .reg | _ => u
/-- The answers still owed to PCI Express are lost; what they answer goes on (R423). -/
def State.loseAnswers (s : State) : State :=
  let t : State := { s with
    flash := { s.flash with saving := s.flash.saving.map (fun v => { v with port := notHost v.port }) }
    dma := s.dma.map (fun d => { d with owed := d.owed.filter (fun p => decide (p ≠ .pcie)) })
    ch := s.ch.map (fun c => { c with
      applyQ := c.applyQ.map (fun e => { e with owed := notHost e.owed })
      drive := { c.drive with load := c.drive.load.map (fun l => { l with port := notHost l.port }) }
      link := { c.link with
        fe := c.link.fe.map (fun a => { a with use := a.use.notHost }), feQ := c.link.feQ.map (fun a => { a with use := a.use.notHost }) } }) }
  t.modDev (fun d => { d with safeRun := d.safeRun.map notHost, standbyWait := d.standbyWait.map notHost, waking := d.waking.map notHost })
/-- What every reset of PD_HOST does; the mailbox request in progress loses its answer, expert access of the port ends, and the function is
configured no more. While PD_HOST is in reset PCI Express is lost, so that the token moves (R423, R435). -/
def State.hostReset (s : State) : State :=
  let t := (((s.dmaReset.resetAll Cs.fields).resetAll Mx.fields).resetAll [Ho.INT_STAT, Ho.INT_EN]).resetAll Mb.fields
  let u : State := { t with pcie := { t.pcie with
    mb := none, d3 := false, conf := false } }
  let v := u.loseAnswers.modDev (fun d => { d with expPcie := false })
  if v.dev.token = .pcie ∧ v.dev.boot = .up then v.moveToken .can else v

/-! ### The journal of the parameter store (R446) -/

/-- The valid copy with the higher sequence number (R446). -/
def Flash.newest (f : Flash) : Option (Nat × ParamCopy) :=
  match f.copies with
  | [some a, some b] => if a.seq < b.seq then some (1, b) else some (0, a)
  | [some a, none] => some (0, a)
  | [none, some b] => some (1, b)
  | _ => none
/-- The place of the copy that does not hold the newest valid set. -/
def Flash.older (f : Flash) : Nat := match f.newest with | some (i, _) => 1 - i | none => 0
/-- That copy is written with the next 32-bit sequence number. -/
def Flash.journal (f : Flash) (vals : List (Nat × Nat × List Byte)) : Flash :=
  match f.newest with
  | some (i, c) => { f with copies := f.copies.set (1 - i) (some ⟨(c.seq + 1) % 2 ^ 32, vals⟩) }
  | none => { f with copies := f.copies.set 0 (some ⟨1, vals⟩) }
/-- Whether a save is in progress, and whether the time of one is over. -/
def State.saveBusy (s : State) : Bool := s.flash.saving.any (fun v => decide (s.tb < v.due))
def State.saveDue (s : State) : Bool := s.flash.saving.any (fun v => decide (v.due ≤ s.tb))
/-- A save whose time is over is done: its copy is the newest, and it is answered. -/
def State.saveSettle (s : State) : State :=
  match s.flash.saving with
  | some v =>
    if v.due ≤ s.tb then State.reply { s with flash := { s.flash.journal v.vals with saving := none } } v.port 0x1010 1 0 else s
  | none => s
/-- The flash after a device reset: an interrupted save has left the copy that it was writing not valid, and the older copy stands (R446). -/
def Flash.afterReset (f : Flash) : Flash :=
  { f with saving := none, copies := if f.saving.isSome then f.copies.set f.older none else f.copies, prog := 0, image := [], bootSlot := f.nextBoot }

/-! ### STANDBY and wake (R501 to R503) -/

def State.standbyRefused (s : State) : Option Nat :=
  firstBad [(s.inBenchmark || s.dev.safe || s.dev.safeEntry.isSome || s.anyBusy ||
    allDma.any (fun d => s.has (Dm.EN d)) || s.saveBusy, abState)]
/-- The entry is done once no channel is IDLE any more: PD_PIX parks, then the answer leaves, and PD_HOST parks 1 ms later (R502). -/
def State.standbyStep (s : State) : State :=
  match s.dev.standbyWait with
  | none => s
  | some p =>
    if allCh.any (fun n => s.chSt n = .idle) then s
    else ((if s.pix.on then s.pixPark else s).modDev (fun d => { d with standbyWait := none, hostParkDue := d.waking.isNone })).reply p 0x2000 3 0
/-- An accepted request for STANDBY; a second one changes nothing and is answered at once. -/
def State.standbyGo (s : State) (p : Option Port) : State :=
  if s.dev.standby then s.reply p 0x2000 3 0
  else
    let t := (s.modDev (fun d => { d with standby := true, standbyWait := some p })).cause 3
    (t.forCh (fun n u => if u.chSt n = .idle then u.rampAndOpen n else u)).standbyStep
/-- PD_HOST parks. -/
def State.hostPark (s : State) : State :=
  if s.dev.hostParkDue then
    let t := s.modDev (fun d => { d with hostParkDue := false })
    State.hostReset { t with pcie := { t.pcie with on := false, linkUp := false } }
  else s
/-- A wake reaches a channel: an OFF channel whose bleed is over powers up; it is IDLE with PRECHG and its link UP. -/
def State.wakeCh (n : Ch) (s : State) : State :=
  if s.dev.waking.isNone ∨ s.chSt n ≠ .off ∨ (s.ch[n]).drive.bleeding then s
  else if !s.has (Lv.HV_ON n) then
    if (s.ch[n]).drive.vhvAt.isSome then s else ((s.powerCh n).switchCheck n).trainBegin n .training
  else if s.has (Lv.PRECHG n) && s.linkUp n then s.setCh n .idle else s
/-- A wake (R503): outside STANDBY it changes nothing. -/
def State.wakeGo (s : State) (p : Option Port) : State :=
  if !s.dev.standby ∨ s.dev.waking.isSome then s.reply p 0x2000 3 0
  else
    let t := s.modDev (fun d => { d with waking := some p, hostParkDue := false })
    State.forCh { t with pcie := { t.pcie with on := true } } State.wakeCh
/-- No channel remains OFF: the wake is answered and DeviceState reads IDLE. -/
def State.wakeDone (s : State) : State :=
  match s.dev.waking with
  | none => s
  | some p =>
    if s.dev.standbyWait.isSome ∨ allCh.any (fun n => s.chSt n = .off) then s
    else ((s.modDev (fun d => { d with waking := none, standby := false })).cause 3).reply p 0x2000 3 0
/-- A channel's reservoirs are empty (R185): its domain parks, and what its state was waiting for happens. -/
def State.bleedDone (s0 : State) (n : Ch) : State :=
  if !(s0.ch[n]).drive.bleeding then s0
  else
    let s := ((if s0.has (Lv.HV_ON n) then (s0.switchOpen n).switchDrop n else s0)).unflag (Lv.BAL_OK n)
    match s.chSt n with
    | .retiring => ((s.parkCh n).setCh n .retired).safeFinish
    | .stopping => ((s.parkCh n).setCh n .off).safeFinish
    | .idle =>
      if s.dev.standby then (((s.epochLose n).parkCh n).setCh n .off).standbyStep
      else s.modDrive n (fun d => { d with bleeding := false })
    | .off => (s.parkCh n).safeFinish
    | _ => s.modDrive n (fun d => { d with bleeding := false })

/-! ### The benchmark run (R515 to R519, R523, R524) -/

/-- A failure of something shared: the run ends at once (R519), at the end of the test that found it; the command that starts a run
brings all its tests up to VHV, so BM_MS takes their times from R516 (DESIGN CHOICE, log entry 43). -/
def State.benchShared (s : State) (f : Fld) (bitNo code ms : Nat) : State := ((s.flag f).enterSafe bitNo code 4).put Su.BM_MS ms
/-- A channel found failing by a test, in every channel of the run; the next test begins in a later cycle. -/
def State.benchTest (s : State) (chs : List Ch) (ok : ChanTest → Bool) (res cause : Nat) : State :=
  (chs.foldl (fun (t : State) (n : Ch) =>
    if (t.dev.tests[(n : Nat)]?).all ok then t else t.benchFail n res cause) s).modDev (fun d => { d with retires := [] })
/-- A data word that a test picks, as the spares resolve it, is torn or uncorrectable; and the findings that send EMCY 0xFF61 (R517). -/
def State.otpFaulty (s : State) (sel : Nat → Bool) : Bool :=
  s.otp.words.any (fun c => sel c.idx && c.idx % 512 < 504 && (s.resolved (c.idx / 512) (c.idx % 512)).isTorn)
def State.otpWarn (s : State) : Bool :=
  s.otpFaulty (fun i => (512 ≤ i && i < 576) || (2048 ≤ i && i < 2057)) || decide (0xFFFF < s.otpCounts) ||
    s.otp.rows.any (fun r => decide (r.wl.1 ≠ r.wl.2) || decide (r.rl.1 ≠ r.rl.2) || decide (r.lc.1 ≠ r.lc.2))
def State.otpRegion0 (s : State) : Bool := s.otpFaulty (fun i => i < 512)
/-- A channel without a sensor is not fitted (R518). -/
def State.benchUnfit (s : State) (n : Ch) : State :=
  ((s.put (Su.BM_RES n) 1).put (Cc.CAUSE n) 0xE).setCh n .retired
/-- B2 of the power-up run leaves the tables of its channels and the visible scratchpad at zero (R516); after SafeExit they keep what they
hold (R524). -/
def State.benchClear (s : State) (chs : List Ch) : State :=
  let t := chs.foldl (fun (t : State) (n : Ch) => t.modCh n (fun c => { c with table := [], badEntries := [] })) s
  { t with sp := t.sp.filter (fun x => spVisible ≤ x.1), parBad := t.parBad.filter (fun o => spVisible ≤ o) }
/-- Precharge and training of what is left (B3, B4). -/
def State.benchPower (s : State) (n : Ch) : State := ((s.powerCh n).prechargeStart n).trainBegin n .training
/-- The run from its start to the beginning of precharge: the OTP check, B1, B2, unfitted channels, VHV. -/
def State.benchStart (s : State) (v : BenchView) (powerUp : Bool) : State :=
  let chs := allCh.filter (fun n => s.chSt n = .off)
  let s0 := ((s.resetAll (chs.map (fun (n : Ch) => Su.BM_RES n) ++ Su.fields.filter (fun f => f.addr = 0x310))).modDev
    (fun d => { d with tests := v.chans, bmAt := s.tb })).otpCheck
  let s1 := if s0.otpWarn then s0.emcyMsg 0xFF61 0xFF 0 else s0
  if s1.otpRegion0 then s1.benchShared Su.BM_OTP 8 0x5060 25
  else if !v.pixLogicOk then s1.benchShared Su.BM_PIXLOG 7 0x6020 40
  else
    let s2 := s1.benchTest chs (fun t => t.logicOk) 2 0xB
    if !v.pixMemOk then s2.benchShared Su.BM_PIXMEM 7 0x5050 95
    else if powerUp && !v.spadOk then s2.benchShared Su.BM_SPAD 7 0x5050 95
    else
      let s2 := if powerUp then s2.benchClear chs else s2
      let s3 := s2.benchTest (chs.filter (fun n => s2.chSt n = .off)) (fun t => t.memoryOk) 3 0xC
      let left := chs.filter (fun n => s3.chSt n = .off)
      let s4 := left.foldl (fun (t : State) (n : Ch) => if t.get (Th.TYPE (thOf n)) = 0 then t.benchUnfit n else t) s3
      let fit := left.filter (fun n => s4.chSt n = .off)
      if fit ≠ [] ∧ !v.vhvOk then s4.benchShared Su.BM_VHV 1 0x3210 95
      else fit.foldl State.benchPower s4
/-- Precharge or training fails in the run, at a wake or at a readmission. -/
def State.upFail (s : State) (n : Ch) (res cause : Nat) : State :=
  match s.chSt n with
  | .off =>
    if s.benchOn then s.benchFail n res cause
    else if s.dev.waking.isSome then s.retire n cause else s
  | .readmitting => s.readmitFail n
  | .idle => if (s.ch[n]).readmitK.isSome then s.readmitFail n else s
  | _ => s
/-- A first training fails, by its time or by a wrong version (R247, R332, R503, R516). -/
def State.trainFail (s : State) (n : Ch) : State :=
  (s.modLink n (fun l => { l with st := .failed })).upFail n 6 2
def State.trainTimeout (s : State) (n : Ch) : State := if s.linkSt n = .training then s.trainFail n else s
/-- TSR (R247): a first training with a wrong version fails at once. A far end that cannot route leaves no sense class kept (R545). -/
def State.tsrTake (s : State) (n : Ch) (ver cap : Nat) : State :=
  let t0 := s.tsr n ver cap
  let t := if bit cap 0 then t0 else t0.modHealth n (fun h => { h with evid := h.evid.map (fun e => { e with sense := [] }) })
  if s.linkSt n = .training ∧ ver ≠ 1 then t.trainFail n else t
/-- A retraining misses its 200 µs (R249). -/
def State.retrainMissed (s : State) (n : Ch) : State := if s.linkSt n = .retrain then s.retrain n else s
/-- Precharge completes (R182); the rails then step up to REST of the slot in effect (log entry 61). -/
def State.prechargeDone (s0 : State) (n : Ch) : State :=
  let s := s0.switchPass n
  if (s.ch[n]).drive.precharging then
    (((s.flag (Lv.PRECHG n)).flag (Lv.BAL_OK n)).rampRails n 0 (some (s.restLevel n))).modDrive n (fun d =>
      { d with precharging := false, railsRest := true, prechgAt := some s.tb })
  else s
def State.prechargeTimeout (s0 : State) (n : Ch) : State :=
  let s := s0.switchPass n
  if (s.ch[n]).drive.precharging then (s.modDrive n (fun d => { d with precharging := false })).upFail n 4 6 else s
/-- The run ends when no channel of it is still precharging or training (R516); after SafeExit the device leaves SAFE. -/
def State.benchEnd (s : State) : State :=
  if !s.benchOn ∨ allCh.any (fun n => s.chSt n = .off && !(s.has (Lv.PRECHG n) && s.linkUp n)) then s
  else
    let s1 := (s.forCh (fun n t => t.benchLast n)).benchMs
    match s1.dev.safeRun with
    | some p =>
      (((s1.modDev (fun d => { d with safeRun := none, safe := false })).put Su.SAFE_CAUSE 0).cause 3).reply p 0x2000 8 0
    | none => (s1.modDev (fun d => { d with boot := .up })).tokenCheck
def State.safeExitRefused (s : State) : Option Nat :=
  firstBad [(!s.dev.safe || s.inBenchmark || s.get Su.SAFE_COND ≠ 0, abState)]
/-- An accepted SafeExit (R523). -/
def State.safeExitGo (s : State) (v : BenchView) (p : Option Port) : State :=
  (s.modDev (fun d => { d with safeRun := some p })).benchStart v false

/-! ### Device resets (R510 to R512) -/

/-- A device reset: everything at its reset value but what has no reset (OTP, flash, pins, the TAP) and the node ID. The rails stay where
they stand until the supervisor ramps them (R510). -/
def State.deviceReset (s : State) (src : Nat) (b : BootStage) : State :=
  let r := State.reset
  let t : State := { r with
    pending := s.pending, out := s.out, ctr := s.ctr
    ch := s.ch.map (fun c => { Chan.reset with drive := { Drive.reset with
      railF := c.drive.railF.rest s.tb, railW := c.drive.railW.rest s.tb } })
    otp := s.otp, flash := s.saveSettle.flash.afterReset
    cu := s.cu.map (fun c => { Cu.reset with a := c.a, b := c.b, swHome := c.swHome, swLimP := c.swLimP, swLimN := c.swLimN })
    can := { r.can with nodeId := s.can.nodeId }
    pcie := { r.pcie with perst := s.pcie.perst }
    dev := { r.dev with boot := b, tamperLow := s.dev.tamperLow, tap := s.dev.tap } }
  State.otpDisarm (t.put Su.RESET_SRC src)
/-- The supervisor finds its link silent after a device reset: rails down, switches open (R510). -/
def State.supervisorSilent (s : State) : State :=
  if s.dev.boot = .held ∨ s.dev.boot = .released ∨ s.dev.boot = .locked then s.forCh (fun n t => t.rampAndOpen n) else s

/-! ### The watchdog (R43) -/

/-- 10 s in ticks. -/
def wdWindow : Nat := usTicks 10000000
/-- What the station processor's fetches from its ROM met (R410, R413): single errors are corrected and counted, an uncorrectable one
stops the processor until the watchdog acts. -/
def State.romSeen (s : State) (r : RomView) : State :=
  let t := s.bumpBy Me.ROM_CE_CNT r.ce
  if r.ue then t.modDev (fun d => { d with romStop := true }) else t
/-- The station processor serves nothing: it restarts, has stopped, or is halted (R43, R413, R500). -/
def State.spDown (s : State) : Bool := s.dev.restarting || s.dev.romStop || s.dev.dbgHalt
/-- A watchdog expiry: the station processor restarts, or the device enters SAFE; while it is halted its watchdog is suspended (R500). What
the fetches of a firmware in ROM have met up to then is counted (R410); an uncorrectable error is what has stopped it (R413). -/
def State.wdExpire (s0 : State) (rom : RomView) : State :=
  let s := (if s0.datum.bootSrc = 0 then s0.bumpBy Me.ROM_CE_CNT rom.ce else s0).modDev (fun d => { d with romStop := false })
  if s0.dev.dbgHalt then s0
  else if s.dev.wdAt.any (fun t => s.tb ≤ t + wdWindow) then (s.modDev (fun d => { d with wdAt := some s.tb })).enterSafe 6 0x6010 4
  else ((s.modDev (fun d => { d with wdAt := some s.tb, restarting := true })).bump (objFld 0x5010 2 16 0)).emcyMsg 0x6010 0xFF 0

end Sys2Proof.Machine
end

