-- ==== Sys2Proof/Machine/Blocks.lean ====
section
/-! DEFINITION. The register blocks of BAR0 by address (R418), with what each judges, refuses and applies of a written word
(R547 to R549), its live words, and the register write of a port that reaches its block (R322, R433). -/
namespace Sys2Proof.Machine

/-- A register block, with its instance. -/
inductive Blk where
  | host | prot | epoch | startup | mem | eng | sh | ev | mb | die | nowhere
  | th (m : Thi)
  | dma (d : Dch)
  | ctl (n : Ch)
  | trav (n : Ch)
  | line (n : Ch)
  | edit (n : Ch)
  | pat (n : Ch) (h : Nat)
  | lev (n : Ch)
  | slot (n : Ch) (sl w : Nat)
  | link (n : Ch)
  | health (n : Ch)
  | tile (n : Ch) (w : Nat)
  | cu (m : Cun)
  | stk (i : Stk)
  | sink (k : Nat)
  | msix
deriving DecidableEq, Repr

/-- The block of a channel's hot path an offset below 0x1000 lies in. -/
def chanBlk (n : Ch) (o : Nat) : Blk :=
  if o < 0x2C then .ctl n
  else if 0x100 ≤ o ∧ o < 0x200 then .trav n
  else if 0x200 ≤ o ∧ o < 0x300 then .line n
  else if 0x300 ≤ o ∧ o < 0x400 then .edit n
  else if 0x400 ≤ o ∧ o < 0x500 then .pat n ((o - 0x400) / 4)
  else if 0x500 ≤ o ∧ o < 0x600 then .lev n
  else if 0x600 ≤ o ∧ o < 0x700 then (if o % 0x80 < 0x50 then .slot n ((o - 0x600) / 0x80) (o % 0x80 / 4) else .nowhere)
  else if 0x700 ≤ o ∧ o < 0x780 then .link n
  else if 0x780 ≤ o ∧ o < 0x800 then .health n
  else if 0x800 ≤ o then .tile n ((o - 0x800) / 4)
  else .nowhere
/-- The block an address below 0x10_0000 lies in (R418). -/
def blkOf (a : Nat) : Blk :=
  if a < 0x100 then .host
  else if a < 0x200 then .prot
  else if a < 0x300 then .epoch
  else if a < 0x400 then .startup
  else if a < 0x540 then .th (Fin.ofNat 10 ((a - 0x400) / 0x20))
  else if a < 0x600 then .die
  else if a < 0x700 then .mem
  else if 0x10000 ≤ a ∧ a < 0x10800 then .dma (Fin.ofNat 16 ((a - 0x10000) / 0x80))
  else if 0x10800 ≤ a ∧ a < 0x10900 then .eng
  else if 0x20000 ≤ a ∧ a < 0x28000 then chanBlk (Fin.ofNat 8 ((a - 0x20000) / 0x1000)) (a % 0x1000)
  else if 0x30000 ≤ a ∧ a < 0x30400 then .cu (Fin.ofNat 4 ((a - 0x30000) / 0x100))
  else if 0x30800 ≤ a ∧ a < 0x30A00 then .stk (Fin.ofNat 16 ((a - 0x30800) / 0x20))
  else if 0x30C00 ≤ a ∧ a < 0x30D00 then .sh
  else if 0x40000 ≤ a ∧ a < 0x40100 then .sink ((a - 0x40000) / 4)
  else if 0x40100 ≤ a ∧ a < 0x40200 then .ev
  else if 0x80000 ≤ a ∧ a < 0x80200 then .mb
  else if 0xF0000 ≤ a ∧ a < 0xF0808 then .msix
  else .nowhere

/-- The channel whose domain a block lies in (R24, R322): the control block is served in AON. -/
def Blk.chan : Blk → Option Ch
  | .trav n | .line n | .edit n | .pat n _ | .lev n | .slot n _ _ | .link n | .health n | .tile n _ => some n
  | _ => Option.none
def Blk.fields : Blk → List Fld
  | .host => Ho.fields | .prot => Pr.fields | .epoch => Ep.fields | .startup => Su.fields | .mem => Me.fields
  | .eng => De.fields | .sh => Sh.fields | .ev => Ev.fields | .mb => Mb.fields | .die => Di.fields | .nowhere => []
  | .th m => thermalFields m | .dma d => Dm.fields d | .ctl n => Cc.fields n | .trav n => Tr.fields n
  | .line n => Ld.fields n | .edit n => Ed.fields n | .pat n h => [Ed.LEVEL_ADJ n h, Ed.RAIL n h] | .lev n => Lv.fields n
  | .slot n sl _ => Sl.fields n sl | .link n => Lk.fields n | .health n => Nh.fields n | .tile n w => [Ed.TILE n w]
  | .cu m => Cu.fields m | .stk i => St.fields i | .sink k => Ev.sinkFields k | .msix => Mx.fields
/-- The flag that reports a refused register write; the shared registers have none (R92). -/
def Blk.wrej : Blk → Option Fld
  | .host => some Ho.HOST_WREJ | .prot => some Pr.WREJ | .epoch => some Ep.WREJ | .startup => some Su.WREJ
  | .mem => some Me.WREJ | .th m => some (Th.WREJ m) | .dma d => some (Dm.WREJ d) | .ctl n => some (Cc.WREJ n)
  | .trav n => some (Tr.WREJ n) | .line n => some (Ld.WREJ n) | .edit n | .pat n _ | .tile n _ => some (Ed.WREJ n)
  | .lev n | .slot n _ _ => some (Lv.WREJ n) | .link n => some (Lk.WREJ n) | .health n => some (Nh.WREJ n)
  | .cu m => some (Cu.WREJ m) | .stk i => some (St.WREJ i) | .sink _ | .ev => some Ev.WREJ
  | .eng | .sh | .mb | .die | .nowhere | .msix => Option.none
/-- The RW, RWS, W1S and WO fields of the block are printing-critical (R119, R149, R177, R214, R290, R370, R395, R415, R449,
R506, R525, R548). TOKEN_CTL has its own rule. -/
def Blk.critical : Blk → Bool
  | .host | .mem | .eng | .mb | .die | .nowhere | .msix => false
  | .th m => isHead m
  | _ => true
def Acc.sets : Acc → Bool
  | .rw | .rws | .wo | .w1s => true
  | _ => false
/-- Blocks of which every field that can be written is printing-critical, flag clears too (R346, R370). -/
def Blk.allWrites : Blk → Bool
  | .ctl _ | .epoch | .th _ => true
  | _ => false
/-- A write of the word needs the control token. Every word of a slot does, the reserved one too (R213, R214). -/
def Blk.tokenWord (b : Blk) (addr : Nat) : Bool :=
  b.critical && (match b with
    | .slot _ _ _ => true
    | _ => b.fields.any (fun f => f.addr = addr && (f.acc.sets || (b.allWrites && f.acc = .w1c))))

/-! ### Judgements that join chapters -/

/-- MODE, START and STOP beside the traverse's own rules (R126, R196, R241). -/
def travJudgeAll (n : Ch) (addr data : Nat) (s : State) : Option Nat :=
  let m := bits data 5 4
  travJudge n addr data s <|>
  firstBad [
    ((Tr.MODE n).addr = addr && s.changes (Tr.MODE n) data && s.get (Ld.NROWS n) ≠ 0 &&
      geomModeErr m (s.get (Tr.PASS_LINES n)) (s.ch[n]).store.rows ≠ 0, abCheck)] <|>
  (if (Tr.START n).addr = addr ∧ bit data 0 then (s.rebaseDrop n).startRefused n else none)
/-- The effect of a traverse word; a decision of the same cycle still compares the LMATCH before it (R117). -/
def travApply (n : Ch) (addr data : Nat) (s : State) : State :=
  if (Tr.START n).addr = addr then
    if bit data 0 then (s.startTry n).1 else if bit data 1 then s.stopCh n else s
  else
    let t := s.writeWord (Tr.fields n) addr data (s.inRun n)
    if addr = (Tr.LMATCH_LO n).addr ∨ addr = (Tr.LMATCH_HI n).addr then
      t.modTrav n (fun x => { x with lmOld := s.lmatch n, lmAt := cycleOf s.tb })
    else t
/-- What a refused word of the traverse still reports: GEOM_ERR of a refused MODE, and what a START reports. -/
def travRefused (n : Ch) (addr data : Nat) (s : State) : State :=
  if (Tr.MODE n).addr = addr then
    let e := geomModeErr (bits data 5 4) (s.get (Tr.PASS_LINES n)) (s.ch[n]).store.rows
    if (travJudge n addr data s).isNone ∧ e ≠ 0 ∧ s.get (Ld.NROWS n) ≠ 0 then s.put (Ld.GEOM_ERR n) e else s
  else if (Tr.START n).addr = addr ∧ bit data 0 ∧ !bit data 1 then (s.startTry n).1 else s
/-- Q_FLUSH waits for the DMA engine to be done with the queue (R385). -/
def State.flushHeld (s : State) (n : Ch) (addr data : Nat) : Bool := (Ld.Q_FLUSH n).addr = addr && bit data 1 && s.dmaInto n
/-- The refusal of a line-data word; its state comes before its checks (R550). -/
def lineJudgeAll (n : Ch) (addr data : Nat) (s : State) : Option Nat :=
  match lineJudge n addr data s with
  | some a => some (if a = abCheck ∧ s.flushHeld n addr data then abState else a)
  | none => if s.flushHeld n addr data then some abState else none
/-- A word refused for its Q_FLUSH outside RUN applies no geometry and reports none (R149, R549). -/
def lineRefusedAll (n : Ch) (addr data : Nat) (s : State) : State :=
  if s.flushHeld n addr data ∧ !s.inRun n then s else lineRefused n addr data s

/-- TOKEN_CTL and ControlOwner (R434, R435). -/
def State.tokenJudge (s : State) (p : Port) (v : Nat) : Option Nat :=
  firstBad [
    (!s.holds p && !(s.dev.boot = .up && (if p = .can then s.pcieLost else s.canLost) && v = (if p = .can then 1 else 2)), abToken),
    (v ≠ 1 && v ≠ 2, abRange)]
def State.tokenSet (s : State) (v : Nat) : State := s.moveToken (if v = 1 then .can else .pcie)
/-- PowerStateRequest (R502, R515, R521). -/
def State.pwrJudge (s : State) (v : Nat) : Option Nat :=
  firstBad [
    (v ≠ 1 && v ≠ 2, abRange),
    (s.inBenchmark || s.dev.safe || s.dev.safeEntry.isSome, abState)] <|>
  (if v = 2 ∧ !s.dev.standby then s.standbyRefused else none)
/-- The request takes effect, and is answered to a port once its end is reached. -/
def State.pwrGo (s : State) (v : Nat) (p : Option Port) : State :=
  let t := s.put Pr.PWR_REQ v
  if v = 2 then t.standbyGo p else t.wakeGo p
/-- PWR_REQ written: a word that repeats the value and could not be taken now passes and asks for nothing (R549). -/
def State.pwrAgain (s : State) (v : Nat) : State := if (s.pwrJudge v).isSome then s else s.pwrGo v none
/-- What the benchmark run of a SafeExit finds that comes as a register or object write without a view: unstated (log entry 42). -/
def State.plainBench (s : State) : BenchView := Config.bench s.tb s.out.length

/-! ### Table, pattern and tile edits (R168 to R170, R173) -/

/-- A host edit of an entry; one that clears the nozzle's kept observations is logged as a host clear (R282, R292; log entry 63). -/
def State.hostEntry (s : State) (n : Ch) (i mask val line : Nat) : State :=
  let t := s.applyEntry n i mask val line
  if verdictMoved (s.entry n i) (t.entry n i) then t.verdictNote n i line (s.entry n i) (t.entry n i) 3 else t
/-- Edits of one request enter the channel's queue, or take effect at once outside RUN. -/
def State.applyTbl (s : State) (n : Ch) (b : EditBody) (line : Nat) : State :=
  match b with
  | .entry i m v => (s.hostEntry n i m v line).entryTouch n i
  | .pattern h v => s.applyPattern n h v line
  | .tile w v => s.applyTile n w v line
  | _ => s
/-- Their shadows: what a read of the register returns (R7). -/
def State.stageTbl (s : State) (n : Ch) (b : EditBody) : State :=
  match b with
  | .pattern h v => (s.put (Ed.LEVEL_ADJ n h) (bits v 2 1)).put (Ed.RAIL n h) (bits v 0 0)
  | .tile w v => s.put (Ed.TILE n w) v
  | _ => s
def State.tblRequest (s : State) (n : Ch) (bs : List EditBody) : State :=
  if bs = [] then s
  else if !s.inRun n then
    bs.foldl (fun (t : State) (b : EditBody) => (t.stageTbl n b).applyTbl n b (t.nextBoundary n)) s
  else if 32 < (s.ch[n]).applyQ.length + bs.length then
    (s.flag (Ed.TBL_DROP n)).bumpBy (Ed.TBL_DROP_CNT n) bs.length
  else
    let t := bs.foldl (fun (t : State) (b : EditBody) => t.stageTbl n b) s
    t.modCh n (fun c => { c with
      applyQ := c.applyQ ++ bs.map (fun b => { body := b, cls := .line, owed := none, at0 := t.tb }) })
/-- An edit of an entry by a mask, as a write gives it, is discarded when it would set STATUS 6 or 7 (R167). -/
def statusBad (mask val : Nat) : Bool := bit mask 61 && 6 ≤ Ent.STATUS val
/-- The edits of a BAR0 write of a table (R168, R170): covered halves of 32 bits, by entry; and whether bytes were left. -/
def tableEdits (ofs : Nat) (bytes : List Byte) : List (Nat × Nat × Nat) :=
  let fin := ofs + bytes.length
  let v := leNat bytes
  (List.range (fin / 8 + 1 - ofs / 8)).filterMap (fun j =>
    let i := ofs / 8 + j
    let lo := decide (ofs ≤ 8 * i ∧ 8 * i + 4 ≤ fin)
    let hi := decide (ofs ≤ 8 * i + 4 ∧ 8 * i + 8 ≤ fin)
    let m := (if lo then 0xFFFFFFFF else 0) + (if hi then 0xFFFFFFFF_00000000 else 0)
    let x := if 8 * i ≥ ofs then v / 2 ^ (8 * (8 * i - ofs)) else v * 2 ^ (8 * (ofs - 8 * i))
    if m = 0 then none else some (i, m, x % 2 ^ 64))
/-- A BAR0 write to the table of a channel (R34, R168, R170). DESIGN CHOICE (log entry 77): a write to entries 5,120 to 8,191 is
discarded without WREJ. -/
def State.tableStore (s : State) (n : Ch) (ofs : Nat) (bytes : List Byte) : State :=
  if s.chParked n then s
  else if !s.holds .pcie then s.flag (Ed.WREJ n)
  else
    let es := tableEdits ofs bytes
    let left := ofs % 4 ≠ 0 || (ofs + bytes.length) % 4 ≠ 0
    let ok := es.filter (fun (e : Nat × Nat × Nat) => decide (e.1 < 5120))
    let bad := ok.any (fun (e : Nat × Nat × Nat) => statusBad e.2.1 e.2.2)
    let s1 := if left || bad then s.flag (Ed.WREJ n) else s
    s1.tblRequest n ((ok.filter (fun (e : Nat × Nat × Nat) => !statusBad e.2.1 e.2.2)).map
      (fun (e : Nat × Nat × Nat) => EditBody.entry e.1 e.2.1 e.2.2))

/-! ### A word written to a block -/

/-- The refusal of a word by value, state and check (R549, R550). -/
def Blk.judge (b : Blk) (addr data : Nat) (s : State) : Option Nat :=
  match b with
  | .host => if addr = Ho.TOKEN_CTL.addr then s.tokenJudge .pcie (bits data 1 0) else none
  | .prot => if addr = Pr.PWR_REQ.addr ∧ s.changes Pr.PWR_REQ data then s.pwrJudge (bits data 1 0) else none
  | .epoch => epochJudge addr data s
  | .startup => if addr = Su.SAFE_EXIT.addr ∧ bit data 0 then s.safeExitRefused else none
  | .mem => memJudge addr data s
  | .sh => if s.anyInRun && s.anyChange [Sh.SYNC_DRV] addr data then some abState else none
  | .die => dieJudge addr data s
  | .th m => thermalJudge m addr data s
  | .dma d => dmaJudge d addr data s
  | .ctl n => ctlJudge n addr data s
  | .trav n => travJudgeAll n addr data s
  | .line n => lineJudgeAll n addr data s
  | .edit n | .pat n _ | .tile n _ => editJudge n addr data s
  | .lev n => levelJudge n addr data s
  | .slot n sl w => firstBad [(s.slotLocked n sl && s.slotChange n sl w data, abState)]
  | .link n => linkJudge n addr data s
  | .health n => healthJudge n addr data s
  | .cu m => cuJudge m addr data s
  | .stk i => stkJudge i addr data s
  | .ev | .sink _ | .eng | .mb | .msix | .nowhere => none
/-- What a refused word still reports, without the flag; a refused readmission whose line is out of order sets ORDER (R323). -/
def Blk.refused (b : Blk) (addr data : Nat) (s : State) : State :=
  match b with
  | .dma d => dmaRefused d addr data s
  | .line n => lineRefusedAll n addr data s
  | .trav n => travRefused n addr data s
  | .ctl n => if addr = (Cc.RETIRE n).addr ∧ bit data 0 then s.readmitOrder n else s
  | _ => s
/-- A software pulse (R39), and a route written after the pulses due have been delivered by the caller (R41). -/
def State.swPulses (s : State) (v : Nat) : State :=
  (List.range 8).foldl (fun (t : State) (i : Nat) => if bit v i then t.pulse (0x40 + i) else t) s
/-- A masked vector is unmasked: its pending message leaves (R421). -/
def State.msixUnmask (s : State) (v : Nat) : State :=
  let t := s.unflag (Mx.MASK v)
  if s.has (Mx.PBA v) ∧ s.pcie.on ∧ !s.pcie.d3 then (t.unflag (Mx.PBA v)).emit (.msix v) else t
/-- The effect of a word no field of which is refused. -/
def Blk.apply (b : Blk) (addr data : Nat) (s : State) : State :=
  match b with
  | .host => if addr = Ho.TOKEN_CTL.addr then s.tokenSet (bits data 1 0) else s.writeWord Ho.fields addr data false
  | .prot => if addr = Pr.PWR_REQ.addr then s.pwrAgain (bits data 1 0) else s.writeWord Pr.fields addr data false
  | .epoch => epochApply addr data s
  | .startup =>
    if addr = Su.SAFE_EXIT.addr then (if bit data 0 then s.safeExitGo s.plainBench none else s)
    else s.writeWord Su.fields addr data false
  | .mem => memApply addr data s
  | .sh => s.writeWord Sh.fields addr data false
  | .die => s.writeWord Di.fields addr data false
  | .th m => thermalApply m addr data s
  | .dma d => dmaApply d addr data s
  | .ctl n =>
    if addr = (Cc.RETIRE n).addr then
      if bit data 1 then s.retire n 10 else if bit data 0 then (s.readmitOrder n).readmitGo n else s
    else s.writeWord (Cc.fields n) addr data false
  | .trav n => travApply n addr data s
  | .line n => lineApply n addr data s
  | .edit n => s.writeWord (Ed.fields n) addr data (s.inRun n)
  | .pat n h => s.tblRequest n [.pattern h (data % 8)]
  | .tile n w => s.tblRequest n [.tile w data]
  | .lev n => levelApply n addr data s
  | .slot n sl w => s.slotWrite n sl w data
  | .link n => linkApply n addr data s
  | .health n => healthApply n addr data s
  | .cu m => cuApply m addr data s
  | .stk i => stkApply i addr data s
  | .sink k => s.writeWord (Ev.sinkFields k) addr data false
  | .ev => if addr = Ev.SWPULSE.addr then s.swPulses (data % 256) else s.writeWord Ev.fields addr data false
  | .mb => s.writeWord Mb.fields addr data false
  | .msix =>
    let v := (addr - 0xF0000) / 16
    if addr % 16 = 0xC ∧ !bit data 0 ∧ s.has (Mx.MASK v) then s.msixUnmask v else s.writeWord Mx.fields addr data false
  | .eng | .nowhere => s

/-- The flag of a refused register write; a shadow write to an armed DMA shadow sets SH_REJ in its place (R395). -/
def Blk.flagRefused (b : Blk) (addr data : Nat) (s : State) : State :=
  match b with
  | .dma d => if s.holds .pcie ∧ s.shadowHeld d addr data then s.flag (Dm.SH_REJ d) else s.flag (Dm.WREJ d)
  | .th m => s.thFlag (Th.WREJ m)
  | _ => match b.wrej with | some f => s.flag f | none => s
/-- A register word that reaches its block from PCI Express: discarded while its domain is parked (R322), refused without
the token (R433), else judged and applied (R549). -/
def State.regWrite (s : State) (addr data : Nat) : State :=
  let b := blkOf addr
  if b.chan.any (fun n => s.chParked n) then s
  else if b.tokenWord addr && !s.holds .pcie then b.flagRefused addr data s
  else match b.judge addr data s with
    | some _ => b.flagRefused addr data (b.refused addr data s)
    | none => b.apply addr data s

/-! ### Live words -/

/-- The words of a block as a read finds them. -/
def Blk.live (b : Blk) (s : State) : State :=
  match b with
  | .host =>
    let nmt := match s.can.nmt with | .init => 0 | .preOp => 1 | .operational => 2 | .stopped => 3
    (((((s.put Ho.NODE_ID s.can.nodeId).putB Ho.FLASH_NONE (!s.flash.present)).put Ho.NMT nmt).putB Ho.EXP_PCIE
      s.dev.expPcie).putB Ho.EXP_CAN s.dev.expCan).put Ho.TOKEN (if s.dev.token = .can then 1 else 2)
  | .prot => s.protLive
  | .epoch => s.epochLive
  | .mem => s.memLive
  | .eng => s.dmaTick.engineLive
  | .sh => (s.put Sh.TB_LO s.tb).put Sh.TB_HI (s.tb / 2 ^ 32)
  | .th m => s.thermalLive m
  | .dma d =>
    let t := s.dmaTick
    (((t.dmaLive d).putPair (Dm.CUR_SRC_LO d) (Dm.CUR_SRC_HI d) (t.dmaCurSrc d))).putPair (Dm.ACT_ADDR_LO d) (Dm.ACT_ADDR_HI d)
      (t.dmaActAddr d)
  | .ctl n => (s.ctlLive n).putPair (Cc.LAST_LO n) (Cc.LAST_HI n) (s.lastLine n)
  | .trav n => (s.travLive n).putPair (Tr.NEXT_LO n) (Tr.NEXT_HI n) (s.ch[n]).trav.next
  | .line n => ((s.lineLive n).put (Ld.Q_TAG_HI n) ((s.ch[n]).q.tag / 2 ^ 32)).putPair (Ld.ADMIT_LO n) (Ld.ADMIT_HI n)
      ((s.ch[n]).store.entered.getD 0)
  | .edit n => (s.editLive n).putPair (Ed.TBL_EFF_LO n) (Ed.TBL_EFF_HI n) (s.getPair (Hid.TEFF_LO n) (Hid.TEFF_HI n))
  | .lev n => (s.levelLive n).putPair (Lv.OC_LINE_LO n) (Lv.OC_LINE_HI n) (s.getPair (Hid.OC_LO n) (Hid.OC_HI n))
  | .link n => s.linkLive n
  | .health n => ((s.resultLatch n).put (Nh.SIG_DATA n) (s.sigRead n)).putPair (Nh.STRIP_S_LO n) (Nh.STRIP_S_HI n) (s.getPair (Hid.STRIP_LO n) (Hid.STRIP_HI n))
  | .cu m =>
    let z := (s.cu[m]).zcap
    (((s.cuSnap m).put (Cu.ZCAP_LO m) z.toNat).put (Cu.ZCAP_HI m) (z.toNat / 2 ^ 32)).put (Cu.ZCAP_SIGN m) (if z.msb then 0xFFFF else 0)
  | .startup | .die | .stk _ | .sink _ | .ev | .mb | .msix | .nowhere | .pat _ _ | .tile _ _ | .slot _ _ _ => s
/-- A live word; while its channel's domain is parked it reads 0 (R454). -/
def State.liveWord (s : State) (addr : Nat) : Nat :=
  let b := blkOf addr
  if b.chan.any (fun n => s.chParked n) then 0 else (b.live s).readWord b.fields addr
/-- The high words (and for the result, its words) that a read of a low word latches. -/
def latched (addr : Nat) : List Fld :=
  match blkOf addr with
  | .trav n => if addr = (Tr.NEXT_LO n).addr then [Tr.NEXT_LO n, Tr.NEXT_HI n] else []
  | .line n =>
    if addr = (Ld.Q_TAG_LO n).addr then [Ld.Q_TAG_LO n, Ld.Q_TAG_HI n]
    else if addr = (Ld.ADMIT_LO n).addr then [Ld.ADMIT_LO n, Ld.ADMIT_HI n] else []
  | .edit n => if addr = (Ed.TBL_EFF_LO n).addr then [Ed.TBL_EFF_LO n, Ed.TBL_EFF_HI n] else []
  | .lev n => if addr = (Lv.OC_LINE_LO n).addr then [Lv.OC_LINE_LO n, Lv.OC_LINE_HI n] else []
  | .health n =>
    if addr = (Nh.RES_LINE_LO n).addr then
      [Nh.CLASS n, Nh.NOZ n, Nh.DEV n, Nh.LAG n, Nh.RHO n, Nh.AMP n, Nh.NSAMP n, Nh.ROW n, Nh.RES_LINE_LO n, Nh.RES_LINE_HI n]
    else if addr = (Nh.STRIP_S_LO n).addr then [Nh.STRIP_S_LO n, Nh.STRIP_S_HI n] else []
  | .ctl n => if addr = (Cc.LAST_LO n).addr then [Cc.LAST_LO n, Cc.LAST_HI n] else []
  | .cu m =>
    if addr = (Cu.ZCAP_LO m).addr then [Cu.ZCAP_LO m, Cu.ZCAP_HI m, Cu.ZCAP_SIGN m]
    else if addr = (Cu.POS_LO m).addr then
      [Cu.POS_LO m, Cu.POS_HI m, Cu.POS_SIGN m, Cu.SPEED m, Cu.WIN_SEQ m, Cu.SSI_LOST m, Cu.LIMP m, Cu.LIMN m, Cu.HOME m, Cu.DIR m,
       Cu.REVERSAL m, Cu.PARTIAL m, Cu.STILL m, Cu.PERIOD m] else []
  | .sh => if addr = Sh.TB_LO.addr then [Sh.TB_LO, Sh.TB_HI] else []
  | .dma d =>
    if addr = (Dm.CUR_SRC_LO d).addr then [Dm.CUR_SRC_LO d, Dm.CUR_SRC_HI d]
    else if addr = (Dm.ACT_ADDR_LO d).addr then [Dm.ACT_ADDR_LO d, Dm.ACT_ADDR_HI d] else []
  | _ => []
/-- A read of a low word that latches its high word. -/
def State.latchRead (s : State) (addr : Nat) : State :=
  let t := (blkOf addr).live s
  ((latched addr).foldl (fun (u : State) (f : Fld) => u.put f (t.get f)) s).emit (.regData addr (s.liveWord addr))
/-- A word that the read of a low word has latched, and that reads as it was latched. -/
def heldWord (addr : Nat) : Bool :=
  [addr + 8, addr + 4, addr - 4, addr - 8, addr - 12, addr - 16].any (fun low =>
    decide (low ≠ addr) && (latched low).any (fun f => f.addr = addr))
/-- What a read does beside answering: one of SIG_DATA moves its window on (R289). -/
def State.readStep (s : State) (addr : Nat) : State :=
  match blkOf addr with
  | .health n => if addr = (Nh.SIG_DATA n).addr ∧ !s.chParked n then s.sigStep n else s
  | _ => s
/-- A read of a word below 0x10_0000; a parked domain's reads 0 (R454). -/
def State.wordRead (s : State) (addr : Nat) : State :=
  if heldWord addr then
    let b := blkOf addr
    s.emit (.regData addr (if b.chan.any (fun n => s.chParked n) then 0 else s.readWord b.fields addr))
  else (s.latchRead addr).readStep addr

end Sys2Proof.Machine
end

