-- ==== Sys2Proof/Machine/Objects.lean ====
section
/-! DEFINITION. The object dictionary: one row per object of the tables R95, R120, R150, R178, R215, R256, R291, R292, R317,
R318, R347, R371, R396, R416, R450, R456 and R459, with its size, access, level, apply class, range, and the home of its
value. -/
namespace Sys2Proof.Machine

/-- Access of an object (R7). -/
inductive OAcc where
  | ro | rw | wo
deriving DecidableEq, Repr
/-- The home of an object's value: bits of a register word, the low and high word of a long value, a value no register
holds, a command word for each value, flags that a 1 clears, a value of the prepared epoch set (R46), or a home of its
own that the access functions know by index and sub-index. -/
inductive Kind where
  | word (a m l : Nat)
  | two (lo hi : Nat)
  | own (f : Fld)
  | cmd (a : Nat) (cs : List (Nat × Nat))
  | clr (fs : List Fld)
  | prep (f : Fld)
  | fn
deriving DecidableEq, Repr
/-- A row of the dictionary. `size` is in bytes, 0 for a DOMAIN or a string; a range that begins below 0 is that of an INTEGER
type. -/
structure Obj where
  sub : Nat
  size : Nat
  acc : OAcc
  expert : Bool
  cls : Cls
  lo : Int
  hi : Int
  kind : Kind
deriving DecidableEq, Repr

/-- No bound beyond the type's, of an UNSIGNED or an INTEGER type. -/
def uAny : Int := 2 ^ 64
def sAny : Int := -2 ^ 63
/-- Row makers: read-only, read-write with class and range, write-only with class and range. -/
def oRo (sub size : Nat) (k : Kind) : Obj := ⟨sub, size, .ro, false, .none, 0, uAny, k⟩
def oRw (sub size : Nat) (c : Cls) (lo hi : Int) (k : Kind) : Obj := ⟨sub, size, .rw, false, c, lo, hi, k⟩
def oWo (sub size : Nat) (c : Cls) (lo hi : Int) (k : Kind) : Obj := ⟨sub, size, .wo, false, c, lo, hi, k⟩
/-- The expert form of a row (R9). -/
def Obj.x (o : Obj) : Obj := { o with expert := true }
/-- A field of a register as a home. -/
def kf (f : Fld) : Kind := .word f.addr f.msb f.lsb
/-- Two register words as a home, by a field of each. -/
def k2 (lo hi : Fld) : Kind := .two lo.addr hi.addr
/-- A whole word, and low bits of one, by a field of it. -/
def kw (f : Fld) : Kind := .word f.addr 31 0
def kLow (f : Fld) (msb : Nat) : Kind := .word f.addr msb 0

/-! ### Chainage (R95) -/

def objCu (m : Nat) : List Obj :=
  [oRw 1 1 .idle 0 2 (kf (Cu.SRC m)), oRw 2 1 .idle 0 1 (kf (Cu.INV_DIR m)), oRw 3 2 .imm 0 1023 (kf (Cu.WIN m)),
   oRw 4 2 .imm 0 32767 (kf (Cu.STILL_T m)), oRo 5 6 (k2 (Cu.POS_LO m) (Cu.POS_HI m)), oRo 6 4 (kf (Cu.SPEED m)),
   oRo 7 4 (kw (Cu.STILL m)), oRw 8 1 .idle 0 3 (kf (Cu.HOME_MODE m)),
   oRw 9 6 .idle sAny uAny (k2 (Cu.HOMEPOS_LO m) (Cu.HOMEPOS_HI m)),
   oWo 0x0A 1 .idle 1 3 (.cmd (Cu.HOME_GO m).addr [(1, 1), (2, 2), (3, 4)]), oRw 0x0B 1 .idle 0 1 (kf (Cu.HOME_DIR m)),
   oRw 0x0C 1 .idle 0 1 (kf (Cu.Z_EN m)), (oRw 0x0D 1 .idle 0 15 (kf (Cu.FILT m))).x,
   (oRw 0x0E 1 .idle 0 3 (kf (Cu.PER_N m))).x, (oRo 0x0F 4 (kf (Cu.PERIOD m))).x,
   (oRw 0x10 4 .idle 0 uAny (kw (Cu.SSI_BITS m))).x, (oRw 0x11 4 .idle 0 uAny (kw (Cu.FRAME_US m))).x,
   (oRw 0x12 2 .idle 1 65535 (kf (Cu.MAX_JUMP m))).x, (oRw 0x13 4 .idle 0 uAny (kf (Cu.ZPITCH m))).x,
   (oRw 0x14 4 .idle 0 uAny (kf (Cu.ZPHASE m))).x, (oRo 0x15 6 (k2 (Cu.ZCAP_LO m) (Cu.ZCAP_HI m))).x,
   (oRo 0x16 4 (kw (Cu.QERR_CNT m))).x, (oRw 0x17 2 .idle 0 uAny (kLow (Cu.SRC m) 15)).x]
def objSync : List Obj :=
  [oRw 1 1 .idle 0 1 (kf Sh.SYNC_DRV), oRo 2 2 (kf Sh.RX_CNT), (oRo 3 8 (k2 Sh.TB_LO Sh.TB_HI)).x]
def objStk (i : Nat) : List Obj :=
  [oRw 1 1 .imm 0 3 (kf (St.CU i)), oRw 2 1 .imm 0 2 (kf (St.DIR i)), oRw 3 6 .imm sAny uAny (k2 (St.TGT_LO i) (St.TGT_HI i)),
   oRw 4 4 .imm 0 uAny (kf (St.REPEAT i)), oWo 5 1 .imm 0 1 (.cmd (St.ARM i).addr [(0, 2), (1, 1)]),
   oRo 6 1 (kLow (St.ARMED i) 3), oRo 7 4 (kf (St.HITCNT i)), (oRw 8 1 .imm 0 1 (kf (St.LATE_POL i))).x,
   oWo 9 1 .imm 1 1 (.clr [St.LATE i, St.FIRED_LATE i, St.WREJ i])]

/-! ### Channel control and epoch (R347) -/

def objCtl (n : Nat) : List Obj :=
  [oRo 1 2 (kLow (Cc.CH_STATE n) 15), oRw 2 6 .imm 0 uAny (k2 (Cc.RA_LINE_LO n) (Cc.RA_LINE_HI n)),
   oWo 3 1 .imm 1 1 (.cmd (Cc.RETIRE n).addr [(1, 1)]), oWo 4 1 .imm 1 1 (.cmd (Cc.RETIRE n).addr [(1, 2)]),
   oRo 5 6 (k2 (Cc.LAST_LO n) (Cc.LAST_HI n)), oRo 6 4 (kf (Cc.APPLIED_EPOCH n)), oRo 7 1 (kLow (Cc.WREJ n) 2),
   oWo 8 1 .imm 1 1 (.clr [Cc.WREJ n, Cc.RA_FAIL n, Cc.ORDER n]), oRo 9 4 (kw (Cc.RETIRE_CNT n)),
   (oRo 0x0A 4 (kw (Cc.D2D_CNT n))).x, (oRo 0x0B 4 (kf (Cc.SKIP_CNT n))).x]
def objEpoch : List Obj :=
  [oRw 1 1 .imm 0 255 (kf Ep.EP_MASK), oRw 2 1 .imm 0 3 (kf Ep.EP_CU), oRw 3 6 .imm sAny uAny (k2 Ep.EP_POS_LO Ep.EP_POS_HI),
   oRw 4 1 .imm 0 1 (kf Ep.EP_TRIG), oWo 5 1 .imm 1 3 .fn, oRo 6 1 (kf Ep.EP_STATE), oRo 7 4 (kf Ep.EP_NUM), oRo 8 2 .fn]
def objFaultLog : List Obj :=
  [oRo 1 4 (.own logCount), oRw 2 1 .imm 0 127 (.own (objFld 0x5000 2 8 0)), oRo 3 8 .fn, oRo 4 4 .fn, oWo 5 1 .imm 1 1 .fn]

/-! ### Traverse, line data, edit stage (R120, R150, R178) -/

def objTrav (n : Nat) : List Obj :=
  [oRw 1 1 .idle 0 3 (kf (Tr.CU n)), oRw 2 1 .idle 0 2 (kf (Tr.MODE n)), oRw 3 4 .epoch 0x10000 uAny (.prep (prepPitch n)),
   oRw 4 6 .epoch 0 uAny (.prep (prepOfs n)), oRw 5 1 .idle 0 1 (kf (Tr.START_SRC n)), oRw 6 1 .idle 0 15 (kf (Tr.START_ST n)),
   oRw 7 6 .idle sAny uAny (k2 (Tr.ANCHOR_LO n) (Tr.ANCHOR_HI n)), oRw 8 6 .idle 0 uAny (k2 (Tr.LINE0_LO n) (Tr.LINE0_HI n)),
   (oRw 9 2 .line (-512) 4095 (kf (Tr.TRIM n))).x, oRw 0x0A 2 .idle 1 65535 (kf (Tr.PASS_LINES n)),
   oRw 0x0B 1 .idle 0 1 (kf (Tr.FIRST_BWD n)), (oRw 0x0C 4 .epoch sAny uAny (.prep (prepRev n))).x,
   (oRw 0x0D 4 .idle 80000 uAny (kf (Tr.MIN_PER n))).x, oRw 0x0E 6 .imm 0 uAny (k2 (Tr.LMATCH_LO n) (Tr.LMATCH_HI n)),
   oRo 0x0F 6 (k2 (Tr.NEXT_LO n) (Tr.NEXT_HI n)), oRo 0x10 1 (kLow (Tr.STATE n) 7), oRo 0x11 1 (kLow (Tr.WREJ n) 6),
   oWo 0x12 1 .imm 1 1 (.clr [Tr.WREJ n, Tr.START_LATE n, Tr.PASS_CUT n, Tr.GAP n, Tr.CATCHUP n, Tr.SPD_WARN n, Tr.OVERSPEED n]),
   oRo 0x13 4 (kf (Tr.OVS_CNT n)), (oRo 0x14 4 (kw (Tr.CATCHUP_CNT n))).x, (oRo 0x15 4 (kw (Tr.GAP_CNT n))).x,
   (oRo 0x16 4 (kf (Tr.LAST_INT n))).x, oWo 0x17 1 .imm 1 2 .fn]
def objLine (n : Nat) : List Obj :=
  (List.range 8).map (fun r => oRw (r + 1) 4 .imm 0 uAny (kw (Ld.COUNT n r))) ++
  [oWo 9 1 .idle 1 1 (.cmd (Ld.GEOM_APPLY n).addr [(1, 1)]), oRo 0x0A 4 (kw (Ld.NOZZLES n)), oRo 0x0B 4 (kf (Ld.BUDGET_SP n)),
   oRo 0x0C 4 (kf (Ld.BUDGET_SCAN n)), (oRw 0x0D 1 .line 0 255 (kf (Ld.ROW_EN n))).x, oRw 0x0E 6 .idle 0 uAny .fn,
   oRo 0x0F 4 (kw (Ld.Q_LINES n)), oRo 0x10 4 (kf (Ld.BYTES_IN n)), oRo 0x11 6 (k2 (Ld.ADMIT_LO n) (Ld.ADMIT_HI n)),
   oRo 0x12 1 (kLow (Ld.WREJ n) 5),
   oWo 0x13 1 .imm 1 1 (.clr [Ld.WREJ n, Ld.UE n, Ld.CE n, Ld.LAGNULL n, Ld.STALE n, Ld.MISS n]),
   oRo 0x14 4 (kw (Ld.MISS_CNT n)), (oRo 0x15 4 (kw (Ld.CE_CNT n))).x, (oRo 0x16 4 (kw (Ld.UE_WORD n))).x,
   oWo 0x17 1 .idle 1 1 (.cmd (Ld.Q_FLUSH n).addr [(1, 2)]), (oRo 0x18 2 (kf (Ld.LAGNULL_CNT n))).x]
def objEdit (n : Nat) : List Obj :=
  [oRw 1 1 .line 0 2 (kf (Ed.BS_MODE n)), oRw 2 1 .line 1 6 (kf (Ed.BS_H n)), oRw 3 2 .idle 0 0xFFF (kLow (Ed.MAP_SF n) 11),
   oRw 4 1 .line 0 2 (kf (Ed.SUB_BUMP n)), oRw 5 4 .idle 0 uAny (kw (Ed.PM_NPASS n)), oRo 6 4 (kf (Ed.PASS_CNT n)),
   oRo 7 6 (k2 (Ed.TBL_EFF_LO n) (Ed.TBL_EFF_HI n)), oRo 8 4 (kf (Ed.TBL_SEQ n)), oRo 9 1 (kf (Ed.TBL_PEND n)),
   oRo 0x0A 1 (kLow (Ed.WREJ n) 4),
   oWo 0x0B 1 .imm 1 1 (.clr [Ed.SUB_SKIP n, Ed.WREJ n, Ed.UE n, Ed.CE n, Ed.TBL_DROP n]),
   (oRo 0x0C 4 (kw (Ed.SUB_SKIP_CNT n))).x, (oRo 0x0D 4 (kw (Ed.CE_CNT n))).x, (oRo 0x0E 2 (kf (Ed.UE_ENTRY n))).x]
def objPattern : List Obj := (List.range 64).map (fun h => (oRw (h + 1) 1 .line 0 5 .fn).x)
/-- The indices that NozzleEntry, TileWord, Word and the evidence read by. -/
def nozIx (n : Nat) : Fld := objFld (0x3032 + 0x100 * n) 1 16 0
def tileIx (n : Nat) : Fld := objFld (0x3033 + 0x100 * n) 1 16 0
def slotIx (n : Nat) : Fld := objFld (0x3041 + 0x100 * n) 1 8 0
def wordIx (n : Nat) : Fld := objFld (0x3041 + 0x100 * n) 2 8 0
def objEntry (n : Nat) : List Obj := [oRw 1 2 .imm 0 5119 (.own (nozIx n)), oRw 2 8 .line 0 uAny .fn]
def objTile (n : Nat) : List Obj := [oRw 1 2 .imm 0 511 (.own (tileIx n)), oRw 2 4 .line 0 uAny .fn]

/-! ### Levelling and link (R215, R256) -/

def objLevel (n : Nat) : List Obj :=
  [oRw 1 1 .epoch 0 1 (.prep (wavePrep n)), oRw 2 2 .line 717 1024 (kf (Lv.W_SCALE n)), (oRw 3 1 .idle 16 96 (kf (Lv.OC_LIM n))).x,
   (oRw 4 1 .idle 12 60 (kf (Lv.OC_BLANK n))).x, oRo 5 4 (kw (Lv.HV_ON n)), oRo 6 1 (kLow (Lv.WREJ n) 6),
   oWo 7 1 .imm 1 1 (.clr [Lv.WREJ n, Lv.WIPED n, Lv.RES_FAULT n, Lv.BAL_ERR n, Lv.OC_RECOV n, Lv.OC_W n, Lv.OC_F n]),
   oRo 8 4 (kw (Lv.OC_CNT n)), (oRo 9 6 (k2 (Lv.OC_LINE_LO n) (Lv.OC_LINE_HI n))).x, oRo 0x0A 4 (kw (Lv.VHV_MV n)),
   oRo 0x0B 4 (kf (Lv.LINE_TIME n)), oRo 0x0C 2 (kf (Lv.THETA n)), (oRo 0x0D 1 (kLow (Lv.USAGE_F n) 7)).x]
def objSlot (n : Nat) : List Obj :=
  [oRw 1 1 .imm 0 1 (.own (slotIx n)), oRw 2 1 .imm 0 19 (.own (wordIx n)), oRw 3 4 .imm 0 uAny .fn, oWo 4 1 .imm 1 1 .fn,
   oRo 5 2 (kLow (Lv.ERR0 n) 15), oWo 6 4 .imm 0 0x6FFF0 .fn]
def objRes (n : Nat) : List Obj := (List.range 15).map (fun k => (oRo (k + 1) 2 (kf (Lv.RES_ERR n (k + 1)))).x)
def objLink (n : Nat) : List Obj :=
  [oRo 1 1 (kf (Lk.LSTATE n)), oRo 2 4 (kw (Lk.LSTATE n)), oRo 3 4 (kw (Lk.FE_TYPE n)),
   oWo 4 1 .idle 1 1 (.cmd (Lk.TRAIN n).addr [(1, 1)]), oRo 5 1 (kLow (Lk.WREJ n) 6),
   oWo 6 1 .imm 1 1 (.clr [Lk.WREJ n, Lk.FE_ERR n, Lk.RETRAINED n, Lk.EMPTY n, Lk.NOLACK n, Lk.LATE n, Lk.UNDEL n]),
   (oRo 7 4 (kw (Lk.RETX_CNT n))).x, oRo 8 4 (kw (Lk.UNDEL_CNT n)), (oRo 9 4 (kw (Lk.NOLACK_CNT n))).x,
   (oRo 0x0A 4 (kw (Lk.RETRAIN_CNT n))).x, (oRo 0x0B 4 (kw (Lk.FE_ERR_CNT n))).x, (oRw 0x0C 1 .imm 0 255 (kf (Lk.ADDR n))).x,
   (oRo 0x0D 1 .fn).x, (oWo 0x0E 2 .idle 0x8000 0xFFFF .fn).x]

/-! ### Nozzle health (R291, R292) -/

def objSense (n : Nat) : List Obj :=
  [oRw 1 1 .line 0 1 (kf (Nh.SNS_EN n)), oRw 2 1 .line 1 7 (kf (Nh.SNS_CODES n)), (oRw 3 1 .imm 16 150 (kf (Nh.SNS_LEN n))).x,
   (oRw 4 1 .imm 5 63 (kf (Nh.SNS_DLY n))).x, (oRw 5 1 .imm 16 150 (kf (Nh.SNS_MIN n))).x,
   (oRw 6 4 .imm 0 uAny (kw (Nh.AMP_TOL n))).x, (oRw 7 1 .imm 0 4 (kf (Nh.LAG_TOL n))).x,
   (oRw 8 1 .imm 0 127 (kf (Nh.DEV_UPD n))).x, oRo 9 2 (kf (Nh.SWEEP n)), oRo 0x0A 8 (k2 (Nh.RHO n) (Nh.CLASS n)),
   (oRo 0x0B 6 (k2 (Nh.RES_LINE_LO n) (Nh.RES_LINE_HI n))).x, oRo 0x0C 1 (kLow (Nh.CLIP n) 5),
   oWo 0x0D 1 .imm 1 1 (.clr [Nh.WREJ n, Nh.LEARN_DONE n, Nh.QSKIP n, Nh.LOST n, Nh.SHORT n, Nh.CLIP n, Nh.STRIP_OVL n,
     Nh.STRIP_LATE n]),
   (oRo 0x0E 4 (kw (Nh.CAP_CNT n))).x, (oRo 0x0F 4 (kw (Nh.SHORT_CNT n))).x, (oRo 0x10 2 (kf (Nh.CLIP_CNT n))).x,
   oRw 0x11 1 .line 0 1 (kf (Nh.STRIP_EN n)), oRw 0x12 1 .idle 0 15 (kf (Nh.STRIP_ST n)),
   oRw 0x13 4 .idle 0 uAny (kLow (Nh.STRIP_P n) 19), oRo 0x14 6 (k2 (Nh.STRIP_S_LO n) (Nh.STRIP_S_HI n)),
   oRo 0x15 1 (kLow (Nh.STRIP_PEND n) 2), oRo 0x16 4 (kw (Nh.STRIP_CNT n))]
def objSig (n : Nat) : List Obj :=
  [(oRw 1 1 .imm 0 7 (kf (Nh.SIG_ROW n))).x, (oRw 2 1 .imm 0 149 (kf (Nh.SIG_IDX n))).x, (oRw 3 2 .imm (-2048) 2047 .fn).x,
   (oRw 4 1 .imm 0 150 .fn).x, oWo 5 1 .imm 0 255 (kf (Nh.LEARN n)), oRo 6 1 (kf (Nh.SIG_VALID n))]
def objClosure : List Obj :=
  [oRw 1 1 .imm 0 1 (.own Cl.ENABLE), oRw 2 1 .imm 0 255 (.own Cl.SENSE_POL), oRw 3 1 .imm 0 255 (.own Cl.STRIP_POL),
   oRw 4 1 .imm 0 3 (.own Cl.COMBINE), oRw 5 1 .imm 0 2 (.own Cl.ACT_MISSING), oRw 6 1 .imm 0 2 (.own Cl.ACT_WEAK),
   oRw 7 1 .imm 0 2 (.own Cl.ACT_DEVIATED), oRw 8 1 .imm 0 8 (.own Cl.RECOV), (oRw 9 2 .imm 0 uAny (.own Cl.RADIUS)).x,
   (oRw 0x0A 4 .imm 0 uAny (.own Cl.THRESH)).x, oRo 0x0B 4 (.own Cl.DECISIONS), oRo 0x0C 4 (.own Cl.LOG_CNT),
   oRw 0x0D 1 .imm 0 255 (.own Cl.LOG_IX), oRo 0x0E 8 .fn, oRo 0x0F 4 .fn, (oRo 0x10 4 (.own Cl.STRIPS)).x]
def objCamGeo (c : Nat) : List Obj :=
  [oRw 1 1 .idle 0 3 (.own (Cl.CAM_CU c)), oRw 2 6 .imm sAny uAny (.own (Cl.CAM_OFS c)), oRw 3 4 .imm 1 uAny (.own (Cl.CAM_LP c))]
def objReport (n : Nat) : List Obj :=
  [oRw 1 1 .imm 0 255 (.own (Cl.CONTEXT n))] ++
  (List.range 8).map (fun r => oRw (2 + r) 4 .imm sAny uAny (.own (Cl.ROW_X0 n r))) ++
  (List.range 8).map (fun r => oRw (0x0A + r) 4 .imm sAny uAny (.own (Cl.ROW_PITCH n r))) ++
  [(oRw 0x12 1 .imm 0 255 (.own (Cl.STITCH n))).x] ++ (List.range 8).map (fun r => oRo (0x13 + r) 2 (.own (Cl.ROW_RES n r))) ++
  [oRo 0x1B 4 (.own (Cl.ALONG n)), (oRo 0x1C 4 (.own (Cl.GAP n))).x, (oRo 0x1D 4 (.own (Cl.STITCH_ALONG n))).x,
   oRo 0x1E 6 (.own (Cl.REPORT n))]
def objEvid (n : Nat) : List Obj := [(oRw 1 2 .imm 0 5119 (.own (Cl.EV_IX n))).x, (oRo 2 8 .fn).x]

/-! ### Camera (R317, R318) -/

def objCamPort (p : Nat) : List Obj :=
  [oRw 1 1 .imm 0 1 (.own (Ca.PORT_EN p)), oRw 2 1 .imm 1 4 (.own (Ca.LANES p)), oRw 3 2 .imm 80 2500 (.own (Ca.RATE p)),
   (oRw 4 1 .imm 0 uAny (.own (Ca.POLARITY p))).x, oRo 5 1 .fn, (oRo 6 4 (.own (Ca.HDR_ERR p))).x, oRo 7 4 (.own (Ca.DROPS p)),
   oRo 8 4 (.own (Ca.PEAK p)), oRw 9 1 .imm 1 255 (.own (Ca.TRIG_W p)),
   oWo 0x0A 1 .imm 1 1 (.clr [Ca.HDR_ERR p, Ca.DROPS p, Ca.PEAK p])]
def objComponent : List Obj := (List.range 8).map (fun n => oRw (n + 1) 1 .imm 0 3 (.own (Ca.COMPONENT n)))
def objContext (c : Nat) : List Obj :=
  [oRw 1 1 .imm 0 1 .fn, oRw 2 1 .imm 0 1 (.own (Ca.PORT c)), oRw 3 1 .imm 0 3 (.own (Ca.VC c)), oRw 4 1 .imm 0x24 0x2C (.own (Ca.DT c)),
   oRw 5 2 .imm 4 16384 (.own (Ca.WIDTH c)), oRw 6 2 .imm 1 65535 (.own (Ca.LINES c)), oRw 7 1 .imm 0 1 (.own (Ca.MODE c)),
   oRw 8 1 .imm 0 1 (.own (Ca.TRIG c)), oRw 9 2 .imm 0 1000 (.own (Ca.TIMEOUT c)), oRw 0x0A 1 .imm 0 1 (.own (Ca.TO_CL c)),
   oRo 0x0B 4 (.own (Ca.FRAMES c)), oRo 0x0C 4 (.own (Ca.FLAGGED c)), oRo 0x0D 8 (.own (Ca.LAST c)), oRo 0x0E 4 (.own (Ca.LAST_LINES c)),
   (oRo 0x0F 8 (.own (Ca.LAST_TIME c))).x, oRo 0x10 4 (.own (Ca.LINE_DROPS c)), oRo 0x11 4 (.own (Ca.SKIPPED c)),
   oWo 0x12 1 .imm 1 1 (.clr [Ca.FRAMES c, Ca.FLAGGED c, Ca.LINE_DROPS c, Ca.SKIPPED c])]
def objBank (c : Nat) : List Obj :=
  (List.range 3).map (fun k => oRw (1 + k) 2 .imm 0 4095 (.own (Ca.BLACK c k))) ++
  (List.range 3).map (fun k => oRw (4 + k) 2 .imm 0 uAny (.own (Ca.GAIN c k))) ++
  (List.range 9).map (fun k => (oRw (7 + k) 2 .imm sAny uAny (.own (Ca.MATRIX c (k / 3) (k % 3)))).x) ++
  [oRw 0x10 1 .imm 0 uAny (.own (Ca.CURVES c))]
def objCurve (c : Nat) : List Obj :=
  [oRw 1 1 .imm 0 2 (.own (Ca.CV_SEL c)), oRw 2 2 .imm 0 1023 (.own (Ca.CV_IX c)), oRw 3 2 .imm 0 4095 .fn]
def objSnap : List Obj :=
  [oRw 1 1 .imm 0 3 (.own Ca.SN_CTX), oRw 2 2 .imm 0 65534 (.own Ca.SN_FIRST), oRw 3 2 .imm 1 65535 (.own Ca.SN_LINES),
   oRw 4 1 .imm 1 8 (.own Ca.SN_DEC), oRw 5 1 .imm 0 3 (.own Ca.SN_FMT), oWo 6 1 .imm 0 1 .fn, oRo 7 4 .fn]

/-! ### Thermal, DMA, memories (R371, R396, R416) -/

/-- Objects of a thermal input; those of head inputs or of board inputs alone are left out elsewhere (R371). -/
def objThermal (m : Nat) : List Obj :=
  [oRw 1 1 .idle 0 2 (kf (Th.TYPE m)), oRw 2 2 .idle 0 uAny (kf (Th.P1 m)), oRw 3 2 .idle 0 uAny (kf (Th.P2 m))] ++
  (if m < 8 then [oRw 4 1 .imm 0 15 (kf (Th.BAND m)), (oRw 5 1 .idle 0 1 (kf (Th.BRK_RETIRE m))).x]
   else [oRw 6 2 .imm (-5120) 19200 (kf (Th.WARN_LIM m))]) ++
  [oRo 7 2 (kf (Th.TEMP m)), oRo 8 1 (kLow (Th.FAST m) 3), oRo 9 1 (kLow (Th.WREJ m) 4),
   oWo 0x0A 1 .imm 1 1 (.clr [Th.WREJ m, Th.WARN m, Th.BRK m, Th.TRIP m, Th.THROTTLE m]), oRo 0x0B 4 (kw (Th.TRIP_CNT m)),
   (oRo 0x0C 2 (kf (Th.DWELL_MS m))).x, oRo 0x0D 4 (kw (Th.AGE_OLD m)), (oRo 0x0E 2 (kf (Th.RAW m))).x]
def objDie : List Obj :=
  [oRo 1 2 (kf Di.DIE_LOGIC), oRo 2 2 (kf Di.DIE_DRIVE), oRo 3 1 (kLow Di.DTRIP_LOGIC 1), oWo 4 1 .imm 1 1 (.cmd Di.DTRIP_LOGIC.addr [(1, 3)])]
def objDma (d : Nat) : List Obj :=
  [oRw 1 1 .imm 0 1 (kf (Dm.EN d)), oRw 2 1 .imm 0 1 .fn, oRo 3 4 (kw (Dm.STATE d)), oRo 4 4 (kf (Dm.RD_CNT d)),
   oRo 5 4 (kf (Dm.WR_CNT d)), (oRo 6 4 (kw (Dm.ERR_CNT d))).x, (oRo 7 4 (kf (Dm.HANDOVER_CNT d))).x,
   oWo 8 1 .imm 1 1 (.clr [Dm.WREJ d, Dm.SH_REJ d, Dm.WITHDRAWN d, Dm.ERRF d])]
def objDmaIn : List Obj := [oRo 1 4 (kf De.SP_IN)]
def objMem : List Obj :=
  [(oRw 1 1 .imm 0 1 (kf Me.BIST_EN)).x, (oRw 2 2 .imm 10 65535 (kf Me.BIST_GAP)).x, oRo 3 4 (kf Me.BIST_SWEEPS),
   (oRo 4 4 (kw Me.YIELD_CNT)).x, oRo 5 4 (kw Me.BIST_FAIL_CNT), oRo 6 4 (kw Me.FAIL_MEM), oRo 7 4 (kw Me.PAR_CNT),
   oRo 8 4 (kw Me.PAR_MEM), oRo 9 1 (kLow Me.WREJ 4),
   oWo 0x0A 1 .imm 1 1 (.clr [Me.YIELD_CNT, Me.SKIP_CNT, Me.BIST_FAIL_CNT, Me.COLL_CNT, Me.PAR_CNT, Me.ROM_CE_CNT, Me.WREJ,
     Me.PAR, Me.COLL, Me.BIST_FAIL, Me.SKIP]),
   oRo 0x0B 2 (kf Me.WIPE_CNT)]

/-! ### Device objects (R450, R459) -/

/-- The nominal and the data bit rate (BOOT). -/
def rateNom : Fld := objFld 0x2020 1 16 500
def rateData : Fld := objFld 0x2020 2 16 2000
/-- CanErrorCounters: the transmit and the receive error counter. -/
def canErrs : Fld := objFld 0x2020 4 16 0
def objDevice : List Obj :=
  [oRo 1 1 (kf Pr.DEV_STATE), oRw 2 2 .imm 0 uAny .fn, oRw 3 1 .imm 1 2 .fn, oRo 4 2 (kf Su.SAFE_CAUSE), oRw 5 1 .imm 0 uAny .fn,
   oRo 6 4 (kf Ho.TOKEN_CNT), oRo 7 1 (kf Ho.NODE_ID), oWo 8 1 .imm 1 1 .fn, (oRo 9 2 (kf Pr.DOMAIN_STATE)).x]
def objHost : List Obj :=
  [oRw 1 2 .boot 125 1000 (.own rateNom), oRw 2 2 .boot 1000 5000 (.own rateData), oRo 3 1 .fn, (oRo 4 2 (.own canErrs)).x,
   oRo 5 1 (kLow Ho.HOST_WREJ 2)]
def objRecord : List Obj := [oRo 1 8 .fn, oRw 2 1 .imm 0 255 (.own (objFld 0x2030 2 8 0xFF)), oRo 3 4 (.own (objFld 0x2030 3 32 0))]
def objOtp : List Obj :=
  [oRw 1 2 .imm 0 8191 (.own otpIx), (oRw 2 4 .imm 0 uAny .fn).x, oRo 3 1 .fn, oRw 4 1 .imm 0 15 (.own otpReg), oRo 5 4 .fn,
   (oWo 6 2 .imm 0 504 .fn).x, (oWo 7 1 .imm 1 2 .fn).x, oWo 8 1 .imm 1 1 .fn, oRo 9 4 (.own otpCnt)]
def objProt : List Obj :=
  [oRo 1 1 (kf Pr.LC_STATE), (oWo 2 4 .imm 0 uAny .fn).x, oRo 3 1 (kf Pr.DBG_STATE), (oRo 4 16 .fn).x, (oWo 5 64 .imm 0 (2 ^ 512) .fn).x,
   oRo 6 1 (kf Pr.WIPE_CAUSE), oRo 7 1 .fn, oRo 8 4 (kf Pr.FW_VERSION), oRo 9 1 (kf Pr.BOOT_SRC), oRo 0x0A 1 (kf Pr.DATUM_LOCKED)]
def objCounters : List Obj :=
  [oRo 1 2 (.own (objFld 0x5010 1 16 0)), oRo 2 2 (.own (objFld 0x5010 2 16 0)), (oRo 3 2 (.own (objFld 0x5010 3 16 0))).x,
   oRo 4 4 (.own (objFld 0x5010 4 32 0)), (oRo 5 2 (.own (objFld 0x5010 5 16 0))).x]

/-! ### Communication objects (R456) -/

def one (o : Obj) : Option (List Obj) := some [o]
/-- CobIdSync, CobIdEmcy, the heartbeat times. -/
def cobSync : Fld := objFld 0x1005 0 32 0x80
def cobEmcy (node : Nat) : Fld := objFld 0x1014 0 32 (0x80 + node)
def hbConsumer : Fld := objFld 0x1016 1 32 0
def hbProducer : Fld := objFld 0x1017 0 16 0
def objComm (node idx : Nat) : Option (List Obj) :=
  if 0x1400 ≤ idx ∧ idx < 0x1404 then some [oRw 1 4 .imm 0 uAny (.own (Pdo.rCob (idx - 0x1400) node)), oRw 2 1 .imm 0 255 (.own (Pdo.rTyp (idx - 0x1400)))]
  else if 0x1600 ≤ idx ∧ idx < 0x1604 then
    some (oRw 0 1 .imm 0 16 (.own (Pdo.rCnt (idx - 0x1600))) ::
      (List.range 16).map (fun e => oRw (e + 1) 4 .imm 0 uAny (.own (Pdo.rMap (idx - 0x1600) (e + 1)))))
  else if 0x1800 ≤ idx ∧ idx < 0x1804 then
    let p := idx - 0x1800
    some [oRw 1 4 .imm 0 uAny (.own (Pdo.tCob p node)), oRw 2 1 .imm 0 255 (.own (Pdo.tTyp p)), oRw 3 2 .imm 0 uAny (.own (Pdo.tInh p)),
      oRw 5 2 .imm 0 uAny (.own (Pdo.tEvt p)), oRw 6 1 .imm 0 240 (.own (Pdo.tSyn p))]
  else if 0x1A00 ≤ idx ∧ idx < 0x1A04 then
    some (oRw 0 1 .imm 0 16 (.own (Pdo.tCnt (idx - 0x1A00))) ::
      (List.range 16).map (fun e => oRw (e + 1) 4 .imm 0 uAny (.own (Pdo.tMap (idx - 0x1A00) (e + 1)))))
  else match idx with
  | 0x1000 => one (oRo 0 4 .fn)
  | 0x1001 => one (oRo 0 1 .fn)
  | 0x1003 => some (oRw 0 1 .imm 0 0 .fn :: (List.range 16).map (fun i => oRo (i + 1) 4 .fn))
  | 0x1005 => one (oRw 0 4 .imm 0 uAny (.own cobSync))
  | 0x1008 => one (oRo 0 0 .fn)
  | 0x1009 => one (oRo 0 0 .fn)
  | 0x100A => one (oRo 0 0 .fn)
  | 0x1010 => one (oRw 1 4 .imm 0x65766173 0x65766173 .fn)
  | 0x1011 => one (oRw 1 4 .imm 0x64616F6C 0x64616F6C .fn)
  | 0x1014 => one (oRw 0 4 .imm 0 uAny (.own (cobEmcy node)))
  | 0x1016 => one (oRw 1 4 .imm 0 uAny (.own hbConsumer))
  | 0x1017 => one (oRw 0 2 .imm 0 uAny (.own hbProducer))
  | 0x1018 => some ((List.range 4).map (fun i => oRo (i + 1) 4 .fn))
  | 0x1F50 => one (oWo 1 0 .imm 0 uAny .fn)
  | 0x1F51 => one (oRw 1 1 .imm 0 255 .fn)
  | 0x1F57 => one (oRo 1 4 .fn)
  | _ => Option.none

/-! ### The dictionary (R457) -/

/-- A channel object's channel and offset, of 0x3000 to 0x37FF. -/
def objCh (idx : Nat) : Ch := Fin.ofNat 8 ((idx - 0x3000) / 0x100)
def objChan (idx : Nat) : Option (List Obj) :=
  let n := (idx - 0x3000) / 0x100
  match idx % 0x100 with
  | 0x00 => some (objCtl n) | 0x10 => some (objTrav n) | 0x20 => some (objLine n) | 0x30 => some (objEdit n)
  | 0x31 => some objPattern | 0x32 => some (objEntry n) | 0x33 => some (objTile n) | 0x40 => some (objLevel n)
  | 0x41 => some (objSlot n) | 0x43 => some (objRes n) | 0x50 => some (objLink n) | 0x60 => some (objSense n)
  | 0x61 => some (objSig n) | _ => Option.none
/-- The rows of an index beside its implied sub-index 00; none where the index is not implemented. -/
def objRows (node idx : Nat) : Option (List Obj) :=
  if idx < 0x2000 then objComm node idx
  else if 0x2100 ≤ idx ∧ idx < 0x2104 then some (objCu (idx - 0x2100))
  else if 0x2200 ≤ idx ∧ idx < 0x2210 then some (objStk (idx - 0x2200))
  else if 0x3000 ≤ idx ∧ idx < 0x3800 then objChan idx
  else if 0x4000 ≤ idx ∧ idx < 0x400A then some (objThermal (idx - 0x4000))
  else if 0x4100 ≤ idx ∧ idx < 0x4102 then some (objCamPort (idx - 0x4100))
  else if 0x4108 ≤ idx ∧ idx < 0x410C then some (objContext (idx - 0x4108))
  else if 0x4110 ≤ idx ∧ idx < 0x4114 then some (objBank (idx - 0x4110))
  else if 0x4118 ≤ idx ∧ idx < 0x411C then some (objCurve (idx - 0x4118))
  else if 0x4210 ≤ idx ∧ idx < 0x4214 then some (objCamGeo (idx - 0x4210))
  else if 0x4220 ≤ idx ∧ idx < 0x4228 then some (objReport (idx - 0x4220))
  else if 0x4230 ≤ idx ∧ idx < 0x4238 then some (objEvid (idx - 0x4230))
  else if 0x4800 ≤ idx ∧ idx < 0x4810 then some (objDma (idx - 0x4800))
  else match idx with
  | 0x2000 => some objDevice | 0x2010 => some objEpoch | 0x2020 => some objHost | 0x2030 => some objRecord
  | 0x2110 => some objSync | 0x4010 => some objDie | 0x4104 => some objComponent | 0x4120 => some objSnap
  | 0x4200 => some objClosure | 0x4810 => some objDmaIn | 0x4A00 => some objMem | 0x4C00 => some objOtp
  | 0x4E00 => some objProt | 0x5000 => some objFaultLog | 0x5010 => some objCounters
  | _ => Option.none

/-- What an access to an index and sub-index meets: an abort, the implied sub-index 00 with its value, or a row (R451, R452). -/
inductive Found where
  | bad (abort : Nat)
  | top (highest : Nat)
  | row (o : Obj)
deriving DecidableEq, Repr
def objFind (node idx sub : Nat) : Found :=
  match objRows node idx with
  | Option.none => .bad abNoObj
  | some rows =>
    match rows.find? (fun o => o.sub = sub) with
    | some o => .row o
    | Option.none => if sub = 0 then .top (rows.foldl (fun (m : Nat) (o : Obj) => max m o.sub) 0) else .bad abSub

/-- The objects that follow the control token (R455). -/
def objToken (idx sub : Nat) : Bool :=
  if idx < 0x2000 then idx = 0x1010 || idx = 0x1011 || idx = 0x1F50 || idx = 0x1F51
  else if idx = 0x2000 then sub = 3 || sub = 8
  else idx = 0x2010 || (0x2100 ≤ idx && idx ≤ 0x220F) || (0x3000 ≤ idx && idx < 0x4008) || (0x4800 ≤ idx && idx ≤ 0x4810) ||
    idx = 0x4C00 || idx = 0x4E00
/-- The objects of a channel's own domain: the apply queue, kept writes and parked reads are theirs (R45, R322, R454). -/
def objOfChan (idx : Nat) : Option Ch :=
  if 0x3000 ≤ idx ∧ idx < 0x3800 ∧ idx % 0x100 ≠ 0 then some (objCh idx) else Option.none
/-- Objects that read or write through an index object (R458). -/
def objIndexed (idx sub : Nat) : Bool :=
  if 0x3000 ≤ idx ∧ idx < 0x3800 then
    match idx % 0x100 with
    | 0x32 => sub = 2 | 0x33 => sub = 2 | 0x41 => sub = 3 | 0x61 => sub = 3 | _ => false
  else 0x4118 ≤ idx && idx < 0x411C && sub = 3

end Sys2Proof.Machine
end

