-- ==== Sys2Proof/Machine/Access.lean ====
section
/-! DEFINITION. Reads of objects (R7, R9, R13, R454), the judgement of an object write in the order of R550, and the effect of
one that is not refused. -/
namespace Sys2Proof.Machine

/-- What a request's service brings from the physical world: how the fuses of its OTP work come out, and what a benchmark
run it starts finds. -/
structure World where
  runs : List FuseRun
  bench : BenchView
deriving DecidableEq, Repr
/-- What they come to in a write that carries none: unstated (log entry 42). -/
def State.plainWorld (s : State) : World := ⟨Config.fuseRuns s.tb s.out.length, s.plainBench⟩

/-- Expert access of a port (R442). -/
def State.expertOn (s : State) (p : Port) : Bool := match p with | .can => s.dev.expCan | .pcie => s.dev.expPcie
/-- The present word of a register, whatever its domain. -/
def State.wordNow (s : State) (a : Nat) : Nat := ((blkOf a).live s).readWord (blkOf a).fields a
/-- The RW and RWS fields of a register word with some bits replaced: the word an object write stands for. -/
def State.objWord (s : State) (a m l v : Nat) : Nat :=
  withBits (s.readWord ((blkOf a).fields.filter (fun f => f.acc = .rw || f.acc = .rws)) a) m l v
/-- The command word of a value. -/
def cmdWord (cs : List (Nat × Nat)) (v : Nat) : Nat := match cs.find? (fun c => c.1 = v) with | some c => c.2 | none => 0

/-! ### Reads -/

/-- The value of an object that has its home in a register or a field. -/
def State.objNat (s : State) (o : Obj) : Nat :=
  match o.kind with
  | .word a m l => bits (s.wordNow a) m l
  | .two lo hi => s.wordNow lo + 2 ^ 32 * s.wordNow hi
  | .own f => s.get f
  | .prep f => s.get f
  | .cmd _ _ => 0
  | .clr _ => 0
  | .fn => 0
/-- A decimal number and a text as bytes. -/
def ascii (l : List Char) : List Byte := l.map (fun c => BitVec.ofNat 8 c.toNat)
def decimal (n : Nat) : List Byte := ascii (Nat.toDigits 10 n)
/-- The running firmware as "major.minor.build" (R456). -/
def versionText (v : Nat) : List Byte :=
  decimal (bits v 31 24) ++ ascii ['.'] ++ decimal (bits v 23 16) ++ ascii ['.'] ++ decimal (bits v 15 0)
/-- An entry of a log of so many kept entries, by the index the newest has as (count − 1) modulo the depth. -/
def logBack (count depth ix : Nat) : Nat := (count + depth - 1 - ix % depth) % depth
def State.faultEntry (s : State) : Option LogEntry :=
  (s.can.log)[logBack (s.get logCount) 128 (s.get (objFld 0x5000 2 8 0))]?
def State.verdictEntry (s : State) : Nat × Nat :=
  ((s.verdictLog)[logBack (s.get Cl.LOG_CNT) 256 (s.get Cl.LOG_IX)]?).getD (0, 0)
/-- Evidence of a nozzle (R292): counts, findings and classes in pairs of bits with the newest lowest, the run of OK strips. -/
def pairs (l : List Nat) : Nat := (l.take 8).reverse.foldl (fun (a : Nat) (c : Nat) => a * 4 + c % 4) 0
def State.evidence (s : State) (n : Ch) : Nat :=
  let e := s.evidOf n (s.get (Cl.EV_IX n))
  (min e.sense.length 8) * 2 ^ 60 + (min e.strip.length 8) * 2 ^ 56 + pairs e.strip * 2 ^ 32 + pairs e.sense * 2 ^ 16 +
    (min e.okRun 255) * 2 ^ 8
/-- A free value is used up (log entry 3). -/
def State.freeBits (s : State) (w : Nat) : State × Nat := (s.freed, Config.freeNat s.ctr % 2 ^ w)
/-- Objects of a channel whose value has a home of its own. -/
def State.chanFn (s : State) (n : Ch) (ofs sub : Nat) : Nat :=
  match ofs with
  | 0x20 => (s.ch[n]).q.tag
  | 0x31 => s.get (Ed.LEVEL_ADJ n (sub - 1)) * 2 + s.get (Ed.RAIL n (sub - 1))
  | 0x32 => s.entryWritten n (s.get (nozIx n))
  | 0x33 => s.get (Ed.TILE n (s.get (tileIx n)))
  | 0x41 => s.slotWord n (s.get (slotIx n)) (s.get (wordIx n))
  | 0x50 => match s.can.far.find? (fun x => x.1 = (n : Nat)) with | some x => x.2 | none => 0
  | 0x61 => if sub = 3 then s.sigRead n else ((s.ch[n]).health.sigs.getD (s.get (Nh.SIG_ROW n)) ⟨[], 0⟩).n
  | _ => 0
/-- The indices an indexed object of a channel is read and written by. -/
def State.ixOf (s : State) (n : Ch) (ofs sub : Nat) : List Nat :=
  match ofs, sub with
  | 0x32, 2 => [s.get (nozIx n)]
  | 0x33, 2 => [s.get (tileIx n)]
  | 0x41, 3 => [s.get (slotIx n), s.get (wordIx n)]
  | 0x61, 3 => [s.get (Nh.SIG_ROW n), s.get (Nh.SIG_IDX n)]
  | 0x61, 4 => [s.get (Nh.SIG_ROW n)]
  | _, _ => []
/-- A kept write as the indices see it: an index takes its value, a kept signature sample moves its index on (R268). -/
def State.ixStep (s : State) (n : Ch) (k : Kept) : State :=
  match k.idx % 0x100, k.sub with
  | 0x32, 1 => s.put (nozIx n) (leNat k.data)
  | 0x33, 1 => s.put (tileIx n) (leNat k.data)
  | 0x41, 1 => s.put (slotIx n) (leNat k.data)
  | 0x41, 2 => s.put (wordIx n) (leNat k.data)
  | 0x61, 1 => s.put (Nh.SIG_ROW n) (leNat k.data)
  | 0x61, 2 => s.put (Nh.SIG_IDX n) (leNat k.data)
  | 0x61, 3 => s.sigStep n
  | _, _ => s
/-- The state with the indices as the kept writes leave them, and the kept writes, newest first, each with the indices it was
written by. -/
def State.keptView (s : State) (n : Ch) : State × List (List Nat × Kept) :=
  (s.ch[n]).kept.foldl (fun (a : State × List (List Nat × Kept)) (k : Kept) =>
    (a.1.ixStep n k, (a.1.ixOf n (k.idx % 0x100) k.sub, k) :: a.2)) (s, [])
/-- The remaining objects whose value has a home of its own; a read may use up a value or move an index on (R268, R311). -/
def State.fnRead (s : State) (p : Port) (idx sub size : Nat) : State × List Byte :=
  let num := fun (v : Nat) => (s, leBytes size v)
  if 0x3000 ≤ idx ∧ idx < 0x3800 then
    let n := objCh idx
    let v := leBytes size ((s.keptView n).1.chanFn n (idx % 0x100) sub)
    if idx % 0x100 = 0x61 ∧ sub = 3 then (s.sigStep n, v)
    else if idx % 0x100 = 0x32 ∧ sub = 2 then (s.entryTouch n (s.get (nozIx n)), v) else (s, v)
  else if 0x4118 ≤ idx ∧ idx < 0x411C then (s.curveStep (idx - 0x4118), leBytes size (s.curveRead (idx - 0x4118)))
  else if 0x4108 ≤ idx ∧ idx < 0x410C then num (s.get (Ca.EN (idx - 0x4108)))
  else if 0x4100 ≤ idx ∧ idx < 0x4102 then num (s.portStatus (idx - 0x4100))
  else if 0x4230 ≤ idx ∧ idx < 0x4238 then num (s.evidence (Fin.ofNat 8 (idx - 0x4230)))
  else if 0x4800 ≤ idx ∧ idx < 0x4810 then num (s.get (Dm.PAUSE (idx - 0x4800)))
  else match idx, sub with
  | 0x1000, _ => num 0
  | 0x1001, _ => num s.errReg
  | 0x1003, 0 => num s.can.errs.length
  | 0x1003, k => num (match (s.can.errs)[k - 1]? with | some e => e.1 + e.2 * 2 ^ 16 | none => 0)
  | 0x1008, _ => (s, ascii ['M', 'B', '8', '2', '0'])
  | 0x1009, _ => (s, ascii ['A', '1'])
  | 0x100A, _ => (s, versionText s.datum.fwVersion)
  | 0x1010, _ => num 1
  | 0x1011, _ => num 1
  | 0x1018, 1 => num 0x06B1
  | 0x1018, 2 => num 0x0820
  | 0x1018, 3 => num 0x10001
  | 0x1F51, _ => num 1
  | 0x1F57, _ => num (s.flash.prog * 2 ^ 8 + min 255 (s.flash.image.length / 4096))
  | 0x2000, 2 => num (if s.expertOn p then 1 else 0)
  | 0x2000, 3 => num (s.get Pr.PWR_REQ)
  | 0x2000, 5 => num (if s.dev.token = .can then 1 else 2)
  | 0x2010, 8 => num (s.get Ep.FAIL_CH * 2 ^ 8 + s.get Ep.FAIL_REASON)
  | 0x2020, 3 => num (bits (s.wordNow Ho.NMT.addr) 7 4)
  | 0x2030, 1 => num (s.get (objFld 0x2030 1 64 0))
  | 0x4120, 7 => num s.snapStatus
  | 0x4200, 0x0E => num s.verdictEntry.1
  | 0x4200, 0x0F => num s.verdictEntry.2
  | 0x4C00, 2 => num (if s.readLocked (s.get otpIx / 512) then 0 else s.otpValue (s.get otpIx))
  | 0x4C00, 3 => num (s.otpWordStatus (s.get otpIx))
  | 0x4C00, 5 => num (s.otpRegionStatus (s.get otpReg))
  | 0x4E00, 4 => s.challengeNew
  | 0x4E00, 7 => num s.keyStatus
  | 0x5000, 3 => num (match s.faultEntry with | some e => e.code * 2 ^ 48 + e.line % 2 ^ 48 | none => 0)
  | 0x5000, 4 => num (match s.faultEntry with
      | some e => e.src * 2 ^ 24 + e.reg * 2 ^ 16 + min e.held 0xFFFF | none => 0)
  | _, _ => num 0
/-- The newest value written to an object of a channel and not yet in its home: kept (R322), or an IMM or EPOCH edit that
waits in the queue (R13, R46, R47). -/
def State.waiting (s : State) (idx sub : Nat) : Option (List Byte) :=
  match objOfChan idx with
  | none => none
  | some n =>
    let v := s.keptView n
    match v.2.find? (fun x => x.2.idx = idx && x.2.sub = sub && x.1 = v.1.ixOf n (idx % 0x100) sub) with
    | some x => some (if idx % 0x100 = 0x32 ∧ sub = 2 then
        leBytes 8 (masked (s.entry n ((x.1.headD 0))) entHost (leNat x.2.data)) else x.2.data)
    | none => ((s.ch[n]).applyQ.reverse).findSome? (fun e => match e.body with
      | .obj i b d => if i = idx ∧ b = sub ∧ (e.cls = .imm ∨ e.cls = .epoch) then some d else none
      | _ => none)
/-- A parked channel's RO objects read 0, but for those that are kept (R454). -/
def State.readsZero (s : State) (idx : Nat) (o : Obj) : Bool :=
  o.acc = .ro && (objOfChan idx).any (fun n => s.chParked n) && !(idx % 0x100 = 0x20 && o.sub ∈ [0x0A, 0x0B, 0x0C])
/-- The value a read of a row returns. -/
def State.objRead (s : State) (p : Port) (idx : Nat) (o : Obj) : State × List Byte :=
  if o.acc = .wo ∨ s.readsZero idx o then (s, List.replicate o.size 0)
  else match (if o.acc = .rw then s.waiting idx o.sub else none) with
  | some d => (s, d)
  | none => if o.kind = .fn then s.fnRead p idx o.sub o.size else (s, leBytes o.size (s.objNat o))

/-! ### Judgement of a write (R550) -/

/-- Values of a field that an interval does not describe. -/
def objValueOk (idx sub v : Nat) : Bool :=
  let ofs := idx % 0x100
  if 0x3000 ≤ idx ∧ idx < 0x3800 then
    if ofs = 0x20 then !(1 ≤ sub && sub ≤ 8) || (v / 65536 ≤ 2048 && v % 65536 ≤ 4095)
    else if ofs = 0x41 then sub ≠ 6 || v % 16 = 0
    else if ofs = 0x32 then sub ≠ 2 || Ent.STATUS v < 6
    else true
  else if 0x4220 ≤ idx ∧ idx < 0x4228 then
    if sub = 1 then v ≤ 3 || v = 0xFF else if sub = 0x12 then v ≤ 7 || v = 0xFF else true
  else if 0x1400 ≤ idx ∧ idx < 0x1404 then if sub = 1 then !bit v 29 else v ≤ 240 || 0xFE ≤ v
  else if 0x1800 ≤ idx ∧ idx < 0x1804 then if sub = 1 then !bit v 29 else if sub = 2 then v ≤ 240 || 0xFC ≤ v else true
  else match idx, sub with
  | 0x1005, _ => !bit v 30
  | 0x1F51, _ => v = 1 || v = 3
  | 0x2000, 2 => v = 0 || v = 0x4558
  | 0x2020, 1 => v ∈ [125, 250, 500, 800, 1000]
  | 0x2020, 2 => v ∈ [1000, 2000, 4000, 5000]
  | 0x4200, 2 => 1 ≤ v / 16 && v / 16 ≤ v % 16 && v % 16 ≤ 8
  | 0x4200, 3 => 1 ≤ v / 16 && v / 16 ≤ v % 16 && v % 16 ≤ 8
  | 0x4C00, 1 => v % 512 ≤ 503
  | _, _ => true
/-- P1 and P2 of a thermal input lie in the range of its TYPE, whether or not the write changes them (R371). -/
def State.sensorValueOk (s : State) (idx sub v : Nat) : Bool :=
  if 0x4000 ≤ idx ∧ idx < 0x400A then
    let ty := s.get (Th.TYPE (idx - 0x4000))
    if sub = 2 then p1Ok ty v else if sub = 3 then p2Ok ty v else true
  else true
/-- The greatest image (R445). -/
def imageMax : Nat := 1048576
/-- The rules of R550 that need no state of the object's block: level, access, length, token, range. -/
def State.objBad (s : State) (p : Port) (idx : Nat) (o : Obj) (data : List Byte) : Option Nat :=
  let v := leNat data
  let x : Int := if o.lo < 0 then sext (8 * o.size) v else v
  firstBad [
    (o.expert && !s.expertOn p, abNoObj),
    (o.acc = .ro, abRo),
    (o.size ≠ 0 && data.length ≠ o.size, abLen),
    (idx = 0x1F50 && imageMax < s.flash.image.length + data.length, abLen),
    (objToken idx o.sub && !s.holds p, abToken),
    (o.size ≠ 0 && (decide (x < o.lo) || decide (o.hi < x) || !objValueOk idx o.sub v || !s.sensorValueOk idx o.sub v), abRange)]
/-- What an IDLE object belongs to is in RUN (R10). -/
def State.idleBusy (s : State) (idx : Nat) : Bool :=
  if 0x3000 ≤ idx ∧ idx < 0x3800 then s.inRun (objCh idx)
  else if 0x2100 ≤ idx ∧ idx < 0x2104 then s.cuInRun (Fin.ofNat 4 (idx - 0x2100))
  else if 0x4000 ≤ idx ∧ idx < 0x4008 then s.inRun (Fin.ofNat 8 (idx - 0x4000))
  else if idx = 0x2110 ∨ (0x4210 ≤ idx ∧ idx < 0x4214) then s.anyInRun
  else false
/-- Bytes a mapping entry maps. -/
def mapBytes (e : Nat) : Nat := e % 256 / 8
/-- Whether a mapping entry may stand in a PDO (R458, R462): an abort, or none. A wrong length, for which R458 names no code, is a value
refused (R547). -/
def State.mapJudge (s : State) (p : Port) (rx : Bool) (e : Nat) : Option Nat :=
  let idx := e / 65536
  let sub := e / 256 % 256
  if e = 0 then none
  else if rx ∧ 2 ≤ idx ∧ idx ≤ 7 then
    if e % 256 = (if idx = 2 ∨ idx = 5 then 8 else if idx = 3 ∨ idx = 6 then 16 else 32) then none else some abRange
  else match objFind s.can.nodeId idx sub with
  | .row o =>
    let dir := if rx then (o.acc = .rw || o.acc = .wo) && (o.cls = .imm || o.cls = .line) && !(idx = 0x2000 && (sub = 2 || sub = 5)) &&
        2 ≤ idx / 0x1000 && idx ≠ 0x4C00 && idx ≠ 0x4E00
      else o.acc ≠ .wo
    firstBad [
      (o.expert && !s.expertOn p, abNoObj),
      (o.size = 0 || 8 < o.size || objIndexed idx sub || !dir, abPdoMap),
      (e % 256 ≠ 8 * o.size, abRange)]
  | .top _ => firstBad [(rx, abPdoMap), (e % 256 ≠ 8, abRange)]
  | .bad _ => some abPdoMap
/-- The PDO objects (R463). -/
def State.pdoJudge (s : State) (port : Port) (idx sub v : Nat) : Option Nat :=
  let p := idx % 4
  let rx := decide (idx < 0x1800)
  let cob := s.get (if rx then Pdo.rCob p s.can.nodeId else Pdo.tCob p s.can.nodeId)
  let cnt := s.get (if rx then Pdo.rCnt p else Pdo.tCnt p)
  let map := fun (e : Nat) => s.get (if rx then Pdo.rMap p e else Pdo.tMap p e)
  let valid := !bit cob 31
  if idx < 0x1404 ∨ (0x1800 ≤ idx ∧ idx < 0x1804) then
    firstBad [(sub = 1 && valid && v % 2 ^ 29 ≠ cob % 2 ^ 29, abState)]
  else if sub = 0 then
    firstBad [
      (0 < v && valid, abState),
      (decide (64 < (List.range v).foldl (fun (a : Nat) (e : Nat) => a + mapBytes (map (e + 1))) 0), abPdoLen)]
  else firstBad [(valid || cnt ≠ 0, abState)] <|> s.mapJudge port rx v
/-- A write to an object that no register holds. -/
def State.ownJudge (s : State) (p : Port) (idx sub v : Nat) : Option Nat :=
  if 0x1400 ≤ idx ∧ idx < 0x1B00 then s.pdoJudge p idx sub v
  else if 0x4100 ≤ idx ∧ idx ≤ 0x4120 then camJudge idx sub v s
  else none
/-- A firmware image passes (R445, R489). -/
def State.imagePasses (s : State) (img : List Byte) : Bool :=
  let f := fun (a k : Nat) => leNat ((img.drop a).take k)
  let k := f 6 1
  let body := img.drop 256
  f 0 4 = 0x5746584F && f 4 2 = 1 && k ≤ 3 && f 7 1 = 0 && f 8 4 % 4 = 0 && f 8 4 ≤ 1048320 && f 8 4 ≤ body.length &&
    ((img.drop 48).take 144).all (fun b => b = 0) && (List.range 16).all (fun i => s.otpValid (512 + 16 * k + i)) &&
    !bit (s.otpValue (512 + 64)) k &&
    Config.ecdsaOk (s.otpBytes (512 + 16 * k) 16) (img.take 192) ((img.drop 192).take 64) &&
    Config.sha256 (body.take (f 8 4)) = (img.drop 16).take 32
/-- A write to an object of a channel whose value has a home of its own. -/
def State.chanFnJudge (s : State) (n : Ch) (ofs sub v : Nat) : Option Nat :=
  match ofs with
  | 0x20 => firstBad [(s.inRun n || !s.queueEmpty n, abState)]
  | 0x41 =>
    let sl := s.get (slotIx n)
    if sub = 3 then firstBad [(s.slotLocked n sl, abState)]
    else if sub = 4 then firstBad [(s.slotLocked n sl, abState)]
    else firstBad [(s.inBenchmark || s.dev.safe, abState)] <|> s.loadRefused n sl
  | 0x50 => firstBad [(!s.linkUp n || s.inRun n, abState)]
  | 0x61 =>
    if sub = 3 then firstBad [(s.nrows n ≤ s.get (Nh.SIG_ROW n), abState)] <|> s.sigJudge n v
    else firstBad [(s.nrows n ≤ s.get (Nh.SIG_ROW n), abState)]
  | _ => none
def State.fnJudge (s : State) (p : Port) (idx sub : Nat) (data : List Byte) : Option Nat :=
  let v := leNat data
  if 0x3000 ≤ idx ∧ idx < 0x3800 then s.chanFnJudge (objCh idx) (idx % 0x100) sub v
  else if 0x4118 ≤ idx ∧ idx < 0x411C then curveJudge (idx - 0x4118) v s
  else if 0x4108 ≤ idx ∧ idx < 0x410C then camJudge idx sub v s
  else match idx, sub with
  | 0x1010, _ => firstBad [(!s.flash.present, abFail), (s.saveBusy, abState)]
  | 0x1011, _ => firstBad [(!s.flash.present, abFail), (s.saveBusy, abState)]
  | 0x1F50, _ => firstBad [(s.flash.prog ≠ 1 && s.flash.prog ≠ 2, abState)]
  | 0x1F51, _ => firstBad [(!s.flash.present, abFail)]
  | 0x2000, 3 => s.pwrJudge v
  | 0x2000, 5 => s.tokenJudge p v
  | 0x2000, 8 => s.safeExitRefused
  | 0x2010, 5 => if v = 1 then s.prepareRefused else if v = 2 then s.commitRefused else none
  | 0x4120, 6 => snapJudge v s
  | 0x4E00, 2 => s.lcRefused v
  | _, _ => none
/-- The rules of the object's block: range, state, check. -/
def State.objJudge (s : State) (p : Port) (idx : Nat) (o : Obj) (data : List Byte) : Option Nat :=
  let v := leNat data
  match o.kind with
  | .word a m l => (blkOf a).judge a (s.objWord a m l v) s
  | .two lo hi => (blkOf lo).judge lo (v % 2 ^ 32) s <|> (blkOf hi).judge hi (v / 2 ^ 32) s
  | .own _ => s.ownJudge p idx o.sub v
  | .cmd a cs => (blkOf a).judge a (s.objWord a 31 0 (cmdWord cs v)) s
  | .clr _ => none
  | .prep _ => firstBad [(s.epoch ≠ .openE, abState)]
  | .fn => s.fnJudge p idx o.sub data
/-- A write's refusal but for a full queue. -/
def State.objCheck (s : State) (p : Port) (idx : Nat) (o : Obj) (data : List Byte) : Option Nat :=
  match s.objBad p idx o data with
  | some a => some a
  | none =>
    let j := s.objJudge p idx o data
    firstBad [
      (j = some abRange, abRange),
      (o.cls = .idle && s.idleBusy idx, abState),
      (idx = 0x2010 && o.sub ≤ 4 && s.epoch ≠ .openE, abState)] <|> j
/-- What a refused write still reports in its block: GEOM_ERR and the like. -/
def State.objRefused (s : State) (o : Obj) (data : List Byte) : State :=
  let v := leNat data
  match o.kind with
  | .word a m l => (blkOf a).refused a (s.objWord a m l v) s
  | .cmd a cs => (blkOf a).refused a (s.objWord a 31 0 (cmdWord cs v)) s
  | _ => s

end Sys2Proof.Machine
end

