-- ==== Sys2Proof/Machine/Store.lean ====
section
/-! DEFINITION. The effect of an object write that nothing refuses, the parameter store (R446, R447) and the firmware update
(R445). -/
namespace Sys2Proof.Machine

/-! ### The parameter store -/

/-- The indices that hold RW objects, in rising order. -/
def span (a n : Nat) : List Nat := (List.range n).map (fun i => a + i)
def objIndices : List Nat :=
  [0x1005, 0x1014, 0x1016, 0x1017] ++ span 0x1400 4 ++ span 0x1600 4 ++ span 0x1800 4 ++ span 0x1A00 4 ++ [0x2000, 0x2010, 0x2020, 0x2030] ++
  span 0x2100 4 ++ [0x2110] ++ span 0x2200 16 ++
  (List.range 8).flatMap (fun n => [0x00, 0x10, 0x20, 0x30, 0x31, 0x32, 0x33, 0x40, 0x41, 0x50, 0x60, 0x61].map (fun o => 0x3000 + 0x100 * n + o)) ++
  span 0x4000 10 ++ span 0x4100 2 ++ [0x4104] ++ span 0x4108 4 ++ span 0x4110 4 ++ span 0x4118 4 ++ [0x4120, 0x4200] ++
  span 0x4210 4 ++ span 0x4220 8 ++ span 0x4230 8 ++ span 0x4800 16 ++ [0x4A00, 0x4C00, 0x5000]
/-- An RW object that is not saved under its own sub-index: ExpertAccess and ControlOwner, data read through an index object, which is
saved cell by cell, and the word of OTP (log entry 44). -/
def objUnsaved (idx sub : Nat) : Bool := objIndexed idx sub || idx = 0x3061 + 0x100 * ((idx - 0x3000) / 0x100) && sub = 4 ||
  (idx = 0x4C00 && sub = 2) || (idx = 0x2000 && sub ≠ 3)
/-- A cell of an indexed object as saved, under its sub-index and 256 times its place from 1 on; a cell at its default 0 needs no record. -/
def savedCell (idx sub k size v : Nat) : Option (Nat × Nat × List Byte) := if v = 0 then none else some (idx, sub + 256 * (k + 1), leBytes size v)
/-- The cells of NozzleEntry, TileWord, Word (but of a slot whose contents are protected) and CurveData. -/
def State.savedCells (s : State) : List (Nat × Nat × List Byte) :=
  allCh.flatMap (fun (n : Ch) =>
    (List.range 5120).filterMap (fun i => savedCell (0x3032 + 0x100 * n) 2 i 8 (s.entryWritten n i)) ++
    (List.range 512).filterMap (fun w => savedCell (0x3033 + 0x100 * n) 2 w 4 (s.get (Ed.TILE n w))) ++
    (List.range 64).filterMap (fun w => savedCell (0x3041 + 0x100 * n) 3 w 4 (s.slotWord n (w / 32) (w % 32)))) ++
  [0, 1, 2, 3].flatMap (fun c =>
    (List.range 3072).filterMap (fun k => savedCell (0x4118 + c) 3 k 2 (nth ((s.cam c).curves.getD (k / 1024) []) (k % 1024))))
/-- A row's signature as saved: its samples, with SIG_N first. -/
def sigBytes (g : Sig) : List Byte := leBytes 1 g.n ++ g.g.flatMap (fun x => leBytes 2 (wrap 16 x))
/-- The values a save stores: the value last written of every RW object (R447), those of an indexed object cell by cell, and the signatures
under sub-indices from 0x80 on of their object. -/
def State.savedVals (s : State) : List (Nat × Nat × List Byte) :=
  objIndices.flatMap (fun i =>
    ((objRows s.can.nodeId i).getD []).filterMap (fun o =>
      if o.acc = .rw ∧ !objUnsaved i o.sub then some (i, o.sub, (s.objRead .can i o).2) else none)) ++
  allCh.flatMap (fun n => ((s.ch[n]).health.sigs.zipIdx).filterMap (fun (x : Sig × Nat) =>
    if x.1.n = 0 then none else some (0x3061 + 0x100 * (n : Nat), 0x80 + x.2, sigBytes x.1))) ++
  s.savedCells
/-- A save begins: from now on the copy that it writes is not valid, and the values are those of this moment. DESIGN CHOICE (log entry 44):
it takes the whole 400 ms that R446 allows. -/
def State.saveGo (s : State) (p : Option Port) : State :=
  { s with flash := { s.flash with saving := some ⟨s.savedVals, s.tb + usTicks 400000, p⟩ } }
def State.loadDefaults (s : State) : State := { s with flash := s.flash.journal [] }

/-- A value set without the effects of a write (R447: loading at boot is not a write). -/
def State.setRaw (s : State) (fs : List Fld) (a data : Nat) : State :=
  (fs.filter (fun f => f.addr = a && (f.acc = .rw || f.acc = .rws))).foldl (fun (t : State) (f : Fld) =>
    t.putBoth f (bits data f.msb f.lsb)) s
def State.chanFnSet (s : State) (n : Ch) (ofs sub v : Nat) : State :=
  match ofs with
  | 0x20 => s.setQTag n v
  | 0x31 => (s.putBoth (Ed.LEVEL_ADJ n (sub - 1)) (bits v 2 1)).putBoth (Ed.RAIL n (sub - 1)) (bits v 0 0)
  | _ => s
def State.objSet (s : State) (idx : Nat) (o : Obj) (data : List Byte) : State :=
  let v := leNat data
  match o.kind with
  | .word a m l => s.setRaw (blkOf a).fields a (s.objWord a m l v)
  | .two lo hi =>
    let t := (s.setRaw (blkOf lo).fields lo (v % 2 ^ 32)).setRaw (blkOf hi).fields hi (v / 2 ^ 32)
    if 0x2200 ≤ idx ∧ idx < 0x2210 then t.modStk (Fin.ofNat 16 (idx - 0x2200)) (fun x => { x with tgt := BitVec.ofNat 48 v }) else t
  | .own f => s.put f v
  | .prep f => s.put f v
  | .cmd _ _ => s
  | .clr _ => s
  | .fn =>
    if 0x3000 ≤ idx ∧ idx < 0x3800 then s.chanFnSet (objCh idx) (idx % 0x100) o.sub v
    else if 0x4108 ≤ idx ∧ idx < 0x410C then s.put (Ca.EN (idx - 0x4108)) v
    else if 0x4800 ≤ idx ∧ idx < 0x4810 then s.put (Dm.PAUSE (idx - 0x4800)) v
    else if idx = 0x2000 then s.put Pr.PWR_REQ v
    else s
/-- A saved cell of an indexed object, set. -/
def State.cellSet (s : State) (idx k v : Nat) : State :=
  let n := objCh idx
  if 0x4118 ≤ idx then
    s.modCam (idx - 0x4118) (fun x => { x with curves := x.curves.mapIdx (fun i t => if i = k / 1024 then t.set (k % 1024) v else t) })
  else match idx % 0x100 with
  | 0x32 => s.setEntry n k (masked 0 entHost v)
  | 0x33 => s.putBoth (Ed.TILE n k) v
  | _ => s.slotWrite n (k / 32) (k % 32) v
/-- The value rules of a cell (R168, R311). -/
def cellOk (idx v : Nat) : Bool := if 0x4118 ≤ idx then v ≤ 4095 else idx % 0x100 ≠ 0x32 || Ent.STATUS v < 6
/-- A signature of a row as saved. -/
def State.setSig (s : State) (n : Ch) (row : Nat) (data : List Byte) : State :=
  let k := leNat (data.take 1)
  let g := (List.range 150).map (fun i => sext 16 (leNat ((data.drop (1 + 2 * i)).take 2)))
  (s.modHealth n (fun h => { h with sigs := h.sigs.set row ⟨g, k⟩ })).put (Nh.SIG_VALID n) (s.get (Nh.SIG_VALID n) ||| 2 ^ row)
/-- One saved value: set, or skipped where its object's type, range or field refuses it; `bad` is the first skipped. -/
def State.loadOne (s : State) (bad : Option (Nat × Nat)) (x : Nat × Nat × List Byte) : State × Option (Nat × Nat) :=
  let idx := x.1
  let sub := x.2.1
  if 0x80 ≤ sub ∧ sub < 256 ∧ 0x3000 ≤ idx ∧ idx < 0x3800 then (s.setSig (objCh idx) (sub - 0x80) x.2.2, bad)
  else if 256 ≤ sub then
    if cellOk idx (leNat x.2.2) then (s.cellSet idx (sub / 256 - 1) (leNat x.2.2), bad) else (s, some (bad.getD (idx, sub % 256)))
  else
    let skip := (s, some (bad.getD (idx, sub)))
    match objFind s.can.nodeId idx sub with
    | .row o =>
      let v := leNat x.2.2
      let z : Int := if o.lo < 0 then sext (8 * o.size) v else v
      if o.acc ≠ .rw ∨ x.2.2.length ≠ o.size ∨ z < o.lo ∨ o.hi < z ∨ !objValueOk idx sub v ∨
          s.objJudge .can idx o x.2.2 = some abRange then skip
      else (s.objSet idx o x.2.2, bad)
    | _ => skip
/-- The parameter store is loaded (R447, R448, R513 step 6): the objects below a bound, and EMCY 0xFF62 for the first skipped value. -/
def State.loadParams (s : State) (below : Nat) : State :=
  let vals := match s.flash.newest with | some c => if s.flash.present then c.2.vals else [] | none => []
  let r := (vals.filter (fun x => x.1 < below)).foldl
    (fun (a : State × Option (Nat × Nat)) (x : Nat × Nat × List Byte) => a.1.loadOne a.2 x) (s, none)
  match r.2 with
  | some (i, b) => r.1.emcyInfo 0xFF62 0xFF 0 (leBytes 2 i ++ [BitVec.ofNat 8 b, 0])
  | none => r.1
/-- Saved EPOCH objects are the epoch in effect, with number 0 (R447). -/
def State.epochLoaded (s : State) : State :=
  s.forCh (fun n t => t.epochSet n
    { kc := 0, c := 0, pitch := t.get (prepPitch n), ofs := t.get (prepOfs n), rev := t.get (prepRev n), slot := t.get (wavePrep n),
      number := 0, bound := true })

/-! ### Firmware update (R445) -/

def State.progSlot (s : State) : Nat := 1 - s.flash.bootSlot
def State.progErase (s : State) : State :=
  { s with flash := { s.flash with
    prog := 1, image := [], slots := s.flash.slots.set s.progSlot (some []) } }
def State.progData (s : State) (data : List Byte) : State :=
  { s with flash := { s.flash with
    prog := 2, image := s.flash.image ++ data, slots := s.flash.slots.set s.progSlot (some (s.flash.image ++ data)) } }
def State.progVerify (s : State) : State × Nat :=
  if s.imagePasses s.flash.image then
    ({ s with flash := { s.flash with
      prog := 3, nextBoot := s.progSlot } }, 0)
  else ({ s with flash := { s.flash with prog := 4 } }, abFail)

/-! ### Effects -/

/-- Expert access switched on its port (R442). -/
def State.setExpert (s : State) (p : Port) (on : Bool) : State :=
  s.modDev (fun d => match p with | .can => { d with expCan := on } | .pcie => { d with expPcie := on })
/-- An effect that is done: its answer is 0. -/
def fin (s : State) : State × Option Nat := (s, some 0)
def finAb (r : State × Nat) : State × Option Nat := (r.1, some r.2)
/-- LifeCycleAdvance (R483): the wipe first, then the fuses. -/
def State.lcGo (s : State) (code : Nat) (runs : List FuseRun) : State × Option Nat := (s.wipeGo .lifeCycle).lcBlow (code - 0x4C430000) runs
/-- The Command object (R120, R320). -/
def State.command (s : State) (n : Ch) (v : Nat) : State × Nat := if v = 1 then s.startTry n else (s.stopCh n, 0)
/-- A Check (R192): the answer says whether the slot passed. -/
def State.checkGo (s : State) (n : Ch) : State × Nat :=
  let sl := s.get (slotIx n)
  (s.slotCheck n sl, if s.checkErr n sl = 0 then 0 else abCheck)
/-- A Pause write (R386, R396): answered once DRAINING is over. -/
def State.pauseGo (s : State) (d : Dch) (on : Bool) (owed : Option Port) : State × Option Nat :=
  let a := (Dm.PAUSE d).addr
  let t := dmaApply d a (s.objWord a 30 30 (if on then 1 else 0)) s
  if on ∧ t.dmaState d = .draining then (t.modDma d (fun x => { x with owed := x.owed ++ owed.toList }), none) else fin t
/-- EpochControl (R334, R336). -/
def State.epochControl (s : State) (v : Nat) : State × Nat :=
  if v = 1 then s.prepareGo else if v = 2 then s.commitGo else (s.cancelGo, 0)
def State.chanFnDo (s : State) (n : Ch) (ofs sub v : Nat) (owed : Option Port) : State × Option Nat :=
  match ofs with
  | 0x10 => finAb (s.command n v)
  | 0x20 => fin (s.setQTag n v)
  | 0x31 => fin (s.tblRequest n [.pattern (sub - 1) v])
  | 0x32 => fin (s.tblRequest n [.entry (s.get (nozIx n)) (2 ^ 64 - 1) v])
  | 0x33 => fin (s.tblRequest n [.tile (s.get (tileIx n)) v])
  | 0x41 =>
    if sub = 3 then fin (s.slotWrite n (s.get (slotIx n)) (s.get (wordIx n)) v)
    else if sub = 4 then finAb (s.checkGo n)
    else (s.loadStart n (s.get (slotIx n)) v owed, none)
  | 0x50 => (s.feStart n (v / 256) (v % 256) true (match owed with | some p => .port p | none => .reg), none)
  | 0x61 => if sub = 3 then fin (s.sigWrite n v) else fin (s.sigLen n (s.get (Nh.SIG_ROW n)) v)
  | _ => fin s
def State.fnDo (s : State) (w : World) (p : Port) (owed : Option Port) (idx sub : Nat) (data : List Byte) : State × Option Nat :=
  let v := leNat data
  if 0x3000 ≤ idx ∧ idx < 0x3800 then s.chanFnDo (objCh idx) (idx % 0x100) sub v owed
  else if 0x4118 ≤ idx ∧ idx < 0x411C then fin (s.curveWrite (idx - 0x4118) v)
  else if 0x4108 ≤ idx ∧ idx < 0x410C then
    fin (if v = 0 then (if s.has (Ca.EN (idx - 0x4108)) then s.contextOff (idx - 0x4108) else s) else s.flag (Ca.EN (idx - 0x4108)))
  else if 0x4800 ≤ idx ∧ idx < 0x4810 then s.pauseGo (Fin.ofNat 16 (idx - 0x4800)) (v = 1) owed
  else match idx, sub with
  | 0x1003, _ => fin (s.modCan (fun c => { c with errs := [] }))
  | 0x1010, _ => (s.saveSettle.saveGo owed, none)
  | 0x1011, _ => fin s.saveSettle.loadDefaults
  | 0x1F50, _ => fin (s.progData data)
  | 0x1F51, _ => if v = 3 then fin s.progErase else finAb s.progVerify
  | 0x2000, 2 => fin (s.setExpert p (v ≠ 0))
  | 0x2000, 3 => (s.pwrGo v owed, none)
  | 0x2000, 5 => fin (s.tokenSet v)
  | 0x2000, 8 => (s.safeExitGo w.bench owed, none)
  | 0x2010, 5 => finAb (s.epochControl v)
  | 0x4120, 6 => fin (s.snapArm v)
  | 0x4C00, 2 => s.otpWrite (s.get otpIx) v w.runs
  | 0x4C00, 6 => finAb (s.otpArm v (s.get otpReg))
  | 0x4C00, 8 => fin s.otpCheck
  | 0x4C00, 7 =>
    let r := w.runs.headD fullRun
    if v = 1 then s.blowWriteLock (s.get otpReg) r else s.blowReadLock (s.get otpReg) r
  | 0x4E00, 2 => s.lcGo v w.runs
  | 0x4E00, 5 => finAb (s.debugRespond data)
  | 0x5000, _ => fin ((s.put logCount 0).modCan (fun c => { c with log := [] }))
  | _, _ => fin s
/-- A value of its own: a port switched off has no clock (R317). A BOOT value is the stored one; what is in effect is what the last reset
loaded (R46, R450). -/
def State.ownDo (s : State) (idx : Nat) (o : Obj) (f : Fld) (data : List Byte) : State :=
  let u := s.put f (leNat data)
  let t := if (idx = 0x4100 ∨ idx = 0x4101) ∧ o.sub = 1 ∧ leNat data = 0 then
    u.modPort (idx - 0x4100) (fun q => { q with clock := false, skew := false }) else u
  if 0x4110 ≤ idx ∧ idx < 0x4114 then t.sliceTouch 1 (bankBase + 0x2000 * (idx - 0x4110) + 2 * (o.sub - 1)) 2 else t
/-- An object write takes effect: its answer, or none where the answer comes later. -/
def State.objDo (s : State) (w : World) (p : Port) (owed : Option Port) (idx : Nat) (o : Obj) (data : List Byte) : State × Option Nat :=
  let v := leNat data
  match o.kind with
  | .word a m l => fin ((blkOf a).apply a (s.objWord a m l v) s)
  | .two lo hi => fin ((blkOf hi).apply hi (v / 2 ^ 32) ((blkOf lo).apply lo (v % 2 ^ 32) s))
  | .own f => fin (s.ownDo idx o f data)
  | .cmd a cs => fin ((blkOf a).apply a (s.objWord a 31 0 (cmdWord cs v)) s)
  | .clr fs => fin (s.clearAll fs)
  | .prep f => fin (s.put f v)
  | .fn => s.fnDo w p owed idx o.sub data

end Sys2Proof.Machine
end

