-- ==== Sys2Proof/Machine/Queue.lean ====
section
/-! DEFINITION. Where an object write goes (R11, R14, R45 to R47, R322): into effect, into its channel's apply queue, or among
the writes kept for a parked channel; how a queue drains; and what follows every command of itself. -/
namespace Sys2Proof.Machine

/-- Depth of an apply queue (R28). -/
def queueDepth : Nat := 32
def State.queueFull (s : State) (n : Ch) : Bool := queueDepth ≤ (s.ch[n]).applyQ.length
/-- An edit at the end of the channel's queue, as a request of its own. -/
def State.enqueue (s : State) (n : Ch) (b : EditBody) (c : Cls) (owed : Option Port) : State :=
  s.modCh n (fun x => { x with
    applyQ := x.applyQ ++ [{ body := b, cls := c, owed := owed, at0 := s.tb }] })
/-- The flag of the block that a channel object concerns. -/
def objWrej (n : Ch) (idx : Nat) : Fld :=
  match idx % 0x100 with
  | 0x10 => Tr.WREJ n | 0x20 => Ld.WREJ n | 0x30 => Ed.WREJ n | 0x31 => Ed.WREJ n | 0x32 => Ed.WREJ n | 0x33 => Ed.WREJ n
  | 0x50 => Lk.WREJ n | 0x60 => Nh.WREJ n | 0x61 => Nh.WREJ n | _ => Lv.WREJ n

/-! ### Submission -/

/-- A write that takes effect at once if nothing refuses it. -/
def State.objNow (s : State) (w : World) (p : Port) (owed : Option Port) (idx : Nat) (o : Obj) (data : List Byte) : State × Option Nat :=
  match s.objBad p idx o data with
  | some a => (s.otpTouch idx o.sub, some a)
  | none => match s.objCheck p idx o data with
    | some a => ((s.otpTouch idx o.sub).objRefused o data, some a)
    | none => (s.otpTouch idx o.sub).objDo w p owed idx o data
/-- A write kept for a parked channel (R322): judged on token, type and range and answered now. A STOP there is accepted and
changes nothing (R320); what needs the channel's answer is refused (R205, R515, R521). -/
def State.objKeep (s : State) (p : Port) (n : Ch) (idx : Nat) (o : Obj) (data : List Byte) : State × Option Nat :=
  let cmd := idx % 0x100 = 0x10 && o.sub = 0x17
  let start := cmd && leNat data = 1
  let train := idx % 0x100 = 0x50 && o.sub = 4
  let load := idx % 0x100 = 0x41 && o.sub = 6
  match s.objBad p idx o data <|>
      firstBad [(s.objJudge p idx o data = some abRange, abRange), (load, abState),
        ((start || train) && (s.dev.safe || s.inBenchmark), abState)] with
  | some a => (s, some a)
  | none =>
    if cmd ∧ !start then fin s
    else fin (s.modCh n (fun c => { c with kept := c.kept ++ [⟨idx, o.sub, data⟩] }))
/-- A LINE write of a channel in RUN: its shadow or staged value is written now and takes effect at the next boundary. -/
def State.objStage (s : State) (w : World) (p : Port) (n : Ch) (idx : Nat) (o : Obj) (data : List Byte) : State :=
  let t := (s.objDo w p none idx o data).1
  if o.kind = .fn then t else t.enqueue n (.obj idx o.sub data) .line none
/-- A write to an object of a channel in RUN that nothing refuses (R10, R45 to R47). -/
def State.objRun (s : State) (w : World) (p : Port) (owed : Option Port) (n : Ch) (idx : Nat) (o : Obj) (data : List Byte) :
    State × Option Nat :=
  if o.cls = .line then (if s.queueFull n then (s, some abQueue) else fin (s.objStage w p n idx o data))
  else if (s.ch[n]).applyQ = [] then s.objDo w p owed idx o data
  else if s.queueFull n then (s, some abQueue)
  else if o.cls = .epoch then fin (s.enqueue n (.obj idx o.sub data) .epoch none)
  else (s.enqueue n (.obj idx o.sub data) .imm owed, if owed.isSome then none else some 0)
/-- An object write from a port: the new state and its answer, or none where the answer comes later. -/
def State.objWrite (s : State) (w : World) (p : Port) (owed : Option Port) (idx sub : Nat) (data : List Byte) : State × Option Nat :=
  match objFind s.can.nodeId idx sub with
  | .bad a => (s, some a)
  | .top _ => (s, some abRo)
  | .row o =>
    match objOfChan idx with
    | none => s.objNow w p owed idx o data
    | some n =>
      if s.chParked n then s.objKeep p n idx o data
      else if !s.inRun n then s.objNow w p owed idx o data
      else match s.objBad p idx o data with
        | some a => (s, some a)
        | none => match s.objCheck p idx o data with
          | some a => (s.objRefused o data, some a)
          | none => s.objRun w p owed n idx o data

/-! ### Draining -/

/-- One edit reaches its target on line k (R46): the EMCY bytes of a closure decision are returned. An EPOCH edit, accepted and
answered, reaches the prepared set whatever has become of the epoch since; an IMM edit is judged again on the state it meets, its
token as accepted (R436), and answered. -/
def State.applyEdit (s : State) (n : Ch) (e : Edit) (k : Nat) : State × List (List Byte) :=
  match e.body with
  | .closure i m v _ why =>
    let r := s.applyClosure n i m v k why
    (r.1.entryTouch n i, r.2.toList)
  | .obj idx sub data =>
    if e.cls = .line then (s, [])
    else match objFind s.can.nodeId idx sub with
      | .row o =>
        let r := match (if e.cls = .epoch then none else s.objJudge .can idx o data) with
          | some a => (s.objRefused o data, some a)
          | none => s.objDo s.plainWorld (e.owed.getD .can) e.owed idx o data
        (match r.2 with | some a => r.1.reply e.owed idx sub a | none => r.1, [])
      | _ => (s, [])
  | b => (s.applyTbl n b k, [])
/-- Edits at the front of the queue drain in order (R45). -/
def State.drainSome (s : State) (n : Ch) (k : Nat) (p : Edit → Bool) : State × List (List Byte) :=
  let q := (s.ch[n]).applyQ
  (q.takeWhile p).foldl (fun (a : State × List (List Byte)) (e : Edit) =>
    let r := a.1.applyEdit n e k
    (r.1, a.2 ++ r.2)) (s.modCh n (fun c => { c with applyQ := q.dropWhile p }), [])
/-- The whole queue drains in order. -/
def State.drain (s : State) (n : Ch) (k : Nat) : State × List (List Byte) := s.drainSome n k (fun _ => true)
/-- What was queued before the cycle of the boundary drains; what came in that cycle waits for the next line (R143). -/
def State.drainOld (s : State) (n : Ch) (k : Nat) : State × List (List Byte) :=
  s.drainSome n k (fun e => decide (cycleOf e.at0 < cycleOf s.tb))
/-- The shadowed fields of a channel. -/
def shadowed (n : Ch) : List Fld :=
  [Tr.TRIM n, Ld.ROW_EN n, Ed.BS_MODE n, Ed.BS_H n, Ed.SUB_BUMP n, Lv.W_SCALE n, Nh.SNS_EN n, Nh.SNS_CODES n, Nh.STRIP_EN n]
/-- Shadows become effective (R7) at given values; STRIP_EN taken to 0 cancels a strip that has not begun (R273). -/
def State.shadowsIn (s : State) (n : Ch) (v : Fld → Nat) : State :=
  let off := decide (s.eff (Nh.STRIP_EN n) = 1) && decide (v (Nh.STRIP_EN n) = 0)
  let t := (shadowed n).foldl (fun (t : State) (f : Fld) => t.putEff f (v f)) s
  if off then t.stripCancel n else t

/-! ### What follows every command -/

/-- The writes kept for a channel whose domain is on again are written into it in order; a refused one, and one that finds the apply queue full,
sets WREJ (R322). -/
def State.keptIn (n : Ch) (s : State) : State :=
  if s.chParked n ∨ (s.ch[n]).kept = [] then s
  else
    let ks := (s.ch[n]).kept
    ks.foldl (fun (t : State) (k : Kept) => match objFind t.can.nodeId k.idx k.sub with
      | .row o =>
        match (firstBad [(o.cls = .idle && t.idleBusy k.idx, abState)] <|> t.objJudge .can k.idx o k.data) with
        | some _ => (t.objRefused o k.data).flag (objWrej n k.idx)
        | none =>
          let r := if t.inRun n then t.objRun t.plainWorld .can none n k.idx o k.data else t.objDo t.plainWorld .can none k.idx o k.data
          if r.2 = some 0 ∨ r.2 = none then r.1 else r.1.flag (objWrej n k.idx)
      | _ => t) (s.modCh n (fun c => { c with kept := [] }))
/-- A channel not in RUN: its queue drains at once (R11, R329) and nothing stays in a shadow. -/
def State.quiet (n : Ch) (s : State) : State :=
  if s.inRun n then s.wipeFree n
  else
    let r := if (s.ch[n]).applyQ = [] then (s, []) else s.drain n (s.nextBoundary n)
    let t := r.2.foldl (fun (u : State) (b : List Byte) => u.emcyInfo 0xFF50 n (s.lastLine n) b) r.1
    let u := if s.chSt n = .idle ∧ s.has (Lv.PRECHG n) ∧ s.linkUp n then t.modCh n (fun c => { c with readmitK := none }) else t
    (u.shadowsIn n u.get).wipedSettle n
/-- A switch whose check of VHV is over closes (R186). -/
def State.switchSettle (n : Ch) (s : State) : State := if s.switchDue n then s.switchPass n else s
/-- A channel has nothing left to do of itself: no check of VHV runs and no ramp to LV0 is over with the switch closed; in RUN no wiped slot is free of lines; at rest no edit
waits, no shadow differs from the value in effect, no wiped slot and no spent readmission is left; with its domain on no kept write
waits. -/
def State.chRests (s : State) (n : Ch) : Bool :=
  (s.ch[n]).drive.vhvAt.isNone && !(s.ch[n]).drive.openAt.any (fun t => decide (t ≤ s.tb)) && (s.chParked n || (s.ch[n]).kept.isEmpty) &&
  (if s.inRun n then (s.wipedFree n).isEmpty
   else (s.ch[n]).applyQ.isEmpty && (shadowed n).all (fun f => s.eff f == s.get f) && (s.ch[n]).drive.wiped.isEmpty &&
     !(s.chSt n = .idle && s.has (Lv.PRECHG n) && s.linkUp n && (s.ch[n]).readmitK.isSome))
/-- The device has nothing left to do of itself. -/
def State.rests (s : State) : Bool :=
  s.dev.waking.isNone && allCh.all (fun n => s.chRests n) && !(s.dev.token = .pcie && s.pcieLost && s.dev.boot = .up) &&
  (if s.pix.on then s.pixKept else !s.pixWanted) && s.epochStands && allCh.all (fun n => !s.benchDue n) && !s.saveDue
/-- What the device does of itself after any command: switches open behind their ramps, queues of channels at rest drain, kept writes enter, channels of a wake
power up, those of a benchmark run that have passed it are IDLE, the token and PD_PIX follow their conditions, an epoch one of whose channels no longer passes is lost (R335). -/
def State.settle (s : State) : State :=
  if s.rests then s
  else ((((((s.forCh State.openSettle).forCh State.quiet).forCh State.switchSettle).forCh State.benchSettle).forCh State.wakeCh).forCh State.keptIn).tokenCheck.pixFollow.epochWatch.saveSettle

/-! ### The two ports (R14, R428, R431, R438, R515) -/

/-- The port's requests reach the object dictionary: firmware runs, and for CAN FD the node sends and receives. -/
def State.serves (s : State) (p : Port) : Bool :=
  (s.dev.boot = .benchmark || s.dev.boot = .up) &&
  (match p with
   | .can => s.can.nodeId ≠ 0 && (s.can.nmt = .preOp || s.can.nmt = .operational) && !s.has Ho.CAN_BUSOFF
   | .pcie => s.barOpen)
/-- A write request from a port, with its answer. -/
def State.sdoWrite (s : State) (w : World) (p : Port) (idx sub : Nat) (data : List Byte) : State :=
  let r := s.objWrite w p (some p) idx sub data
  match r.2 with | some a => r.1.answer p idx sub a | none => r.1
/-- A read of FarEndRead is a far-end access, answered later (R256). -/
def State.farRead (s : State) (p : Port) (idx : Nat) : State :=
  let n := objCh idx
  if s.chParked n then s.answerData p idx 0x0D [0]
  else if s.linkUp n then s.feStart n (s.get (Lk.ADDR n)) 0 false (.port p) else s.answer p idx 0x0D abState
/-- A read request from a port, with its answer (R450 to R454). -/
def State.sdoRead (s : State) (p : Port) (idx sub : Nat) : State :=
  match objFind s.can.nodeId idx sub with
  | .bad a => s.answer p idx sub a
  | .top k => s.answerData p idx sub [BitVec.ofNat 8 k]
  | .row o =>
    if o.expert ∧ !s.expertOn p then s.answer p idx sub abNoObj
    else if 0x3000 ≤ idx ∧ idx < 0x3800 ∧ idx % 0x100 = 0x50 ∧ sub = 0x0D then s.farRead p idx
    else
      let r := s.objRead p idx o
      r.1.answerData p idx sub r.2
/-- A held IMM edit that has waited 1 s is withdrawn and refused (R47); `q` 8 is the device's queue. -/
def heldOver (tb : Nat) (e : Edit) : Bool := e.cls = .imm && decide (e.at0 + usTicks 1000000 ≤ tb)
def withdrawn (s : State) (e : Edit) : State :=
  match e.body with | .obj idx sub _ => s.reply e.owed idx sub abState | _ => s
def State.heldWithdraw (s : State) (q : Nat) : State :=
  if h : q < 8 then
    let n : Ch := ⟨q, h⟩
    match ((s.ch[n]).applyQ).find? (heldOver s.tb) with
    | some e => withdrawn (s.modCh n (fun c => { c with applyQ := dropFirst (heldOver s.tb) c.applyQ })) e
    | none => s
  else match s.devQ.find? (heldOver s.tb) with
    | some e => withdrawn { s with devQ := dropFirst (heldOver s.tb) s.devQ } e
    | none => s

end Sys2Proof.Machine
end

