-- ==== Sys2Proof/Machine/Boundary.lean ====
section
/-! DEFINITION. The line boundary (R25, R137, R140 to R147, R340, R355): what it takes from the apply queue, the shadows, a commit,
the thermal block, the staging queue and the offset store, and what the edit stage makes of the line. -/
namespace Sys2Proof.Machine

/-- A line at its boundary, before anything of it is known. -/
def Line.stub (k : Nat) : Line :=
  { no := k, codes := [], null := false, held := false, slot := 0, desc := SlotDesc.blank, theta := 1024, wscale := 1024, trim := 0, lineTime := 0,
    sense := none, snsEn := false, encoded := false, msgs := [], frames := [], reps := 0, undel := false, latched := none, lack := none,
    lackAt := 0, decided := false, runs := false, cut := false, sending := false, spxSent := [] }
/-- The boundary that stands next on a channel in RUN (R140, R141): the edit stage is free, and line k − 2 is decided. -/
def State.boundaryDue (s : State) (n : Ch) : Option Nat :=
  match (s.ch[n]).store.bNext with
  | some k => if s.chSt n = .run ∧ (s.ch[n]).store.busy = none ∧ k < (s.ch[n]).trav.next + 2 then some k else none
  | none => none
/-- The line was decided before its boundary (R141, R142). -/
def State.decidedEarly (s : State) (n : Ch) (k : Nat) : Bool := (s.ch[n]).trav.early.any (fun e => e.1 = k)
/-- An EMCY of the line: it leaves with the line's decision (R48), at once for a line already decided. -/
def State.note (s : State) (n : Ch) (k : Nat) (early : Bool) (m : Nat × List Byte) : State :=
  if early then s.lineMsgs n k [m] else s.modLine n k (fun l => { l with msgs := l.msgs ++ [m] })

/-- Table words that read uncorrectable until written back, and corrected ones (R168, R172). -/
def State.tableErrs (s : State) (n : Ch) (errs : List MemErr) : State :=
  errs.foldl (fun (t : State) (e : MemErr) => match e with
    | .tableCe => t.flagBump (Ed.CE n) (Ed.CE_CNT n)
    | .tableUe i => t.modCh n (fun c => { c with badEntries := c.badEntries.filter (· ≠ i) ++ [i] })
    | _ => t) s
/-- Queued edits and shadows take effect, but for those of the boundary's own cycle (R45, R143, R340 step 1). -/
def State.boundaryEdits (s : State) (n : Ch) (k : Nat) (early : Bool) : State :=
  let r := s.drainOld n k
  let t := r.2.foldl (fun (t : State) (b : List Byte) => t.note n k early (0xFF50, b)) r.1
  t.shadowsIn n t.shadowAt
/-- A commit that begins at line k or at one before it is fixed (R337, R338, R340 steps 2 and 3). -/
def State.boundaryCommit (s : State) (n : Ch) (k : Nat) : State :=
  let rs := (s.ch[n]).trav.rebases
  let s1 := (rs.filter (fun r => decide (r.kc ≤ k) && !r.bound)).foldl (fun (t : State) (r : Rebase) =>
    (t.put (Lv.SET_SEL n) r.slot).put (Cc.APPLIED_EPOCH n) r.number) s
  let s2 := s1.modTrav n (fun t => { t with rebases := t.rebases.map (fun r => if r.kc ≤ k then { r with bound := true } else r) })
  s2.put (Lv.ACT_SET n) (s2.curSlot n)
/-- The history starts anew at START, GEOM_APPLY, a readmission and the first line of a scanning pass (R129, R164). -/
def State.boundaryHistory (s : State) (n : Ch) (k : Nat) : State :=
  if (s.ch[n]).store.blank ∨ (s.get (Tr.MODE n) = 2 ∧ (s.passOf n k).2 = 0) then (s.blankHistory n k).clearHistory n else s

/-! ### Line memory (R127, R129, R137, R146, R147, R271) -/

/-- The code of a word of line memory corrects one wrong bit of the 72 and detects two (R145). -/
def wordCorrects (flips : List Nat) : Bool := decide (flips.length ≤ 1)
/-- The nozzles a queue word silences in the line that is admitted. -/
def queueUe (k : Nat) (errs : List MemErr) : List Nat :=
  errs.flatMap (fun e => match e with
    | .line w fs zs => if !wordCorrects fs ∧ 0x28000 ≤ w then (zs.filter (fun z => z.1 = k)).map (fun z => z.2) else []
    | _ => [])
/-- A nozzle-line of the store reads as code 0, for the nozzle itself and as a substitution source. -/
def State.storeUe (s : State) (n : Ch) (w : Nat × Nat) : State :=
  s.modCh n (fun c => { c with store := { c.store with img := c.store.img.map (fun x =>
    if x.no = w.1 then { x with codes := x.codes.set w.2 0 } else x) } })
/-- What the boundary reads from line memory goes wrong: CE, UE with its EMCY, and retirement on a repeated word. -/
def State.lineErrs (s : State) (n : Ch) (k : Nat) (early : Bool) (errs : List MemErr) : State :=
  errs.foldl (fun (t : State) (e : MemErr) => match e with
    | .line w fs zs =>
      if fs = [] then t
      else if wordCorrects fs then t.lineCe n
      else
        let u := if w < 0x28000 then zs.foldl (fun (v : State) (z : Nat × Nat) => v.storeUe n z) t else t
        (u.note n k early (0x5010, [])).lineUe n w
    | _ => t) s
/-- Image line k enters the store (R137): a strip's own line, the host's, or code 0 for a missed one. -/
def State.admitLine (s : State) (n : Ch) (k : Nat) (early : Bool) (errs : List MemErr) : State × Bool :=
  let r := s.queueTake n k
  match s.stripLine n k with
  | some u => (r.1.storeImage n ⟨k, s.stripCodes n u, true⟩, false)
  | none => match r.2 with
    | some bs =>
      let zs := queueUe k errs
      let cs := (imageCodes (s.nozzles n) bs).mapIdx (fun (i : Nat) (c : Nat) => if i ∈ zs then 0 else c)
      (r.1.storeImage n ⟨k, cs, false⟩, false)
    | none =>
      (((r.1.storeImage n ⟨k, List.replicate (s.nozzles n) 0, false⟩).flagBump (Ld.MISS n) (Ld.MISS_CNT n)).note n k early
        (0xFF20, []), true)
/-- Entries in use that read uncorrectable are written back at an encoded line (R172). -/
def State.entryErrs (s : State) (n : Ch) (k : Nat) : State :=
  ((s.ch[n]).badEntries.filter (fun i => decide (i < s.nozzles n))).foldl (fun (t : State) (i : Nat) =>
    (t.note n k false (0x5020, [])).tableUe n i) s

/-- Line k as the boundary fixes it (R25): slot with its contents, scales, TRIM and line time, and its drive codes (R153, R154). -/
def State.encodeLine (s : State) (n : Ch) (k : Nat) (null held : Bool) : State :=
  let r := if null then (s.shiftHistory n, List.replicate (s.nozzles n) 0, none) else s.encodeCodes n k
  r.1.modLine n k (fun l => { l with
    codes := r.2.1, null := null, held := held, slot := s.curSlot n, desc := s.slotDesc n (s.curSlot n), theta := s.get (Lv.THETA n), wscale := s.eff (Lv.W_SCALE n),
    trim := s.eff (Tr.TRIM n), lineTime := s.slotLineTime n (s.curSlot n), sense := r.2.2,
    snsEn := s.eff (Nh.SNS_EN n) = 1 })
/-- The end of a boundary: line k is admitted, the edit stage is busy with it, and k + 1 stands next. -/
def State.boundaryEnd (s : State) (n : Ch) (k : Nat) : State :=
  let pass := if s.get (Tr.MODE n) = 2 then (s.passOf n k).1 else 0
  ((((s.modCh n (fun c => { c with
    store := { c.store with bNext := some (k + 1), entered := some k, busy := some k }
    trav := { c.trav with early := c.trav.early.filter (fun e => e.1 ≠ k) } })).put (Ed.PASS_CNT n) pass).rebaseSettle n).tableTouch n)
/-- The boundary of line k (R25). -/
def State.boundaryAt (s : State) (n : Ch) (k : Nat) (errs : List MemErr) : State :=
  let early := s.decidedEarly n k
  let s0 := if early then s else s.modCh n (fun c => { c with lines := c.lines ++ [Line.stub k] })
  let s1 := ((s0.tableErrs n errs).boundaryEdits n k early).boundaryCommit n k
  let th := s1.thermalBoundary n (cycleOf s1.tb)
  let s2 := th.2.2.foldl (fun (t : State) (c : Nat) => t.note n k early (c, [])) th.1
  let ad := (s2.boundaryHistory n k).admitLine n k early errs
  let s3 := ad.1.lineErrs n k early errs
  let s4 := if early then s3 else s3.entryErrs n k
  if s4.chSt n ≠ .run then s4
  else if early then (s4.shiftHistory n).boundaryEnd n k
  else (s4.encodeLine n k (ad.2 || th.2.1) th.2.1).boundaryEnd n k
/-- LINE_BOUNDARY: nothing happens while no boundary stands. -/
def State.lineBoundary (s : State) (n : Ch) (errs : List MemErr) : State :=
  match s.boundaryDue n with
  | some k => s.boundaryAt n k errs
  | none => s

/-- LINE_ENCODED (R141): the edit stage is free again and an encoded line has its frames (R226, R242). -/
def State.lineEncoded (s : State) (n : Ch) : State :=
  match (s.ch[n]).store.busy with
  | none => s
  | some k =>
    (s.modLine n k (fun l => { l with
      encoded := true, frames := if l.decided then [] else lineFrames l.codes l.sense (s.canRoute n) })).modCh n (fun c =>
        { c with store := { c.store with busy := none } })
/-- TRANSMIT_LINE (R226, R227, R233): the frames of the encoded lines leave, as the lanes take them and as far as the limits allow. -/
def State.transmitLine (s : State) (n : Ch) : State :=
  ((s.linkTick n).modCh n (fun c => { c with lines := c.lines.map (fun l => { l with sending := l.sending || l.encoded }) })).pump n

end Sys2Proof.Machine
end

