-- ==== Sys2Proof/Machine/Decision.lean ====
section
/-! DEFINITION. The decision of a line (R98, R105, R107, R115, R142, R203, R237, R239, R250) and the groups that leave while it
runs (R240, R242). -/
namespace Sys2Proof.Machine

/-- What becomes of a line that the governor passed: it runs its sub-pulses, or it fires null with the flag and counter that
tell why and whether EMCY 0x8720 tells it too (R324). -/
inductive Fate where
  | fires
  | null
  | fails (fl cnt : Fld) (told : Bool)
  | undel
deriving DecidableEq, Repr

/-- The fate of line l at its decision tick. The link judges it while it is UP (R239); a line never delivered is latched with
NULL (R234, R237); while the link is not UP nothing is latched (R250). -/
def State.lineFate (s : State) (n : Ch) (l : Line) (tick : Nat) : Fate :=
  if !s.linkUp n then .fails (Lk.LATE n) (Lk.LATE_CNT n) false
  else if l.undel then .undel
  else if l.latched.isNone ∧ !(l.encoded && l.delivered) then .fails (Lk.LATE n) (Lk.LATE_CNT n) true
  else match l.lack with
    | none => .fails (Lk.NOLACK n) (Lk.NOLACK_CNT n) true
    | some e =>
      if cycleOf tick ≤ cycleOf l.lackAt then .fails (Lk.NOLACK n) (Lk.NOLACK_CNT n) true
      else if e then .fails (Lk.EMPTY n) (Lk.EMPTY_CNT n) true
      else if l.null then .null else .fires
/-- The LATCH that a decision owes: of a line not yet latched, with NULL unless it is delivered (R237). -/
def State.lateLatch (s : State) (n : Ch) (l : Line) : State :=
  if !s.linkUp n ∨ l.latched.isSome then s
  else if l.undel then s.sendLatch n l true
  else if l.encoded && l.delivered then s.sendLatch n l l.frames.isEmpty
  else (s.abandonLine n l.no).sendLatch n l true
/-- Line l fires: its record is marked, lines before the one before it are past (R98), USAGE shows what runs (R194). -/
def State.fireLine (s : State) (n : Ch) (l : Line) (tick : Nat) (runs : Bool) : State :=
  let s1 := s.modCh n (fun c => { c with lines := (c.lines.filter (fun x => !(x.decided && x.no + 1 < l.no))).map (fun x =>
    if x.no = l.no then { x with decided := true, runs := runs } else x) })
  let s2 := if l.held then s1.bump (Cc.HOLD_CNT n) else s1
  let s3 := if runs then s2 else s2.senseLost n (some l)
  ((s3.travFired n l.no tick).fireRails n l runs).stripDecided n l.no
/-- A line past its boundary is judged by its link and fires (R237, R239). -/
def State.passLine (s : State) (n : Ch) (l : Line) (tick : Nat) : State :=
  let f := s.lineFate n l tick
  let s1 := (s.lateLatch n l).decideMark n l.no true
  let s2 := match f with
    | .fails fl cnt told => let u := s1.flagBump fl cnt; if told then u.emcyMsg 0x8720 n l.no else u
    | .undel => s1.emcyMsg 0x8720 n l.no
    | _ => s1
  s2.fireLine n l tick (f = .fires)
/-- A line decided to fire before its boundary is a null line (R142), latched with NULL while the link is UP (R237, R327); while it is
not, nothing is latched and LATE_CNT counts the line (R250). -/
def State.lagLine (s : State) (n : Ch) (k tick : Nat) : State :=
  let l : Line := { Line.stub k with
    null := true, slot := s.curSlot n, desc := s.slotDesc n (s.curSlot n), theta := s.get (Lv.THETA n), wscale := s.eff (Lv.W_SCALE n), trim := s.eff (Tr.TRIM n),
    lineTime := s.curLineTime n }
  let s1 := ((s.decideMark n k true).flagBump (Ld.LAGNULL n) (Ld.LAGNULL_CNT n)).emcyMsg 0xFF21 n k
  let s2 := (s1.modCh n (fun c => { c with lines := c.lines ++ [l] }))
  (if s.linkUp n then s2.sendLatch n l true else s2.flagBump (Lk.LATE n) (Lk.LATE_CNT n)).fireLine n l tick false
/-- A line whose rails are not at REST is dropped (R203). -/
def State.recovDrop (s : State) (n : Ch) (k : Nat) : State := (s.flagBump (Lv.OC_RECOV n) (Lv.RECOV_CNT n)).dropPlain n k
/-- The count of how a line was placed (R105, R107). -/
def State.placedCount (s : State) (n : Ch) (kind : SchedKind) : State :=
  match kind with
  | .catchup => s.flagBump (Tr.CATCHUP n) (Tr.CATCHUP_CNT n)
  | .elock => s.bump (Tr.ELOCK_CNT n)
  | _ => s
/-- The governor's interval since the last fired line is too short (R115). -/
def State.tooSoon (s : State) (n : Ch) (k tick : Nat) : Bool :=
  (s.ch[n]).trav.lastFired.any (fun f => decide (tick < f + s.minInterval n k))
/-- A line given up as undeliverable tells so at its decision (R234). -/
def State.undelNote (s : State) (n : Ch) (k : Nat) : State :=
  if (s.findLine n k).any (fun l => l.undel) then s.flagBump (Lk.UNDEL n) (Lk.UNDEL_CNT n) else s
/-- The decision of line k at its tick (R98). -/
def State.decideAt (s0 : State) (n : Ch) (e : Sched) (tick : Nat) : State :=
  let s := (s0.placedCount n e.kind).undelNote n e.line
  if e.kind = .gap then s.gapDrop n e.line
  else if s.tooSoon n e.line tick then s.overspeed n e.line
  else if !(s.ch[n]).drive.railsRest then s.recovDrop n e.line
  else match s.findLine n e.line with
    | none => s.lagLine n e.line tick
    | some l => s.passLine n l tick
/-- Lines of an SSI frame behind the first are GAP (R108), one after the other. -/
def State.gapScheds : Nat → Ch → State → State
  | 0, _, s => s
  | f + 1, n, s => match s.schedOf n (s.ch[n]).trav.next with
    | some e => if e.kind = .gap then State.gapScheds f n (s.gapDrop n e.line) else s
    | none => s
/-- The schedule that stands for the line next to decide: in RUN, while the unit is not lost (R109), below the line a wipe
stopped at (R207). -/
def State.decisionDue (s : State) (n : Ch) : Option Sched :=
  let k := (s.ch[n]).trav.next
  if s.chSt n = .run ∧ (s.ch[n]).trav.st = .running ∧ !(s.cu[s.chCu n]).ssiLost ∧
      (s.ch[n]).drive.wipeStop.all (fun b => decide (k < b)) then s.schedOf n k else none
/-- LINE_DECISION. Lines are decided in increasing number (R98): a line whose tick came before its predecessor's decision is
decided with it. -/
def State.lineDecision (s : State) (n : Ch) : State :=
  match s.decisionDue n with
  | none => s
  | some e =>
    let tick := max (s.schedTick n e) (s.ch[n]).trav.decAt
    let s1 := (((s.at tick).linkTick n).decideAt n e tick).modTrav n (fun t => { t with decAt := tick })
    ((State.gapScheds (s1.ch[n]).trav.sched.length n s1).gapRebase n).pump n

/-! ### Groups of a running line -/

/-- SPX (R240): of a defined sub-pulse of the line in progress, whether it runs or not. One that has gone ahead of an SNS does not leave
again (R229). -/
def State.spx (s : State) (n : Ch) (j : Nat) : State :=
  match s.liveLine n with
  | some l =>
    if s.linkUp n ∧ 1 ≤ j ∧ j ∈ l.desc.defined ∧ j ∉ l.spxSent then
      (s.modLine n l.no (fun x => { x with spxSent := j :: x.spxSent })).emit (ctlGroup n grpSpx (l.no % 256) j)
    else s
  | none => s
/-- The sub-pulse whose SPX has its trigger where a line's SNS has it: the one after the last in the mask of the sense nozzle's code
(R240, R242). -/
def Line.snsShare (l : Line) (i : Nat) : Nat :=
  match ([3, 2, 1, 0] : List Nat).find? (fun j => bit (l.desc.mask (nth l.codes i)) j) with | some j => j + 1 | none => 0
/-- SNS (R242, R258): the group leaves and the capture opens on a line that runs, with sense on at its boundary. An SPX that shares its
trigger goes first (R229). -/
def State.sns (s : State) (n : Ch) : State :=
  match s.liveLine n with
  | some l =>
    match l.sense with
    | some i =>
      if s.linkUp n ∧ l.runs ∧ l.snsEn ∧ s.canRoute n then
        ((s.spx n (l.snsShare i)).emit (ctlGroup n grpSns (l.no % 256) 0)).senseOpen n l i
      else s
    | none => s
  | none => s

end Sys2Proof.Machine
end

