-- ==== Sys2Proof/Machine/Can.lean ====
section
/-! DEFINITION. The CAN FD port (chapter 14 and R456 to R466): NMT, heartbeat, bus-off, EMCY and event records leaving, PDOs, LSS. -/
namespace Sys2Proof.Machine

/-- The controller can send: firmware runs, the node has an ID (R431) and is not bus-off. -/
def State.canUp (s : State) : Bool :=
  (s.dev.boot = .benchmark || s.dev.boot = .up) && s.can.nodeId ≠ 0 && !s.has Ho.CAN_BUSOFF
def State.canOper (s : State) : Bool := s.canUp && s.can.nmt = .operational

/-! ### NMT (R428, R429) and the heartbeat (R430) -/

/-- An NMT command reaches a node that is past INITIALISATION; PDO run-time state starts anew on entering OPERATIONAL. -/
def State.nmtSet (s : State) (x : Nmt) : State :=
  if !s.canUp ∨ s.can.nmt = .init then s
  else
    let t := s.modCan (fun c => { c with nmt := x })
    (if x = .operational ∧ s.can.nmt ≠ .operational then
      t.modCan (fun c => { c with tpdo := Can.reset.tpdo, rpdoWait := [] })
    else t).tokenCheck
/-- The keys of the communication objects 0x1000 to 0x1FFF. -/
def commKey (k : Nat) : Bool := 0x8010_0000 ≤ k / 32 && k / 32 < 0x8020_0000
/-- Reset Communication (R429): the communication objects are loaded anew, expert access of CAN FD ends, boot-up is sent. -/
def State.resetComm (s : State) : State :=
  let t : State := { s with regs := s.regs.filter (fun x => !commKey x.1) }
  let u := (t.modCan (fun c => { c with tpdo := Can.reset.tpdo, rpdoWait := [], errs := [], nmt := .preOp })).modDev
    (fun d => { d with expCan := false })
  (u.loadParams 0x2000).emit .bootUp
def State.nmtResetComm (s : State) : State := if !s.canUp ∨ s.can.nmt = .init then s else s.resetComm
/-- Reset Node (R429, R510): refused into a Reset Communication while a channel runs. -/
def State.nmtResetNode (s : State) : State :=
  if !s.canUp ∨ s.can.nmt = .init then s
  else if s.anyBusy then s.resetComm.emcyMsg 0xFF70 0xFF 0
  else s.deviceReset 4 .released

/-- CAN FD is enabled (R513 step 7): the consumer times the heartbeats, whether or not the node can send. -/
def State.canTimed (s : State) : Bool := s.dev.boot = .benchmark || s.dev.boot = .up
/-- The consumed node and its time. -/
def State.hbWatched (s : State) : Bool := bits (s.get hbConsumer) 15 0 ≠ 0 && bits (s.get hbConsumer) 23 16 ≠ 0
def State.hbReceived (s : State) : State :=
  if s.has Ho.HB_LOST then ((s.unflag Ho.HB_LOST).condOff 0x8130 0xFF).tokenCheck else s
def State.hbLost (s : State) : State :=
  if s.canTimed ∧ s.hbWatched ∧ !s.has Ho.HB_LOST then (((s.flag Ho.HB_LOST).condOn 0x8130 0xFF).emcyMsg 0x8130 0xFF 0).tokenCheck
  else s
def State.hbSend (s : State) : State :=
  if s.canUp ∧ s.get hbProducer ≠ 0 ∧ s.can.nmt ≠ .init then s.emit (.heartbeat s.can.nmt) else s
/-- Bus-off and its end (R426). What CanErrorCounters counts up to it the spec does not say: a free value till the recovery (log entry 3). -/
def State.busOff (s : State) : State :=
  if s.canUp then (let r := s.freeBits 16; (r.1.put canErrs r.2).flag Ho.CAN_BUSOFF).tokenCheck else s
def State.busRecover (s : State) : State :=
  if s.has Ho.CAN_BUSOFF then ((s.unflag Ho.CAN_BUSOFF).put canErrs 0).emcyMsg 0x8140 0xFF 0 else s

/-! ### PDOs (R457 to R465) -/

/-- The entries of a TPDO and of an RPDO. -/
def State.tEntries (s : State) (p : Nat) : List Nat := (List.range (s.get (Pdo.tCnt p))).map (fun e => s.get (Pdo.tMap p (e + 1)))
def State.rEntries (s : State) (p : Nat) : List Nat := (List.range (s.get (Pdo.rCnt p))).map (fun e => s.get (Pdo.rMap p (e + 1)))
def State.tValid (s : State) (p : Nat) : Bool := !bit (s.get (Pdo.tCob p s.can.nodeId)) 31
def State.rValid (s : State) (p : Nat) : Bool := !bit (s.get (Pdo.rCob p s.can.nodeId)) 31
def State.tType (s : State) (p : Nat) : Nat := s.get (Pdo.tTyp p)
def State.tRun (s : State) (p : Nat) : Tpdo := s.can.tpdo.getD p ⟨none, none, false, 0, none⟩
def State.modTpdo (s : State) (p : Nat) (f : Tpdo → Tpdo) : State :=
  s.modCan (fun c => { c with tpdo := c.tpdo.mapIdx (fun i x => if i = p then f x else x) })
/-- The values of a TPDO, in mapping order. -/
def State.tTake (s : State) (p : Nat) : State × List Byte :=
  (s.tEntries p).foldl (fun (a : State × List Byte) (e : Nat) =>
    match objFind a.1.can.nodeId (e / 65536) (e / 256 % 256) with
    | .row o => let r := a.1.objRead .can (e / 65536) o; (r.1, a.2 ++ r.2)
    | .top k => (a.1, a.2 ++ [BitVec.ofNat 8 k])
    | .bad _ => a) (s, [])
/-- The smallest CAN FD length that holds a number of bytes. -/
def fdLength (n : Nat) : Nat :=
  if n ≤ 8 then n else if n ≤ 24 then 4 * ceilDiv n 4 else if n ≤ 32 then 32 else if n ≤ 48 then 48 else 64
/-- The channels whose FarEndRead a TPDO maps and whose far end can be asked (R256). -/
def State.tFar (s : State) (p : Nat) : List Ch :=
  allCh.filter (fun n => !s.chParked n && s.linkUp n && (s.tEntries p).any (fun e => e / 256 = (0x3050 + 0x100 * n) * 256 + 0x0D))
/-- A TPDO takes its values: those of FarEndRead are asked for first, each by an access of its channel; then `f` goes on (R256, R465). A
TPDO whose accesses run is not asked for again, and leaves when they are over if either asks that it leave. -/
def State.tAsk (s : State) (p : Nat) (w : PdoWait) (f : State → State) : State :=
  match (s.tRun p).wait with
  | some v => if v = .check then s.modTpdo p (fun x => { x with wait := some w }) else s
  | none =>
    if s.tFar p = [] then f s
    else
      (s.tFar p).foldl (fun (t : State) (n : Ch) => t.feStart n (t.get (Lk.ADDR n)) 0 false (.pdo p))
        (s.modTpdo p (fun x => { x with wait := some w }))
/-- A TPDO leaves with the values of this moment, padded with 0. -/
def State.tSendNow (p : Nat) (s : State) : State :=
  let r := s.tTake p
  (r.1.modTpdo p (fun x => { x with last := some r.2, sentAt := some r.1.tb, due := false })).emit
    (.tpdo p (r.2 ++ List.replicate (fdLength r.2.length - r.2.length) 0))
def State.tSend (s : State) (p : Nat) : State := s.tAsk p .send (State.tSendNow p)
/-- The end of a TPDO's inhibit time, and whether it is over. -/
def State.tFree (s : State) (p : Nat) : Nat :=
  match (s.tRun p).sentAt with | some t => t + usTicks (100 * s.get (Pdo.tInh p)) | none => 0
def State.tReady (s : State) (p : Nat) : Bool := decide (s.tFree p ≤ s.tb)
/-- An event-driven TPDO is due: it leaves, or waits for the end of its inhibit time. -/
def State.tDue (s : State) (p : Nat) : State := if s.tReady p then s.tSend p else s.modTpdo p (fun x => { x with due := true })
def State.tEvent (s : State) (p : Nat) : Bool := s.tValid p && decide (0xFE ≤ s.tType p)
def State.tpdoTimer (s : State) (p : Nat) : State :=
  if s.canOper ∧ s.tEvent p ∧ s.get (Pdo.tEvt p) ≠ 0 then s.tDue p else s
/-- The check of every 1 ms: a changed value makes a TPDO due; the first check takes the values to compare with. -/
def State.tCheckNow (p : Nat) (s : State) : State :=
  let r := s.tTake p
  match (s.tRun p).last with
  | none => r.1.modTpdo p (fun x => { x with last := some r.2 })
  | some v => if v ≠ r.2 then (if r.1.tReady p then State.tSendNow p r.1 else r.1.modTpdo p (fun x => { x with due := true })) else r.1
def State.tCheck (s : State) (p : Nat) : State := if !s.tEvent p then s else s.tAsk p .check (State.tCheckNow p)
def State.tpdoCheck (s : State) : State :=
  if s.canOper then [0, 1, 2, 3].foldl (fun (t : State) (p : Nat) => t.tCheck p) s else s
def State.tpdoRemote (s : State) (p : Nat) : State :=
  if s.canOper ∧ s.tValid p ∧ (s.tType p = 0xFC ∨ s.tType p = 0xFD) ∧ s.tReady p then s.tSend p else s
/-- A TPDO of type 0 at a SYNC. -/
def State.tChanged (p : Nat) (s : State) : State :=
  let r := s.tTake p
  if (s.tRun p).last ≠ some r.2 ∧ r.1.tReady p then State.tSendNow p r.1 else r.1
/-- What a TPDO does once its far-end accesses are over. -/
def State.tGo (s : State) (p : Nat) : State :=
  match (s.tRun p).wait with
  | none => s
  | some w =>
    if allCh.any (fun n => ((s.ch[n]).link.fe.toList ++ (s.ch[n]).link.feQ).any (fun a => a.use = .pdo p)) then s
    else
      let t := s.modTpdo p (fun x => { x with wait := none })
      if !t.canOper ∨ !t.tValid p then t
      else match w with
        | .send => State.tSendNow p t
        | .ifChanged => State.tChanged p t
        | .check => State.tCheckNow p t
def State.tpdoGo (s : State) : State := [0, 1, 2, 3].foldl (fun (t : State) (p : Nat) => t.tGo p) s
/-- A synchronous TPDO at a SYNC. -/
def State.tSync (s : State) (p : Nat) : State :=
  let ty := s.tType p
  if !s.tValid p ∨ 240 < ty then s
  else if ty = 0 then s.tAsk p .ifChanged (State.tChanged p)
  else
    let k := (s.tRun p).syncs + 1
    if k < ty then s.modTpdo p (fun x => { x with syncs := k })
    else
      let t := s.modTpdo p (fun x => { x with syncs := 0 })
      if t.tReady p then t.tSend p else t

/-- Bytes an entry of an RPDO takes. -/
def State.rBytes (s : State) (p : Nat) : Nat := (s.rEntries p).foldl (fun (a : Nat) (e : Nat) => a + mapBytes e) 0
/-- One mapped write of an RPDO (R464): the bytes left and the first refused entry go on. -/
def State.rWrite (a : State × List Byte × Option Nat) (e : Nat) : State × List Byte × Option Nat :=
  let k := mapBytes e
  let idx := e / 65536
  if k = 0 ∨ (2 ≤ idx ∧ idx ≤ 7) then (a.1, a.2.1.drop k, a.2.2)
  else
    let r := a.1.objWrite a.1.plainWorld .can none idx (e / 256 % 256) (a.2.1.take k)
    if r.2.all (fun x => x = 0) then (r.1, a.2.1.drop k, a.2.2)
    else (r.1.bump (objFld 0x5010 4 32 0), a.2.1.drop k, some (a.2.2.getD e))
/-- An RPDO is applied. A mapping accepted with expert access stays in force without it (R458). -/
def State.rApply (s : State) (p : Nat) (data : List Byte) : State :=
  let r := (s.rEntries p).foldl State.rWrite (s.setExpert .can true, data, none)
  let t := r.1.setExpert .can s.dev.expCan
  match r.2.2 with
  | some e => t.emcyInfo 0xFF71 0xFF 0 (leBytes 2 (e / 65536) ++ [BitVec.ofNat 8 (e / 256 % 256), 0])
  | none => t
def State.rpdo (s : State) (p : Nat) (data : List Byte) : State :=
  if !s.canOper ∨ !s.rValid p then s
  else if data.length < s.rBytes p then s.emcyMsg 0x8210 0xFF 0
  else if s.get (Pdo.rTyp p) ≤ 240 then s.modCan (fun c => { c with rpdoWait := c.rpdoWait ++ [(p, data)] })
  else s.rApply p data
/-- A CANopen SYNC: the synchronous TPDOs are sampled, then the waiting RPDOs applied. -/
def State.canSync (s : State) : State :=
  if !s.canOper then s
  else
    let t := [0, 1, 2, 3].foldl (fun (t : State) (p : Nat) => t.tSync p) s
    t.can.rpdoWait.foldl (fun (u : State) (x : Nat × List Byte) => u.rApply x.1 x.2) (t.modCan (fun c => { c with rpdoWait := [] }))

/-! ### Messages (R48, R341, R342, R460) -/

/-- The TPDOs that send event records. -/
def State.recTpdos (s : State) : List Nat :=
  [0, 1, 2, 3].filter (fun p => s.tEvent p && (s.tEntries p).any (fun e => e / 256 = 0x203001))
/-- The head of the message queue is a record: it becomes the last record sent and leaves by the TPDOs that map it, once none of
them waits for its inhibit time. Outside OPERATIONAL it is dropped. -/
def State.sendRecord (s : State) (v : Nat) (rest : List Msg) : State :=
  let ps := s.recTpdos
  if !s.canOper then s.modCan (fun c => { c with queue := rest })
  else if ps.all s.tReady then
    ps.foldl (fun (t : State) (p : Nat) => t.tSend p) ((s.modCan (fun c => { c with queue := rest })).put (objFld 0x2030 1 64 0) v)
  else ps.foldl (fun (t : State) (p : Nat) => if t.tReady p then t else t.modTpdo p (fun x => { x with due := true })) s
/-- A message of a channel waits while an earlier line of it can still bring one, which goes ahead: the waveform of that line runs, or
it was decided before its boundary, which is still to come (R48; log entry 74). Every message waits while VDDIO_33, which CAN FD runs
from, is low (R509). -/
def State.msgHeld (s : State) (m : Msg) : Bool :=
  s.dev.ioLow || if h : m.src < 8 then
    let n : Ch := ⟨m.src, h⟩
    (s.lineRuns n).any (fun f => decide (f < m.line)) || (s.ch[n]).trav.early.any (fun e => decide (e.1 < m.line))
  else false
/-- The oldest message that does not wait, and the others. -/
def takeMsg (held : Msg → Bool) : List Msg → Option (Msg × List Msg)
  | [] => none
  | m :: r => if held m then (takeMsg held r).map (fun x => (x.1, m :: x.2)) else some (m, r)
def State.msgNext (s : State) : Option (Msg × List Msg) := takeMsg s.msgHeld s.can.queue
/-- EMCY: the oldest queued message that may leave does. In NMT STOPPED and with bit 31 of CobIdEmcy set it is dropped unsent. -/
def State.emcySend (s : State) : State :=
  match s.msgNext with
  | none => s
  | some (m, rest) =>
    if !s.canUp ∨ s.can.nmt = .init then s
    else match m.record with
      | some v => s.sendRecord v rest
      | none =>
        let t := s.modCan (fun c => { c with queue := rest })
        if s.can.nmt = .stopped ∨ bit (s.get (cobEmcy s.can.nodeId)) 31 then t
        else t.emit (.emcy m.code s.errReg m.src (m.info.map BitVec.toNat))
/-- The inhibit time of a TPDO ends: what is due goes out with values taken then. -/
def State.inhibitEnd (s : State) (p : Nat) : State :=
  if !(s.tRun p).due ∨ !s.canOper ∨ !s.tValid p then s
  else
    let t := s.at (s.tFree p)
    match t.msgNext with
    | some (m, rest) => match m.record with
      | some v => if p ∈ t.recTpdos then (t.modTpdo p (fun x => { x with due := false })).sendRecord v rest else t.tSend p
      | none => t.tSend p
    | none => t.tSend p

/-! ### LSS (R432; the frames by CiA 305) -/

/-- The identity values of 0x1018 (R432). -/
def identity (i : Nat) : Nat := match i with | 0 => 0x06B1 | 1 => 0x0820 | 2 => 0x10001 | _ => 0
def lssFrame (cs v : Nat) : Out := .lss (cs :: (List.range 7).map (fun i => byteOf v i))
def State.lssAnswer (s : State) (cs v : Nat) : State := if s.canUp then s.emit (lssFrame cs v) else s
/-- A fastscan request (CiA 305): bit check 0x80 starts anew; otherwise the part asked for must match in its upper bits, and a
match of a whole part moves on to the next. -/
def State.lssScan (s : State) (id bitCheck sub next : Nat) : State :=
  if !s.canUp then s
  else if bitCheck = 0x80 then (s.modCan (fun c => { c with lssPos := 0 })).lssAnswer 0x4F 0
  else if s.can.lssPos ≠ sub ∨ 31 < bitCheck ∨ identity sub / 2 ^ bitCheck ≠ id / 2 ^ bitCheck then s
  else
    (if bitCheck = 0 then s.modCan (fun c => { c with lssPos := next }) else s).lssAnswer 0x4F 0

end Sys2Proof.Machine
end

