-- ==== Sys2Proof/Machine/Bar.lean ====
section
/-! DEFINITION. What PCI Express does to the block: the event matrix with its routes and sinks (R36 to R41), a BAR0 write as it
arrives (R419), the object-dictionary mailbox (R437 to R441), and requests that wait for a restart (R43). -/
namespace Sys2Proof.Machine

/-! ### The event matrix -/

/-- What sink k does with a pulse (R37): a DMA request, the arm of a disarmed stake (R85), a capture start, the SYNC output, an event interrupt. -/
def State.sinkAct (s : State) (k : Nat) : State :=
  if k < 16 then s.dmaTrigger (Fin.ofNat 16 k)
  else if k < 32 then (if (s.stake[(Fin.ofNat 16 (k - 16) : Stk)]).armed then s else s.stakeArm (Fin.ofNat 16 (k - 16)))
  else if k < 36 then s.captureSink (k - 32)
  else if k = 36 then (if s.has Sh.SYNC_DRV then s.emit .syncPulse else s)
  else s.cause (12 + (k - 37))
/-- A pulse reaches sink k: every sink acts on it at once, and a pulse that finds PENDING set merges (R40). -/
def State.sinkTake (s : State) (k : Nat) : State :=
  if s.has (Ev.PENDING k) then s.bump Ev.MERGE_CNT
  else ((s.flag (Ev.PENDING k)).sinkAct k).unflag (Ev.PENDING k)
/-- The sinks that take pulses. -/
def evSinks : List Nat := List.range 45
/-- A pulse of a source reaches the sinks routed to it. -/
def State.deliver (s : State) (src : Nat) : State :=
  evSinks.foldl (fun (t : State) (k : Nat) => if s.has (Ev.EN k) ∧ s.get (Ev.SOURCE k) = src then t.sinkTake k else t) s
/-- EVENT_PULSE: the oldest pulse under way arrives, 2 CORE_CLK cycles after its source cycle. -/
def State.eventPulse (s : State) : State :=
  match s.inFlight with
  | [] => s
  | (src, due) :: rest => (State.at { s with inFlight := rest } due).deliver src
/-- Pulses that have arrived by the present cycle are delivered by the routes as they are (R41). -/
def State.deliverDue : Nat → State → State
  | 0, s => s
  | f + 1, s => match s.inFlight with
    | (_, due) :: _ => if cycleOf due ≤ cycleOf s.tb then State.deliverDue f s.eventPulse else s
    | [] => s
/-- SYNC_RECEIVED (R89, R74, R336): RX_CNT, source 0x3E, homing in mode 3 completes, and an armed commit is taken in the cycle of
its pulse. -/
def State.syncReceived (s : State) : State :=
  let t := (s.incr Sh.RX_CNT).pulse 0x3E
  (allCu.foldl (fun (u : State) (m : Cun) => if u.homingMode m 3 then u.homeDone m else u) t).commitSync

/-! ### The mailbox -/

/-- A request for the object dictionary while the station processor restarts or has stopped waits (R43). -/
def State.deferIf (s : State) (c : Instr) (f : State → State) : State :=
  if s.spDown then { s with deferred := s.deferred ++ [c] } else f s
def State.reqWrite (s : State) (w : World) (p : Port) (idx sub : Nat) (data : List Byte) : State :=
  s.deferIf (.sdoDownload p idx sub data) (fun t => t.sdoWrite w p idx sub data)
def State.reqRead (s : State) (p : Port) (idx sub : Nat) : State := s.deferIf (.sdoUpload p idx sub) (fun t => t.sdoRead p idx sub)
/-- The answer to a mailbox request whose LEN or scratchpad area is not allowed: the rules of R550 that come before it, then its own. -/
def State.mbBad (s : State) (idx sub len : Nat) (write : Bool) (own : Nat) : Nat :=
  match objFind s.can.nodeId idx sub with
  | .bad a => a
  | .top _ => if write then abRo else own
  | .row o =>
    (firstBad [(o.expert && !s.expertOn .pcie, abNoObj), (write && o.acc = .ro, abRo),
      (write && own = abRange && o.size ≠ 0 && len ≠ o.size, abLen),
      (write && own = abRange && objToken idx sub && !s.holds .pcie, abToken)]).getD own
/-- A write refused for its LEN or its area is a write of OTP where its object is (R476). -/
def State.mbTouch (s : State) (idx sub : Nat) : State :=
  match objFind s.can.nodeId idx sub with | .row _ => s.otpTouch idx sub | _ => s
/-- The data of a CMD 4 request, read from the scratchpad (R411). -/
def State.mbArea (s : State) (ofs len : Nat) : State × List Byte := ((s.spParity ofs len).1, s.spBytes ofs len)
def State.reqData (s : State) (len : Nat) : List Byte :=
  ((List.range 16).flatMap (fun i => leBytes 4 (s.get (Mb.REQ_DATA i)))).take len
/-- A mailbox request as the station processor serves it (R439, R441). -/
def State.mbDo (s : State) (cmd idx sub len ofs : Nat) (data : List Byte) : State :=
  match cmd with
  | 1 => s.sdoRead .pcie idx sub
  | 2 =>
    if len = 0 ∨ 64 < len then (s.mbTouch idx sub).answer .pcie idx sub (s.mbBad idx sub len true abLen)
    else s.sdoWrite s.plainWorld .pcie idx sub data
  | 3 => if ofs % 8 ≠ 0 ∨ spVisible ≤ ofs then s.answer .pcie idx sub (s.mbBad idx sub len false abRange) else s.sdoRead .pcie idx sub
  | 4 =>
    if len = 0 ∨ spVisible < len then (s.mbTouch idx sub).answer .pcie idx sub (s.mbBad idx sub len true abLen)
    else if ofs % 8 ≠ 0 ∨ spVisible < ofs + len then (s.mbTouch idx sub).answer .pcie idx sub (s.mbBad idx sub len true abRange)
    else let r := s.mbArea ofs len; r.1.sdoWrite r.1.plainWorld .pcie idx sub r.2
  | _ => s.answer .pcie idx sub abCmd
/-- A mailbox request as a command, its words copied by GO (R438). -/
def mbInstr (cmd idx sub seq len ofs : Nat) (data : List Byte) : Instr :=
  match cmd with
  | 1 => .mailboxRead idx sub seq
  | 2 => .mailboxWrite idx sub seq len data
  | 3 => .mailboxReadIntoScratchpad idx sub seq ofs
  | 4 => .mailboxWriteFromScratchpad idx sub seq len ofs
  | _ => .mailboxInvalidCmd (BitVec.ofNat 4 cmd) idx sub seq
/-- The service of a request: at once, or once the station processor serves again, in the order of all requests (R43, R438). -/
def State.mbServe (s : State) (idx sub : Nat) : State :=
  let cmd := s.get Mb.CMD
  let len := s.get Mb.LEN
  let ofs := s.get Mb.BUF_OFS
  let data := s.reqData len
  s.deferIf (mbInstr cmd idx sub (s.get Mb.SEQ) len ofs data) (fun t => t.mbDo cmd idx sub len ofs data)
/-- WATCHDOG_RESTART_DONE: what waited is served, in order, unless an error of the ROM stops the processor again (R413). -/
def State.serveDeferred (s : State) (c : Instr) : State :=
  match c with
  | .sdoDownload p idx sub data => s.sdoWrite s.plainWorld p idx sub data
  | .sdoUpload p idx sub => s.sdoRead p idx sub
  | .mailboxRead idx sub _ => s.mbDo 1 idx sub 0 0 []
  | .mailboxWrite idx sub _ len data => s.mbDo 2 idx sub len 0 data
  | .mailboxReadIntoScratchpad idx sub _ ofs => s.mbDo 3 idx sub 0 ofs []
  | .mailboxWriteFromScratchpad idx sub _ len ofs => s.mbDo 4 idx sub len ofs []
  | .mailboxInvalidCmd cmd idx sub _ => s.mbDo cmd.toNat idx sub 0 0 []
  | _ => s
def isMailbox (c : Instr) : Bool :=
  match c with
  | .mailboxRead .. => true | .mailboxWrite .. => true | .mailboxReadIntoScratchpad .. => true | .mailboxWriteFromScratchpad .. => true
  | .mailboxInvalidCmd .. => true
  | _ => false
/-- A mailbox request that a host reset has ended is completed, and its answer is lost (R423). -/
def State.serveLost (s : State) (c : Instr) : State :=
  let t := State.serveDeferred { s with pcie := { s.pcie with mb := none } } c
  State.loseAnswers { t with pcie := { t.pcie with mb := s.pcie.mb } }
/-- The requests that waited, in their order. The mailbox has one request in progress, the last of them; the others lost their answer. -/
def State.serveAll (s : State) : State :=
  s.deferred.zipIdx.foldl (fun (t : State) (x : Instr × Nat) =>
    if isMailbox x.1 && ((s.deferred.drop (x.2 + 1)).any isMailbox || s.pcie.mb.isNone) then t.serveLost x.1 else t.serveDeferred x.1)
    { s with deferred := [] }
def State.restartDone (s : State) (rom : RomView) : State :=
  if s.dev.restarting then
    let t := (s.modDev (fun d => { d with restarting := false })).romSeen rom
    if t.spDown then t else t.serveAll
  else s
/-- DBG (R488, R498, R500): while debug is open the debugger halts the station processor, whose watchdog is then suspended and whose requests
wait, reads and writes the visible scratchpad (the secure part reads 0 and takes nothing), and reaches the slots as the station
processor does. While debug is closed it acts as BYPASS. -/
def State.tapDebug (s0 : State) (op : DbgOp) : State :=
  let s := s0.tapTake .dbg
  if !s.dbgOpen then s
  else match op with
  | .select => s
  | .halt => s.modDev (fun d => { d with dbgHalt := true })
  | .go =>
    let t := s.modDev (fun d => { d with dbgHalt := false })
    if t.spDown then t else t.serveAll
  | .read ofs len =>
    let r := s.spParity ofs (min len (spVisible - ofs))
    r.1.emit (.debug ((List.range len).map (fun i => if ofs + i < spVisible then s.spByte (ofs + i) else 0)))
  | .write ofs bs => s.spApply .plain (spLanes ofs (bs.map some) 0 spVisible)
  | .slotRead n sl w => s.emit (.debug (leBytes 4 (s.slotWord n sl w)))
  | .slotWrite n sl w v => s.slotWrite n sl w v.toNat
/-- GO (R438). -/
def State.mbGo (s : State) : State :=
  if s.has Mb.BUSY then s.flag Ho.MB_OVR
  else
    let idx := s.get Mb.INDEX
    let sub := s.get Mb.SUB
    let r : MbReq := ⟨idx, sub, s.get Mb.SEQ, if s.get Mb.CMD = 3 then some (s.get Mb.BUF_OFS) else none⟩
    let t : State := { s with pcie := { s.pcie with mb := some r } }
    ((t.flag Mb.BUSY).unflag Mb.DONE).mbServe idx sub
/-- A request as a driver makes it: its words, then GO. -/
def State.mbRequest (s : State) (cmd idx sub seq len ofs : Nat) (data : List Byte) : State :=
  if !s.barOpen then s
  else
    let s1 := (((((s.put Mb.INDEX idx).put Mb.SUB sub).put Mb.SEQ seq).put Mb.CMD cmd).put Mb.LEN len).put Mb.BUF_OFS ofs
    ((List.range (ceilDiv (min data.length 64) 4)).foldl (fun (t : State) (i : Nat) =>
      t.put (Mb.REQ_DATA i) (leNat ((data.drop (4 * i)).take 4))) s1).mbGo

/-! ### BAR0 writes (R418, R419) -/

/-- A word written below 0x10_0000. -/
def State.barWord (s : State) (addr data : Nat) : State :=
  if addr = Mb.GO.addr then (if bit data 0 then s.mbGo else s)
  else match blkOf addr with
    | .sink _ => (State.deliverDue s.inFlight.length s).regWrite addr data
    | _ => s.regWrite addr data
/-- The enabled bytes of a dword. -/
def laneBytes (be : BitVec 4) (data : Nat) : List (Option Byte) :=
  (List.range 4).map (fun i => if be.getLsbD i then some (BitVec.ofNat 8 (byteOf data i)) else none)
/-- A table write whose byte enables leave out bytes: whole 32-bit halves stand, and the rest is discarded with WREJ (R168, R170). -/
def State.tableLanes (s : State) (n : Ch) (ofs : Nat) (ls : List (Option Byte)) : State :=
  let r := ofs % 4
  (List.range ((r + ls.length + 3) / 4)).foldl (fun (t : State) (i : Nat) =>
    let lo := 4 * i - r
    let h := (ls.drop lo).take (4 * i + 4 - r - lo)
    if h.all (fun x => x.isSome) then t.tableStore n (ofs + lo) (h.map (fun x => x.getD 0))
    else if h.any (fun x => x.isSome) then t.tableStore n (ofs + lo) [0] else t) s
/-- A write above 0x10_0000, of 1 to 128 bytes within 4 KiB (R419): a per-nozzle table (R168, R170), or the scratchpad and its aliases
(R398, R399); pipeline scratch and addresses no block claims discard it (R314, R418). -/
def State.barMem (s : State) (addr : Nat) (ls : List (Option Byte)) : State :=
  if !s.barOpen then s
  else if addr < 0x580000 ∧ !reqFits addr ls.length then s.completerAbort addr
  else if addr < 0x180000 then
    let n : Ch := Fin.ofNat 8 ((addr - 0x100000) / 0x10000)
    let ofs := (addr - 0x100000) % 0x10000
    if ls.all (fun x => x.isSome) then s.tableStore n ofs (ls.map (fun x => x.getD 0)) else s.tableLanes n ofs ls
  else if 0x200000 ≤ addr ∧ addr < 0x280000 then s.spWrite .plain (addr - 0x200000) ls none
  else if 0x280000 ≤ addr ∧ addr < 0x300000 then s.spWrite .set (addr - 0x280000) ls none
  else if 0x300000 ≤ addr ∧ addr < 0x380000 then s.spWrite .clear (addr - 0x300000) ls none
  else s
/-- A dword written below 0x10_0000: its byte enables must cover it whole (R419). -/
def State.barDword (s : State) (addr : Nat) (be : BitVec 4) (data : Nat) : State :=
  if !s.barOpen then s else if be ≠ 15 then s.flag Ho.HOST_WREJ else s.barWord addr data
/-- A BAR0 write of 4 bytes, or of 8 with its upper dword: below 0x10_0000 naturally aligned, and two writes, the lower address first
(R419). -/
def State.barStore (s : State) (addr : Nat) (be : BitVec 4) (data : Nat) (upper : Option (BitVec 4 × Nat)) : State :=
  if !s.barOpen then s
  else if 0x100000 ≤ addr then
    s.barMem addr (laneBytes be data ++ (match upper with | some u => laneBytes u.1 u.2 | none => []))
  else if addr % (if upper.isSome then 8 else 4) ≠ 0 then s.completerAbort addr
  else match upper with
    | none => s.barDword addr be data
    | some u => (s.barDword addr be data).barDword (addr + 4) u.1 u.2

/-- A BAR0 write of any length: below 0x10_0000 one of 4 or 8 bytes, naturally aligned (R419). -/
def State.barBytes (s : State) (addr : Nat) (bytes : List Byte) : State :=
  if !s.barOpen then s
  else if 0x100000 ≤ addr then s.barMem addr (bytes.map some)
  else if bytes.length = 4 then s.barStore addr 15 (leNat bytes) none
  else if bytes.length = 8 then s.barStore addr 15 (leNat (bytes.take 4)) (some (15, leNat (bytes.drop 4)))
  else s.completerAbort addr

/-! ### BAR0 reads (R314, R398, R410 to R412, R418, R419) -/

/-- What an address above 0x10_0000 reads from. -/
inductive Win where
  | table (n : Ch) (ofs : Nat)
  | pad (ofs : Nat)
  | snap (ofs : Nat)
  | bank (c ofs : Nat)
  | nothing
deriving DecidableEq, Repr
def winOf (a : Nat) : Win :=
  if 0x100000 ≤ a ∧ a < 0x180000 then .table (Fin.ofNat 8 ((a - 0x100000) / 0x10000)) ((a - 0x100000) % 0x10000)
  else if 0x200000 ≤ a ∧ a < 0x270000 then .pad (a - 0x200000)
  else if 0x280000 ≤ a ∧ a < 0x2F0000 then .pad (a - 0x280000)
  else if 0x300000 ≤ a ∧ a < 0x370000 then .pad (a - 0x300000)
  else if 0x538000 ≤ a ∧ a < 0x578000 then .snap (a - 0x538000)
  else if 0x578000 ≤ a ∧ a < 0x580000 then .bank ((a - 0x578000) / 0x2000) ((a - 0x578000) % 0x2000)
  else .nothing
/-- A byte of a 16-bit word. -/
def half16 (v ofs : Nat) : Byte := BitVec.ofNat 8 (v / 256 ^ (ofs % 2))
/-- A byte of a context bank (R314): BL, G and M as 16-bit words in object order, and the curves; the spec says nothing of the rest of it,
which reads as a free value (log entry 67). -/
def State.bankByte (s : State) (ix c o : Nat) : Byte :=
  if o < 6 then half16 (s.get (Ca.BLACK c (o / 2))) o
  else if o < 12 then half16 (s.get (Ca.GAIN c (o / 2 - 3))) o
  else if o < 30 then half16 (s.get (Ca.MATRIX c ((o / 2 - 6) / 3) ((o / 2 - 6) % 3))) o
  else if 0x800 ≤ o then half16 (nth ((s.cam c).curves.getD (o / 0x800 - 1) []) (o % 0x800 / 2)) o
  else BitVec.ofNat 8 (Config.freeNat (s.ctr + ix))
/-- A byte as a BAR0 read returns it: a table's entry in effect (R169; the words of R172 on writes that stand in the queue are taken to
be NozzleEntry's, log entry 77), 0 while its domain is parked (R34, R168); the
visible scratchpad; snapshot and banks while PD_PIX is on; 0 elsewhere. -/
def State.winByte (s : State) (ix a : Nat) : Byte :=
  match winOf a with
  | .table n o => if s.chParked n ∨ 5120 ≤ o / 8 then 0 else BitVec.ofNat 8 (byteOf (s.entry n (o / 8)) (o % 8))
  | .pad o => s.spByte o
  | .snap o => if s.pix.on then (s.pix.snap.buf).getD o 0 else 0
  | .bank c o => if s.pix.on then s.bankByte ix c o else 0
  | .nothing => 0
/-- What a read of so many bytes does to the memory it reaches, and whether its completion is poisoned: `bad` are the places within the
request of bytes whose word is met with an error it cannot correct (R406, R410 to R412). -/
def State.winRead (s : State) (addr len : Nat) (bad : List Nat) : State × Bool :=
  match winOf addr with
  | .table n o => if s.chParked n then (s, false) else (s.sliceTouch (2 + n) o len, !bad.isEmpty)
  | .pad o => (s.spoil ((bad.map (o + ·)).filter (· < spVisible))).spParity o len
  | .snap o => if s.pix.on then
      (bad.foldl (fun (t : State) (i : Nat) => t.parityNote 1 (snapBase + o + i)) (s.sliceTouch 1 (snapBase + o) len), !bad.isEmpty)
    else (s, false)
  | .bank c o => if s.pix.on then
      (bad.foldl (fun (t : State) (i : Nat) => t.bankParity c (some (o + i)))
        { s.sliceTouch 1 (bankBase + 0x2000 * c + o) len with ctr := s.ctr + len }, !bad.isEmpty)
    else (s, false)
  | .nothing => (s, false)
/-- A BAR0 read with the access of port S of its cycle, whose write it returns (R401). -/
def State.barRead (s0 : State) (addr len : Nat) (bad : List Nat) (sp : Option SPort) : State :=
  let s := match sp with | some a => s0.sAccess a | none => s0
  if !s.barOpen then s
  else if addr < 0x100000 then
    if (len = 4 ∨ len = 8) ∧ addr % len = 0 then
      (List.range (len / 4)).foldl (fun (t : State) (i : Nat) => t.wordRead (addr + 4 * i)) s
    else s.completerAbort addr
  else if addr < 0x580000 ∧ !reqFits addr len then s.completerAbort addr
  else
    let r := s.winRead addr len (bad.filter (· < len))
    r.1.emit (.barData addr ((List.range len).map (fun i => s.winByte i (addr + i))) r.2)

/-! ### The rows that name a register word -/

/-- The command word of a row that names a register write. -/
def State.viaReg (s : State) (addr data : Nat) : State := s.barStore addr 15 data none
/-- An object write of a row that names its port, and an object read. -/
def State.portWrite (s : State) (w : World) (p : Port) (idx sub : Nat) (data : List Byte) : State :=
  if s.serves p then s.reqWrite w p idx sub data else s
def State.portRead (s : State) (p : Port) (idx sub : Nat) : State := if s.serves p then s.reqRead p idx sub else s

end Sys2Proof.Machine
end

