-- ==== Sys2Proof/Machine/StartUp.lean ====
section
/-! DEFINITION. From a reset to the benchmark run (R431, R485 to R489, R507 to R514). -/
namespace Sys2Proof.Machine

namespace Hid
/-- The bit rates in effect since the start of the firmware (R10, R425). -/
def RATE_NOM : Fld := ⟨0x9000_0500, 15, 0, .ro, 500⟩
def RATE_DATA : Fld := ⟨0x9000_0504, 15, 0, .ro, 2000⟩
end Hid

/-- RESET_RELEASE (R507, R511, R431): the straps are read. A release with no reset recorded is the power-on one. -/
def State.resetRelease (s : State) (node : Nat) : State :=
  if s.dev.boot = .held then
    let t := (s.modDev (fun d => { d with boot := .released })).modCan (fun c => { c with nodeId := node })
    if t.get Su.RESET_SRC = 0 then t.put Su.RESET_SRC 1 else t
  else s
/-- The datum words (R486). -/
def datumWord0 : Nat := 3072
def datumWord1 : Nat := 3073
/-- The datum block built from OTP (R485, R490, R498) and the token where TOKEN_PCIE puts it (R487). -/
def State.datumBuild (s : State) : State :=
  let lc := s.lcFuses
  let dbg := dbgAtBoot lc
  let tok := bit (s.otpValue datumWord0) 0
  let t : State := { s with datum := { s.datum with
    lc := lc, dbg := dbg, tokenPcie := tok, tamperEn := bit (s.otpValue datumWord0) 5, dbgChal := bit (s.otpValue datumWord1) 0,
    key := s.keyStatus = 3 && lc = 2 && dbg = 0 && !s.datum.wiped } }
  t.modDev (fun d => { d with token := if tok then .pcie else .can })
/-- PLL_LOCK (R32, R513 steps 1 to 3): the boot code goes on; the scratchpad is clear. -/
def State.pllLock (s : State) : State :=
  let t := s.modDev (fun d => { d with pll := true })
  if t.dev.boot = .released then
    let u : State := { t with sp := [], parBad := [] }
    State.datumBuild (u.modDev (fun d => { d with boot := .locked }))
  else t
/-- PLL_LOCK_LOST (R32). -/
def State.pllLost (s : State) : State :=
  let t := s.modDev (fun d => { d with pll := false })
  if s.dev.boot = .benchmark ∨ s.dev.boot = .up then t.enterSafe 5 0x5040 4 else t
/-- The bytes of a flash slot: what an update wrote, else what it held as delivered (log entry 71). -/
def State.slotBytes (s : State) (i : Nat) : List Byte := (s.flash.slots.getD i none).getD (Config.factorySlot i)
/-- A flash slot passes (R489). -/
def State.slotPasses (s : State) (i : Nat) : Bool := s.flash.present && s.imagePasses (s.slotBytes i)
/-- The slot the boot code takes (R489): the boot slot, then the other, then ROM (0), and the version that runs; the spec gives
no version for ROM firmware (log entry 3). -/
def State.bootSlotOf (s : State) : Nat :=
  let ok := fun (i : Nat) => s.slotPasses i
  if ok s.flash.bootSlot then s.flash.bootSlot + 1 else if ok (1 - s.flash.bootSlot) then 2 - s.flash.bootSlot else 0
def State.bootFirmware (s : State) : State :=
  let src := s.bootSlotOf
  let r := s.freeBits 32
  let ver := if src = 0 then r.2 else leNat (((s.slotBytes (src - 1)).drop 12).take 4)
  { r.1 with datum := { r.1.datum with locked := true, bootSrc := src, fwVersion := ver } }
/-- FIRMWARE_START (R513 steps 4 to 8): the datum locks, the parameter store is loaded, CAN FD starts, the benchmark run begins, but not where a supply
fault or a die trip has put the device in SAFE before (log entry 43). -/
def State.firmwareStart (s : State) (v : BootView) : State :=
  if s.dev.boot ≠ .locked then s
  else
    let s1 := ((s.romSeen v.rom).bootFirmware.loadParams 0x10000).epochLoaded
    let s2 := ((s1.put Hid.RATE_NOM (s1.get rateNom)).put Hid.RATE_DATA (s1.get rateData)).modCan (fun c => { c with nmt := .preOp })
    let s3 := if s2.can.nodeId = 0 then s2 else s2.emit .bootUp
    if s3.dev.safe ∨ s3.dev.safeEntry.isSome then (s3.modDev (fun d => { d with boot := .up })).tokenCheck
    else (s3.modDev (fun d => { d with boot := .benchmark })).benchStart v.bench true
/-- RESET_N_LOW and BROWN_OUT (R511): the device is in reset until the next release. Before the first release after the supplies rise,
that release is still to be the last reset. -/
def State.resetNow (s : State) (src : Nat) : State :=
  s.deviceReset (if s.dev.boot = .held ∧ s.get Su.RESET_SRC = 0 then 0 else src) .held

end Sys2Proof.Machine
end

