-- ==== Sys2Proof/Machine/Incidents.lean ====
section
/-! DEFINITION. Events of the outside world that concern more than one block: edges and frames of a chainage unit on their way
to stakes, strips and traverses; failures of the die-to-die links, supplies and pins; resets and power events of PCI Express; a
verdict group entering an apply queue. -/
namespace Sys2Proof.Machine

/-- The internal reset is released: from then on a class S cause puts the device in SAFE (R509, R520; log entry 43). -/
def State.alive (s : State) : Bool := s.dev.boot ≠ .held
/-- A class S cause (R520, R522). -/
def State.classS (s : State) (bitNo code : Nat) : State := if s.alive then s.enterSafe bitNo code 4 else s

/-! ### Edges, frames, marks (R52 to R60, R99, R269) -/

/-- Hits of stakes reach the traverses that wait for them and then the strips. -/
def State.hitsOut (s : State) (hs : List Hit) : State :=
  hs.foldl (fun (t : State) (h : Hit) => t.forCh (fun n u => (u.travHit n h).stripHit n h)) s
/-- The record of an edge or frame that moved the unit in a direction, for the traverses that read it (R103, R108). -/
def State.recordOut (s : State) (n : Cun) (back : Bool) (t ready : Nat) (ssi : Option (Nat × Nat)) (regained : Bool) : State :=
  s.travRecords n { p := (s.cu[n]).pos, back := back, t := t, period := s.period n, ready := ready, ssi := ssi, regained := regained }
/-- The cycle a schedule from an edge at a tick is ready in ends here: FILT + 8 cycles after the transition, the latest that R103
allows (DESIGN CHOICE, log entry 76). -/
def State.edgeReady (s : State) (n : Cun) (t : Nat) : Nat := (cycleOf t + s.get (Cu.FILT n) + 9) * 16
/-- QUAD_TRANSITION: new levels of A and B, stamped at the pin. -/
def State.quadIn (s : State) (n : Cun) (a b : Bool) (tick : Nat) : State :=
  let r := (s.at tick).quadEdge n a b tick
  let t := r.1.hitsOut r.2.1
  match r.2.2 with
  | some back => t.recordOut n back tick (t.edgeReady n tick) none false
  | none => t
/-- SSI_FRAME: an accepted frame stands in for an edge, in the direction of the unit's last motion where it brought none. Its
schedules are ready with the end of the cycle of its position update (DESIGN CHOICE, log entry 76). -/
def State.ssiIn (s : State) (n : Cun) (low : Bool) (raw : Nat) (chk : Bool) (tick : Nat) : State :=
  if s.get (Cu.SRC n) ≠ 1 then s
  else
    let u := s.at tick
    let r := u.ssiFrameEnd n low raw chk
    let t := r.1.hitsOut r.2.hits
    match r.2.back <|> (t.cu[n]).dir with
    | some back =>
      if r.2.counts then t.recordOut n back ((u.cu[n]).ssiAt.getD u.tb) (cycleEnd u.tb) (some (u.tb, 2 * usTicks (s.get (Cu.FRAME_US n)))) r.2.regained
      else t
    | none => t
/-- SSI_FRAME_START (R56): the first falling SCLK edge. -/
def State.ssiStart (s : State) (n : Cun) (tick : Nat) : State :=
  if s.get (Cu.SRC n) ≠ 1 then s
  else ((s.at tick).modCu n (fun c => { c with ssiAt := some tick })).emit (.ssiClock n)
/-- SWITCH_DEBOUNCED (R60). -/
def State.switchIn (s : State) (n : Cun) (sw : Switch) (level : Bool) : State :=
  (s.modCu n (fun c => match sw with
    | .home => { c with swHome := level }
    | .limP => { c with swLimP := level }
    | .limN => { c with swLimN := level })).swFollow s n
/-- STILL_TIMEOUT (R67). -/
def State.stillIn (s : State) (n : Cun) (tick : Nat) : State :=
  if s.cuStill n ∨ tick < (s.cu[n]).lastAcc + (s.get (Cu.STILL_T n) + 1) * usTicks 10 then s else (s.at tick).enterStill n
/-- FIRED_LATE (R81). -/
def State.lateIn (s : State) (i : Stk) : State :=
  let r := s.stakeLateHit i
  r.1.hitsOut r.2

/-! ### Die-to-die links (R21) -/

/-- D2D_PARITY_FAILURE: the rails go down and back up, and in RUN the line in progress is dropped; the third on lines within
1,000 retires the channel (R324). -/
def State.d2dFail (s : State) (n : Ch) : State :=
  if s.chParked n then s
  else
    let s0 := (s.bump (Cc.D2D_CNT n)).railDrop n 0
    if !s.inRun n then s0.emcyMsg 0x5030 n 0
    else
      let k := s.lineInProgress n
      let s1 := (s0.modDrive n (fun d => { d with d2dLines := (k :: d.d2dLines.filter (· ≠ k)).take 1000 })).emcyMsg 0x5030 n k
      if thirdWithin (s.ch[n]).drive.d2dLines k then s1.retire n 7 else s1
/-- The word that failed carried a switch command sent no longer than 1 µs ago: the switch is as if it had not been sent (DESIGN CHOICE,
log entry 59: another word carries no command). -/
def State.supHold (s : State) : State :=
  match s.dev.supCmd with
  | none => s
  | some c =>
    if c.held ∨ c.at0 + usTicks 1 < s.tb then s
    else
      let n : Ch := Fin.ofNat 8 c.ch
      let t := s.modDev (fun d => { d with supCmd := some { c with held := true } })
      if c.close then (t.unflag (Lv.HV_ON n)).modDrive n (fun d => { d with precharging := false }) else t.flag (Lv.HV_ON n)
/-- SUPERVISOR_LINK_FAILURE: a word, or its resend, fails its check; the command is not applied and waits to be sent again. -/
def State.supFail (s : State) : State :=
  let k := s.dev.supFails + 1
  let t := ((s.modDev (fun d => { d with supFails := k, supResend := true })).bump (objFld 0x5010 3 16 0)).supHold
  if 3 ≤ k then (t.modDev (fun d => { d with supFails := 0 })).classS 4 0x5031 else t
/-- The switch command of a resent word is applied. -/
def State.supApply (s : State) : State :=
  match s.dev.supCmd with
  | some c =>
    if c.held then (if c.close then s.prechargeStart (Fin.ofNat 8 c.ch) else s.switchOpen (Fin.ofNat 8 c.ch)) else s
  | none => s
/-- SUPERVISOR_RESEND: the resent word passes and its command is applied; the run of failures is over (log entry 59). -/
def State.supAgain (s : State) : State :=
  if s.dev.supResend then ((s.modDev (fun d => { d with supResend := false, supFails := 0 })).supApply).emit (.supervisor true) else s

/-! ### Rails and reservoirs (R184 to R186, R202) -/

/-- A reservoir is supervised between the end of precharge and the opening of its switch. -/
def State.resIn (s : State) (n : Ch) : State :=
  if !s.has (Lv.HV_ON n) ∨ !s.has (Lv.PRECHG n) then s
  else (if s.chSt n = .off ∧ s.benchOn then s.put (Su.BM_RES n) 4 else s).resFault n
/-- RAMP_STEP_TIMEOUT: the ramp ends where it is, the switch opens, the channel retires with RES_FAULT. -/
def State.rampFail (s : State) (n : Ch) : State :=
  if (s.ch[n]).drive.railsRest ∨ !s.has (Lv.HV_ON n) then s
  else (((s.stopRails n).switchOpen n).unflag (Lv.PRECHG n)).resFault n
/-- RAIL_RECOVERY_DONE: both rails stand at REST, where their ramp brings them. -/
def State.railsBack (s : State) (n : Ch) : State :=
  if s.has (Lv.HV_ON n) ∧ !(s.ch[n]).drive.bleeding then (s.railsDone n).modDrive n (fun d => { d with railsRest := true })
  else s
/-- VHV_OUT_OF_RANGE: at a closed switch the device enters SAFE; in the check before a switch closes, the readmission fails, or the
wake retires the channel (R186). -/
def State.vhvIn (s : State) (n : Ch) : State :=
  if s.has (Lv.HV_ON n) then s.classS 1 0x3210
  else if (s.ch[n]).drive.vhvAt.isSome then (s.modDrive n (fun d => { d with vhvAt := none })).upFail n 4 6
  else s
/-- BALANCER_CHECK: the comparison runs while the VHV switch is closed; in the benchmark run a level that leaves ±10 % in the 5 ms after precharge
fails B5 (R183, R516). -/
def State.balanceIn (s0 : State) (n : Ch) (errs : List Int) : State :=
  let s := s0.switchPass n
  if s.has (Lv.HV_ON n) then
    let t := s.balance n errs
    if t.chSt n = .off ∧ t.benchOn ∧ t.inB5 n ∧ t.has (Lv.PRECHG n) ∧ !t.has (Lv.BAL_OK n) then t.benchFail n 4 6 else t
  else s
/-- OVERCURRENT: in any state of the channel while its rails can be driven, that is while its input switch is closed (R201, R202). -/
def State.overIn (s : State) (n : Ch) (w : Bool) : State := if s.has (Lv.HV_ON n) then s.overcurrent n w else s

/-! ### Verdicts (R171, R285) -/

/-- VERDICT_ENQUEUE: the oldest group enters the apply queue whole, once 4 places are free. -/
def State.verdictPass (s : State) (n : Ch) : State :=
  match (s.ch[n]).health.verdicts with
  | [] => s
  | g :: rest =>
    if s.chParked n ∨ queueDepth < (s.ch[n]).applyQ.length + 4 then s
    else
      (s.modHealth n (fun h => { h with verdicts := rest })).modCh n (fun c => { c with
        applyQ := c.applyQ ++ g.map (fun (w : VWrite) =>
          { body := .closure w.noz w.mask w.val 0 w.why, cls := .line, owed := none, at0 := s.tb }) })

/-! ### Pins, supplies, wipes (R494 to R496, R509, R522) -/

/-- TAMPER: a falling edge that lasted 500 ns; while the pin stays low there is no other. -/
def State.tamperIn (s : State) : State :=
  if s.dev.tamperLow then s
  else
    let t := s.modDev (fun d => { d with tamperLow := true })
    if s.datum.tamperEn then t.wipeGo .tamper else t
def State.tamperHigh (s : State) : State := s.modDev (fun d => { d with tamperLow := false })
def State.glitchIn (s : State) (voltage : Bool) : State := s.wipeGo (if voltage then .voltageGlitch else .clockGlitch)
/-- SUPPLY_FAULT: 0 VDD_PHY, 1 VDDIO_18, 2 VDDIO_33, 3 VDRV. While VDDIO_33 is low, no message leaves over CAN FD (R509). -/
def State.supplyFault (s : State) (which : Nat) : State :=
  if which = 3 then s.classS 2 0x3230
  else if which = 2 ∧ s.alive then (s.classS 3 0x3240).modDev (fun d => { d with ioLow := true })
  else s.classS 3 0x3240
/-- SAFE_CONDITION_CLEAR: the conditions of a supply, bits 1 to 3; the others clear by a die's cooling or by a reset alone. -/
def State.condClear (s : State) (i : Nat) : State :=
  if 1 ≤ i ∧ i ≤ 3 ∧ bit (s.get Su.SAFE_COND) i then
    ((s.put Su.SAFE_COND (withBits (s.get Su.SAFE_COND) i i 0)).modDev (fun d => { d with ioLow := d.ioLow && decide (i ≠ 3) })).condOff (if i = 1 then 0x3210 else if i = 2 then 0x3230 else 0x3240) 0xFF
  else s

/-! ### PCI Express (R386, R420, R423, R435) -/

/-- PCIE_RESET: the link goes down but at a Function Level Reset. -/
def State.pcieResetIn (s : State) (k : HostReset) : State :=
  let t : State := { s with pcie := { s.pcie with perst := s.pcie.perst || decide (k = .perst), linkUp := s.pcie.linkUp && decide (k = .flr) } }
  t.hostReset
def State.perstOff (s : State) : State := { s with pcie := { s.pcie with perst := false } }
/-- PCIE_LINK_UP: the link has trained and the host configures the function, also anew after a Function Level Reset (log entry 66). -/
def State.linkUpIn (s : State) : State :=
  if s.pcie.on ∧ !s.pcie.perst then { s with pcie := { s.pcie with linkUp := true, conf := true } } else s
/-- D3HOT_ENTRY: a DMA channel that was issuing reads stops as by R386 (R420). -/
def State.d3In (s : State) : State :=
  if s.pcie.on ∧ s.pcie.linkUp then { s.dmaTick.dmaHold.put Cs.PM_STATE 3 with pcie := { s.pcie with d3 := true } } else s
def State.d0In (s : State) : State := { s.put Cs.PM_STATE 0 with pcie := { s.pcie with d3 := false } }
/-- A falling edge of PCIE_PERST_N wakes the device from STANDBY (R503). -/
def State.perstWake (s : State) : State :=
  if s.dev.standby then State.wakeGo { s with pcie := { s.pcie with perst := true } } none else s

/-! ### PD_PIX (R315, R412) -/

def State.pixRestore (s : State) : State :=
  if s.pix.on then State.sliceTouch { s with pix := { s.pix with ready := true } } 1 bankBase 0x8000 else s
def State.bankRewrite (s : State) (c : Nat) : State :=
  (s.modCam c (fun x => { x with bankBad := false })).sliceTouch 1 (bankBase + 0x2000 * c) 0x2000

/-! ### The return lane (R230, R247, R248) -/

/-- A training response counts while the link trains and has not answered yet. -/
def State.tsrIn (s : State) (n : Ch) (ver cap : Nat) : State :=
  if (s.linkSt n = .training ∨ s.linkSt n = .retrain) ∧ !(s.ch[n]).link.tsrSeen then s.tsrTake n ver cap else s
def State.ferrIn (s : State) (n : Ch) (code tag : Nat) : State := if s.linkSt n = .down then s else s.ferr n code tag
/-- RETURN_LANE_CODE_VIOLATION: counted; when 8 fall within 1.0 µs is LINK_LOST's to say. -/
def State.codeViolation (s : State) (n : Ch) : State := if s.linkSt n = .down then s else s.bump (Lk.RX_CV_CNT n)

/-! ### Words of the rows that name a register write -/

/-- A word as a driver writes it: its RW fields as they stand, one of them replaced. -/
def State.wordWith (s : State) (f : Fld) (v : Nat) : Nat := s.objWord f.addr f.msb f.lsb v
/-- An object write of one field's size, from the port a row names. -/
def State.viaObj (s : State) (p : Port) (idx sub k v : Nat) : State := s.portWrite s.plainWorld p idx sub (leBytes k v)
/-- A row that has one register word or one object value. -/
def State.viaOne (s : State) (via : Via) (addr word idx sub k v : Nat) : State :=
  match via with
  | .reg => s.viaReg addr word
  | .obj p => s.viaObj p idx sub k v

end Sys2Proof.Machine
end

