-- ==== Sys2Proof/Machine/CmdCamera.lean ====
section
/-! DEFINITION. Camera ports and contexts (chapter 9). -/
namespace Sys2Proof.Machine

/-- A Frame Start (R294, R297); a pulse that reaches its sink in this cycle arms for it (R301). -/
def execFrameStart (p : Cam) (vc : BitVec 2) (ecc : Bool) (bank : Option Nat) (tick : Tick) (s : State) : Host.Outcome State Fault Refusal :=
  let t := State.deliverDue s.inFlight.length (s.at tick)
  .next ((t.headerIn p ecc).frameStart p vc.toNat bank).settle
/-- A long packet (R295, R297, R304). -/
def execLongPacket (p : Cam) (vc : BitVec 2) (dt : BitVec 6) (bytes : List Byte) (ecc crcOk : Bool) (s : State) : Host.Outcome State Fault Refusal :=
  .next ((s.headerIn p ecc).longPacket p vc.toNat dt.toNat bytes crcOk).settle
/-- A Frame End (R299). -/
def execFrameEnd (p : Cam) (vc : BitVec 2) (ecc : Bool) (s : State) : Host.Outcome State Fault Refusal :=
  .next ((s.headerIn p ecc).frameEnd p vc.toNat).settle
/-- FrameTimeout (R299). -/
def execCsiFrameTimeout (c : Ctx) (s : State) : Host.Outcome State Fault Refusal :=
  .next (s.frameTimeout c).settle
/-- ContextEnable 0 (R299). -/
def execContextDisable (c : Ctx) (p : Port) (s : State) : Host.Outcome State Fault Refusal :=
  .next (s.viaObj p (0x4108 + c) 1 1 0).settle
/-- The pipeline takes a line (R305 to R313). -/
def execPipelineLine (par : Option Nat) (s : State) : Host.Outcome State Fault Refusal :=
  .next (s.pipelineLine par).settle
/-- The last line of a closed frame has left the pipeline (R300). -/
def execFrameComplete (c : Ctx) (s : State) : Host.Outcome State Fault Refusal :=
  .next (s.frameComplete c).settle
/-- TriggerWidth has passed (R302). -/
def execTriggerWidthEnd (p : Cam) (tick : Tick) (s : State) : Host.Outcome State Fault Refusal :=
  .next ((s.at tick).trigEnd p).settle
/-- SnapArm (R313). -/
def execSnapArm (v : Byte) (p : Port) (s : State) : Host.Outcome State Fault Refusal :=
  .next (s.viaObj p 0x4120 6 1 v.toNat).settle
/-- An access to CurveData (R311). -/
def execCurveDataAccess (c : Ctx) (write : Option (BitVec 16)) (p : Port) (s : State) : Host.Outcome State Fault Refusal :=
  .next (match write with
    | some v => s.viaObj p (0x4118 + c) 3 2 v.toNat
    | none => s.portRead p (0x4118 + c) 3).settle
/-- The station processor has written the object values back (R315). -/
def execPixRestore (s : State) : Host.Outcome State Fault Refusal :=
  .next (s.pixRestore).settle
/-- A Packet Header that cannot be corrected (R294). -/
def execUncorrectablePacketHeader (p : Cam) (s : State) : Host.Outcome State Fault Refusal :=
  .next (s.badHeader p).settle
/-- The station processor rewrites a context bank (R412). -/
def execContextBankRewrite (c : Ctx) (s : State) : Host.Outcome State Fault Refusal :=
  .next (s.bankRewrite c).settle

end Sys2Proof.Machine
end

