-- ==== Sys2Proof/Machine/CmdChainage.lean ====
section
/-! DEFINITION. Chainage units, stakes and SYNC (chapter 2). -/
namespace Sys2Proof.Machine

/-- An accepted transition of A or B (R52 to R55, R78, R103). -/
def execQuadTransition (n : Cun) (a b : Bool) (tick : Tick) (s : State) : Host.Outcome State Fault Refusal :=
  .next (s.quadIn n a b tick).settle
/-- An accepted rising edge of Z (R74, R76). -/
def execIndexMark (n : Cun) (tick : Tick) (s : State) : Host.Outcome State Fault Refusal :=
  .next ((s.at tick).zEdge n).settle
/-- The first falling SCLK edge of a frame (R56). -/
def execSsiFrameStart (n : Cun) (tick : Tick) (s : State) : Host.Outcome State Fault Refusal :=
  .next (s.ssiStart n tick).settle
/-- The end of a frame (R57, R58, R108, R109). -/
def execSsiFrame (n : Cun) (low : Bool) (raw : Nat) (chk : Bool) (tick : Tick) (s : State) : Host.Outcome State Fault Refusal :=
  .next (s.ssiIn n low raw chk tick).settle
/-- A switch level stable for the debounce time (R60, R74). -/
def execSwitchDebounced (n : Cun) (sw : Switch) (level : Bool) (s : State) : Host.Outcome State Fault Refusal :=
  .next (s.switchIn n sw level).settle
/-- The end of a speed window (R65, R68 to R70). -/
def execSpeedWindowEnd (n : Cun) (s : State) : Host.Outcome State Fault Refusal :=
  .next (s.windowEnd n).settle
/-- No edge for the STILL time (R67). -/
def execStillTimeout (n : Cun) (tick : Tick) (s : State) : Host.Outcome State Fault Refusal :=
  .next (s.stillIn n tick).settle
/-- A write of SRC and INV_DIR (R64): one register word, or the objects Source and, where it differs, InvertDirection. -/
def execCuSourceWrite (n : Cun) (src : BitVec 2) (inv : Bool) (via : Via) (s : State) : Host.Outcome State Fault Refusal :=
  .next (match via with
    | .reg => s.viaReg (Cu.SRC n).addr (withBits (s.wordWith (Cu.SRC n) src.toNat) (Cu.INV_DIR n).msb (Cu.INV_DIR n).lsb (inv.toNat))
    | .obj p =>
      let t := s.viaObj p (0x2100 + n) 1 1 src.toNat
      if t.has (Cu.INV_DIR n) = inv then t else t.viaObj p (0x2100 + n) 2 1 inv.toNat).settle
/-- HOME_GO (R74). -/
def execHomeGo (n : Cun) (via : Via) (s : State) : Host.Outcome State Fault Refusal :=
  .next (s.viaOne via (Cu.HOME_GO n).addr 1 (0x2100 + n) 0x0A 1 1).settle
/-- PRESET (R74, R84). -/
def execPreset (n : Cun) (via : Via) (s : State) : Host.Outcome State Fault Refusal :=
  .next (s.viaOne via (Cu.PRESET n).addr 2 (0x2100 + n) 0x0A 1 2).settle
/-- HOME_CANCEL (R74). -/
def execHomeCancel (n : Cun) (via : Via) (s : State) : Host.Outcome State Fault Refusal :=
  .next (s.viaOne via (Cu.HOME_CANCEL n).addr 4 (0x2100 + n) 0x0A 1 3).settle
/-- A target (R79, R82): TGT_LO, then TGT_HI which commits it; or the object Target. -/
def execStakeTargetWrite (i : Stk) (tgt : Pos) (via : Via) (s : State) : Host.Outcome State Fault Refusal :=
  .next (match via with
    | .reg => (s.viaReg (St.TGT_LO i).addr (tgt.toNat % 2 ^ 32)).viaReg (St.TGT_HI i).addr (tgt.toNat / 2 ^ 32)
    | .obj p => s.viaObj p (0x2200 + i) 3 6 tgt.toNat).settle
/-- ARM (R79, R80). -/
def execArm (i : Stk) (via : Via) (s : State) : Host.Outcome State Fault Refusal :=
  .next (s.viaOne via (St.ARM i).addr 1 (0x2200 + i) 5 1 1).settle
/-- DISARM (R79). -/
def execDisarm (i : Stk) (via : Via) (s : State) : Host.Outcome State Fault Refusal :=
  .next (s.viaOne via (St.DISARM i).addr 2 (0x2200 + i) 5 1 0).settle
/-- The unit and direction of a stake (R83): one register word, or, where it differs, the object Direction and then Unit. -/
def execStakeConfigWrite (i : Stk) (cu : Cun) (dir : BitVec 2) (via : Via) (s : State) : Host.Outcome State Fault Refusal :=
  .next (match via with
    | .reg => s.viaReg (St.CU i).addr (withBits (s.wordWith (St.CU i) cu) (St.DIR i).msb (St.DIR i).lsb dir.toNat)
    | .obj p =>
      let t := if s.get (St.DIR i) = dir.toNat then s else s.viaObj p (0x2200 + i) 2 1 dir.toNat
      t.viaObj p (0x2200 + i) 1 1 cu).settle
/-- The hit of a stake armed behind the position, in the next cycle (R81). -/
def execFiredLate (i : Stk) (s : State) : Host.Outcome State Fault Refusal :=
  .next (s.lateIn i).settle
/-- A SYNC pulse received (R89, R74, R336). -/
def execSyncReceived (tick : Tick) (s : State) : Host.Outcome State Fault Refusal :=
  .next ((s.at tick).syncReceived).settle

end Sys2Proof.Machine
end

