-- ==== Sys2Proof/Machine/CmdClock.lean ====
section
/-! DEFINITION. The structure of the device (chapter 1): die-to-die links, root PLL, watchdog, event matrix, the pipeline of a line. -/
namespace Sys2Proof.Machine

/-- A channel link word fails its parity check (R21). -/
def execD2dParityFailure (n : Ch) (tick : Tick) (s : State) : Host.Outcome State Fault Refusal :=
  .next ((s.at tick).d2dFail n).settle
/-- A supervisor link word fails its parity check (R21). -/
def execSupervisorLinkFailure (tick : Tick) (s : State) : Host.Outcome State Fault Refusal :=
  .next ((s.at tick).supFail).settle
/-- The supervisor command is sent again (R21). -/
def execSupervisorResend (s : State) : Host.Outcome State Fault Refusal :=
  .next (s.supAgain).settle
/-- The root PLL loses lock (R32). -/
def execPllLockLost (s : State) : Host.Outcome State Fault Refusal :=
  .next (s.pllLost).settle
/-- The root PLL locks (R32, R513). -/
def execPllLock (s : State) : Host.Outcome State Fault Refusal :=
  .next (s.pllLock).settle
/-- The watchdog expires (R43). -/
def execWatchdogExpiry (tick : Tick) (rom : RomView) (s : State) : Host.Outcome State Fault Refusal :=
  .next (if s.canTimed then (s.at tick).wdExpire rom else s).settle
/-- The station processor has restarted (R43). -/
def execWatchdogRestartDone (rom : RomView) (s : State) : Host.Outcome State Fault Refusal :=
  .next (s.restartDone rom).settle
/-- A write of an EVM_SINK word; a pulse of the same cycle goes by the old route (R41). -/
def execEvmSinkWrite (k : Fin 64) (data : Word) (s : State) : Host.Outcome State Fault Refusal :=
  .next (s.viaReg (Ev.EN k).addr data.toNat).settle
/-- A write of SWPULSE (R39). -/
def execSwPulse (bits : BitVec 8) (s : State) : Host.Outcome State Fault Refusal :=
  .next (s.viaReg Ev.SWPULSE.addr bits.toNat).settle
/-- The oldest pulse under way reaches its sinks (R40). -/
def execEventPulse (s : State) : Host.Outcome State Fault Refusal :=
  .next (s.eventPulse).settle
/-- The edit stage begins the next line (R25). -/
def execLineBoundary (n : Ch) (tick : Tick) (errs : List MemErr) (s : State) : Host.Outcome State Fault Refusal :=
  .next ((s.at tick).lineBoundary n errs).settle
/-- The edit stage has encoded its line (R141). -/
def execLineEncoded (n : Ch) (s : State) : Host.Outcome State Fault Refusal :=
  .next (s.lineEncoded n).settle

end Sys2Proof.Machine
end

