-- ==== Sys2Proof/Machine/CmdDevice.lean ====
section
/-! DEFINITION. OTP, protection, power states and start-up (chapters 16 to 18). -/
namespace Sys2Proof.Machine

/-- OtpWord (R469 to R475), with how the fuses come out. -/
def execOtpWordWrite (v : Word) (p : Port) (runs : List FuseRun) (s : State) : Host.Outcome State Fault Refusal :=
  .next (s.portWrite { s.plainWorld with runs := runs } p 0x4C00 2 (leBytes 4 v.toNat)).settle
/-- OtpMarginCheck (R474). -/
def execOtpMarginCheck (p : Port) (s : State) : Host.Outcome State Fault Refusal :=
  .next (s.viaObj p 0x4C00 8 1 1).settle
/-- OtpLockArm (R476). -/
def execOtpLockArm (count : BitVec 16) (p : Port) (s : State) : Host.Outcome State Fault Refusal :=
  .next (s.viaObj p 0x4C00 6 2 count.toNat).settle
/-- 60 s after the arm (R476). -/
def execOtpLockArmExpiry (s : State) : Host.Outcome State Fault Refusal :=
  .next (s.otpDisarm).settle
/-- OtpLockBlow 1 (R477). -/
def execOtpWriteLockBlow (p : Port) (run : FuseRun) (s : State) : Host.Outcome State Fault Refusal :=
  .next (s.portWrite { s.plainWorld with runs := [run] } p 0x4C00 7 [1]).settle
/-- OtpLockBlow 2 (R477). -/
def execOtpReadLockBlow (p : Port) (run : FuseRun) (s : State) : Host.Outcome State Fault Refusal :=
  .next (s.portWrite { s.plainWorld with runs := [run] } p 0x4C00 7 [2]).settle
/-- LifeCycleAdvance (R482, R483). -/
def execLifeCycleAdvance (code : Word) (p : Port) (runs : List FuseRun) (s : State) : Host.Outcome State Fault Refusal :=
  .next (s.portWrite { s.plainWorld with runs := runs } p 0x4E00 2 (leBytes 4 code.toNat)).settle
/-- A read of DebugChallenge (R499). -/
def execDebugChallenge (p : Port) (s : State) : Host.Outcome State Fault Refusal :=
  .next (s.portRead p 0x4E00 4).settle
/-- DebugResponse (R499, R500). -/
def execDebugResponse (sig : List Byte) (p : Port) (s : State) : Host.Outcome State Fault Refusal :=
  .next (s.portWrite s.plainWorld p 0x4E00 5 sig).settle
/-- 60 s after the read (R499). -/
def execDebugChallengeExpiry (s : State) : Host.Outcome State Fault Refusal :=
  .next (s.challengeExpire).settle
/-- BYPASS (R497). -/
def execTapBypass (s : State) : Host.Outcome State Fault Refusal :=
  .next (s.tapTake .bypass).settle
/-- IDCODE (R497). -/
def execTapIdcode (s : State) : Host.Outcome State Fault Refusal :=
  .next ((s.tapTake .idcode).emit (.tdo 0x1082096B)).settle
/-- SAMPLE/PRELOAD (R497). -/
def execTapSamplePreload (cells : Nat) (s : State) : Host.Outcome State Fault Refusal :=
  .next (s.tapSample cells).settle
/-- EXTEST (R497). -/
def execTapExtest (s : State) : Host.Outcome State Fault Refusal :=
  .next (s.tapPins .extest).settle
/-- CLAMP (R497). -/
def execTapClamp (s : State) : Host.Outcome State Fault Refusal :=
  .next (s.tapPins .clamp).settle
/-- HIGHZ (R497). -/
def execTapHighz (s : State) : Host.Outcome State Fault Refusal :=
  .next (s.tapPins .highz).settle
/-- DBG, and what the debugger does by it (R488, R498, R500). -/
def execTapDbg (op : DbgOp) (s : State) : Host.Outcome State Fault Refusal :=
  .next (s.tapDebug op).settle
/-- PowerStateRequest 2 (R502). -/
def execStandbyRequest (p : Port) (s : State) : Host.Outcome State Fault Refusal :=
  .next (s.viaObj p 0x2000 3 1 2).settle
/-- 1 ms after the answer PD_HOST parks (R502). -/
def execHostPark (s : State) : Host.Outcome State Fault Refusal :=
  .next (s.hostPark).settle
/-- PowerStateRequest 1, or an edge of PCIE_PERST_N (R503). -/
def execWake (p : Option Port) (s : State) : Host.Outcome State Fault Refusal :=
  .next (match p with
    | some q => s.viaObj q 0x2000 3 1 1
    | none => s.perstWake).settle
/-- No channel remains OFF (R503). -/
def execWakeDone (s : State) : Host.Outcome State Fault Refusal :=
  .next (s.wakeDone).settle
/-- The internal reset releases (R507, R431). -/
def execResetRelease (nodeId : BitVec 7) (s : State) : Host.Outcome State Fault Refusal :=
  .next (s.resetRelease nodeId.toNat).settle
/-- RESET_N low for 1 µs (R511, R512). -/
def execResetNLow (s : State) : Host.Outcome State Fault Refusal :=
  .next (s.resetNow 2).settle
/-- VDD_CORE or VDD_SRAM below its limit for 2 µs (R509, R511). -/
def execBrownOut (s : State) : Host.Outcome State Fault Refusal :=
  .next (s.resetNow 3).settle
/-- VDD_PHY, VDDIO_18, VDDIO_33 or VDRV outside its limit for 10 µs (R509, R522). -/
def execSupplyFault (which : Fin 4) (s : State) : Host.Outcome State Fault Refusal :=
  .next (s.supplyFault which).settle
/-- The supervisor finds its link silent (R510). -/
def execSupervisorLinkSilent (s : State) : Host.Outcome State Fault Refusal :=
  .next (s.supervisorSilent).settle
/-- The firmware starts (R489, R513 to R517). -/
def execFirmwareStart (view : BootView) (s : State) : Host.Outcome State Fault Refusal :=
  .next (s.firmwareStart view).settle
/-- The benchmark run ends (R516, R519, R523). -/
def execBenchmarkRunEnd (s : State) : Host.Outcome State Fault Refusal :=
  .next (s.benchEnd).settle
/-- A supply has lain in its window for 100 ms (R522). -/
def execSafeConditionClear (i : Fin 9) (s : State) : Host.Outcome State Fault Refusal :=
  .next (s.condClear i).settle
/-- SafeExit (R523), with what the run's tests find. -/
def execSafeExit (bench : BenchView) (via : Via) (s : State) : Host.Outcome State Fault Refusal :=
  .next (match via with
    | .reg =>
      if s.barOpen ∧ s.holds .pcie ∧ s.safeExitRefused = none then s.safeExitGo bench none else s.viaReg Su.SAFE_EXIT.addr 1
    | .obj p => s.portWrite ⟨[], bench⟩ p 0x2000 8 [1]).settle

end Sys2Proof.Machine
end

