-- ==== Sys2Proof/Machine/CmdDma.lean ====
section
/-! DEFINITION. The DMA engine and the memories (chapters 12 and 13). -/
namespace Sys2Proof.Machine

/-- SHADOW_ARM (R376). -/
def execShadowArm (d : Dch) (s : State) : Host.Outcome State Fault Refusal :=
  .next (s.viaReg (Dm.EN d).addr (withBits (s.wordWith (Dm.EN d) (s.get (Dm.EN d))) 8 8 1)).settle
/-- An armed shadow becomes the active set (R377). -/
def execHandover (d : Dch) (s : State) : Host.Outcome State Fault Refusal :=
  .next (s.dmaTick.handover d).settle
/-- The engine grants a channel (R373, R379, R385). -/
def execGrant (s : State) : Host.Outcome State Fault Refusal :=
  .next (s.grant).settle
/-- A burst of a read returns (R374, R384), with the access of port S in the cycle of one of its words (R401). -/
def execDmaReadCompletion (d : Dch) (data : List Byte) (sp : Option SPort) (s : State) : Host.Outcome State Fault Refusal :=
  .next (s.dmaCompletion d data sp).settle
/-- A read returns UR, CA or poisoned data (R388). -/
def execDmaReadError (d : Dch) (s : State) : Host.Outcome State Fault Refusal :=
  .next (s.dmaReadFail d).settle
/-- A read exceeds the completion timeout (R388, R417). -/
def execDmaReadTimeout (d : Dch) (s : State) : Host.Outcome State Fault Refusal :=
  .next (s.dmaTimeout d).settle
/-- The read-back of the last word returns (R392). -/
def execTransferDone (d : Dch) (s : State) : Host.Outcome State Fault Refusal :=
  .next (s.dmaTick.transferDone d).settle
/-- A list entry returns (R381, R382). -/
def execListEntryFetch (d : Dch) (res : FetchRes) (s : State) : Host.Outcome State Fault Refusal :=
  .next (s.listFetch d res).settle
/-- PAUSE = 1 (R386). -/
def execPause (d : Dch) (via : Via) (s : State) : Host.Outcome State Fault Refusal :=
  .next (s.viaOne via (Dm.PAUSE d).addr (s.wordWith (Dm.PAUSE d) 1) (0x4800 + d) 2 1 1).settle
/-- PAUSE = 0 (R386). -/
def execResume (d : Dch) (via : Via) (s : State) : Host.Outcome State Fault Refusal :=
  .next (s.viaOne via (Dm.PAUSE d).addr (s.wordWith (Dm.PAUSE d) 0) (0x4800 + d) 2 1 0).settle
/-- EN = 0 (R387). -/
def execWithdraw (d : Dch) (via : Via) (s : State) : Host.Outcome State Fault Refusal :=
  .next (s.viaOne via (Dm.EN d).addr (s.wordWith (Dm.EN d) 0) (0x4800 + d) 1 1 0).settle
/-- EN = 1 (R551). -/
def execDmaEnable (d : Dch) (via : Via) (s : State) : Host.Outcome State Fault Refusal :=
  .next (s.viaOne via (Dm.EN d).addr (s.wordWith (Dm.EN d) 1) (0x4800 + d) 1 1 1).settle
/-- WR_CNT (R380). -/
def execWrCntWrite (d : Dch) (v : Word) (s : State) : Host.Outcome State Fault Refusal :=
  .next (s.viaReg (Dm.WR_CNT d).addr v.toNat).settle
/-- RD_CNT (R390). -/
def execRdCntWrite (d : Dch) (v : Word) (s : State) : Host.Outcome State Fault Refusal :=
  .next (s.viaReg (Dm.RD_CNT d).addr v.toNat).settle
/-- A plain write of the scratchpad, with the access of the other port in its cycle (R398, R401, R402). -/
def execScratchpadWrite (ofs : Nat) (lanes : List (Option Byte)) (sp : Option SPort) (s : State) : Host.Outcome State Fault Refusal :=
  .next (s.spWrite .plain ofs lanes sp).settle
/-- A write through the set alias (R399). -/
def execSetAliasWrite (ofs : Nat) (lanes : List (Option Byte)) (sp : Option SPort) (s : State) : Host.Outcome State Fault Refusal :=
  .next (s.spWrite .set ofs lanes sp).settle
/-- A write through the clear alias (R399). -/
def execClearAliasWrite (ofs : Nat) (lanes : List (Option Byte)) (sp : Option SPort) (s : State) : Host.Outcome State Fault Refusal :=
  .next (s.spWrite .clear ofs lanes sp).settle
/-- A wipe (R404, R496). -/
def execWipe (why : WipeWhy) (s : State) : Host.Outcome State Fault Refusal :=
  .next (s.wipeGo why).settle
/-- The clear of the secure part ends (R404). -/
def execWipeDone (s : State) : Host.Outcome State Fault Refusal :=
  .next (s.wipeEnd).settle
/-- The background test begins its next slice (R405). -/
def execBistSlice (single bad : List Nat) (s : State) : Host.Outcome State Fault Refusal :=
  .next (s.bistStart single bad).settle
/-- A slice test ends (R407). -/
def execBistSliceDone (failAt : Option Nat) (s : State) : Host.Outcome State Fault Refusal :=
  .next (s.bistDone failAt).settle

end Sys2Proof.Machine
end

