-- ==== Sys2Proof/Machine/CmdHealth.lean ====
section
/-! DEFINITION. Nozzle health and closure (chapter 8). -/
namespace Sys2Proof.Machine

/-- A sense capture ends (R260 to R267). -/
def execCaptureEnd (n : Ch) (samples : List Int) (s : State) : Host.Outcome State Fault Refusal :=
  .next (s.captureEnd n samples).settle
/-- A capture result enters the sense result queue (R262). -/
def execSenseResult (n : Ch) (s : State) : Host.Outcome State Fault Refusal :=
  .next (s.senseResult n).settle
/-- The closure engine takes an observation (R279 to R284); decisions pause while the station processor restarts (R43). -/
def execClosureObservation (n : Ch) (s : State) : Host.Outcome State Fault Refusal :=
  .next (if s.spDown then s else s.closureObservation n).settle
/-- A verdict group enters the apply queue (R285). -/
def execVerdictEnqueue (n : Ch) (s : State) : Host.Outcome State Fault Refusal :=
  .next (s.verdictPass n).settle
/-- LEARN (R267). -/
def execLearn (n : Ch) (rows : BitVec 8) (via : Via) (s : State) : Host.Outcome State Fault Refusal :=
  .next (s.viaOne via (Nh.LEARN n).addr (s.wordWith (Nh.LEARN n) rows.toNat) (0x3061 + 0x100 * n) 5 1 rows.toNat).settle
/-- An access to SIG_DATA or SignatureData (R268). -/
def execSignatureAccess (n : Ch) (write : Option (BitVec 16)) (via : Via) (s : State) : Host.Outcome State Fault Refusal :=
  .next (match via, write with
    | .reg, some v => s.viaReg (Nh.SIG_DATA n).addr v.toNat
    | .reg, none => s.barRead (Nh.SIG_DATA n).addr 4 [] none
    | .obj p, some v => s.viaObj p (0x3061 + 0x100 * n) 3 2 v.toNat
    | .obj p, none => s.portRead p (0x3061 + 0x100 * n) 3).settle
/-- STRIP_EN (R270, R273). -/
def execStripEnWrite (n : Ch) (en : Bool) (via : Via) (s : State) : Host.Outcome State Fault Refusal :=
  .next (s.viaOne via (Nh.STRIP_EN n).addr (s.wordWith (Nh.STRIP_EN n) en.toNat) (0x3060 + 0x100 * n) 0x11 1 en.toNat).settle
/-- The closure engine analyses a strip (R274 to R278, R288). -/
def execStripAnalysis (n : Ch) (par : Option Nat) (s : State) : Host.Outcome State Fault Refusal :=
  .next (s.stripAnalysis n par).settle

end Sys2Proof.Machine
end

