-- ==== Sys2Proof/Machine/CmdHost.lean ====
section
/-! DEFINITION. PCI Express, the token and CAN FD (chapters 14 and 15). -/
namespace Sys2Proof.Machine

/-- A falling edge of TAMPER_N (R494). -/
def execTamper (s : State) : Host.Outcome State Fault Refusal :=
  .next (s.tamperIn).settle
/-- TAMPER_N is high again (R494). -/
def execTamperNHigh (s : State) : Host.Outcome State Fault Refusal :=
  .next (s.tamperHigh).settle
/-- A glitch detector (R495). -/
def execGlitch (voltage : Bool) (s : State) : Host.Outcome State Fault Refusal :=
  .next (s.glitchIn voltage).settle
/-- A reset that reaches PD_HOST (R423, R391, R435). -/
def execPcieReset (kind : HostReset) (s : State) : Host.Outcome State Fault Refusal :=
  .next (s.pcieResetIn kind).settle
/-- Release of PCIE_PERST_N (R423, R514). -/
def execPerstRelease (s : State) : Host.Outcome State Fault Refusal :=
  .next (s.perstOff).settle
/-- The link comes up (R423). -/
def execPcieLinkUp (s : State) : Host.Outcome State Fault Refusal :=
  .next (s.linkUpIn).settle
/-- Entry to D3hot (R420). -/
def execD3hotEntry (s : State) : Host.Outcome State Fault Refusal :=
  .next (s.d3In).settle
/-- Return to D0 (R420). -/
def execReturnToD0 (s : State) : Host.Outcome State Fault Refusal :=
  .next (s.d0In).settle
/-- A vector is unmasked (R421). -/
def execMsixUnmask (v : Fin 32) (s : State) : Host.Outcome State Fault Refusal :=
  .next (s.viaReg (Mx.MASK v).addr 0).settle
/-- The token is passed (R434, R435). -/
def execTokenPass (dst : Port) (via : Via) (s : State) : Host.Outcome State Fault Refusal :=
  .next (s.viaOne via Ho.TOKEN_CTL.addr (if dst = .can then 1 else 2) 0x2000 5 1 (if dst = .can then 1 else 2)).settle
/-- ExpertAccess (R442). -/
def execExpertAccess (v : BitVec 16) (p : Port) (s : State) : Host.Outcome State Fault Refusal :=
  .next (s.viaObj p 0x2000 2 2 v.toNat).settle
/-- Bus-off (R426). -/
def execBusOff (s : State) : Host.Outcome State Fault Refusal :=
  .next (s.busOff).settle
/-- Recovery from bus-off (R426). -/
def execBusOffRecovery (s : State) : Host.Outcome State Fault Refusal :=
  .next (s.busRecover).settle
/-- NMT Start (R428). -/
def execNmtStart (s : State) : Host.Outcome State Fault Refusal :=
  .next (s.nmtSet .operational).settle
/-- NMT Stop (R428). -/
def execNmtStop (s : State) : Host.Outcome State Fault Refusal :=
  .next (s.nmtSet .stopped).settle
/-- NMT Enter Pre-Operational (R428). -/
def execNmtEnterPreOperational (s : State) : Host.Outcome State Fault Refusal :=
  .next (s.nmtSet .preOp).settle
/-- NMT Reset Communication (R429). -/
def execNmtResetCommunication (s : State) : Host.Outcome State Fault Refusal :=
  .next (s.nmtResetComm).settle
/-- NMT Reset Node (R429, R511). -/
def execNmtResetNode (s : State) : Host.Outcome State Fault Refusal :=
  .next (s.nmtResetNode).settle
/-- A consumed heartbeat (R430). -/
def execHeartbeatReceived (s : State) : Host.Outcome State Fault Refusal :=
  .next (s.hbReceived).settle
/-- A consumed heartbeat is missing (R430). -/
def execHeartbeatLost (s : State) : Host.Outcome State Fault Refusal :=
  .next (s.hbLost).settle
/-- The heartbeat producer (R427). -/
def execHeartbeatSend (s : State) : Host.Outcome State Fault Refusal :=
  .next (s.hbSend).settle
/-- A CANopen SYNC (R464, R465). -/
def execCanSync (s : State) : Host.Outcome State Fault Refusal :=
  .next (s.canSync).settle
/-- An RPDO (R464). -/
def execRpdo (p : Fin 4) (data : List Byte) (s : State) : Host.Outcome State Fault Refusal :=
  .next (s.rpdo p data).settle
/-- The event timer of a TPDO (R465). -/
def execTpdoEventTimer (p : Fin 4) (s : State) : Host.Outcome State Fault Refusal :=
  .next (s.tpdoTimer p).settle
/-- The 1 ms check of mapped values (R465). -/
def execTpdoChangeCheck (s : State) : Host.Outcome State Fault Refusal :=
  .next (s.tpdoCheck).settle
/-- The inhibit time of a TPDO ends (R465). -/
def execTpdoInhibitEnd (p : Fin 4) (s : State) : Host.Outcome State Fault Refusal :=
  .next (s.inhibitEnd p).settle
/-- A remote request for a TPDO (R465). -/
def execTpdoRemoteRequest (p : Fin 4) (s : State) : Host.Outcome State Fault Refusal :=
  .next (s.tpdoRemote p).settle
/-- LSS identity inquiry (R432). -/
def execLssIdentityInquiry (what : Fin 4) (s : State) : Host.Outcome State Fault Refusal :=
  .next (s.lssAnswer (0x5A + what) (identity what)).settle
/-- LSS fastscan (R432). -/
def execLssFastscan (id : Word) (bitCheck sub next : Byte) (s : State) : Host.Outcome State Fault Refusal :=
  .next (s.lssScan id.toNat bitCheck.toNat sub.toNat next.toNat).settle
/-- LSS Configure Node-ID: error code 1 (R432). -/
def execLssConfigureNodeId (_id : Byte) (s : State) : Host.Outcome State Fault Refusal :=
  .next (s.lssAnswer 0x11 1).settle
/-- LSS Configure Bit Timing: error code 1 (R432). -/
def execLssConfigureBitTiming (_table _index : Byte) (s : State) : Host.Outcome State Fault Refusal :=
  .next (s.lssAnswer 0x13 1).settle
/-- LSS Store Configuration: error code 2 (R432). -/
def execLssStoreConfiguration (s : State) : Host.Outcome State Fault Refusal :=
  .next (s.lssAnswer 0x17 2).settle
/-- 0 to the predefined error list (R456). -/
def execErrorListClear (p : Port) (s : State) : Host.Outcome State Fault Refusal :=
  .next (s.viaObj p 0x1003 0 1 0).settle
/-- "save" to StoreParameters (R446). -/
def execSave (p : Port) (s : State) : Host.Outcome State Fault Refusal :=
  .next (s.viaObj p 0x1010 1 4 0x65766173).settle
/-- "load" to RestoreDefaults (R447). -/
def execLoad (p : Port) (s : State) : Host.Outcome State Fault Refusal :=
  .next (s.viaObj p 0x1011 1 4 0x64616F6C).settle
/-- 3 to ProgramControl (R445). -/
def execProgramErase (p : Port) (s : State) : Host.Outcome State Fault Refusal :=
  .next (s.viaObj p 0x1F51 1 1 3).settle
/-- Bytes of an image (R445). -/
def execProgramData (p : Port) (data : List Byte) (s : State) : Host.Outcome State Fault Refusal :=
  .next (s.portWrite s.plainWorld p 0x1F50 1 data).settle
/-- 1 to ProgramControl (R445, R489). -/
def execProgramVerify (p : Port) (s : State) : Host.Outcome State Fault Refusal :=
  .next (s.viaObj p 0x1F51 1 1 1).settle

end Sys2Proof.Machine
end

