-- ==== Sys2Proof/Machine/CmdLine.lean ====
section
/-! DEFINITION. Traverses, line data, tables and slots (chapters 3 to 6). -/
namespace Sys2Proof.Machine

/-- START (R99 to R101, R320). -/
def execStart (n : Ch) (via : Via) (s : State) : Host.Outcome State Fault Refusal :=
  .next (s.viaOne via (Tr.START n).addr 1 (0x3010 + 0x100 * n) 0x17 1 1).settle
/-- STOP (R118, R320). -/
def execStop (n : Ch) (via : Via) (s : State) : Host.Outcome State Fault Refusal :=
  .next (s.viaOne via (Tr.STOP n).addr 2 (0x3010 + 0x100 * n) 0x17 1 2).settle
/-- The STOP sequence ends (R320). -/
def execStopComplete (n : Ch) (s : State) : Host.Outcome State Fault Refusal :=
  .next (s.stopDone n).settle
/-- The line due is decided (R98, R115, R239). -/
def execLineDecision (n : Ch) (s : State) : Host.Outcome State Fault Refusal :=
  .next (s.lineDecision n).settle
/-- GEOM_APPLY (R125). -/
def execGeomApply (n : Ch) (via : Via) (s : State) : Host.Outcome State Fault Refusal :=
  .next (s.viaOne via (Ld.GEOM_APPLY n).addr 1 (0x3020 + 0x100 * n) 9 1 1).settle
/-- Q_FLUSH (R138). -/
def execQFlush (n : Ch) (via : Via) (s : State) : Host.Outcome State Fault Refusal :=
  .next (s.viaOne via (Ld.Q_FLUSH n).addr 2 (0x3020 + 0x100 * n) 0x17 1 1).settle
/-- Q_TAG (R135): Q_TAG_LO, then Q_TAG_HI which commits it; or the object QueueTag. -/
def execQTagWrite (n : Ch) (tag : BitVec 48) (via : Via) (s : State) : Host.Outcome State Fault Refusal :=
  .next (match via with
    | .reg => (s.viaReg (Ld.Q_TAG_LO n).addr (tag.toNat % 2 ^ 32)).viaReg (Ld.Q_TAG_HI n).addr (tag.toNat / 2 ^ 32)
    | .obj p => s.viaObj p (0x3020 + 0x100 * n) 0x0E 6 tag.toNat).settle
/-- A BAR0 write of any length, into one per-nozzle table as the row has it (R168 to R170, R419). -/
def execTableWrite (addr : Nat) (bytes : List Byte) (s : State) : Host.Outcome State Fault Refusal :=
  .next (s.barBytes addr bytes).settle
/-- CHECK of a slot (R192, R253). -/
def execCheck (n : Ch) (slot : Fin 2) (via : Via) (s : State) : Host.Outcome State Fault Refusal :=
  .next (match via with
    | .reg => s.viaReg (Lv.CHECK0 n).addr (2 ^ (slot : Nat))
    | .obj p => (s.viaObj p (0x3041 + 0x100 * n) 1 1 slot).viaObj p (0x3041 + 0x100 * n) 4 1 1).settle
/-- A word of a slot (R206). -/
def execSlotWordWrite (n : Ch) (slot : Fin 2) (word : Nat) (data : Word) (via : Via) (s : State) : Host.Outcome State Fault Refusal :=
  .next (match via with
    | .reg => if word < 32 then s.viaReg (slotAddr n slot word) data.toNat else s
    | .obj p =>
      ((s.viaObj p (0x3041 + 0x100 * n) 1 1 slot).viaObj p (0x3041 + 0x100 * n) 2 1 word).viaObj p (0x3041 + 0x100 * n) 3 4 data.toNat).settle
/-- ProtectedLoad (R205, R492). -/
def execProtectedLoad (n : Ch) (ofs : Nat) (p : Port) (s : State) : Host.Outcome State Fault Refusal :=
  .next (s.viaObj p (0x3041 + 0x100 * n) 6 4 ofs).settle
/-- The protected load ends (R205, R491, R492). -/
def execProtectedLoadDone (n : Ch) (par : Option Nat) (s : State) : Host.Outcome State Fault Refusal :=
  .next (s.loadDone n par).settle
/-- Precharge is complete (R182). -/
def execPrechargeDone (n : Ch) (s : State) : Host.Outcome State Fault Refusal :=
  .next (s.prechargeDone n).settle
/-- Precharge misses its 60 ms (R182, R332, R503). -/
def execPrechargeTimeout (n : Ch) (s : State) : Host.Outcome State Fault Refusal :=
  .next (s.prechargeTimeout n).settle
/-- The comparison of the balancer (R183). -/
def execBalancerCheck (n : Ch) (errs : List Int) (s : State) : Host.Outcome State Fault Refusal :=
  .next (s.balanceIn n errs).settle
/-- A level outside ±25 % of Δ for 1 ms (R184). -/
def execResFault (n : Ch) (s : State) : Host.Outcome State Fault Refusal :=
  .next (s.resIn n).settle
/-- A ramp step that has not settled (R185). -/
def execRampStepTimeout (n : Ch) (s : State) : Host.Outcome State Fault Refusal :=
  .next (s.rampFail n).settle
/-- Every level below 2.0 V after the switch opened (R185, R329, R520). -/
def execBleedDone (n : Ch) (s : State) : Host.Outcome State Fault Refusal :=
  .next (s.bleedDone n).settle
/-- VHV at a closed switch out of its window for 10 µs (R186). -/
def execVhvOutOfRange (n : Ch) (s : State) : Host.Outcome State Fault Refusal :=
  .next (s.vhvIn n).settle
/-- A confirmed overcurrent of a rail (R201, R202, R204). -/
def execOvercurrent (n : Ch) (rail : Rail) (tick : Tick) (s : State) : Host.Outcome State Fault Refusal :=
  .next ((s.at tick).overIn n (decide (rail = .w))).settle
/-- Both rails are back at REST (R202, R236). -/
def execRailRecoveryDone (n : Ch) (tick : Tick) (s : State) : Host.Outcome State Fault Refusal :=
  .next ((s.at tick).railsBack n).settle
/-- The last line before a wipe has fired (R207). -/
def execWipedSlotClear (n : Ch) (s : State) : Host.Outcome State Fault Refusal :=
  .next (s.wipedClear n).settle

end Sys2Proof.Machine
end

