-- ==== Sys2Proof/Machine/CmdLink.lean ====
section
/-! DEFINITION. The Ismaing link (chapter 7). -/
namespace Sys2Proof.Machine

/-- The link sends what it may (R223 to R227). -/
def execTransmitLine (n : Ch) (s : State) : Host.Outcome State Fault Refusal :=
  .next (s.transmitLine n).settle
/-- ACK (R233, R247). -/
def execAck (n : Ch) (fseq : BitVec 4) (s : State) : Host.Outcome State Fault Refusal :=
  .next (s.ackTx n fseq.toNat).settle
/-- NAK (R233, R234). -/
def execNak (n : Ch) (fseq : BitVec 4) (s : State) : Host.Outcome State Fault Refusal :=
  .next (s.nakTx n fseq.toNat).settle
/-- No answer within 2.0 µs (R233, R234, R248). -/
def execFrameTimeout (n : Ch) (fseq : BitVec 4) (s : State) : Host.Outcome State Fault Refusal :=
  .next (s.txTimeout n fseq.toNat).settle
/-- The latch point of the next line (R236, R237). -/
def execLatch (n : Ch) (tick : Tick) (s : State) : Host.Outcome State Fault Refusal :=
  .next ((s.at tick).latchNext n tick).settle
/-- LACK (R239); its copy of NULL has no effect. -/
def execLack (n : Ch) (tag : Byte) (_nulled empty : Bool) (tick : Tick) (s : State) : Host.Outcome State Fault Refusal :=
  .next ((s.at tick).lackLine n tag.toNat empty).settle
/-- SPX at the end of the sub-pulse before j (R240). -/
def execSpx (n : Ch) (j : Fin 4) (s : State) : Host.Outcome State Fault Refusal :=
  .next (s.spx n j).settle
/-- SNS at the end of the last sub-pulse of the sense nozzle (R242, R258). -/
def execSns (n : Ch) (s : State) : Host.Outcome State Fault Refusal :=
  .next (s.sns n).settle
/-- STAT (R232, R247, R256). -/
def execStat (n : Ch) (addr val : Byte) (s : State) : Host.Outcome State Fault Refusal :=
  .next (s.stat n addr.toNat val.toNat).tpdoGo.settle
/-- FERR (R251). -/
def execFerr (n : Ch) (code tag : Byte) (s : State) : Host.Outcome State Fault Refusal :=
  .next (s.ferrIn n code.toNat tag.toNat).settle
/-- TSR (R247). -/
def execTsr (n : Ch) (ver cap : Byte) (s : State) : Host.Outcome State Fault Refusal :=
  .next (s.tsrIn n ver.toNat cap.toNat).settle
/-- TRAIN (R246, R247). -/
def execTrain (n : Ch) (via : Via) (s : State) : Host.Outcome State Fault Refusal :=
  .next (s.viaOne via (Lk.TRAIN n).addr 1 (0x3050 + 0x100 * n) 4 1 1).settle
/-- A first training misses its 2 ms (R247). -/
def execTrainingTimeout (n : Ch) (s : State) : Host.Outcome State Fault Refusal :=
  .next (s.trainTimeout n).settle
/-- The link is lost (R248). -/
def execLinkLost (n : Ch) (tick : Tick) (s : State) : Host.Outcome State Fault Refusal :=
  .next ((s.at tick).linkLoss n).settle
/-- A retraining misses its 200 µs (R249). -/
def execRetrainTimeout (n : Ch) (tick : Tick) (s : State) : Host.Outcome State Fault Refusal :=
  .next ((s.at tick).retrainMissed n).settle
/-- FE_GO: the access set in +0x24 (R254); over a port FarEndWrite or FarEndRead (R256). -/
def execFeGo (n : Ch) (via : Via) (s : State) : Host.Outcome State Fault Refusal :=
  .next (match via with
    | .reg => s.viaReg (Lk.FE_GO n).addr 1
    | .obj p =>
      if s.has (Lk.WR n) then s.viaObj p (0x3050 + 0x100 * n) 0x0E 2 (s.get (Lk.ADDR n) * 256 + s.get (Lk.DATA n))
      else s.portRead p (0x3050 + 0x100 * n) 0x0D).settle
/-- No ACK or STAT within 20 µs (R255). -/
def execFeAccessTimeout (n : Ch) (s : State) : Host.Outcome State Fault Refusal :=
  .next (s.feFail n).tpdoGo.settle
/-- A read of FarEndRead (R256). -/
def execFarEndRead (n : Ch) (p : Port) (s : State) : Host.Outcome State Fault Refusal :=
  .next (s.portRead p (0x3050 + 0x100 * n) 0x0D).settle
/-- A code violation on the return lane (R248). -/
def execReturnLaneCodeViolation (n : Ch) (s : State) : Host.Outcome State Fault Refusal :=
  .next (s.codeViolation n).settle

end Sys2Proof.Machine
end

