-- ==== Sys2Proof/Machine/CmdPorts.lean ====
section
/-! DEFINITION. Register and object access (chapters 0, 14 and 15): the meanings of rows REGISTER_WRITE to POS_SNAPSHOT and MAILBOX_INVALID_CMD. -/
namespace Sys2Proof.Machine

/-- A BAR0 write of one dword (R8, R419, R548, R549). -/
def execRegisterWrite (addr : Nat) (be : BitVec 4) (data : Word) (upper : Option (BitVec 4 × Word)) (s : State) :
    Host.Outcome State Fault Refusal :=
  .next (s.barStore addr be data.toNat (upper.map (fun (u : BitVec 4 × Word) => (u.1, u.2.toNat)))).settle
/-- An object write over a port (R14, R550). -/
def execSdoDownload (p : Port) (idx sub : Nat) (data : List Byte) (s : State) : Host.Outcome State Fault Refusal :=
  .next (s.portWrite s.plainWorld p idx sub data).settle
/-- An object read over a port (R13). -/
def execSdoUpload (p : Port) (idx sub : Nat) (s : State) : Host.Outcome State Fault Refusal :=
  .next (s.portRead p idx sub).settle
/-- GO with CMD 1 (R438). -/
def execMailboxRead (idx sub seq : Nat) (s : State) : Host.Outcome State Fault Refusal :=
  .next (s.mbRequest 1 idx sub seq 0 0 []).settle
/-- GO with CMD 2 (R439). -/
def execMailboxWrite (idx sub seq len : Nat) (data : List Byte) (s : State) : Host.Outcome State Fault Refusal :=
  .next (s.mbRequest 2 idx sub seq len 0 data).settle
/-- GO with CMD 3 (R439). -/
def execMailboxReadIntoScratchpad (idx sub seq bufOfs : Nat) (s : State) : Host.Outcome State Fault Refusal :=
  .next (s.mbRequest 3 idx sub seq 0 bufOfs []).settle
/-- GO with CMD 4 (R439). -/
def execMailboxWriteFromScratchpad (idx sub seq len bufOfs : Nat) (s : State) : Host.Outcome State Fault Refusal :=
  .next (s.mbRequest 4 idx sub seq len bufOfs []).settle
/-- A held IMM edit is withdrawn after 1 s (R47). -/
def execHeldEditWithdrawn (q : Fin 9) (tick : Tick) (s : State) : Host.Outcome State Fault Refusal :=
  .next ((s.at tick).heldWithdraw q).settle
/-- A BAR0 read (R92, R168, R314, R398, R401, R419); a low word latches its high word. -/
def execHiLatchRead (addr len : Nat) (bad : List Nat) (sp : Option SPort) (s : State) : Host.Outcome State Fault Refusal :=
  .next (s.barRead addr len bad sp).settle
/-- A read of CU_POS_LO takes the snapshot of its unit (R63). -/
def execPosSnapshot (n : Cun) (s : State) : Host.Outcome State Fault Refusal :=
  .next (if s.barOpen then (s.cuSnap n).emit (.regData (Cu.POS_LO n).addr ((s.cu[n]).pos.toNat % 2 ^ 32)) else s).settle
/-- GO with CMD 0 or 5 to 15 (R441). -/
def execMailboxInvalidCmd (cmd : BitVec 4) (idx sub seq : Nat) (s : State) : Host.Outcome State Fault Refusal :=
  .next (if cmd = 0 ∨ 5 ≤ cmd.toNat then s.mbRequest cmd.toNat idx sub seq 0 0 [] else s).settle

end Sys2Proof.Machine
end

