-- ==== Sys2Proof/Machine/CmdRecovery.lean ====
section
/-! DEFINITION. Faults, recovery, epochs and thermal protection (chapters 10 and 11). -/
namespace Sys2Proof.Machine

/-- Retire (R330). -/
def execRetire (n : Ch) (via : Via) (s : State) : Host.Outcome State Fault Refusal :=
  .next (s.viaOne via (Cc.RETIRE n).addr 2 (0x3000 + 0x100 * n) 4 1 1).settle
/-- Readmit (R331). -/
def execReadmit (n : Ch) (via : Via) (s : State) : Host.Outcome State Fault Refusal :=
  .next (s.viaOne via (Cc.READMIT n).addr 1 (0x3000 + 0x100 * n) 3 1 1).settle
/-- The traverse of a readmission begins (R333). -/
def execReadmitTraverseBegin (n : Ch) (s : State) : Host.Outcome State Fault Refusal :=
  .next (s.readmitBegin n).settle
/-- PREPARE (R334). -/
def execPrepare (via : Via) (s : State) : Host.Outcome State Fault Refusal :=
  .next (s.viaOne via Ep.PREPARE.addr 1 0x2010 5 1 1).settle
/-- COMMIT (R336). -/
def execCommit (via : Via) (s : State) : Host.Outcome State Fault Refusal :=
  .next (s.viaOne via Ep.PREPARE.addr 2 0x2010 5 1 2).settle
/-- CANCEL (R334). -/
def execCancel (via : Via) (s : State) : Host.Outcome State Fault Refusal :=
  .next (s.viaOne via Ep.PREPARE.addr 4 0x2010 5 1 3).settle
/-- The oldest message leaves (R341, R460). -/
def execEmcy (s : State) : Host.Outcome State Fault Refusal :=
  .next (s.emcySend).settle
/-- The second conversion of an input ends (R349 to R364). -/
def execThermalSample (m : Thi) (conv : Conv) (tick : Tick) (s : State) : Host.Outcome State Fault Refusal :=
  .next ((s.at tick).thermalSample m conv).settle
/-- A sample of a die sensor (R366, R367). -/
def execDieSample (drive : Bool) (temp : Int) (s : State) : Host.Outcome State Fault Refusal :=
  .next (s.dieSample drive temp).settle
/-- A die above its limit for 4 µs (R200, R366). -/
def execDieTrip (drive : Bool) (s : State) : Host.Outcome State Fault Refusal :=
  .next (if s.alive then s.dieTrip drive else s).settle
/-- A die below its clear level for 10 s (R366, R522). -/
def execDieTripClear (drive : Bool) (s : State) : Host.Outcome State Fault Refusal :=
  .next (s.dieClear drive).settle
/-- TYPE of a thermal input (R368). -/
def execSensorTypeWrite (m : Thi) (type : BitVec 2) (via : Via) (s : State) : Host.Outcome State Fault Refusal :=
  .next (s.viaOne via (Th.TYPE m).addr (s.wordWith (Th.TYPE m) type.toNat) (0x4000 + m) 1 1 type.toNat).settle

end Sys2Proof.Machine
end

