-- ==== Sys2Proof/Machine/Dispatch.lean ====
section
/-! DEFINITION. The dispatcher: one arm for each command of the opcode table, each a direct call of its meaning. -/
namespace Sys2Proof.Machine

def exec (i : Instr) (s : State) : Host.Outcome State Fault Refusal :=
  match i with
  | .registerWrite addr be data upper => Sys2Proof.Machine.execRegisterWrite addr be data upper s
  | .sdoDownload p idx sub data => Sys2Proof.Machine.execSdoDownload p idx sub data s
  | .sdoUpload p idx sub => Sys2Proof.Machine.execSdoUpload p idx sub s
  | .mailboxRead idx sub seq => Sys2Proof.Machine.execMailboxRead idx sub seq s
  | .mailboxWrite idx sub seq len data => Sys2Proof.Machine.execMailboxWrite idx sub seq len data s
  | .mailboxReadIntoScratchpad idx sub seq bufOfs => Sys2Proof.Machine.execMailboxReadIntoScratchpad idx sub seq bufOfs s
  | .mailboxWriteFromScratchpad idx sub seq len bufOfs => Sys2Proof.Machine.execMailboxWriteFromScratchpad idx sub seq len bufOfs s
  | .heldEditWithdrawn q tick => Sys2Proof.Machine.execHeldEditWithdrawn q tick s
  | .hiLatchRead addr len bad sp => Sys2Proof.Machine.execHiLatchRead addr len bad sp s
  | .posSnapshot n => Sys2Proof.Machine.execPosSnapshot n s
  | .d2dParityFailure n tick => Sys2Proof.Machine.execD2dParityFailure n tick s
  | .supervisorLinkFailure tick => Sys2Proof.Machine.execSupervisorLinkFailure tick s
  | .supervisorResend => Sys2Proof.Machine.execSupervisorResend s
  | .pllLockLost => Sys2Proof.Machine.execPllLockLost s
  | .pllLock => Sys2Proof.Machine.execPllLock s
  | .watchdogExpiry tick rom => Sys2Proof.Machine.execWatchdogExpiry tick rom s
  | .watchdogRestartDone rom => Sys2Proof.Machine.execWatchdogRestartDone rom s
  | .evmSinkWrite k data => Sys2Proof.Machine.execEvmSinkWrite k data s
  | .swPulse bits => Sys2Proof.Machine.execSwPulse bits s
  | .eventPulse => Sys2Proof.Machine.execEventPulse s
  | .lineBoundary n tick errs => Sys2Proof.Machine.execLineBoundary n tick errs s
  | .lineEncoded n => Sys2Proof.Machine.execLineEncoded n s
  | .quadTransition n a b tick => Sys2Proof.Machine.execQuadTransition n a b tick s
  | .indexMark n tick => Sys2Proof.Machine.execIndexMark n tick s
  | .ssiFrameStart n tick => Sys2Proof.Machine.execSsiFrameStart n tick s
  | .ssiFrame n low raw chk tick => Sys2Proof.Machine.execSsiFrame n low raw chk tick s
  | .switchDebounced n sw level => Sys2Proof.Machine.execSwitchDebounced n sw level s
  | .speedWindowEnd n => Sys2Proof.Machine.execSpeedWindowEnd n s
  | .stillTimeout n tick => Sys2Proof.Machine.execStillTimeout n tick s
  | .cuSourceWrite n src inv via => Sys2Proof.Machine.execCuSourceWrite n src inv via s
  | .homeGo n via => Sys2Proof.Machine.execHomeGo n via s
  | .preset n via => Sys2Proof.Machine.execPreset n via s
  | .homeCancel n via => Sys2Proof.Machine.execHomeCancel n via s
  | .stakeTargetWrite ix tgt via => Sys2Proof.Machine.execStakeTargetWrite ix tgt via s
  | .arm ix via => Sys2Proof.Machine.execArm ix via s
  | .disarm ix via => Sys2Proof.Machine.execDisarm ix via s
  | .stakeConfigWrite ix cu dir via => Sys2Proof.Machine.execStakeConfigWrite ix cu dir via s
  | .firedLate ix => Sys2Proof.Machine.execFiredLate ix s
  | .syncReceived tick => Sys2Proof.Machine.execSyncReceived tick s
  | .start n via => Sys2Proof.Machine.execStart n via s
  | .stop n via => Sys2Proof.Machine.execStop n via s
  | .stopComplete n => Sys2Proof.Machine.execStopComplete n s
  | .lineDecision n => Sys2Proof.Machine.execLineDecision n s
  | .geomApply n via => Sys2Proof.Machine.execGeomApply n via s
  | .qFlush n via => Sys2Proof.Machine.execQFlush n via s
  | .qTagWrite n tag via => Sys2Proof.Machine.execQTagWrite n tag via s
  | .tableWrite addr bytes => Sys2Proof.Machine.execTableWrite addr bytes s
  | .check n slot via => Sys2Proof.Machine.execCheck n slot via s
  | .slotWordWrite n slot word data via => Sys2Proof.Machine.execSlotWordWrite n slot word data via s
  | .protectedLoad n ofs p => Sys2Proof.Machine.execProtectedLoad n ofs p s
  | .protectedLoadDone n par => Sys2Proof.Machine.execProtectedLoadDone n par s
  | .prechargeDone n => Sys2Proof.Machine.execPrechargeDone n s
  | .prechargeTimeout n => Sys2Proof.Machine.execPrechargeTimeout n s
  | .balancerCheck n errs => Sys2Proof.Machine.execBalancerCheck n errs s
  | .resFault n => Sys2Proof.Machine.execResFault n s
  | .rampStepTimeout n => Sys2Proof.Machine.execRampStepTimeout n s
  | .bleedDone n => Sys2Proof.Machine.execBleedDone n s
  | .vhvOutOfRange n => Sys2Proof.Machine.execVhvOutOfRange n s
  | .overcurrent n rail tick => Sys2Proof.Machine.execOvercurrent n rail tick s
  | .railRecoveryDone n tick => Sys2Proof.Machine.execRailRecoveryDone n tick s
  | .wipedSlotClear n => Sys2Proof.Machine.execWipedSlotClear n s
  | .transmitLine n => Sys2Proof.Machine.execTransmitLine n s
  | .ack n fseq => Sys2Proof.Machine.execAck n fseq s
  | .nak n fseq => Sys2Proof.Machine.execNak n fseq s
  | .frameTimeout n fseq => Sys2Proof.Machine.execFrameTimeout n fseq s
  | .latch n tick => Sys2Proof.Machine.execLatch n tick s
  | .lack n tag nulled empty tick => Sys2Proof.Machine.execLack n tag nulled empty tick s
  | .spx n j => Sys2Proof.Machine.execSpx n j s
  | .sns n => Sys2Proof.Machine.execSns n s
  | .stat n addr val => Sys2Proof.Machine.execStat n addr val s
  | .ferr n code tag => Sys2Proof.Machine.execFerr n code tag s
  | .tsr n ver cap => Sys2Proof.Machine.execTsr n ver cap s
  | .train n via => Sys2Proof.Machine.execTrain n via s
  | .trainingTimeout n => Sys2Proof.Machine.execTrainingTimeout n s
  | .linkLost n tick => Sys2Proof.Machine.execLinkLost n tick s
  | .retrainTimeout n tick => Sys2Proof.Machine.execRetrainTimeout n tick s
  | .feGo n via => Sys2Proof.Machine.execFeGo n via s
  | .feAccessTimeout n => Sys2Proof.Machine.execFeAccessTimeout n s
  | .farEndRead n p => Sys2Proof.Machine.execFarEndRead n p s
  | .captureEnd n samples => Sys2Proof.Machine.execCaptureEnd n samples s
  | .senseResult n => Sys2Proof.Machine.execSenseResult n s
  | .closureObservation n => Sys2Proof.Machine.execClosureObservation n s
  | .verdictEnqueue n => Sys2Proof.Machine.execVerdictEnqueue n s
  | .learn n rows via => Sys2Proof.Machine.execLearn n rows via s
  | .signatureAccess n write via => Sys2Proof.Machine.execSignatureAccess n write via s
  | .stripEnWrite n en via => Sys2Proof.Machine.execStripEnWrite n en via s
  | .stripAnalysis n view => Sys2Proof.Machine.execStripAnalysis n view s
  | .frameStart p vc ecc bank tick => Sys2Proof.Machine.execFrameStart p vc ecc bank tick s
  | .longPacket p vc dt bytes ecc crcOk => Sys2Proof.Machine.execLongPacket p vc dt bytes ecc crcOk s
  | .frameEnd p vc ecc => Sys2Proof.Machine.execFrameEnd p vc ecc s
  | .csiFrameTimeout c => Sys2Proof.Machine.execCsiFrameTimeout c s
  | .contextDisable c p => Sys2Proof.Machine.execContextDisable c p s
  | .pipelineLine par => Sys2Proof.Machine.execPipelineLine par s
  | .frameComplete c => Sys2Proof.Machine.execFrameComplete c s
  | .triggerWidthEnd p tick => Sys2Proof.Machine.execTriggerWidthEnd p tick s
  | .snapArm v p => Sys2Proof.Machine.execSnapArm v p s
  | .curveDataAccess c write p => Sys2Proof.Machine.execCurveDataAccess c write p s
  | .pixRestore => Sys2Proof.Machine.execPixRestore s
  | .retire n via => Sys2Proof.Machine.execRetire n via s
  | .readmit n via => Sys2Proof.Machine.execReadmit n via s
  | .readmitTraverseBegin n => Sys2Proof.Machine.execReadmitTraverseBegin n s
  | .prepare via => Sys2Proof.Machine.execPrepare via s
  | .commit via => Sys2Proof.Machine.execCommit via s
  | .cancel via => Sys2Proof.Machine.execCancel via s
  | .emcy => Sys2Proof.Machine.execEmcy s
  | .thermalSample m conv tick => Sys2Proof.Machine.execThermalSample m conv tick s
  | .dieSample drive temp => Sys2Proof.Machine.execDieSample drive temp s
  | .dieTrip drive => Sys2Proof.Machine.execDieTrip drive s
  | .dieTripClear drive => Sys2Proof.Machine.execDieTripClear drive s
  | .sensorTypeWrite m type via => Sys2Proof.Machine.execSensorTypeWrite m type via s
  | .shadowArm d => Sys2Proof.Machine.execShadowArm d s
  | .handover d => Sys2Proof.Machine.execHandover d s
  | .grant => Sys2Proof.Machine.execGrant s
  | .dmaReadCompletion d data sp => Sys2Proof.Machine.execDmaReadCompletion d data sp s
  | .dmaReadError d => Sys2Proof.Machine.execDmaReadError d s
  | .dmaReadTimeout d => Sys2Proof.Machine.execDmaReadTimeout d s
  | .transferDone d => Sys2Proof.Machine.execTransferDone d s
  | .listEntryFetch d res => Sys2Proof.Machine.execListEntryFetch d res s
  | .pause d via => Sys2Proof.Machine.execPause d via s
  | .resume d via => Sys2Proof.Machine.execResume d via s
  | .withdraw d via => Sys2Proof.Machine.execWithdraw d via s
  | .dmaEnable d via => Sys2Proof.Machine.execDmaEnable d via s
  | .wrCntWrite d v => Sys2Proof.Machine.execWrCntWrite d v s
  | .rdCntWrite d v => Sys2Proof.Machine.execRdCntWrite d v s
  | .scratchpadWrite ofs lanes sp => Sys2Proof.Machine.execScratchpadWrite ofs lanes sp s
  | .setAliasWrite ofs lanes sp => Sys2Proof.Machine.execSetAliasWrite ofs lanes sp s
  | .clearAliasWrite ofs lanes sp => Sys2Proof.Machine.execClearAliasWrite ofs lanes sp s
  | .wipe why => Sys2Proof.Machine.execWipe why s
  | .wipeDone => Sys2Proof.Machine.execWipeDone s
  | .bistSlice single bad => Sys2Proof.Machine.execBistSlice single bad s
  | .bistSliceDone failAt => Sys2Proof.Machine.execBistSliceDone failAt s
  | .tamper => Sys2Proof.Machine.execTamper s
  | .glitch voltage => Sys2Proof.Machine.execGlitch voltage s
  | .pcieReset kind => Sys2Proof.Machine.execPcieReset kind s
  | .perstRelease => Sys2Proof.Machine.execPerstRelease s
  | .d3hotEntry => Sys2Proof.Machine.execD3hotEntry s
  | .msixUnmask v => Sys2Proof.Machine.execMsixUnmask v s
  | .tokenPass dst via => Sys2Proof.Machine.execTokenPass dst via s
  | .expertAccess v p => Sys2Proof.Machine.execExpertAccess v p s
  | .busOff => Sys2Proof.Machine.execBusOff s
  | .busOffRecovery => Sys2Proof.Machine.execBusOffRecovery s
  | .nmtStart => Sys2Proof.Machine.execNmtStart s
  | .nmtStop => Sys2Proof.Machine.execNmtStop s
  | .nmtEnterPreOperational => Sys2Proof.Machine.execNmtEnterPreOperational s
  | .nmtResetCommunication => Sys2Proof.Machine.execNmtResetCommunication s
  | .nmtResetNode => Sys2Proof.Machine.execNmtResetNode s
  | .heartbeatReceived => Sys2Proof.Machine.execHeartbeatReceived s
  | .heartbeatLost => Sys2Proof.Machine.execHeartbeatLost s
  | .heartbeatSend => Sys2Proof.Machine.execHeartbeatSend s
  | .canSync => Sys2Proof.Machine.execCanSync s
  | .rpdo p data => Sys2Proof.Machine.execRpdo p data s
  | .tpdoEventTimer p => Sys2Proof.Machine.execTpdoEventTimer p s
  | .tpdoChangeCheck => Sys2Proof.Machine.execTpdoChangeCheck s
  | .tpdoInhibitEnd p => Sys2Proof.Machine.execTpdoInhibitEnd p s
  | .tpdoRemoteRequest p => Sys2Proof.Machine.execTpdoRemoteRequest p s
  | .lssIdentityInquiry what => Sys2Proof.Machine.execLssIdentityInquiry what s
  | .lssFastscan id bitCheck sub next => Sys2Proof.Machine.execLssFastscan id bitCheck sub next s
  | .lssConfigureNodeId id => Sys2Proof.Machine.execLssConfigureNodeId id s
  | .lssConfigureBitTiming table index => Sys2Proof.Machine.execLssConfigureBitTiming table index s
  | .lssStoreConfiguration => Sys2Proof.Machine.execLssStoreConfiguration s
  | .errorListClear p => Sys2Proof.Machine.execErrorListClear p s
  | .save p => Sys2Proof.Machine.execSave p s
  | .load p => Sys2Proof.Machine.execLoad p s
  | .programErase p => Sys2Proof.Machine.execProgramErase p s
  | .programData p data => Sys2Proof.Machine.execProgramData p data s
  | .programVerify p => Sys2Proof.Machine.execProgramVerify p s
  | .otpWordWrite v p runs => Sys2Proof.Machine.execOtpWordWrite v p runs s
  | .otpMarginCheck p => Sys2Proof.Machine.execOtpMarginCheck p s
  | .otpLockArm count p => Sys2Proof.Machine.execOtpLockArm count p s
  | .otpLockArmExpiry => Sys2Proof.Machine.execOtpLockArmExpiry s
  | .otpWriteLockBlow p run => Sys2Proof.Machine.execOtpWriteLockBlow p run s
  | .otpReadLockBlow p run => Sys2Proof.Machine.execOtpReadLockBlow p run s
  | .lifeCycleAdvance code p runs => Sys2Proof.Machine.execLifeCycleAdvance code p runs s
  | .debugChallenge p => Sys2Proof.Machine.execDebugChallenge p s
  | .debugResponse sig p => Sys2Proof.Machine.execDebugResponse sig p s
  | .debugChallengeExpiry => Sys2Proof.Machine.execDebugChallengeExpiry s
  | .tapBypass => Sys2Proof.Machine.execTapBypass s
  | .tapIdcode => Sys2Proof.Machine.execTapIdcode s
  | .tapSamplePreload cells => Sys2Proof.Machine.execTapSamplePreload cells s
  | .tapExtest => Sys2Proof.Machine.execTapExtest s
  | .tapClamp => Sys2Proof.Machine.execTapClamp s
  | .tapHighz => Sys2Proof.Machine.execTapHighz s
  | .tapDbg op => Sys2Proof.Machine.execTapDbg op s
  | .standbyRequest p => Sys2Proof.Machine.execStandbyRequest p s
  | .hostPark => Sys2Proof.Machine.execHostPark s
  | .wake p => Sys2Proof.Machine.execWake p s
  | .wakeDone => Sys2Proof.Machine.execWakeDone s
  | .resetRelease nodeId => Sys2Proof.Machine.execResetRelease nodeId s
  | .resetNLow => Sys2Proof.Machine.execResetNLow s
  | .brownOut => Sys2Proof.Machine.execBrownOut s
  | .supplyFault which => Sys2Proof.Machine.execSupplyFault which s
  | .supervisorLinkSilent => Sys2Proof.Machine.execSupervisorLinkSilent s
  | .firmwareStart view => Sys2Proof.Machine.execFirmwareStart view s
  | .benchmarkRunEnd => Sys2Proof.Machine.execBenchmarkRunEnd s
  | .safeConditionClear bit => Sys2Proof.Machine.execSafeConditionClear bit s
  | .safeExit bench via => Sys2Proof.Machine.execSafeExit bench via s
  | .returnLaneCodeViolation n => Sys2Proof.Machine.execReturnLaneCodeViolation n s
  | .pcieLinkUp => Sys2Proof.Machine.execPcieLinkUp s
  | .returnToD0 => Sys2Proof.Machine.execReturnToD0 s
  | .uncorrectablePacketHeader p => Sys2Proof.Machine.execUncorrectablePacketHeader p s
  | .tamperNHigh => Sys2Proof.Machine.execTamperNHigh s
  | .contextBankRewrite c => Sys2Proof.Machine.execContextBankRewrite c s
  | .mailboxInvalidCmd cmd idx sub seq => Sys2Proof.Machine.execMailboxInvalidCmd cmd idx sub seq s

end Sys2Proof.Machine
end

