-- ==== Sys2Proof/Machine/Step.lean ====
section
/-! DEFINITION. One step of the block: the command at the front of the queue, or one CORE_CLK cycle of idling. -/
namespace Sys2Proof.Machine

/-- The command at the front of the queue is run with the queue's rest. On an empty queue the timebase advances one CORE_CLK
cycle, 16 ticks, and nothing else happens (log entry 1). -/
def step (s : State) : Host.Outcome State Fault Refusal :=
  match s.pending with
  | [] => .next { s with tb := s.tb + 16 }
  | c :: rest => exec c { s with pending := rest }

/-- A command at the front of the queue. -/
def State.withFront (s : State) (c : Instr) : State := { s with pending := c :: s.pending }
/-- The command a table word spells, at the front of the queue; a word that spells none changes nothing. -/
def State.withFetchWord (s : State) (nbits w : Nat) : State :=
  match decodeTableWord nbits w with
  | some c => s.withFront c
  | none => s

end Sys2Proof.Machine
end

