-- ==== Sys2Proof/Safety.lean ====
section
/-! DEFINITION. What a sound state of the block is: the invariant that every command keeps, and the plain conditions on a state
under which commands complete, in the terms the claims use. -/
namespace Sys2Proof

open Sys2Proof.Machine

/-- A step that does not stop. -/
def Completes (s : State) : Prop := ∃ t, step s = .next t

/-- The keys of a sparse register list rise strictly from a bound. -/
def regsRiseFrom : Nat → List (Nat × Nat) → Bool
  | _, [] => true
  | lo, (k, _) :: r => decide (lo ≤ k) && regsRiseFrom (k + 1) r
/-- The invariant every command keeps: the scratchpad's list and the register list have their one canonical order, and every
listed byte lies inside the scratchpad. -/
def Inv (s : State) : Prop := Memory.wf s.sp = true ∧ regsRiseFrom 0 s.regs = true

end Sys2Proof

namespace Sys2Proof.Machine

/-- The way a command comes is open: BAR0 decodes, or the object dictionary serves the port and does not restart (R43, R418). -/
def State.opens (s : State) (via : Via) : Bool :=
  match via with
  | .reg => s.barOpen
  | .obj p => s.serves p && !s.spDown
/-- The way is open and holds the control token (R434). -/
def State.reached (s : State) (via : Via) : Bool :=
  s.opens via && (match via with | .reg => s.holds .pcie | .obj p => s.holds p)
/-- The way is open to a channel: it is not parked, and no edit waits before an object write in RUN (R46, R322). -/
def State.reachedCh (s : State) (n : Ch) (via : Via) : Bool :=
  s.reached via && !s.chParked n && (match via with | .reg => true | .obj _ => !s.inRun n || (s.ch[n]).applyQ.isEmpty)
/-- The state with the answer an object write gets; a register write has none (R419, R431). -/
def State.answered (s : State) (via : Via) (idx sub abort : Nat) : State :=
  match via with
  | .reg => s
  | .obj p => s.answer p idx sub abort
/-- Expert objects may be written the way the command comes (R442); registers have no level. -/
def State.expertVia (s : State) (via : Via) : Bool :=
  match via with
  | .reg => true
  | .obj p => s.expertOn p
/-- A unit that nothing watches: no armed stake and no traverse under way reads it. -/
def State.quietUnit (s : State) (n : Cun) : Bool :=
  allStk.all (fun i => !((s.stake[i]).armed && s.stkCu i == n)) &&
  allCh.all (fun m => s.chCu m != n || (match (s.ch[m]).trav.st with | .stopped => true | _ => false))

end Sys2Proof.Machine
end

