-- ==== Sys2Proof/Certificates/Slice0/Obligations.lean ====
section
/-! DEFINITION. The statements for the provers. Each docstring says in words what its statement says; OBLIGATIONS.json names the
sections or rules it rests on. -/

open Sys2Proof Sys2Proof.Machine

/-- For every command c and state s, a step of s with c in front is exec of c on s with the rest. On an empty queue a step is
one CORE_CLK cycle of idling, 16 ticks of TB: that clause is the model's own choice (log entry 1). -/
def Obligations.StepRunsTheFrontCommand : Prop :=
  (∀ (c : Instr) (s : State), step (s.withFront c) = exec c s) ∧
  (∀ (c : Instr) (rest : List Instr) (s : State), s.pending = c :: rest → step s = exec c { s with pending := rest }) ∧
  (∀ s : State, s.pending = [] → step s = .next { s with tb := s.tb + 16 })

/-- Every command answers a next state in every state, so every step does. That a command out of its place or with an operand
out of its range changes nothing instead of stopping, and that a step on an empty queue idles, are the model's own choices
(log entries 1 and 2). -/
def Obligations.EveryCommandCompletes : Prop :=
  (∀ (c : Instr) (s : State), ∃ t, exec c s = .next t) ∧ (∀ s : State, Completes s)

/-- At State.reset every field and every value in effect is the reset value of its table row, every channel is OFF with a
stopped traverse, an empty queue and its link DOWN, the epoch is OPEN, memory lists nothing, and the internal reset is still
held. The reset values of the fields are the tables'; where the tables give none, log entry 6 names the model's. The canonical
form of memory and of the register file holds at State.reset. -/
def Obligations.ResetLeavesResetValues : Prop :=
  ((∀ f : Fld, State.reset.get f = f.rst ∧ State.reset.eff f = f.rst) ∧
  (∀ n : Ch, State.reset.chSt n = .off ∧ (State.reset.ch[n]).trav.st = .stopped ∧ (State.reset.ch[n]).applyQ = [] ∧
    (State.reset.ch[n]).q.lines = [] ∧ (State.reset.ch[n]).link.st = .down) ∧
  (∀ i : Stk, (State.reset.stake[i]).armed = false) ∧ (∀ d : Dch, (State.reset.dma[d]).act = false) ∧
  State.reset.epoch = .openE ∧ State.reset.sp = [] ∧ State.reset.pending = [] ∧ State.reset.dev.boot = .held ∧
  State.reset.dev.safe = false ∧ State.reset.can.nmt = .init) ∧
  (Inv State.reset)

/-- From every state whose scratchpad list is canonical (addresses strictly rising, inside the 512 KiB, no byte 0 listed) and
whose register file is canonical (keys strictly rising), every step leads to such a state; the queue of commands has then lost
its front and nothing else. -/
def Obligations.StepKeepsInv : Prop :=
  ∀ s t : State, Inv s → step s = .next t → Inv t ∧ t.pending = s.pending.tail

/-- SWPULSE bit i pulses source 0x40 + i; the oldest pulse under way arrives at the tick 2 CORE_CLK cycles after its source;
every enabled sink with that SOURCE acts on it, and one whose PENDING bit is 1 only counts a merge. A write of an EVM_SINK
word takes effect once the pulses that are due have been delivered by the old route. A watchdog expiry with none within 10 s
before it restarts the station processor: object requests wait, the restart is counted, EMCY 0x6010 is told; while the
debugger halts the processor nothing happens. The end of the restart serves what waited in order, and an error of the ROM that
cannot be corrected stops the processor again: a request from a port waits meanwhile. That single errors of the ROM are
counted with these events is log entry 67's (DEDUCED). A supervisor failure that is not the third of a run counts and keeps
its command to be sent again; that the word which failed is a VHV switch command of the last 1 us, which is then not applied,
and that the resend passes, applies it and ends the run, are the model's choices (log entry 59). A parity failure of a channel
in RUN counts in D2D_CNT, drops the line in progress, sends RELEASE 0x01, takes the rails from REST and leaves OC_CNT; in IDLE
it counts, drops the rails and tells EMCY 0x5030, which is the model's reading (log entries 39 and 61). -/
def Obligations.EventsAndWatchdog : Prop :=
  ((∀ (s : State) (src : Nat), 0 < src → src < 0x48 → s.pulse src = { s with inFlight := s.inFlight ++ [(src, s.tb + 2 * 16)] }) ∧
  (∀ (s : State) (bits : BitVec 8), s.rests = true → s.reached .reg = true →
    exec (.swPulse bits) s = .next { s with inFlight := s.inFlight ++
      ((List.range 8).filter (fun i => bits.getLsbD i)).map (fun i => (0x40 + i, s.tb + 32)) }) ∧
  (∀ (s : State) (src due : Nat) (rest : List (Nat × Nat)), s.inFlight = (src, due) :: rest →
    exec .eventPulse s = .next (((State.at { s with inFlight := rest } due).deliver src).settle)) ∧
  (∀ (s : State) (p : Nat × Nat) (rest : List (Nat × Nat)), (s.at p.2).rests = true → s.inFlight = p :: rest →
    (∀ k : Fin 45, ¬(s.has (Ev.EN k) = true ∧ s.get (Ev.SOURCE k) = p.1)) →
      exec .eventPulse s = .next { s with inFlight := rest, tb := max s.tb p.2 }) ∧
  (∀ (s : State) (k : Fin 45), s.has (Ev.PENDING k) = true → s.sinkTake k = s.bump Ev.MERGE_CNT) ∧
  (∀ (s : State) (k : Fin 64) (data : Word), s.rests = true → s.reached .reg = true → s.inFlight = [] →
    ∃ t, exec (.evmSinkWrite k data) s = .next t ∧
      ((k : Nat) < 45 → t.get (Ev.EN k) = data.toNat / 2 ^ 31 ∧ t.get (Ev.SOURCE k) = data.toNat % 256 ∧
        (∀ f, f.key ≠ (Ev.EN k).key → f.key ≠ (Ev.SOURCE k).key → t.get f = s.get f)) ∧ t = { s with regs := t.regs }) ∧
  (∀ (s : State) (k : Fin 45) (src due : Nat) (data : Word), (s.at due).rests = true → s.reached .reg = true → s.inFlight = [(src, due)] →
    cycleOf due ≤ cycleOf s.tb → s.has (Ev.PENDING k) = true → (∀ j : Fin 45, j ≠ k → ¬(s.has (Ev.EN j) = true ∧ s.get (Ev.SOURCE j) = src)) →
    ∃ t, exec (.evmSinkWrite ⟨k, by omega⟩ data) s = .next t ∧ t.inFlight = [] ∧
      t.get (Ev.EN k) = data.toNat / 2 ^ 31 ∧ t.get (Ev.SOURCE k) = data.toNat % 256 ∧
      t.get Ev.MERGE_CNT = (if s.has (Ev.EN k) = true ∧ s.get (Ev.SOURCE k) = src then min (s.get Ev.MERGE_CNT + 1) (Ev.MERGE_CNT.card - 1)
        else s.get Ev.MERGE_CNT))) ∧
  (∀ (s : State) (tick : Tick), (s.at tick).rests = true →
    (∀ rom : RomView, s.canTimed = true → s.dev.dbgHalt = false →
      s.dev.wdAt.all (fun t0 => decide (t0 + 10 * 9600000000 < max s.tb tick)) = true →
      let u := if s.datum.bootSrc = 0 then (s.at tick).bumpBy Me.ROM_CE_CNT rom.ce else s.at tick
      exec (.watchdogExpiry tick rom) s = .next
        (((u.modDev (fun d => { d with wdAt := some u.tb, restarting := true, romStop := false })).bump
          (objFld 0x5010 2 16 0)).emcyMsg 0x6010 0xFF 0)) ∧
    (∀ rom : RomView, s.canTimed = true → s.dev.dbgHalt = true → exec (.watchdogExpiry tick rom) s = .next (s.at tick)) ∧
    (∀ k : Fin 2, s.dev.supFails = k → s.dev.supCmd = none →
      exec (.supervisorLinkFailure tick) s = .next
        (((s.at tick).modDev (fun d => { d with supFails := k + 1, supResend := true })).bump (objFld 0x5010 3 16 0))) ∧
    (∀ (n : Ch) (c : SwitchCmd), s.dev.supFails < 2 → s.dev.supCmd = some c → c.ch = (n : Nat) → c.held = false → max s.tb tick ≤ c.at0 + 9600 →
      ∃ t, exec (.supervisorLinkFailure tick) s = .next t ∧ t.has (Lv.HV_ON n) = !c.close ∧ t.dev.supCmd = some { c with held := true } ∧
        t.dev.supResend = true ∧ t.dev.supFails = s.dev.supFails + 1 ∧ (∀ m : Ch, m ≠ n → t.ch[m] = s.ch[m] ∧ t.has (Lv.HV_ON m) = s.has (Lv.HV_ON m))) ∧
    (∀ n : Ch, s.chSt n = .idle →
      exec (.d2dParityFailure n tick) s = .next
        ((((s.at tick).bump (Cc.D2D_CNT n)).railDrop n 0).emcyMsg 0x5030 n 0)) ∧
    (∀ n : Ch, s.chSt n = .run → thirdWithin (s.ch[n]).drive.d2dLines ((s.at tick).lineInProgress n) = false →
      ∃ t, exec (.d2dParityFailure n tick) s = .next t ∧ t.get (Cc.D2D_CNT n) = min (s.get (Cc.D2D_CNT n) + 1) ((Cc.D2D_CNT n).card - 1) ∧
        (∀ l ∈ (t.ch[n]).lines, l.decided = true → l.runs = false) ∧ ctlGroup n grpRelease 0 1 ∈ t.out ∧
        (s.has (Lv.PRECHG n) = true → (t.ch[n]).drive.railsRest = false) ∧ t.get (Lv.OC_CNT n) = s.get (Lv.OC_CNT n) ∧
        ((s.at tick).lineInProgress n ∈ (t.ch[n]).drive.d2dLines) ∧ t.chSt n = .run ∧ t.cu = s.cu ∧ (∀ m : Ch, m ≠ n → t.ch[m] = s.ch[m]))) ∧
  (∀ (s : State), s.rests = true →
    (∀ ce : Nat, s.dev.restarting = true → s.dev.romStop = false → s.dev.dbgHalt = false → s.deferred = [] →
      exec (.watchdogRestartDone ⟨ce, false⟩) s = .next ((s.modDev (fun d => { d with restarting := false })).bumpBy Me.ROM_CE_CNT ce)) ∧
    (∀ ce : Nat, s.dev.restarting = true →
      exec (.watchdogRestartDone ⟨ce, true⟩) s = .next
        ((s.modDev (fun d => { d with restarting := false, romStop := true })).bumpBy Me.ROM_CE_CNT ce)) ∧
    (∀ (ce : Nat) (p : Port) (idx sub : Nat), s.dev.restarting = true → s.dev.romStop = false → s.dev.dbgHalt = false → s.deferred = [.sdoUpload p idx sub] →
      exec (.watchdogRestartDone ⟨ce, false⟩) s = .next
        (((State.modDev { s with deferred := [] } (fun d => { d with restarting := false })).bumpBy Me.ROM_CE_CNT ce).sdoRead p idx
          sub).settle) ∧
    (∀ (p : Port) (idx sub : Nat) (data : List Byte), s.serves p = true → s.spDown = true →
      exec (.sdoDownload p idx sub data) s = .next { s with deferred := s.deferred ++ [.sdoDownload p idx sub data] } ∧
      exec (.sdoUpload p idx sub) s = .next { s with deferred := s.deferred ++ [.sdoUpload p idx sub] }) ∧
    (s.dev.supResend = true → s.dev.supCmd.all (fun c => !c.held) = true →
      exec .supervisorResend s = .next ((s.modDev (fun d => { d with supResend := false, supFails := 0 })).emit (.supervisor true))) ∧
    (∀ (n : Ch) (c : SwitchCmd), s.dev.supResend = true → s.dev.supCmd = some c → c.ch = (n : Nat) → c.held = true → c.close = false →
      ∃ t, exec .supervisorResend s = .next t ∧ t.has (Lv.HV_ON n) = false ∧ (t.ch[n]).drive.bleeding = true ∧ t.dev.supResend = false ∧
        t.dev.supFails = 0 ∧ Out.supervisor true ∈ t.out))

/-- Once the reset is released: the third consecutive supervisor link failure (bit 4, 0x5031), a supply out of its window
(bits 2 and 3; a low VDDIO_33 also holds the messages of CAN FD back), VHV out of its window at a closed switch (bit 1,
0x3210) and a die above its limit (bit 0, 0x4220) each run the SAFE entry; and so do, once CAN FD is enabled, loss of PLL lock
(bit 5, 0x5040) and a second watchdog expiry within 10 s (bit 6, 0x6010). While the reset is held a supply fault and a hot die
do nothing: that is the model's reading (log entry 43). A first class S cause sets its SAFE_COND bit; every channel in IDLE,
RUN or READMITTING becomes STOPPING with its traverse stopped and its rails on their way to LV0, after which its VHV switch
opens and its reservoirs bleed, so the entry waits for them; retiring and retired channels keep their state. When no channel
has anything to bleed the device is in SAFE at once, its SAFE_CAUSE is the code if it was 0. -/
def Obligations.DeviceFaultsEnterSafe : Prop :=
  (∀ (s : State), s.alive = true →
    (s.canTimed = true → exec .pllLockLost s = .next ((s.modDev (fun d => { d with pll := false })).enterSafe 5 0x5040 4).settle) ∧
    (∀ (w : Fin 4), exec (.supplyFault w) s = .next (if w = 3 then s.enterSafe 2 0x3230 4
      else if w = 2 then (s.enterSafe 3 0x3240 4).modDev (fun d => { d with ioLow := true }) else s.enterSafe 3 0x3240 4).settle) ∧
    (∀ n : Ch, s.has (Lv.HV_ON n) = true → exec (.vhvOutOfRange n) s = .next (s.enterSafe 1 0x3210 4).settle) ∧
    (∀ drive : Bool, ∃ t, exec (.dieTrip drive) s = .next t ∧ bit (t.get Su.SAFE_COND) 0 = true ∧
      (t.dev.safe = true ∨ t.dev.safeEntry.isSome = true)) ∧
    (∀ (tick t0 : Tick) (rom : RomView), s.canTimed = true → s.dev.dbgHalt = false → s.datum.bootSrc ≠ 0 → s.dev.wdAt = some t0 →
      max s.tb tick ≤ t0 + 10 * 9600000000 →
      exec (.watchdogExpiry tick rom) s = .next
        (((s.at tick).modDev (fun d => { d with wdAt := some (s.at tick).tb, romStop := false })).enterSafe 6 0x6010 4).settle) ∧
    (∀ tick : Tick, s.dev.supFails = 2 → s.dev.supCmd = none →
      exec (.supervisorLinkFailure tick) s = .next
        ((((s.at tick).modDev (fun d => { d with supFails := 0, supResend := true })).bump (objFld 0x5010 3 16 0)).enterSafe 4 0x5031
          4).settle)) ∧
  (∀ (s : State), s.rests = true → s.alive = false →
    (∀ w : Fin 4, exec (.supplyFault w) s = .next s) ∧ (∀ drive : Bool, exec (.dieTrip drive) s = .next s)) ∧
  (∀ (s : State) (b : Fin 9) (code reason : Nat), code < 2 ^ 16 → s.dev.safe = false → s.dev.safeEntry = none → s.benchOn = false → s.dev.retires = [] →
    let t := s.enterSafe b code reason
    bit (t.get Su.SAFE_COND) b = true ∧
    (∀ n : Ch, (s.chSt n = .idle ∨ s.chSt n = .run ∨ s.chSt n = .readmitting) →
      t.chSt n = .stopping ∧ (t.ch[n]).drive.bleeding = true ∧ (t.ch[n]).trav.st = .stopped ∧
      ((s.ch[n]).drive.bleeding = false → t.has (Lv.PRECHG n) = false ∧
        ((t.ch[n]).drive.openAt = none ∧ t.has (Lv.HV_ON n) = false ∨ s.tb < (t.ch[n]).drive.openAt.getD 0))) ∧
    (∀ n : Ch, (s.chSt n = .retiring ∨ s.chSt n = .retired) → t.chSt n = s.chSt n) ∧
    ((∃ n : Ch, s.chSt n = .idle ∨ s.chSt n = .run ∨ s.chSt n = .readmitting) →
      t.dev.safe = false ∧ t.dev.safeEntry = some (code, b.val)) ∧
    ((∀ n : Ch, s.chSt n = .off ∧ s.has (Lv.HV_ON n) = false) →
      t.dev.safe = true ∧ t.dev.safeEntry = none ∧ (s.get Su.SAFE_CAUSE = 0 → t.get Su.SAFE_CAUSE = code)))

/-- A release reads the node ID and notes a power-on reset if none is recorded. PLL lock then builds the datum block, puts the
token where TOKEN_PCIE says and leaves the scratchpad clear. The firmware start locks the datum, leaves INITIALISING and
begins the benchmark run; the run's end, once every channel of it is up, leaves the device up. The boot slot is the one that
R489 finds good. A release, a firmware start and an end of the run out of their order do nothing: that is the model's own
choice (log entry 2). -/
def Obligations.StartUpInOrder : Prop :=
  ∀ (s : State),
    (∀ node : BitVec 7, s.rests = true → s.dev.boot = .held →
      ∃ t, exec (.resetRelease node) s = .next t ∧ t.can.nodeId = node.toNat ∧ t.dev.boot = .released ∧
      t.get Su.RESET_SRC = (if s.get Su.RESET_SRC = 0 then 1 else s.get Su.RESET_SRC) ∧
      t = { s with regs := t.regs, can := { s.can with nodeId := node.toNat }, dev := { s.dev with boot := .released } }) ∧
    (∀ node : BitVec 7, s.rests = true → s.dev.boot ≠ .held → exec (.resetRelease node) s = .next s) ∧
    (s.rests = true → s.dev.boot = .released →
      ∃ t, exec .pllLock s = .next t ∧ t.dev.boot = .locked ∧ t.dev.pll = true ∧ t.sp = [] ∧ t.datum.lc = s.lcFuses ∧
      t.dev.token = (if bit (s.otpValue 3072) 0 then .pcie else .can) ∧ t.regs = s.regs ∧ t.ch = s.ch) ∧
    (s.rests = true → s.dev.boot = .up → exec .pllLock s = .next (s.modDev (fun d => { d with pll := true }))) ∧
    (∀ v : BootView, s.rests = true → s.dev.boot ≠ .locked → exec (.firmwareStart v) s = .next s) ∧
    (s.rests = true → s.benchOn = false → exec .benchmarkRunEnd s = .next s) ∧
    (∀ v : BootView, s.rests = true → s.dev.boot = .locked →
      ∃ t, exec (.firmwareStart v) s = .next t ∧ t.datum.locked = true ∧ (t.dev.boot = .benchmark ∨ t.dev.boot = .up) ∧
      (t.dev.boot = .up → t.dev.safe = true ∨ t.dev.safeEntry.isSome = true) ∧ t.datum.bootSrc = s.bootSlotOf ∧
      t.can.nmt = .preOp) ∧
    (s.rests = true → s.dev.boot = .benchmark → s.dev.safeRun = none →
      (∀ n : Ch, s.chSt n = .off → s.has (Lv.PRECHG n) = true ∧ s.linkUp n = true ∧ (s.ch[n]).kept = []) →
      ∃ t, exec .benchmarkRunEnd s = .next t ∧ t.dev.boot = .up ∧
      (∀ n : Ch, s.chSt n = .off → s.has (Lv.BAL_OK n) = true → (s.dev.tests[(n : Nat)]?).all (fun t => t.leakOk) = true →
        t.chSt n = .idle ∧ t.get (Su.BM_RES n) = 0))

/-- RESET_N low, a brown-out and, while no channel is busy and the node has left initialisation, NMT Reset Node return every
register to its reset value but RESET_SRC, which names the reset; OTP words and lock rows, the parameter copies (but for the
one that a save was writing), what the firmware slots hold, the levels of the pins and the node ID stay, and the slot that an
update named becomes the boot slot (log entry 71 has what a slot holds as delivered); channels, DMA, memory and queues are as
after reset, but that the rails stand where they stood; the device waits for the release, after NMT Reset Node for the PLL.
Before the first release after the supplies rise, RESET_N low leaves that release to be recorded as the power-on reset. After
a reset the supervisor, whose link is silent, ramps every channel's rails to LV0 at 200 ns per step, and then opens its switch
while its reservoirs bleed. -/
def Obligations.DeviceResetsKeepOtpAndFlash : Prop :=
  ∀ (s : State),
    (∀ (c : Instr) (src : Nat) (b : BootStage),
      (c, src, b) ∈ [(Instr.resetNLow, 2, BootStage.held), (Instr.brownOut, 3, .held), (Instr.nmtResetNode, 4, .released)] →
      (c = .nmtResetNode → s.anyBusy = false ∧ s.canUp = true ∧ s.can.nmt ≠ .init) → (s.dev.boot = .held → s.get Su.RESET_SRC ≠ 0) →
      ∃ t, exec c s = .next t ∧ (∀ f : Fld, f.key ≠ Su.RESET_SRC.key → t.get f = f.rst ∧ t.eff f = f.rst) ∧ t.get Su.RESET_SRC = src ∧
      t.otp.words = s.otp.words ∧ t.otp.rows = s.otp.rows ∧ t.otp.arm = none ∧ t.flash.slots = s.flash.slots ∧
      (s.flash.saving = none → t.flash.copies = s.flash.copies) ∧
      (∀ v : Saving, s.flash.saving = some v → s.tb < v.due → t.flash.copies = s.flash.copies.set s.flash.older none) ∧
      t.flash.bootSlot = s.flash.nextBoot ∧ t.flash.nextBoot = s.flash.nextBoot ∧ t.can.nodeId = s.can.nodeId ∧
      (∀ m : Cun, (t.cu[m]).a = (s.cu[m]).a ∧ (t.cu[m]).b = (s.cu[m]).b ∧ (t.cu[m]).swHome = (s.cu[m]).swHome ∧
        (t.cu[m]).swLimP = (s.cu[m]).swLimP ∧ (t.cu[m]).swLimN = (s.cu[m]).swLimN ∧ (t.cu[m]).pos = 0) ∧
      t.pcie.perst = s.pcie.perst ∧ t.dev.tamperLow = s.dev.tamperLow ∧
      (∀ n : Ch, t.ch[n] = { Chan.reset with drive := { Drive.reset with
        railF := (s.ch[n]).drive.railF.rest s.tb, railW := (s.ch[n]).drive.railW.rest s.tb } }) ∧
      t.dma = State.reset.dma ∧ t.sp = [] ∧ t.epoch = .openE ∧ t.dev.boot = b ∧ t.pending = s.pending ∧ t.out = s.out) ∧
    (s.dev.boot = .held → s.get Su.RESET_SRC = 0 →
      ∃ t, exec .resetNLow s = .next t ∧ t.get Su.RESET_SRC = 0 ∧ t.dev.boot = .held) ∧
    (s.rests = true → (s.dev.boot = .held ∨ s.dev.boot = .released ∨ s.dev.boot = .locked) →
      ∃ t, exec .supervisorLinkSilent s = .next t ∧
      (∀ n : Ch, (s.ch[n]).drive.bleeding = false →
        t.has (Lv.PRECHG n) = false ∧ (t.ch[n]).drive.railsRest = false ∧ (t.ch[n]).drive.bleeding = true ∧
        ((s.ch[n]).drive.railF.levelAt s.tb = 0 → (s.ch[n]).drive.railW.levelAt s.tb = 0 → t.has (Lv.HV_ON n) = false) ∧
        (0 < (s.ch[n]).drive.railF.levelAt s.tb ∨ 0 < (s.ch[n]).drive.railW.levelAt s.tb →
          (t.ch[n]).drive.openAt = some (s.tb + 1920 * max ((s.ch[n]).drive.railF.levelAt s.tb) ((s.ch[n]).drive.railW.levelAt s.tb)))) ∧
      (∀ n : Ch, (t.ch[n]).lines = (s.ch[n]).lines ∧ t.chSt n = s.chSt n) ∧
      t = { s with regs := t.regs, ch := t.ch, out := t.out, dev := t.dev })

/-- A supply's condition clears its SAFE_COND bit and no other; a condition that does not stand changes nothing, which is the
model's choice (log entry 2). With no condition left, SafeExit over BAR0 or a port begins a benchmark run that leaves the
device in SAFE. The run is over once no channel of it still precharges or trains: a channel that is OFF and passes its last
test is then IDLE with outcome 0, the others keep their states, the device leaves SAFE, SAFE_CAUSE is cleared, the change of
the device state is reported as cause 3 and the request of a port is answered. With a condition standing, or out of SAFE,
SafeExit is refused. -/
def Obligations.SafeLeavesByItsExit : Prop :=
  ∀ (s : State),
    (∀ i : Fin 9, s.rests = true → 1 ≤ (i : Nat) → (i : Nat) ≤ 3 → bit (s.get Su.SAFE_COND) i = true →
      ∃ t, exec (.safeConditionClear i) s = .next t ∧ bit (t.get Su.SAFE_COND) i = false ∧
      (∀ j, j < 9 → j ≠ (i : Nat) → bit (t.get Su.SAFE_COND) j = bit (s.get Su.SAFE_COND) j) ∧
      t.dev = { s.dev with ioLow := s.dev.ioLow && decide ((i : Nat) ≠ 3) } ∧ t.ch = s.ch) ∧
    (∀ i : Fin 9, s.rests = true → bit (s.get Su.SAFE_COND) i = false → exec (.safeConditionClear i) s = .next s) ∧
    (∀ (v : BenchView), s.barOpen = true → s.holds .pcie = true → s.safeExitRefused = none →
      exec (.safeExit v .reg) s = .next (((s.modDev (fun d => { d with safeRun := some none })).benchStart v false)).settle) ∧
    (∀ (v : BenchView) (p : Port), s.serves p = true → s.spDown = false → s.holds p = true → s.safeExitRefused = none →
      exec (.safeExit v (.obj p)) s = .next (((s.modDev (fun d => { d with safeRun := some (some p) })).benchStart v false)).settle) ∧
    (∀ (v : BenchView) (p : Port), s.rests = true → s.reached (.obj p) = true → s.safeExitRefused ≠ none →
      exec (.safeExit v (.obj p)) s = .next (s.answer p 0x2000 8 abState)) ∧
    (∀ (v : BenchView), s.rests = true → s.barOpen = true → s.holds .pcie = true → s.safeExitRefused ≠ none →
      exec (.safeExit v .reg) s = .next (s.flag Su.WREJ)) ∧
    (∀ o : Option Port, s.rests = true → s.dev.safeRun = some o → s.dev.safe = true →
      (∀ n : Ch, s.chSt n = .off → s.has (Lv.PRECHG n) = true ∧ s.linkUp n = true ∧ (s.ch[n]).kept = [] ∧
        (s.dev.tests[(n : Nat)]?).all (fun x => x.leakOk) = true) →
      ∃ t, exec .benchmarkRunEnd s = .next t ∧ t.dev.safe = false ∧ t.dev.safeRun = none ∧ t.get Su.SAFE_CAUSE = 0 ∧
      (∀ n : Ch, s.chSt n = .off → t.chSt n = .idle ∧ t.get (Su.BM_RES n) = 0) ∧ (∀ n : Ch, s.chSt n ≠ .off → t.chSt n = s.chSt n) ∧
      (s.pcie.on = true → s.pcie.perst = false → bit (t.get Ho.INT_STAT) 3 = true) ∧
      (∀ p : Port, o = some p → p = .can → Out.sdo p 0x2000 8 0 ∈ t.out)) ∧
    (∀ n : Ch, s.rests = true → s.dev.safeRun.isSome = true → s.chSt n = .off → (s.has (Lv.PRECHG n) = false ∨ s.linkUp n = false) →
      exec .benchmarkRunEnd s = .next s)

/-- A request for STANDBY that nothing refuses puts the device in STANDBY and ramps the rails of every IDLE channel to LV0,
after which its switch opens and it bleeds; PD_PIX waits for them. With none IDLE PD_PIX parks, the request is answered and
PD_HOST is due to park. The parking resets the host side; one that is not due does nothing, which is the model's choice (log
entry 2). A wake powers PD_HOST and the channels up again, and ends when no channel is OFF: the device is then in IDLE or RUN.
In a device that is not in STANDBY a wake is answered and changes nothing but PowerStateRequest. -/
def Obligations.StandbyAndWakeComplete : Prop :=
  ∀ (s : State),
    (∀ p : Port, s.rests = true → s.reached (.obj p) = true → s.standbyRefused = none → s.dev.standby = false →
      ∃ t, exec (.standbyRequest p) s = .next t ∧ t.dev.standby = true ∧
      (∀ n : Ch, s.chSt n = .idle → (t.ch[n]).drive.bleeding = true ∧ ((s.ch[n]).drive.bleeding = false → t.has (Lv.PRECHG n) = false ∧
        ((t.ch[n]).drive.openAt = none ∧ t.has (Lv.HV_ON n) = false ∨ s.tb < (t.ch[n]).drive.openAt.getD 0))) ∧
      ((∃ n : Ch, s.chSt n = .idle) → t.dev.standbyWait.isSome = true ∧ t.pix.on = s.pix.on) ∧
      ((∀ n : Ch, s.chSt n ≠ .idle) → t.dev.hostParkDue = true ∧ t.dev.standbyWait = none ∧ t.pix.on = false)) ∧
    (s.rests = true → s.dev.hostParkDue = true →
      ∃ t, exec .hostPark s = .next t ∧ t.pcie.on = false ∧ t.pcie.linkUp = false ∧ t.dev.hostParkDue = false ∧
      t.get Ho.INT_EN = 0 ∧ t.dev.expPcie = false) ∧
    (s.rests = true → s.dev.hostParkDue = false → exec .hostPark s = .next s) ∧
    (∀ p : Port, s.rests = true → s.reached (.obj p) = true → s.inBenchmark = false → s.dev.safe = false → s.dev.safeEntry = none →
      s.dev.standby = false →
      exec (.wake (some p)) s = .next ((s.put Pr.PWR_REQ 1).answer p 0x2000 3 0)) ∧
    (s.rests = true → s.dev.standby = true →
      ∃ t, exec (.wake none) s = .next t ∧ t.dev.waking.isSome = true ∧ t.pcie.on = true ∧ t.pcie.perst = true ∧
      t.dev.hostParkDue = false) ∧
    (s.dev.waking = some none → (s.modDev (fun d => { d with waking := none })).rests = true → s.dev.standbyWait = none → (∀ n : Ch, s.chSt n ≠ .off) →
      ∃ t, exec .wakeDone s = .next t ∧ t.dev.standby = false ∧ t.dev.waking = none ∧ (∀ n : Ch, t.chSt n = s.chSt n))

/-- With the device at rest, the port open and holding the token, and no channel in RUN on the unit: HOME_GO (mode 1 or 3, or
Z_EN set) starts homing; PRESET moves the unit to HOMEPOS, sets HOMED, and has its armed stakes judged again; HOME_CANCEL ends
homing and leaves the position, over BAR0 in RUN too. Nothing else changes but the answer to an object write. At the
qualifying event of homing the position is HOMEPOS, HOMING reads 0, HOMED reads 1, homing has ended; the other units keep
their positions. Written while no channel in RUN reads the unit, new values of SRC and INV_DIR are taken; when one of them
changes, the position is 0, HOMED and HOMING clear, STILL is set, the edge period is invalid and every stake on the unit is
disarmed without LATE. A write that changes neither leaves the unit. That PRESET does not end a homing that runs, that a unit
which is off takes HOMEPOS too, and that a lost SSI unit takes a new reference from its next good frame are the model's
choices (log entry 28). -/
def Obligations.HomingComplete : Prop :=
  ((∀ (s : State) (n : Cun), s.rests = true → s.barOpen = true → s.holds .pcie = true →
      (s.cuInRun n = false → (s.has (Cu.Z_EN n) = true ∨ s.get (Cu.HOME_MODE n) % 2 = 1) →
        exec (.homeGo n .reg) s = .next
          (((s.modCu n (fun c => { c with homing := some false })).flag (Cu.HOMING n)))) ∧
      (s.cuInRun n = false →
        exec (.preset n .reg) s = .next
          (((((s.modCu n (fun c => { c with pos := s.homePos n, ssiAnew := c.ssiAnew || c.ssiLost })).flag (Cu.HOMED n)).camPos n).stakesJudge n))) ∧
      (s.cuInRun n = false →
        exec (.homeCancel n .reg) s = .next
          (((s.modCu n (fun c => { c with homing := none })).unflag (Cu.HOMING n))))) ∧
  (∀ (s : State) (n : Cun) (p : Port), s.rests = true → s.serves p = true → s.spDown = false → s.holds p = true →
      (s.cuInRun n = false → (s.has (Cu.Z_EN n) = true ∨ s.get (Cu.HOME_MODE n) % 2 = 1) →
        exec (.homeGo n (.obj p)) s = .next
          (((s.modCu n (fun c => { c with homing := some false })).flag (Cu.HOMING n)).answer p (0x2100 + n) 0x0A 0)) ∧
      (s.cuInRun n = false →
        exec (.preset n (.obj p)) s = .next
          (((((s.modCu n (fun c => { c with pos := s.homePos n, ssiAnew := c.ssiAnew || c.ssiLost })).flag (Cu.HOMED n)).camPos n).stakesJudge n).answer p (0x2100 + n) 0x0A 0)) ∧
      (s.cuInRun n = false →
        exec (.homeCancel n (.obj p)) s = .next
          (((s.modCu n (fun c => { c with homing := none })).unflag (Cu.HOMING n)).answer p (0x2100 + n) 0x0A 0))) ∧
  (∀ (s : State) (n : Cun), s.rests = true → s.barOpen = true → s.holds .pcie = true →
    exec (.homeCancel n .reg) s = .next ((s.modCu n (fun c => { c with homing := none })).unflag (Cu.HOMING n)))) ∧
  (∀ (s : State) (n : Cun),
    ((s.homeDone n).cu[n]).pos = s.homePos n ∧ ((s.homeDone n).cu[n]).homing = none ∧
    (s.homeDone n).has (Cu.HOMING n) = false ∧ (s.homeDone n).has (Cu.HOMED n) = true ∧
    (∀ m, m ≠ n → (s.homeDone n).cu[m] = s.cu[m]) ∧ (s.homeDone n).tb = s.tb ∧ (s.homeDone n).ch = s.ch) ∧
  ((∀ (s : State) (n : Cun) (src : BitVec 2) (inv : Bool), s.rests = true → s.cuInRun n = false → src ≠ 3 → s.barOpen = true → s.holds .pcie = true →
      ∃ t, exec (.cuSourceWrite n src inv .reg) s = .next t ∧ t.get (Cu.SRC n) = src.toNat ∧ t.has (Cu.INV_DIR n) = inv ∧
        (¬(s.get (Cu.SRC n) = src.toNat ∧ s.has (Cu.INV_DIR n) = inv) →
          (t.cu[n]).pos = 0 ∧ t.has (Cu.HOMED n) = false ∧ t.has (Cu.HOMING n) = false ∧ (t.cu[n]).homing = none ∧
          (t.cu[n]).still = true ∧ (t.cu[n]).ivs = [] ∧
          (∀ i, s.stkCu i = n → (t.stake[i]).armed = false ∧ t.get (St.LATE i) = s.get (St.LATE i))) ∧
        (s.get (Cu.SRC n) = src.toNat ∧ s.has (Cu.INV_DIR n) = inv → t.cu = s.cu ∧ t.stake = s.stake) ∧
        (∀ m, m ≠ n → t.cu[m] = s.cu[m]) ∧ (∀ i, s.stkCu i ≠ n → t.stake[i] = s.stake[i]) ∧ t.ch = s.ch ∧ t.tb = s.tb) ∧
  (∀ (s : State) (n : Cun) (src : BitVec 2) (inv : Bool) (p : Port), s.rests = true → s.cuInRun n = false → src ≠ 3 → s.serves p = true → s.spDown = false → s.holds p = true →
      ∃ t, exec (.cuSourceWrite n src inv (.obj p)) s = .next t ∧ t.get (Cu.SRC n) = src.toNat ∧ t.has (Cu.INV_DIR n) = inv ∧
        (¬(s.get (Cu.SRC n) = src.toNat ∧ s.has (Cu.INV_DIR n) = inv) →
          (t.cu[n]).pos = 0 ∧ t.has (Cu.HOMED n) = false ∧ t.has (Cu.HOMING n) = false ∧ (t.cu[n]).homing = none ∧
          (t.cu[n]).still = true ∧ (t.cu[n]).ivs = [] ∧
          (∀ i, s.stkCu i = n → (t.stake[i]).armed = false ∧ t.get (St.LATE i) = s.get (St.LATE i))) ∧
        (s.get (Cu.SRC n) = src.toNat ∧ s.has (Cu.INV_DIR n) = inv → t.cu = s.cu ∧ t.stake = s.stake) ∧
        (∀ m, m ≠ n → t.cu[m] = s.cu[m]) ∧ (∀ i, s.stkCu i ≠ n → t.stake[i] = s.stake[i]) ∧ t.ch = s.ch ∧ t.tb = s.tb))

/-- ARM judges the stake with its present target; DISARM disarms it; a target write gives it its target and judges it; a write
of unit and direction takes both values, disarms the stake without LATE exactly when one of them changes, and touches nothing
but that stake, the registers and the answer. -/
def Obligations.StakeCommandsComplete : Prop :=
  (∀ (s : State) (i : Stk), s.rests = true → s.barOpen = true → s.holds .pcie = true →
      exec (.arm i .reg) s = .next ((s.stakeArm i)) ∧
      exec (.disarm i .reg) s = .next
        (((s.modStk i (fun k => { k with armed := false, lateDue := false })).unflag (St.ARMED i))) ∧
      (∀ tgt : Pos, ∃ t, exec (.stakeTargetWrite i tgt .reg) s = .next t ∧
        let u := ((s.putPair (St.TGT_LO i) (St.TGT_HI i) tgt.toNat).modStk i (fun k => { k with tgt := tgt })).stakeArm i
        t.stake = u.stake ∧ (∀ f, t.get f = (u).get f) ∧
        t = { (u) with regs := t.regs }) ∧
      (∀ (cu : Cun) (dir : BitVec 2), dir ≠ 3 → ¬(dir = 2 ∧ s.get (St.REPEAT i) ≠ 0) →
        ∃ t, exec (.stakeConfigWrite i cu dir .reg) s = .next t ∧
        t.get (St.CU i) = cu ∧ t.get (St.DIR i) = dir.toNat ∧ t.get (St.LATE i) = s.get (St.LATE i) ∧
        (s.get (St.CU i) = cu ∧ s.get (St.DIR i) = dir.toNat → t.stake = s.stake ∧ t.get (St.ARMED i) = s.get (St.ARMED i)) ∧
        (¬(s.get (St.CU i) = cu ∧ s.get (St.DIR i) = dir.toNat) →
          t.stake = s.stake.set i { s.stake[i] with armed := false, lateDue := false } ∧ t.has (St.ARMED i) = false) ∧
        t = { s with regs := t.regs, stake := t.stake, out := t.out, pcie := t.pcie })) ∧
  (∀ (s : State) (i : Stk) (p : Port), s.rests = true → s.serves p = true → s.spDown = false → s.holds p = true →
      exec (.arm i (.obj p)) s = .next ((s.stakeArm i).answer p (0x2200 + i) 5 0) ∧
      exec (.disarm i (.obj p)) s = .next
        (((s.modStk i (fun k => { k with armed := false, lateDue := false })).unflag (St.ARMED i)).answer p (0x2200 + i) 5 0) ∧
      (∀ tgt : Pos, ∃ t, exec (.stakeTargetWrite i tgt (.obj p)) s = .next t ∧
        let u := ((s.putPair (St.TGT_LO i) (St.TGT_HI i) tgt.toNat).modStk i (fun k => { k with tgt := tgt })).stakeArm i
        t.stake = u.stake ∧ (∀ f, t.get f = (u.answer p (0x2200 + i) 3 0).get f) ∧
        t = { (u.answer p (0x2200 + i) 3 0) with regs := t.regs }) ∧
      (∀ (cu : Cun) (dir : BitVec 2), dir ≠ 3 → ¬(dir = 2 ∧ s.get (St.REPEAT i) ≠ 0) →
        ∃ t, exec (.stakeConfigWrite i cu dir (.obj p)) s = .next t ∧
        t.get (St.CU i) = cu ∧ t.get (St.DIR i) = dir.toNat ∧ t.get (St.LATE i) = s.get (St.LATE i) ∧
        (s.get (St.CU i) = cu ∧ s.get (St.DIR i) = dir.toNat → t.stake = s.stake ∧ t.get (St.ARMED i) = s.get (St.ARMED i)) ∧
        (¬(s.get (St.CU i) = cu ∧ s.get (St.DIR i) = dir.toNat) →
          t.stake = s.stake.set i { s.stake[i] with armed := false, lateDue := false } ∧ t.has (St.ARMED i) = false) ∧
        t = { s with regs := t.regs, stake := t.stake, out := t.out, pcie := t.pcie }))

/-- A stake armed with a target not yet reached is armed and its ARMED bit reads 1. With its hit condition already met it is
disarmed without a hit, sets LATE and pulses source 0x3F while LATE_POL is 0; with LATE_POL = 1 it stays armed and owes its
hit. Neither changes any other stake or its own target, and HITCNT stays. A hit of stake i at a tick pulses source 0x11 + i,
increments HITCNT modulo its width, puts the tick into HITTIME and, with REPEAT 0, leaves the stake disarmed with its target;
with REPEAT it moves its target on by REPEAT in its direction and is armed again, or is late at once. A quadrature edge on
whose unit one stake is armed hits it when the new position meets its hit condition, and leaves it armed otherwise. The hit
that FIRE_NOW owes is taken at the end of the present cycle, sets FIRED_LATE, and reaches traverses and strips. That of the
two pulses of a late hit the hit's own is the first is the model's choice (log entry 28). -/
def Obligations.StakeJudgedAndHitOnce : Prop :=
  (∀ (s : State) (i : Stk),
    (s.hitHolds i none = false →
      s.stakeArm i = (s.modStk i (fun k => { k with armed := true, lateDue := false })).flag (St.ARMED i)) ∧
    (s.hitHolds i none = true → s.has (St.LATE_POL i) = true →
      ((s.stakeArm i).stake[i]).armed = true ∧ ((s.stakeArm i).stake[i]).lateDue = true ∧ (s.stakeArm i).inFlight = s.inFlight) ∧
    (s.hitHolds i none = true → s.has (St.LATE_POL i) = false →
      ((s.stakeArm i).stake[i]).armed = false ∧ ((s.stakeArm i).stake[i]).lateDue = false ∧
      (s.stakeArm i).has (St.LATE i) = true ∧ (s.stakeArm i).has (St.ARMED i) = false ∧
      (s.stakeArm i).inFlight = s.inFlight ++ [(0x3F, s.tb + 32)]) ∧
    ((s.stakeArm i).stake[i]).tgt = (s.stake[i]).tgt ∧ (∀ j, j ≠ i → (s.stakeArm i).stake[j] = s.stake[j]) ∧
    (s.stakeArm i).get (St.HITCNT i) = s.get (St.HITCNT i) ∧ (s.stakeArm i).cu = s.cu ∧ (s.stakeArm i).ch = s.ch) ∧
  ((∀ (s : State) (i : Stk) (t : Tick), s.get (St.REPEAT i) = 0 →
    (s.stakeHit i t).inFlight = s.inFlight ++ [(0x11 + (i : Nat), s.tb + 32)] ∧
    (s.stakeHit i t).get (St.HITCNT i) = (s.get (St.HITCNT i) + 1) % (St.HITCNT i).card ∧
    (s.stakeHit i t).get (St.HITTIME i) = t % 2 ^ 32 ∧
    (s.stakeHit i t).stake = s.stake.set i { s.stake[i] with armed := false, lateDue := false } ∧
    (s.stakeHit i t).has (St.ARMED i) = false ∧
    s.stakeHit i t = { s with regs := (s.stakeHit i t).regs, stake := (s.stakeHit i t).stake, inFlight := (s.stakeHit i t).inFlight }) ∧
  (∀ (s : State) (i : Stk) (t : Tick), s.get (St.REPEAT i) ≠ 0 →
    (s.stakeHit i t).get (St.HITCNT i) = (s.get (St.HITCNT i) + 1) % (St.HITCNT i).card ∧ (s.stakeHit i t).get (St.HITTIME i) = t % 2 ^ 32 ∧
    ((s.stakeHit i t).stake[i]).tgt = (if s.get (St.DIR i) = 1 then (s.stake[i]).tgt - BitVec.ofNat 48 (s.get (St.REPEAT i))
      else (s.stake[i]).tgt + BitVec.ofNat 48 (s.get (St.REPEAT i))) ∧
    (((s.stakeHit i t).stake[i]).armed = true ∨ (s.stakeHit i t).has (St.LATE i) = true) ∧
    (s.stakeHit i t).inFlight.take (s.inFlight.length + 1) = s.inFlight ++ [(0x11 + (i : Nat), s.tb + 32)] ∧
    (∀ j, j ≠ i → (s.stakeHit i t).stake[j] = s.stake[j])) ∧
  (∀ (s : State) (n : Cun) (a b : Bool) (tick : Tick) (i : Stk), (s.at tick).rests = true → s.get (Cu.SRC n) = 0 →
    (a ≠ (s.cu[n]).a ↔ b = (s.cu[n]).b) → (s.stake[i]).armed = true → (s.stake[i]).lateDue = false → s.stkCu i = n → s.get (St.REPEAT i) = 0 →
    (∀ j, (s.stake[j]).armed = true → s.stkCu j = n → j = i) → (∀ m : Ch, s.chCu m = n → (s.ch[m]).trav.st = .stopped) →
    let fwd := (if a ≠ (s.cu[n]).a then decide (a ≠ b) else decide (a = b)) != s.has (Cu.INV_DIR n)
    let p := if fwd then (s.cu[n]).pos + 1 else (s.cu[n]).pos - 1
    let u := s.modCu n (fun c => { c with pos := p })
    (u.hitHolds i (some (s.cu[n]).pos) = true →
      ∃ t, exec (.quadTransition n a b tick) s = .next t ∧ (t.cu[n]).pos = p ∧ (t.stake[i]).armed = false ∧
        t.get (St.HITCNT i) = (s.get (St.HITCNT i) + 1) % (St.HITCNT i).card ∧ t.get (St.HITTIME i) = tick % 2 ^ 32 ∧
        t.inFlight = s.inFlight ++ [(0x11 + (i : Nat), max s.tb tick + 32)] ∧ (∀ j, j ≠ i → t.stake[j] = s.stake[j])) ∧
    (u.hitHolds i (some (s.cu[n]).pos) = false →
      ∃ t, exec (.quadTransition n a b tick) s = .next t ∧ (t.cu[n]).pos = p ∧ t.stake = s.stake ∧ t.inFlight = s.inFlight ∧
        t.get (St.HITCNT i) = s.get (St.HITCNT i))) ∧
  (∀ (s : State) (i : Stk), (s.stake[i]).lateDue = true →
    let u := s.at (cycleEnd s.tb)
    exec (.firedLate i) s = .next
      (((((u.stakeHit i u.tb).flag (St.FIRED_LATE i)).stakeLate i).hitsOut [⟨i, (s.stake[i]).tgt, u.tb⟩])).settle))

/-- On a unit in quadrature mode on which no stake is armed and whose traverses are stopped, a transition of one level moves
the position by one edge in the direction of the levels and INV_DIR, ends STILL, and counts in the window; a change of both
levels leaves the position, increments QERR_CNT and voids the running interval. No register of another block, no other unit
and no stake changes. On a unit in SSI mode a frame start keeps the tick of its first falling edge and sends the clock. A
frame whose line is low or whose check fails is rejected: counted, and the position stays; the third in a row loses the
sensor, with no valid interval. The first good frame after a reset of the unit gives the position its decoded value, and ends
a loss. A later good frame whose difference, taken modulo 2^SSI_BITS as a signed number, is not above MAX_JUMP moves the
position by it; one above it is rejected. Other units stay. The hits of armed stakes and the schedules of traverses are stated
apart. That a change of both levels is no edge for STILL and the window, that the first accepted frame counts as none, and
that INV_DIR does not act on an SSI difference are the model's (log entry 28). -/
def Obligations.EdgesAndFramesMove : Prop :=
  (∀ (s : State) (n : Cun) (a b : Bool) (tick : Tick), (s.at tick).rests = true → s.get (Cu.SRC n) = 0 → s.quietUnit n = true →
    (a ≠ (s.cu[n]).a → b ≠ (s.cu[n]).b →
      exec (.quadTransition n a b tick) s = .next
        (((s.at tick).modCu n (fun c => { c with a := a, b := b, lastT := none })).bump (Cu.QERR_CNT n))) ∧
    ((a ≠ (s.cu[n]).a ↔ b = (s.cu[n]).b) →
      ∃ t, exec (.quadTransition n a b tick) s = .next t ∧
      let fwd := (if a ≠ (s.cu[n]).a then decide (a ≠ b) else decide (a = b)) != s.has (Cu.INV_DIR n)
      (t.cu[n]).pos = (if fwd then (s.cu[n]).pos + 1 else (s.cu[n]).pos - 1) ∧
      (t.cu[n]).a = a ∧ (t.cu[n]).b = b ∧ (t.cu[n]).still = false ∧ (t.cu[n]).dir = some (!fwd) ∧
      (t.cu[n]).lastT = some tick ∧ (t.cu[n]).winCnt = (s.cu[n]).winCnt + (if fwd then 1 else -1) ∧
      (∀ m, m ≠ n → t.cu[m] = s.cu[m]) ∧ t = { s with tb := max s.tb tick, cu := t.cu })) ∧
  (∀ (s : State) (n : Cun) (tick : Tick), (s.at tick).rests = true → s.get (Cu.SRC n) = 1 →
    exec (.ssiFrameStart n tick) s = .next
      (((s.at tick).modCu n (fun c => { c with ssiAt := some tick })).emit (.ssiClock n)) ∧
    (∀ (low chk : Bool) (raw : Nat), (low || chk) = true → (s.cu[n]).ssiBad < 2 →
      exec (.ssiFrame n low raw chk tick) s = .next
        (((s.at tick).modCu n (fun c => { c with ssiAt := none, ssiBad := c.ssiBad + 1 })).bump (Cu.SSI_REJ_CNT n))) ∧
    (∀ (low chk : Bool) (raw : Nat), (low || chk) = true → 2 ≤ (s.cu[n]).ssiBad → (s.cu[n]).ssiLost = false →
      ∃ t, exec (.ssiFrame n low raw chk tick) s = .next t ∧ (t.cu[n]).ssiLost = true ∧ (t.cu[n]).ivs = [] ∧ (t.cu[n]).lastT = none ∧
      (t.cu[n]).pos = (s.cu[n]).pos ∧ (0x7310, 0x10 + (n : Nat)) ∈ t.can.conds ∧ (∀ m, m ≠ n → t.cu[m] = s.cu[m])) ∧
    (∀ raw : Nat, (s.cu[n]).ssiRaw = none → s.quietUnit n = true →
      let v := if s.has (Cu.GRAY n) then grayDecode (s.get (Cu.SSI_BITS n)) (raw % 2 ^ s.get (Cu.SSI_BITS n)) else raw % 2 ^ s.get (Cu.SSI_BITS n)
      let u := (s.at tick).modCu n (fun c => { c with
          ssiAt := none, ssiRaw := some v, ssiBad := 0, ssiLost := false, ssiAnew := false, pos := BitVec.ofNat 48 v })
      exec (.ssiFrame n false raw false tick) s = .next (if (s.cu[n]).ssiLost then u.condOff 0x7310 (0x10 + n) else u)) ∧
    (∀ raw v0 : Nat, (s.cu[n]).ssiRaw = some v0 → (s.cu[n]).ssiAnew = false → (s.cu[n]).ssiLost = false → s.quietUnit n = true →
      let w := s.get (Cu.SSI_BITS n)
      let v := if s.has (Cu.GRAY n) then grayDecode w (raw % 2 ^ w) else raw % 2 ^ w
      let d := sext w (wrap w ((v : Int) - v0))
      (d.natAbs ≤ s.get (Cu.MAX_JUMP n) →
        ∃ t, exec (.ssiFrame n false raw false tick) s = .next t ∧ (t.cu[n]).pos = (s.cu[n]).pos + BitVec.ofInt 48 d ∧
        (t.cu[n]).ssiRaw = some v ∧ (t.cu[n]).ssiBad = 0 ∧ (∀ m, m ≠ n → t.cu[m] = s.cu[m]) ∧ t = { s with tb := max s.tb tick, cu := t.cu }) ∧
      (s.get (Cu.MAX_JUMP n) < d.natAbs →
        exec (.ssiFrame n false raw false tick) s = exec (.ssiFrame n true raw false tick) s)))

/-- The end of a window moves the count of its edges into SPEED (0 in STILL), takes its flags, starts a new window and
advances WIN_SEQ modulo 2^16. A unit without an edge for (STILL_T + 1) × 10 µs enters STILL; before that, or when it is
already still, nothing happens, which is the model's choice (log entry 2). No other unit, register, stake or channel changes.
A switch level that is debounced is held; a limit switch becoming active sets LIM_HIT and nothing else happens; the HOME
switch becoming active completes homing in mode 1 when the last edge was in direction HOME_DIR. An index mark on a unit with
Z_EN completes homing in mode 0 in the same way and captures the position; with ZPITCH 0 no slip is judged. A read of
CU_POS_LO returns the low word of the position and leaves position, SPEED and PERIOD of that cycle in the words that follow;
nothing but those words and the answer changes. A read of TB_LO returns the low word of TB and latches its high word. With
BAR0 closed neither has an effect, which is the model's choice too (log entries 2 and 11). -/
def Obligations.UnitWindowsAndSwitches : Prop :=
  (∀ (s : State) (n : Cun), s.rests = true →
    (∃ t, exec (.speedWindowEnd n) s = .next t ∧ t = { s with cu := s.cu.set n t.cu[n] } ∧
      (t.cu[n]).speed = (if s.cuStill n then 0 else (s.cu[n]).winCnt) ∧ (t.cu[n]).winCnt = 0 ∧ (t.cu[n]).winSeq = ((s.cu[n]).winSeq + 1) % 65536 ∧
      (t.cu[n]).rev = (s.cu[n]).winRev ∧ (t.cu[n]).part = (!s.cuStill n && (s.cu[n]).winFresh && (s.cu[n]).winEdge) ∧
      (t.cu[n]).pos = (s.cu[n]).pos ∧ (t.cu[n]).still = (s.cu[n]).still ∧ (t.cu[n]).ivs = (s.cu[n]).ivs ∧ (t.cu[n]).homing = (s.cu[n]).homing) ∧
    (∀ tick : Tick, (s.at tick).rests = true →
      (s.cuStill n = false → (s.cu[n]).lastAcc + (s.get (Cu.STILL_T n) + 1) * usTicks 10 ≤ tick →
        exec (.stillTimeout n tick) s = .next { s with tb := max s.tb tick, cu := s.cu.set n ({ s.cu[n] with still := true, winFresh := true, winEdge := false, lastT := none }) }) ∧
      (s.cuStill n = true ∨ tick < (s.cu[n]).lastAcc + (s.get (Cu.STILL_T n) + 1) * usTicks 10 →
        exec (.stillTimeout n tick) s = .next s))) ∧
  (∀ (s : State) (n : Cun), s.rests = true →
    (s.swActive n .limP = false →
      exec (.switchDebounced n .limP (s.has (Cu.LIMP_POL n))) s = .next
        ((s.modCu n (fun c => { c with swLimP := s.has (Cu.LIMP_POL n) })).flag (Cu.LIM_HIT n))) ∧
    (s.swActive n .limN = false →
      exec (.switchDebounced n .limN (s.has (Cu.LIMN_POL n))) s = .next
        ((s.modCu n (fun c => { c with swLimN := s.has (Cu.LIMN_POL n) })).flag (Cu.LIM_HIT n))) ∧
    (s.swActive n .home = false → s.homingMode n 1 = true → s.homeDirOk n = true →
      exec (.switchDebounced n .home (s.has (Cu.HOME_POL n))) s = .next
        ((s.modCu n (fun c => { c with swHome := s.has (Cu.HOME_POL n) })).homeDone n)) ∧
    (∀ tick : Tick, (s.at tick).rests = true → s.has (Cu.Z_EN n) = true → s.get (Cu.SRC n) ≠ 2 → s.get (Cu.ZPITCH n) = 0 →
      (s.homingMode n 0 = true → s.homeDirOk n = true →
        exec (.indexMark n tick) s = .next
          (((s.at tick).homeDone n).modCu n (fun c => { c with zcap := c.pos }))) ∧
      ((s.cu[n]).homing = none →
        exec (.indexMark n tick) s = .next ((s.at tick).modCu n (fun c => { c with zcap := c.pos }))))) ∧
  (∀ (s : State) (n : Cun), s.rests = true →
    (s.barOpen = true →
      ∃ t, exec (.posSnapshot n) s = .next t ∧
      t.out = .regData (Cu.POS_LO n).addr ((s.cu[n]).pos.toNat % 2 ^ 32) :: s.out ∧
      t.get (Cu.POS_LO n) = (s.cu[n]).pos.toNat % 2 ^ 32 ∧ t.get (Cu.POS_HI n) = (s.cu[n]).pos.toNat / 2 ^ 32 ∧
      t.get (Cu.SPEED n) = wrap 32 (s.cu[n]).speed ∧ t.get (Cu.PERIOD n) = (s.period n).getD 0 % 2 ^ 32 ∧
      t = { s with regs := t.regs, out := t.out }) ∧
    (s.barOpen = true →
      ∃ t, exec (.hiLatchRead Sh.TB_LO.addr 4 [] none) s = .next t ∧ t.out = .regData Sh.TB_LO.addr (s.tb % 2 ^ 32) :: s.out ∧
      t.get Sh.TB_HI = s.tb / 2 ^ 32 % 2 ^ 32 ∧ t = { s with regs := t.regs, out := t.out }) ∧
    (s.barOpen = false → exec (.posSnapshot n) s = .next s ∧ exec (.hiLatchRead Sh.TB_LO.addr 4 [] none) s = .next s))

/-- A START that nothing refuses, over BAR0 or a port: with START_SRC 1 the channel is in RUN and waits for its stake at
LINE0; with START_SRC 0 and LINE0 ahead of the position it is in RUN and running; with LINE0 not ahead it sets START_LATE,
stays IDLE and stopped, and an object write is answered 0x0800_0022. No other channel, unit or stake changes. A STOP in RUN
makes the channel STOPPING: no line is decided any more and every schedule is gone. The end of the sequence, once the rails
are at REST, sends RELEASE 0x02, discards undecided lines and makes the channel IDLE. In IDLE a STOP changes nothing; in
READMITTING the channel is IDLE at once. That a START takes up a commit which no line has reached (log entry 36), what a late
START over a port is answered (log entry 23), and that an end of the sequence out of STOPPING does nothing (log entry 2) are
the model's. -/
def Obligations.StartAndStopSequence : Prop :=
  ((∀ (s : State) (n : Ch), s.rests = true → (s.rebaseDrop n).startRefused n = none → s.barOpen = true → s.holds .pcie = true →
      ∃ t, exec (.start n .reg) s = .next t ∧ t.cu = s.cu ∧ t.stake = s.stake ∧ (∀ m : Ch, m ≠ n → t.ch[m] = s.ch[m]) ∧
      (s.has (Tr.START_SRC n) = true →
        t.chSt n = .run ∧ (t.ch[n]).trav.st = .waitStart ∧ (t.ch[n]).trav.next = s.line0 n ∧ (t.ch[n]).store.bNext = some (s.line0 n)) ∧
      (s.has (Tr.START_SRC n) = false → (s.rebaseDrop n).startAhead n (s.line0 n) = true →
        t.chSt n = .run ∧ (t.ch[n]).trav.st = .running ∧ (t.ch[n]).trav.next = s.line0 n ∧ (t.ch[n]).store.bNext = some (s.line0 n)) ∧
      (s.has (Tr.START_SRC n) = false → (s.rebaseDrop n).startAhead n (s.line0 n) = false →
        t.chSt n = .idle ∧ (t.ch[n]).trav.st = .stopped ∧ t.has (Tr.START_LATE n) = true)) ∧
  (∀ (s : State) (n : Ch) (p : Port), s.rests = true → (s.rebaseDrop n).startRefused n = none → s.serves p = true → s.spDown = false → s.holds p = true →
      ∃ t, exec (.start n (.obj p)) s = .next t ∧ t.cu = s.cu ∧ t.stake = s.stake ∧ (∀ m : Ch, m ≠ n → t.ch[m] = s.ch[m]) ∧
      (s.has (Tr.START_SRC n) = true →
        t.chSt n = .run ∧ (t.ch[n]).trav.st = .waitStart ∧ (t.ch[n]).trav.next = s.line0 n ∧ (t.ch[n]).store.bNext = some (s.line0 n)) ∧
      (s.has (Tr.START_SRC n) = false → (s.rebaseDrop n).startAhead n (s.line0 n) = true →
        t.chSt n = .run ∧ (t.ch[n]).trav.st = .running ∧ (t.ch[n]).trav.next = s.line0 n ∧ (t.ch[n]).store.bNext = some (s.line0 n)) ∧
      (s.has (Tr.START_SRC n) = false → (s.rebaseDrop n).startAhead n (s.line0 n) = false →
        t.chSt n = .idle ∧ (t.ch[n]).trav.st = .stopped ∧ t.has (Tr.START_LATE n) = true ∧ Out.sdo p (0x3010 + 0x100 * n) 0x17 abState ∈ t.out))) ∧
  ((∀ (s : State) (n : Ch), s.barOpen = true → s.holds .pcie = true →
      (s.rests = true → s.chSt n = .run →
        exec (.stop n .reg) s = .next
          (((s.modTrav n (fun t => { t with st := .stopped, sched := [] })).setCh n .stopping))) ∧
      (s.rests = true → s.chSt n = .idle →
        exec (.stop n .reg) s = .next (s)) ∧
      (s.chSt n = .readmitting →
        exec (.stop n .reg) s = .next ((((s.dropUndecided n).setCh n .idle)).settle))) ∧
  (∀ (s : State) (n : Ch) (p : Port), s.serves p = true → s.spDown = false → s.holds p = true → (s.chSt n = .idle ∨ (s.ch[n]).applyQ = []) →
      (s.rests = true → s.chSt n = .run →
        exec (.stop n (.obj p)) s = .next
          (((s.modTrav n (fun t => { t with st := .stopped, sched := [] })).setCh n .stopping).answer p (0x3010 + 0x100 * n) 0x17 0)) ∧
      (s.rests = true → s.chSt n = .idle →
        exec (.stop n (.obj p)) s = .next (s.answer p (0x3010 + 0x100 * n) 0x17 0)) ∧
      (s.chSt n = .readmitting →
        exec (.stop n (.obj p)) s = .next ((((s.dropUndecided n).setCh n .idle).answer p (0x3010 + 0x100 * n) 0x17 0).settle))) ∧
  (∀ (s : State) (n : Ch),
    (s.chSt n = .stopping → s.dev.safeEntry = none → (s.ch[n]).drive.railsRest = true → (s.ch[n]).drive.wipeStop = none →
      exec (.stopComplete n) s = .next
        (((((s.release n 2).dropUndecided n).modDrive n (fun d => { d with wipeStop := none })).setCh n .idle).settle)) ∧
    (s.rests = true → s.chSt n ≠ .stopping → exec (.stopComplete n) s = .next s)))

/-- A host Retire of a channel in IDLE, RUN, STOPPING or READMITTING retires it with cause 0xA; in OFF or RETIRED it is
refused and flagged. A Readmit that nothing refuses begins the readmission at RA_LINE. A readmission whose precharge and
training are done begins its traverse when its line is ahead: RUN, lines from RA_LINE on, the skipped lines counted. A channel
that retires from IDLE, RUN, STOPPING or READMITTING is RETIRING: its traverse is stopped, it holds no line, its cause is
recorded and counted, its rails ramp to LV0, after which its switch is open, and its reservoirs bleed, source 0x31 + n has
pulsed, verdict groups that wait are gone. No other channel, no unit and no stake changes. A retiring or retired channel is
left as it is, and so is one whose fault falls in the cycle of a class S cause (R326). What a retirement does to a commit of
its own cycle is left out here (log entry 69). -/
def Obligations.RetirementAndReadmission : Prop :=
  ((∀ (s : State) (n : Ch), s.barOpen = true → s.holds .pcie = true →
      (s.inBenchmark = false → (s.chSt n = .idle ∨ s.chSt n = .run ∨ s.chSt n = .stopping ∨ s.chSt n = .readmitting) →
        exec (.retire n .reg) s = .next (((s.retire n 10)).settle)) ∧
      (s.rests = true → (s.chSt n = .off ∨ s.chSt n = .retired) →
        exec (.retire n .reg) s = .next (s.flag (Cc.WREJ n))) ∧
      (s.readmitRefused n = none →
        exec (.readmit n .reg) s = .next (((s.readmitGo n)).settle))) ∧
  (∀ (s : State) (n : Ch) (p : Port), s.serves p = true → s.spDown = false → s.holds p = true →
      (s.inBenchmark = false → (s.chSt n = .idle ∨ s.chSt n = .run ∨ s.chSt n = .stopping ∨ s.chSt n = .readmitting) →
        exec (.retire n (.obj p)) s = .next (((s.retire n 10).answer p (0x3000 + 0x100 * n) 4 0).settle)) ∧
      (s.rests = true → (s.chSt n = .off ∨ s.chSt n = .retired) →
        exec (.retire n (.obj p)) s = .next (s.answer p (0x3000 + 0x100 * n) 4 abState)) ∧
      (s.readmitRefused n = none →
        exec (.readmit n (.obj p)) s = .next (((s.readmitGo n).answer p (0x3000 + 0x100 * n) 3 0).settle))) ∧
  (∀ (s : State) (n : Ch) (k : Nat), s.rests = true → s.chSt n = .readmitting → (s.ch[n]).readmitK = some k → s.has (Lv.PRECHG n) = true →
      s.linkUp n = true → s.startAhead n k = true →
      ∃ t, exec (.readmitTraverseBegin n) s = .next t ∧ t.chSt n = .run ∧ (t.ch[n]).trav.st = .running ∧ (t.ch[n]).trav.next = k ∧
        (t.ch[n]).store.bNext = some k ∧ (t.ch[n]).readmitK = none ∧
        (∀ l, (s.ch[n]).lastLine = some l → t.get (Cc.SKIP_CNT n) = min (s.get (Cc.SKIP_CNT n) + (k - l - 1)) (2 ^ 32 - 1)) ∧
        t.cu = s.cu ∧ (∀ m : Ch, m ≠ n → t.ch[m] = s.ch[m]))) ∧
  (∀ (s : State) (n : Ch) (cause : Nat), cause < 16 →
    (s.safeNow = true → cause ≠ 10 → s.retire n cause = s) ∧
    ((s.safeNow = false ∨ cause = 10) → s.dev.commit.all (fun m => m.cyc != cycleOf s.tb) = true → (s.chSt n = .idle ∨ s.chSt n = .run ∨ s.chSt n = .stopping ∨ s.chSt n = .readmitting) →
      let t := s.retire n cause
      t.chSt n = .retiring ∧ (t.ch[n]).trav.st = .stopped ∧ (t.ch[n]).lines = [] ∧ (t.ch[n]).health.verdicts = [] ∧
      t.get (Cc.CAUSE n) = cause ∧ t.get (Cc.RETIRE_CNT n) = min (s.get (Cc.RETIRE_CNT n) + 1) ((Cc.RETIRE_CNT n).card - 1) ∧
      (t.ch[n]).drive.bleeding = true ∧ ((s.ch[n]).drive.bleeding = false → t.has (Lv.PRECHG n) = false ∧
        (∀ x : Nat, (t.ch[n]).drive.openAt = some x → s.tb < x ∧ x = t.railsEnd n) ∧
        ((t.ch[n]).drive.openAt = none → t.has (Lv.HV_ON n) = false)) ∧
      t.inFlight = s.inFlight ++ [(0x31 + (n : Nat), s.tb + 32)] ∧ (t.ch[n]).table = (s.ch[n]).table ∧ (t.ch[n]).q = (s.ch[n]).q ∧
      t.cu = s.cu ∧ t.stake = s.stake ∧ (∀ m : Ch, m ≠ n → t.ch[m] = s.ch[m])) ∧
    ((s.chSt n = .retiring ∨ s.chSt n = .retired) → s.retire n cause = s))

/-- Over BAR0 and over a port that holds the token: PREPARE with every named channel passing its check leaves the epoch
PREPARED with no failure and is answered 0; with a failing one the epoch is OPEN, the first failing channel and its reason are
recorded, and the write is answered 0x0800_0024; while a commit is ARMED it is refused. CANCEL leaves the epoch OPEN. COMMIT
is refused unless the epoch is PREPARED; on SYNC it arms the commit; at once, it fails with reason 6 when a channel in RUN has
admitted the line it would begin at, and otherwise takes the epoch number on by one and pulses source 0x3D: a named channel in
IDLE has the prepared PITCH, OFFSET, REV_SHIFT, waveform selection and the epoch's number in effect; one in RUN keeps its
values and holds the prepared ones for the line it begins at, without the schedules from that line on; any other channel is
untouched. A received SYNC increments RX_CNT and pulses source 0x3E. With no unit homing in mode 3 and no commit armed nothing
else happens; an armed commit is taken in the same cycle, and the epoch is OPEN afterwards whatever its outcome. Lines that a
commit finds already behind the position are stated apart. -/
def Obligations.EpochCommandsComplete : Prop :=
  (∀ (s : State) (via : Via), s.rests = true → s.reached via = true →
    exec (.cancel via) s = .next (State.answered { s with epoch := .openE } via 0x2010 5 0) ∧
    (s.epoch ≠ .armed → s.epMask.all (fun n => s.epochCheck n == 0) = true →
      ∃ t : State, exec (.prepare via) s = .next (t.answered via 0x2010 5 0) ∧ t.get Ep.FAIL_REASON = 0 ∧ t.get Ep.FAIL_CH = 0 ∧
        t = { s with epoch := .prepared, regs := t.regs }) ∧
    (∀ n : Ch, s.epoch ≠ .armed → s.epMask.find? (fun m => s.epochCheck m ≠ 0) = some n →
      ∃ t : State, exec (.prepare via) s = .next (t.answered via 0x2010 5 abCheck) ∧ t.get Ep.FAIL_REASON = s.epochCheck n ∧ t.get Ep.FAIL_CH = n ∧
        t = { s with epoch := .openE, regs := t.regs }) ∧
    (s.epoch = .armed →
      exec (.prepare via) s = .next (match via with | .reg => s.flag Ep.WREJ | .obj p => s.answer p 0x2010 5 abState)) ∧
    (s.epoch ≠ .prepared →
      exec (.commit via) s = .next (match via with | .reg => s.flag Ep.WREJ | .obj p => s.answer p 0x2010 5 abState)) ∧
    (s.epoch = .prepared → s.get Ep.EP_TRIG = 1 →
      exec (.commit via) s = .next (State.answered { s with epoch := .armed } via 0x2010 5 0)) ∧
    (s.epoch = .prepared → s.get Ep.EP_TRIG ≠ 1 →
      (∀ n : Ch, s.epMask.find? (fun m => s.chSt m = .run && s.admitted m (s.commitLine m s.epPos)) = some n →
        exec (.commit via) s = .next (((s.epochFail n 6).emcyMsg 0xFF41 0xFF 0).answered via 0x2010 5 abCheck)) ∧
      ((∀ n ∈ s.epMask, s.chSt n = .idle ∨
          s.admitted n (s.commitLine n s.epPos) = false ∧ (s.ch[n]).trav.gapFrom = [] ∧ (s.ch[n]).trav.next < s.commitLine n s.epPos) →
        ∃ t : State, exec (.commit via) s = .next (t.answered via 0x2010 5 0) ∧ t.epoch = .openE ∧ t.get Ep.EP_NUM = (s.get Ep.EP_NUM + 1) % 2 ^ 32 ∧
          t.inFlight = s.inFlight ++ [(0x3D, s.tb + 32)] ∧
          (∀ n ∈ s.epMask, s.chSt n = .idle →
            t.get (Tr.PITCH n) = s.get (prepPitch n) % 2 ^ 32 ∧ t.get (Tr.OFS_INT n) = s.get (prepOfs n) / 65536 % (Tr.OFS_INT n).card ∧
            t.get (Tr.OFS_FRAC n) = s.get (prepOfs n) % 65536 ∧ t.get (Tr.REV_SHIFT n) = s.get (prepRev n) % 2 ^ 32 ∧
            t.get (Lv.SET_SEL n) = s.get (wavePrep n) % 2 ∧ t.get (Cc.APPLIED_EPOCH n) = (s.get Ep.EP_NUM + 1) % 2 ^ 32 ∧
            (t.ch[n]).trav.rebases = []) ∧
          (∀ n ∈ s.epMask, s.chSt n = .run →
            let k := s.commitLine n s.epPos
            (t.ch[n]).trav.rebases = (s.ch[n]).trav.rebases.filter (fun x => x.kc < k) ++ [s.preparedOf n k ((s.get Ep.EP_NUM + 1) % 2 ^ 32)] ∧
            (t.ch[n]).trav.sched = (s.ch[n]).trav.sched.filter (fun x => x.line < k) ∧ (t.ch[n]).trav.next = (s.ch[n]).trav.next) ∧
          (∀ n : Ch, (n ∉ s.epMask ∨ s.chSt n = .run) →
            t.get (Tr.PITCH n) = s.get (Tr.PITCH n) ∧ t.get (Tr.OFS_INT n) = s.get (Tr.OFS_INT n) ∧ t.get (Tr.OFS_FRAC n) = s.get (Tr.OFS_FRAC n) ∧
            t.get (Tr.REV_SHIFT n) = s.get (Tr.REV_SHIFT n) ∧ t.get (Lv.SET_SEL n) = s.get (Lv.SET_SEL n) ∧
            t.get (Cc.APPLIED_EPOCH n) = s.get (Cc.APPLIED_EPOCH n)) ∧
          (∀ n : Ch, n ∉ s.epMask → t.ch[n] = s.ch[n]) ∧ t.cu = s.cu ∧ t.stake = s.stake))) ∧
  (∀ (s : State) (tick : Tick), (s.at tick).rests = true → (∀ m : Cun, s.homingMode m 3 = false) →
    (s.epoch ≠ .armed → exec (.syncReceived tick) s = .next (((s.at tick).incr Sh.RX_CNT).pulse 0x3E)) ∧
    (s.epoch = .armed →
      exec (.syncReceived tick) s = .next (((s.at tick).incr Sh.RX_CNT).pulse 0x3E).commitTake.1.settle ∧
      ∃ t, exec (.syncReceived tick) s = .next t ∧ t.epoch = .openE ∧ t.get Sh.RX_CNT = (s.get Sh.RX_CNT + 1) % (Sh.RX_CNT).card ∧
      t.cu = s.cu ∧ t.stake = s.stake))

/-- On a channel in RUN whose edit stage is free and with no memory error, the boundary of line k makes k the last admitted
line and k + 1 the next, busies the edit stage with k, and the line exists, not yet encoded nor decided. Table writes and
verdict groups queued before the cycle of the boundary are taken out and reach the table in order, those queued in that cycle
wait; every shadow is in effect, but for one written in that cycle, whose former value is. Lines at the head of the queue with
tags below k are discarded and counted in STALE_CNT; a head tagged k is admitted with its codes; with an empty queue, or a
head above k or not complete before the cycle, the line is null, its codes are 0 and MISS counts it. An IMM edit of the slot
index held behind a table edit is released: it takes effect and is answered. Where no boundary stands nothing happens, which
is the model's choice (log entry 2). No unit, stake or other channel's data changes. When the edit stage has encoded line k it
is free, and the line is encoded and has the frames of its codes unless it was decided meanwhile; nothing else of the channel
and nothing outside it changes. -/
def Obligations.LineBoundaryTakesItsLine : Prop :=
  (∀ (s : State) (n : Ch) (tick : Tick), (s.at tick).rests = true →
    (∀ k : Nat, s.boundaryDue n = some k → s.decidedEarly n k = false → (s.ch[n]).badEntries = [] →
      (s.ch[n]).lines.all (fun l => l.no != k) = true →
      let now := cycleOf (max s.tb tick)
      let old : Edit → Bool := fun e => decide (cycleOf e.at0 < now)
      ((s.ch[n]).applyQ.all (fun e => match e.body with | .entry _ _ _ => true | .closure _ _ _ _ _ => true | _ => false) = true →
        ∃ t, exec (.lineBoundary n tick []) s = .next t ∧ (t.ch[n]).store.bNext = some (k + 1) ∧ (t.ch[n]).store.entered = some k ∧
          (t.ch[n]).store.busy = some k ∧ (∃ l ∈ (t.ch[n]).lines, l.no = k ∧ l.encoded = false ∧ l.decided = false) ∧
          (t.ch[n]).applyQ = (s.ch[n]).applyQ.dropWhile old ∧
          (∀ i : Fin 5120, s.entry n i < 2 ^ 64 → t.entry n i / 64 =
            ((s.ch[n]).applyQ.takeWhile old).foldl (fun (v : Nat) (e : Edit) => match e.body with
              | .entry j m x => if j = i then masked v (m &&& entHost) x else v
              | .closure j m x _ _ => if j = i then closureMerge v m x % 2 ^ 64 else v
              | _ => v) (s.entry n i) / 64) ∧
          (∀ f ∈ shadowed n, t.eff f = (s.at tick).shadowAt f) ∧
          (s.stripLine n k = none → ∀ (stale rest : List QLine), (s.ch[n]).q.lines = stale ++ rest →
            stale.all (fun x => decide (x.doneAt < now) && decide (x.tag < k) && !s.stripTag n x.tag) = true →
            (∀ (l : QLine) (r : List QLine), rest = l :: r → l.doneAt < now → l.tag = k →
              (t.ch[n]).q.lines = r ∧ (t.ch[n]).store.img.head? = some ⟨k, imageCodes (s.nozzles n) l.data, false⟩ ∧
              t.get (Ld.MISS_CNT n) = s.get (Ld.MISS_CNT n) ∧
              t.get (Ld.STALE_CNT n) = min (s.get (Ld.STALE_CNT n) + stale.length) ((Ld.STALE_CNT n).card - 1) ∧
              (stale ≠ [] → t.has (Ld.STALE n) = true)) ∧
            ((rest = [] ∨ ∃ (l : QLine) (r : List QLine), rest = l :: r ∧ (now ≤ l.doneAt ∨ k < l.tag)) →
              (t.ch[n]).q.lines = rest ∧ (t.ch[n]).store.img.head? = some ⟨k, List.replicate (s.nozzles n) 0, false⟩ ∧
              (∃ l ∈ (t.ch[n]).lines, l.no = k ∧ l.null = true) ∧ t.has (Ld.MISS n) = true ∧
              t.get (Ld.MISS_CNT n) = min (s.get (Ld.MISS_CNT n) + 1) ((Ld.MISS_CNT n).card - 1) ∧
              t.get (Ld.STALE_CNT n) = min (s.get (Ld.STALE_CNT n) + stale.length) ((Ld.STALE_CNT n).card - 1))) ∧
          t.tb = max s.tb tick ∧ t.cu = s.cu ∧ t.stake = s.stake ∧ (∀ m : Ch, m ≠ n → t.ch[m] = s.ch[m])) ∧
      (∀ (a e : Edit) (v : Nat) (p : Port), (s.ch[n]).applyQ = [a, e] → a.body.isTable = true → e.cls = .imm → e.owed = some p →
        e.body = .obj (0x3041 + 0x100 * n) 1 [BitVec.ofNat 8 v] → v < 2 → old a = true → old e = true →
        ∃ t, exec (.lineBoundary n tick []) s = .next t ∧ (t.ch[n]).applyQ = [] ∧ t.get (slotIx n) = v ∧
          Out.sdo p (0x3041 + 0x100 * n) 1 0 ∈ t.out)) ∧
    (s.boundaryDue n = none → exec (.lineBoundary n tick []) s = .next (s.at tick))) ∧
  (∀ (s : State) (n : Ch), s.rests = true →
    (∀ k : Nat, (s.ch[n]).store.busy = some k →
      ∃ t, exec (.lineEncoded n) s = .next t ∧
      (t.ch[n]).lines = (s.ch[n]).lines.map (fun l => if l.no = k then { l with
        encoded := true, frames := if l.decided then [] else lineFrames l.codes l.sense (s.canRoute n) } else l) ∧
      (t.ch[n]).store = { (s.ch[n]).store with busy := none } ∧
      t = { s with ch := s.ch.set n { s.ch[n] with lines := (t.ch[n]).lines, store := (t.ch[n]).store } }) ∧
    ((s.ch[n]).store.busy = none → exec (.lineEncoded n) s = .next s))

/-- An edge with a valid period schedules the next line of a running traverse that lies less than two edges ahead by
prediction from the edge's tick, or as a catch-up one cycle after the edge's schedule is ready where the prediction would come
sooner; a line further ahead gets none. Without a valid period a line at or behind the position is edge-locked, ELOCK_BASE
after the edge or 512 ticks after an SSI update. An edge against the pass direction withdraws every schedule not yet due. A
hit of START_ST starts a waiting traverse: LINE0 on the target is edge-locked, one ahead runs, one behind is late. When a
schedule is ready, and from when on an edge withdraws, are the model's choices (log entry 76). A decision of the line that is
due leaves a next line above it, and LAST_LINE is the line before the next. A line closer to the last fired line than the
governor allows is dropped with OVERSPEED; one whose link delivered it in time fires, and the governor notes it as the last
fired. Where no decision stands nothing happens. -/
def Obligations.LinesAreDecidedOnce : Prop :=
  (∀ (s : State) (n : Ch), s.rests = true →
    (s.decisionDue n = none → exec (.lineDecision n) s = .next s) ∧
    (∀ e : Sched, s.decisionDue n = some e → (s.at (max (s.schedTick n e) (s.ch[n]).trav.decAt)).rests = true →
      ∃ t, exec (.lineDecision n) s = .next t ∧ e.line < (t.ch[n]).trav.next ∧ (s.ch[n]).trav.next ≤ (t.ch[n]).trav.next ∧
        (t.ch[n]).lastLine = some ((t.ch[n]).trav.next - 1) ∧ t.cu = s.cu ∧ t.stake = s.stake ∧
        (∀ m : Ch, m ≠ n → t.ch[m] = s.ch[m]) ∧
        (e.kind = .pred → s.tooSoon n e.line (max (s.schedTick n e) (s.ch[n]).trav.decAt) = true →
          t.has (Tr.OVERSPEED n) = true ∧ t.get (Tr.OVS_CNT n) = min (s.get (Tr.OVS_CNT n) + 1) ((Tr.OVS_CNT n).card - 1) ∧
          (t.ch[n]).trav.lastFiredLine = (s.ch[n]).trav.lastFiredLine) ∧
        (∀ l : Line, e.kind = .pred → s.tooSoon n e.line (max (s.schedTick n e) (s.ch[n]).trav.decAt) = false →
          (s.ch[n]).drive.railsRest = true → s.findLine n e.line = some l →
          s.lineFate n l (max (s.schedTick n e) (s.ch[n]).trav.decAt) = .fires →
          (t.ch[n]).trav.lastFiredLine = some l.no ∧ (t.ch[n]).trav.lastFired = some (max (s.schedTick n e) (s.ch[n]).trav.decAt)))) ∧
  (∀ (s : State) (n : Ch) (r : EdgeRec) (k : Nat), (s.ch[n]).trav.st = .running → (s.ch[n]).trav.gapFrom = [] → (s.ch[n]).trav.next = k →
    s.get (Tr.MODE n) ≠ 2 → r.regained = false →
    (s.passBack n k = r.back → (s.ch[n]).trav.sched = [] →
      (∀ per : Nat, r.ssi = none → r.period = some per →
        (131072 ≤ s.lineAhead n k r.p → s.travRecord n r = s) ∧
        (0 ≤ s.lineAhead n k r.p → s.lineAhead n k r.p < 131072 → 131072 ≤ s.lineAhead n (k + 1) r.p →
          let e : Sched := ⟨k, r.t + (s.lineAhead n k r.p * per / 65536).toNat, .pred⟩
          s.travRecord n r = s.setSched n (if s.schedTick n e < r.ready + 16 then ⟨k, r.ready + 16, .catchup⟩ else e))) ∧
      (r.period = none → s.lineAhead n k r.p ≤ 0 → 0 < s.lineAhead n (k + 1) r.p →
        ((s.travRecord n r).ch[n]).trav.sched = [⟨k, match r.ssi with | none => r.t + s.elockBase n | some u => u.1 + 512, .elock⟩])) ∧
    (s.passBack n k ≠ r.back →
      ((s.travRecord n r).ch[n]).trav.sched = (s.ch[n]).trav.sched.filter (fun e => decide (s.schedTick n e ≤ r.ready)))) ∧
  (∀ (s : State) (m : Ch) (n : Cun) (a b : Bool) (tick : Tick) (k t0 : Nat), (s.at tick).rests = true → s.get (Cu.SRC n) = 0 →
    (a ≠ (s.cu[n]).a ↔ b = (s.cu[n]).b) → (∀ j, s.stkCu j = n → (s.stake[j]).armed = false) → s.chCu m = n → (s.ch[m]).trav.st = .running →
    (s.ch[m]).trav.next = k → (s.ch[m]).trav.sched = [] → (s.ch[m]).trav.gapFrom = [] → s.get (Tr.MODE m) ≠ 2 → s.get (Cu.PER_N n) = 0 →
    let fwd := (if a ≠ (s.cu[n]).a then decide (a ≠ b) else decide (a = b)) != s.has (Cu.INV_DIR n)
    let p := if fwd then (s.cu[n]).pos + 1 else (s.cu[n]).pos - 1
    let f := s.lineAhead m k p
    let ready := (cycleOf tick + s.get (Cu.FILT n) + 9) * 16
    let e : Sched := ⟨k, tick + (f * ((tick - t0 : Nat) : Int) / 65536).toNat, .pred⟩
    s.passBack m k = (!fwd) →
    ((s.cu[n]).dir = some (!fwd) → (s.cu[n]).lastT = some t0 → 0 ≤ f → f < 131072 → 131072 ≤ s.lineAhead m (k + 1) p →
      ∃ t, exec (.quadTransition n a b tick) s = .next t ∧ (t.cu[n]).pos = p ∧ (t.ch[m]).trav.next = k ∧
        (t.ch[m]).trav.sched = [if s.schedTick m e < ready + 16 then ⟨k, ready + 16, .catchup⟩ else e]) ∧
    ((s.cu[n]).dir ≠ some (!fwd) → f ≤ 0 → 0 < s.lineAhead m (k + 1) p →
      ∃ t, exec (.quadTransition n a b tick) s = .next t ∧ (t.cu[n]).pos = p ∧ (t.ch[m]).trav.next = k ∧
        (t.ch[m]).trav.sched = [⟨k, tick + s.elockBase m, .elock⟩])) ∧
  (∀ (s : State) (n : Ch) (h : Hit), (s.ch[n]).trav.st = .waitStart → s.get (Tr.START_ST n) = h.stk → s.stkCu h.stk = s.chCu n →
    let u := s.putPair (Tr.ANCHOR_LO n) (Tr.ANCHOR_HI n) h.tgt.toNat
    (gridDiff (u.lineX n (s.ch[n]).trav.next - h.tgt.toInt * 65536) = 0 →
      s.travHit n h = (u.modTrav n (fun t => { t with st := .running })).setSched n ⟨(s.ch[n]).trav.next, h.t + s.elockBase n, .elock⟩) ∧
    (gridDiff (u.lineX n (s.ch[n]).trav.next - h.tgt.toInt * 65536) ≠ 0 → u.startAhead n (s.ch[n]).trav.next = true →
      s.travHit n h = u.modTrav n (fun t => { t with st := .running })) ∧
    (gridDiff (u.lineX n (s.ch[n]).trav.next - h.tgt.toInt * 65536) ≠ 0 → u.startAhead n (s.ch[n]).trav.next = false →
      (s.travHit n h).has (Tr.START_LATE n) = true ∧ (s.travHit n h).chSt n = .idle))

/-- Outside RUN: a geometry that passes its checks is in effect, with its rows, nozzles and a GEOM_ERR of 0; one that fails is
refused with its check number; a flush empties the queue and keeps Q_TAG; Q_TAG of an empty queue takes its value. No other
channel changes. -/
def Obligations.LineDataCommandsComplete : Prop :=
  (∀ (s : State) (n : Ch), s.rests = true → s.chParked n = false → s.inRun n = false → s.barOpen = true → s.holds .pcie = true →
      (geomErr (s.get (Tr.MODE n)) (s.get (Tr.PASS_LINES n)) (s.rowsHeld n) = 0 →
        ∃ t, exec (.geomApply n .reg) s = .next t ∧ t.get (Ld.GEOM_ERR n) = 0 ∧ (t.ch[n]).store.rows = rowsUsed (s.rowsHeld n) ∧
          t.get (Ld.NROWS n) = (rowsUsed (s.rowsHeld n)).length ∧ t.get (Ld.NOZZLES n) = rowsNozzles (rowsUsed (s.rowsHeld n)) ∧
          (t.ch[n]).q = (s.ch[n]).q ∧ (∀ m : Ch, m ≠ n → t.ch[m] = s.ch[m]) ∧
          t = { s with regs := t.regs, ch := t.ch, out := t.out, pcie := t.pcie }) ∧
      (geomErr (s.get (Tr.MODE n)) (s.get (Tr.PASS_LINES n)) (s.rowsHeld n) ≠ 0 →
        ∃ t, exec (.geomApply n .reg) s = .next t ∧
          t.get (Ld.GEOM_ERR n) = geomErr (s.get (Tr.MODE n)) (s.get (Tr.PASS_LINES n)) (s.rowsHeld n) ∧ t.ch = s.ch ∧ t.has (Ld.WREJ n) = true) ∧
      (s.dmaInto n = false →
        exec (.qFlush n .reg) s = .next
          ((s.modCh n (fun c => { c with q := { c.q with lines := [], part := [], word := [] } })))) ∧
      (∀ tag : BitVec 48, s.queueEmpty n = true →
        exec (.qTagWrite n tag .reg) s = .next ((s.put (Hid.QTAG_LO n) (tag.toNat % 2 ^ 32)).modCh n (fun c =>
          { c with q := { c.q with tag := tag.toNat } })))) ∧
  (∀ (s : State) (n : Ch) (p : Port), s.rests = true → s.chParked n = false → s.inRun n = false → s.serves p = true → s.spDown = false → s.holds p = true →
      (geomErr (s.get (Tr.MODE n)) (s.get (Tr.PASS_LINES n)) (s.rowsHeld n) = 0 →
        ∃ t, exec (.geomApply n (.obj p)) s = .next t ∧ t.get (Ld.GEOM_ERR n) = 0 ∧ (t.ch[n]).store.rows = rowsUsed (s.rowsHeld n) ∧
          t.get (Ld.NROWS n) = (rowsUsed (s.rowsHeld n)).length ∧ t.get (Ld.NOZZLES n) = rowsNozzles (rowsUsed (s.rowsHeld n)) ∧
          (t.ch[n]).q = (s.ch[n]).q ∧ (∀ m : Ch, m ≠ n → t.ch[m] = s.ch[m]) ∧
          t = { s with regs := t.regs, ch := t.ch, out := t.out, pcie := t.pcie }) ∧
      (geomErr (s.get (Tr.MODE n)) (s.get (Tr.PASS_LINES n)) (s.rowsHeld n) ≠ 0 →
        ∃ t, exec (.geomApply n (.obj p)) s = .next t ∧
          t.get (Ld.GEOM_ERR n) = geomErr (s.get (Tr.MODE n)) (s.get (Tr.PASS_LINES n)) (s.rowsHeld n) ∧ t.ch = s.ch) ∧
      (s.dmaInto n = false →
        exec (.qFlush n (.obj p)) s = .next
          ((s.modCh n (fun c => { c with q := { c.q with lines := [], part := [], word := [] } })).answer p (0x3020 + 0x100 * n) 0x17 0)) ∧
      (∀ tag : BitVec 48, s.queueEmpty n = true →
        exec (.qTagWrite n tag (.obj p)) s = .next
          ((s.modCh n (fun c => { c with q := { c.q with tag := tag.toNat } })).answer p (0x3020 + 0x100 * n) 0x0E 0)))

/-- With nothing to send nothing leaves; the link notes the event. A new frame of the one line that waits is handed over and
leaves with the next FSEQ once the lanes are free and the FSEQ may be used again, and then awaits its answer. An ACK of a
line's last open frame completes it. A NAK, and an answer that is missing 2.0 µs after the EOF, which counts in TMO_CNT, make
the frame wait, and it is sent again, counted in RETX_CNT, once the lanes are free; after its fourth transmission, or its
line's sixth repeat, the line is given up. An answer comes after the EOF of its transmission, so time has come that far, which
is the model's reading (log entry 78). An answer that no transmission awaits has no effect, which is its choice (log entry 2).
Each equation says that nothing else changes. -/
def Obligations.LinkSendsAndIsAnswered : Prop :=
  (∀ (s : State) (n : Ch), s.rests = true →
    ((s.ch[n]).lines = [] → (s.ch[n]).link.ctl = [] →
      exec (.transmitLine n) s = .next (s.modLink n (fun x => { x with seen := max x.seen s.tb }))) ∧
    (∀ (l : Line) (f : Frame), s.linkUp n = true → (s.ch[n]).lines = [l] → (s.ch[n]).link.tx = [] → (s.ch[n]).link.ctl = [] →
      (s.ch[n]).link.kept = [] → l.frames = [f] → f.sent = 0 → f.waiting = false → l.encoded = true → l.undel = false → l.decided = false →
      l.sending = false →
      let x : Link := { (s.ch[n]).link with seen := max (s.ch[n]).link.seen s.tb }
      (x.nextAt ≤ s.tb → exec (.transmitLine n) s = .next
        ((s.modCh n (fun c => { c with
          lines := [{ l with sending := true, frames := [{ f with sent := 1, waiting := false }] }], link := x.carry f (some l.no) 0 })).emit
          (.frame n (frameBytes f x.fseq l.no)))) ∧
      (s.tb < x.nextAt → exec (.transmitLine n) s = .next
        (s.modCh n (fun c => { c with lines := [{ l with sending := true }], link := x })))) ∧
    (∀ q : BitVec 4, ((s.linkTick n).ch[n]).link.tx.all (fun t => t.fseq != q.toNat) = true →
      exec (.ack n q) s = .next s ∧ exec (.nak n q) s = .next s ∧ exec (.frameTimeout n q) s = .next s)) ∧
  (∀ (s : State) (n : Ch) (l : Line) (f : Frame) (q : BitVec 4) (eof : Nat), s.linkUp n = true → (s.ch[n]).lines = [l] → l.frames = [f] →
    f.waiting = false → 0 < f.sent → f.acked = false → (s.ch[n]).link.tx = [⟨q.toNat, some l.no, 0, eof⟩] → (s.ch[n]).link.ctl = [] →
    (s.ch[n]).link.fe = none →
    ((s.at eof).rests = true →
      exec (.ack n q) s = .next ((s.at eof).modCh n (fun c => { c with
        lines := [{ l with frames := [{ f with acked := true, waiting := false }] }],
        link := { c.link with tx := [], cto := 0, seen := max c.link.seen (max s.tb eof) } }))) ∧
    (∀ (cmd : Instr) (u : State) (cto : Nat), u.rests = true →
      (cmd = .nak n q ∧ u = s.at eof ∧ cto = 0 ∨
        cmd = .frameTimeout n q ∧ u = (s.at (eof + 19200)).bump (Lk.TMO_CNT n) ∧ cto = (s.ch[n]).link.cto + 1 ∧ cto < 4) →
      let x : Link := { (s.ch[n]).link with tx := [], cto := cto, seen := max (s.ch[n]).link.seen u.tb }
      (f.sent < 4 → l.reps < 6 → l.undel = false →
        (x.nextAt ≤ u.tb → exec cmd s = .next
          (((u.bump (Lk.RETX_CNT n)).modCh n (fun c => { c with
            lines := [{ l with reps := l.reps + 1, frames := [{ f with sent := f.sent + 1, waiting := false }] }],
            link := x.carry f (some l.no) 0 })).emit (.frame n (frameBytes f x.fseq l.no)))) ∧
        (u.tb < x.nextAt → exec cmd s = .next (u.modCh n (fun c => { c with
          lines := [{ l with reps := l.reps + 1, frames := [{ f with waiting := true }] }], link := x })))) ∧
      ((4 ≤ f.sent ∨ 6 ≤ l.reps) → l.undel = false → exec cmd s = .next (u.modCh n (fun c => { c with
        lines := [{ l with undel := true, frames := [{ f with waiting := false }] }], link := x })))))

/-- At the latch point of the next line, with the rails at REST and the line delivered or given up, the LATCH group leaves
with the line's tag, its slot and NULL where the line has no frame or was given up, its check byte being B1 XOR B2 XOR 0xA5,
and the line is latched; nothing else changes but what the link sends meanwhile. When it is not due, not delivered, or the
link is not UP, nothing leaves. A LACK is kept for the latched line of its tag. SPX of a defined sub-pulse from the second on
leaves once for the line in progress with its number, and not of an undefined one nor on a link that is not UP; SNS leaves
when the line runs with sense on and the far end routes, and opens the capture; an SPX whose trigger it shares goes first
(R229). Both carry their check byte. -/
def Obligations.LinesAreLatched : Prop :=
  (∀ (s : State) (n : Ch) (tick : Tick), (s.at tick).rests = true →
    (∀ l : Line, s.linkUp n = true → s.findLine n (s.ch[n]).trav.next = some l → (s.at tick).latchDue n l tick = true → (s.ch[n]).drive.wiped = [] →
      (l.undel = true ∨ l.delivered = true →
        exec (.latch n tick) s = .next ((s.at tick).sendLatch n l (l.undel || l.frames.isEmpty)) ∧
        ∃ t, exec (.latch n tick) s = .next t ∧
          Out.group n 1 (l.no % 256) (l.slot * 2 + (if l.undel || l.frames.isEmpty then 1 else 0))
            ((l.no % 256 ^^^ (l.slot * 2 + (if l.undel || l.frames.isEmpty then 1 else 0))) ^^^ 0xA5) ∈ t.out ∧
          (t.ch[n]).link.latched = some l.no ∧ (∃ x ∈ (t.ch[n]).lines, x.no = l.no ∧ x.latched = some (l.undel || l.frames.isEmpty)) ∧
          (∀ f, f ≠ Lk.RETX_CNT n → f.key ≠ (Lk.RETX_CNT n).key → t.get f = s.get f) ∧ t.cu = s.cu ∧ t.stake = s.stake ∧
          (∀ m : Ch, m ≠ n → t.ch[m] = s.ch[m])) ∧
      (l.undel = false → l.delivered = false → exec (.latch n tick) s = .next (s.at tick))) ∧
    (∀ l : Line, s.findLine n (s.ch[n]).trav.next = some l → (s.at tick).latchDue n l tick = false → exec (.latch n tick) s = .next (s.at tick)) ∧
    ((s.findLine n (s.ch[n]).trav.next = none ∨ s.linkUp n = false) → exec (.latch n tick) s = .next (s.at tick)) ∧
    (∀ (tag : Byte) (nulled empty : Bool),
      exec (.lack n tag nulled empty tick) s = .next ((s.at tick).modCh n (fun c => { c with lines := c.lines.map (fun l =>
        if l.latched.isSome && !l.decided && l.no % 256 = tag.toNat then { l with lack := some empty, lackAt := max s.tb tick } else l) })))) ∧
  (∀ (s : State) (n : Ch), s.rests = true →
    (∀ (l : Line) (j : Fin 4), s.liveLine n = some l →
      (s.linkUp n = true → 1 ≤ (j : Nat) → (j : Nat) ∈ l.desc.defined → (j : Nat) ∉ l.spxSent →
        exec (.spx n j) s = .next ((s.modLine n l.no (fun x => { x with spxSent := (j : Nat) :: x.spxSent })).emit
          (.group n 6 (l.no % 256) j ((l.no % 256 ^^^ (j : Nat)) ^^^ 0xA5)))) ∧
      ((s.linkUp n = false ∨ (j : Nat) = 0 ∨ (j : Nat) ∉ l.desc.defined ∨ (j : Nat) ∈ l.spxSent) → exec (.spx n j) s = .next s)) ∧
    (∀ l : Line, s.liveLine n = some l →
      (∀ i : Nat, l.sense = some i → l.runs = true → l.snsEn = true → s.canRoute n = true → s.linkUp n = true →
        let sns : Out := .group n 4 (l.no % 256) 0 ((l.no % 256 ^^^ 0) ^^^ 0xA5)
        let j := l.snsShare i
        (1 ≤ j → j ∈ l.desc.defined → j ∉ l.spxSent →
          exec (.sns n) s = .next ((((s.modLine n l.no (fun x => { x with spxSent := j :: x.spxSent })).emit
            (.group n 6 (l.no % 256) j ((l.no % 256 ^^^ j) ^^^ 0xA5))).emit sns).senseOpen n l i).settle) ∧
        ((j = 0 ∨ j ∉ l.desc.defined ∨ j ∈ l.spxSent) → exec (.sns n) s = .next ((s.emit sns).senseOpen n l i).settle)) ∧
      ((l.sense = none ∨ l.runs = false ∨ l.snsEn = false ∨ s.canRoute n = false ∨ s.linkUp n = false) → exec (.sns n) s = .next s)) ∧
    (s.liveLine n = none → exec (.sns n) s = .next s ∧ (∀ j, exec (.spx n j) s = .next s)))

/-- A STAT byte of the identity is taken into FE_NOZ or FE_TYPE; one that a far-end read waits for is its value and ends it:
it stands in DATA, answers its port, or is kept for the TPDO that maps it, and the next access that waits begins. An FERR sets
FE_ERR, counts and records its code and tag, and with code 0x02 sends EMCY 0x8730 with the line it cut short. The first TSR of
a training records version and capabilities and, with version 1, sends the second training blocks and asks for the identity,
and without routing forgets the sense classes kept; with another version the training fails. A code violation counts. On a
link that is DOWN none of them has an effect, which is the model's choice (log entry 2). -/
def Obligations.FarEndReports : Prop :=
  ∀ (s : State) (n : Ch), s.rests = true → s.can.tpdo.all (fun p => p.wait.isNone) = true →
    (∀ val : Byte, (s.ch[n]).link.fe = none → s.linkSt n ≠ .down →
      exec (.stat n 2 val) s = .next (s.put (Lk.FE_NOZ n) (withBits (s.get (Lk.FE_NOZ n)) 7 0 val.toNat)) ∧
      exec (.stat n 3 val) s = .next (s.put (Lk.FE_NOZ n) (withBits (s.get (Lk.FE_NOZ n)) 15 8 val.toNat)) ∧
      exec (.stat n 4 val) s = .next (s.put (Lk.FE_TYPE n) (withBits (s.get (Lk.FE_TYPE n)) 7 0 val.toNat)) ∧
      exec (.stat n 5 val) s = .next (s.put (Lk.FE_TYPE n) (withBits (s.get (Lk.FE_TYPE n)) 15 8 val.toNat))) ∧
    (∀ (a : FeAcc) (val : Byte) (addr : Byte), (s.ch[n]).link.fe = some a → a.write = false → a.addr = addr.toNat →
      ((s.ch[n]).link.feQ = [] →
        let told := match a.use with
          | .reg => s.put (Lk.DATA n) val.toNat
          | .port p => s.answerData p (0x3050 + 0x100 * n) 0x0D [val]
          | .pdo _ => s.modCan (fun c => { c with far := ((n : Nat), val.toNat) :: c.far.filter (fun x => x.1 ≠ (n : Nat)) })
        exec (.stat n addr val) s = .next
          ((((told.linkTick n).modLink n (fun l => { l with
            fe := none, feQ := [], ctl := l.ctl.filter (fun c => c.1 ≠ 3),
            tx := l.tx.filter (fun t => t.line.isSome || t.frame ≠ 3) })).unflag (Lk.BUSY n)).unflag (Lk.FAIL n))) ∧
      (∀ (b : FeAcc) (rest : List FeAcc), (s.ch[n]).link.feQ = b :: rest →
        ∃ t, exec (.stat n addr val) s = .next t ∧ (a.use = .reg → t.get (Lk.DATA n) = val.toNat) ∧ (t.ch[n]).link.fe = some b ∧
          (t.ch[n]).link.feQ = rest ∧ t.has (Lk.BUSY n) = true ∧ t.has (Lk.FAIL n) = false ∧ (∀ m : Ch, m ≠ n → t.ch[m] = s.ch[m]))) ∧
    (∀ (code tag : Byte), s.linkSt n ≠ .down →
      let u := ((s.flagBump (Lk.FE_ERR n) (Lk.FE_ERR_CNT n)).put (Lk.FE_ERR_CODE n) code.toNat).put (Lk.FE_ERR_TAG n) tag.toNat
      exec (.ferr n code tag) s = .next (if code = 2 then
        u.emcyMsg 0x8730 n (match (s.ch[n]).lines.find? (fun l => l.latched.isSome ∧ l.no % 256 = tag.toNat) with
          | some l => l.no | none => s.lineInProgress n) else u)) ∧
    (∀ cap : Byte, s.linkSt n = .training → (s.ch[n]).link.tsrSeen = false →
      (∃ t, exec (.tsr n 1 cap) s = .next t ∧ t.get (Lk.FE_VER n) = 1 ∧ t.get (Lk.FE_CAP n) = cap.toNat % (Lk.FE_CAP n).card ∧
        (t.ch[n]).link.tsrSeen = true ∧ t.linkSt n = .training ∧ (0 ∈ (t.ch[n]).link.ctl.map (fun c => c.1)) ∧ Out.trainBlocks n true ∈ t.out ∧
        (bit cap.toNat 0 = false → (t.ch[n]).health.evid.all (fun e => e.sense.isEmpty) = true) ∧
        (bit cap.toNat 0 = true → (t.ch[n]).health = (s.ch[n]).health) ∧
        (∀ m : Ch, m ≠ n → t.ch[m] = s.ch[m])) ∧
      (∀ ver : Byte, ver ≠ 1 → s.chSt n = .idle → (s.ch[n]).readmitK = none →
        ∃ t, exec (.tsr n ver cap) s = .next t ∧ t.get (Lk.FE_VER n) = ver.toNat % (Lk.FE_VER n).card ∧ t.linkSt n = .failed ∧ t.chSt n = .idle)) ∧
    (s.linkSt n ≠ .down → exec (.returnLaneCodeViolation n) s = .next (s.bump (Lk.RX_CV_CNT n))) ∧
    (s.linkSt n = .down → (s.ch[n]).link.fe = none →
      exec (.returnLaneCodeViolation n) s = .next s ∧
      (∀ a b : Byte, exec (.stat n a b) s = .next s ∧ exec (.ferr n a b) s = .next s ∧ exec (.tsr n a b) s = .next s))

/-- TRAIN of a channel that is not in RUN resets its link, which trains: TS1 blocks leave. A first training that misses its
time is FAILED; in RUN a lost link sets RETRAINED, tells EMCY 0x8710, counts a retraining, sends RELEASE 0x07 and trains anew.
A retraining that misses its time starts another, unless it is the third within 1 ms, which retires the channel. On a link
that is not UP a loss has no effect, nor a miss of a training that does not run; both are the model's choice (log entry 2). -/
def Obligations.LinkTrainsAndIsLost : Prop :=
  (∀ (s : State) (n : Ch),
    (s.rests = true → s.linkSt n = .training → s.chSt n = .idle → (s.ch[n]).readmitK = none →
      exec (.trainingTimeout n) s = .next (s.modLink n (fun l => { l with st := .failed }))) ∧
    (s.rests = true → s.linkSt n ≠ .training → exec (.trainingTimeout n) s = .next s) ∧
    (∀ tick : Tick, (s.at tick).rests = true → s.linkUp n = true → (s.ch[n]).link.retrains = [] →
      ∃ t, exec (.linkLost n tick) s = .next t ∧ t.linkSt n = .retrain ∧ t.has (Lk.RETRAINED n) = true ∧
        t.get (Lk.RETRAIN_CNT n) = min (s.get (Lk.RETRAIN_CNT n) + 1) ((Lk.RETRAIN_CNT n).card - 1) ∧
        (t.ch[n]).link.retrains = [max s.tb tick] ∧ (t.ch[n]).link.tx = [] ∧ Out.group n 2 0 7 0xA2 ∈ t.out ∧
        t.chSt n = s.chSt n ∧ (0x8710, (n : Nat)) ∈ t.can.conds ∧ (∀ m : Ch, m ≠ n → t.ch[m] = s.ch[m])) ∧
    (∀ tick : Tick, (s.at tick).rests = true → s.linkUp n = false → exec (.linkLost n tick) s = .next (s.at tick)) ∧
    (∀ tick : Tick, (s.at tick).rests = true → s.linkSt n = .retrain → (s.ch[n]).link.retrains.length < 2 →
      ∃ t, exec (.retrainTimeout n tick) s = .next t ∧ t.linkSt n = .retrain ∧
        t.get (Lk.RETRAIN_CNT n) = min (s.get (Lk.RETRAIN_CNT n) + 1) ((Lk.RETRAIN_CNT n).card - 1) ∧ t.chSt n = s.chSt n) ∧
    (∀ (tick t0 t1 : Tick), s.linkSt n = .retrain → (s.ch[n]).link.retrains = [t1, t0] → max s.tb tick < t0 + 9600000 →
      exec (.retrainTimeout n tick) s = .next (((s.at tick).retire n 2).settle))) ∧
  (∀ (s : State) (n : Ch), s.rests = true → s.chParked n = false → s.inRun n = false → s.inBenchmark = false → s.dev.safe = false → (s.epoch = .openE ∨ bit (s.get Ep.EP_MASK) n = false) → s.barOpen = true → s.holds .pcie = true →
      exec (.train n .reg) s = .next
        (((s.modLink n (fun l => { l with
            st := .training, tx := [], ctl := [], cto := 0, latched := none, tsrSeen := false, kept := [], free := s.tb, seen := s.tb })).emit
          (.trainBlocks n false)))) ∧
  (∀ (s : State) (n : Ch) (p : Port), s.rests = true → s.chParked n = false → s.inRun n = false → s.inBenchmark = false → s.dev.safe = false → (s.epoch = .openE ∨ bit (s.get Ep.EP_MASK) n = false) → s.serves p = true → s.spDown = false → s.holds p = true →
      exec (.train n (.obj p)) s = .next
        (((s.modLink n (fun l => { l with
            st := .training, tx := [], ctl := [], cto := 0, latched := none, tsrSeen := false, kept := [], free := s.tb, seen := s.tb })).emit
          (.trainBlocks n false)).answer p (0x3050 + 0x100 * n) 4 0))

/-- FE_GO on a link that is UP starts the access held in its registers, or the one a port writes or reads: BUSY is set and a
STATUS_REQ or CONFIG frame is queued; while an access runs a further one waits behind it (that a write of FE_GO waits too is
the model's choice, log entry 62). An access without an answer in time sets FAIL, clears BUSY and aborts its port. A read of
FarEndRead of a parked channel is 0, and on a link that is not UP it is refused. -/
def Obligations.FarEndAccesses : Prop :=
  ∀ (s : State) (n : Ch),
    (s.barOpen = true → s.holds .pcie = true → s.chParked n = false → s.linkUp n = true → s.has (Lk.WR n) = false →
      exec (.feGo n .reg) s = .next ((s.feStart n (s.get (Lk.ADDR n)) (s.get (Lk.DATA n)) false .reg).settle)) ∧
    (s.barOpen = true → s.holds .pcie = true → s.chParked n = false → s.linkUp n = true → s.has (Lk.WR n) = true → s.inRun n = false → 0x80 ≤ s.get (Lk.ADDR n) →
      exec (.feGo n .reg) s = .next ((s.feStart n (s.get (Lk.ADDR n)) (s.get (Lk.DATA n)) true .reg).settle)) ∧
    (∀ p : Port, s.rests = true → s.serves p = true → s.spDown = false → s.expertOn p = true →
      (s.chParked n = true → exec (.farEndRead n p) s = .next (s.answerData p (0x3050 + 0x100 * n) 0x0D [0])) ∧
      (s.chParked n = false → s.linkUp n = false → exec (.farEndRead n p) s = .next (s.answer p (0x3050 + 0x100 * n) 0x0D abState)) ∧
      (s.chParked n = false → s.linkUp n = true →
        exec (.farEndRead n p) s = .next ((s.feStart n (s.get (Lk.ADDR n)) 0 false (.port p)).settle) ∧
        (s.has (Lk.WR n) = false → exec (.feGo n (.obj p)) s = .next ((s.feStart n (s.get (Lk.ADDR n)) 0 false (.port p)).settle)) ∧
        (s.has (Lk.WR n) = true → s.holds p = true → s.inRun n = false → 0x80 ≤ s.get (Lk.ADDR n) →
          exec (.feGo n (.obj p)) s = .next ((s.feStart n (s.get (Lk.ADDR n)) (s.get (Lk.DATA n)) true (.port p)).settle)))) ∧
    (∀ a : FeAcc, s.rests = true → s.can.tpdo.all (fun p => p.wait.isNone) = true → (s.ch[n]).link.fe = some a → (s.ch[n]).link.feQ = [] →
      let told := match a.use with
        | .port p => s.answer p (0x3050 + 0x100 * n) (if a.write then 0x0E else 0x0D) abFail
        | _ => s
      exec (.feAccessTimeout n) s = .next
        ((((told.linkTick n).modLink n (fun l => { l with
          fe := none, feQ := [], ctl := l.ctl.filter (fun c => c.1 ≠ 3),
          tx := l.tx.filter (fun t => t.line.isSome || t.frame ≠ 3) })).unflag (Lk.BUSY n)).flag (Lk.FAIL n))) ∧
    (s.rests = true → s.can.tpdo.all (fun p => p.wait.isNone) = true → (s.ch[n]).link.fe = none → exec (.feAccessTimeout n) s = .next s) ∧
    (∀ (addr val : Nat) (w : Bool) (use : FeFor), (s.ch[n]).link.fe ≠ none →
      s.feStart n addr val w use = s.modLink n (fun l => { l with feQ := l.feQ ++ [⟨addr, val, w, use⟩] })) ∧
    (∀ (addr val : Nat) (w : Bool) (use : FeFor), (s.ch[n]).link.fe = none →
      (((s.feStart n addr val w use).ch[n]).link.fe = some ⟨addr, val, w, use⟩) ∧ (s.feStart n addr val w use).has (Lk.BUSY n) = true ∧
      (3 ∈ ((s.feStart n addr val w use).ch[n]).link.ctl.map (fun c => c.1)))

/-- Over BAR0 with the token, to a channel whose domain is on: a whole entry with a STATUS below 6 keeps the bits that the
host may not write and takes the others, TBL_EFF takes the next line to pass its boundary and TBL_SEQ counts; in RUN it enters
the apply queue, and the table stays until the boundary. A half entry of 32 bits does the same to its bits of an entry that
reads without error. A STATUS of 6 or 7, and a write without the token, change nothing and set WREJ; to a parked channel the
write is discarded. The oldest IMM edit of a channel's queue, or of the device's, that has waited 1 s, behind edits of other
classes or younger ones, is taken out and its request answered 0x0800_0022; where none has waited so long nothing happens. The
other edits keep their order. -/
def Obligations.TableWritesReachTheTable : Prop :=
  (∀ (s : State) (n : Ch) (i : Fin 5120) (v : BitVec 64), s.rests = true → s.barOpen = true →
    let a := 0x100000 + 0x10000 * (n : Nat) + 8 * (i : Nat)
    (s.chParked n = true → exec (.tableWrite a (leBytes 8 v.toNat)) s = .next s) ∧
    (s.chParked n = false → s.holds .pcie = false → exec (.tableWrite a (leBytes 8 v.toNat)) s = .next (s.flag (Ed.WREJ n))) ∧
    (s.chParked n = false → s.holds .pcie = true → Ent.STATUS v.toNat < 6 →
      (s.inRun n = false → s.entry n i < 2 ^ 64 →
        ∃ t, exec (.tableWrite a (leBytes 8 v.toNat)) s = .next t ∧ t.entry n i = masked (s.entry n i) entHost v.toNat ∧
          (∀ j : Fin 5120, j ≠ i → t.entry n j = s.entry n j) ∧ t.get (Ed.TBL_SEQ n) = (s.get (Ed.TBL_SEQ n) + 1) % (Ed.TBL_SEQ n).card ∧
          t.getPair (Hid.TEFF_LO n) (Hid.TEFF_HI n) = s.nextBoundary n % 2 ^ 48 ∧
          (∀ m : Ch, m ≠ n → t.ch[m] = s.ch[m])) ∧
      (s.inRun n = true → (s.ch[n]).applyQ.length < 32 →
        exec (.tableWrite a (leBytes 8 v.toNat)) s = .next (s.modCh n (fun c => { c with
          applyQ := c.applyQ ++ [{ body := .entry i 0xFFFFFFFF_FFFFFFFF v.toNat, cls := .line, owed := none, at0 := s.tb }] }))) ∧
      (s.inRun n = true → 32 ≤ (s.ch[n]).applyQ.length →
        exec (.tableWrite a (leBytes 8 v.toNat)) s = .next ((s.flag (Ed.TBL_DROP n)).bump (Ed.TBL_DROP_CNT n)))) ∧
    (s.chParked n = false → s.holds .pcie = true → 6 ≤ Ent.STATUS v.toNat →
      exec (.tableWrite a (leBytes 8 v.toNat)) s = .next (s.flag (Ed.WREJ n))) ∧
    (∀ (h : Fin 2) (x : Word), s.chParked n = false → s.holds .pcie = true → s.inRun n = false → s.entry n i < 2 ^ 64 →
      (i : Nat) ∉ (s.ch[n]).badEntries → ((h : Nat) = 1 → x.toNat / 2 ^ 29 < 6) →
      ∃ t, exec (.tableWrite (a + 4 * (h : Nat)) (leBytes 4 x.toNat)) s = .next t ∧
        t.entry n i = masked (s.entry n i) (if (h : Nat) = 1 then 0xFFFFFFE0_00000000 else 0xFFFF8000) (x.toNat * 2 ^ (32 * (h : Nat))) ∧
        (∀ j : Fin 5120, j ≠ i → t.entry n j = s.entry n j) ∧ (∀ m : Ch, m ≠ n → t.ch[m] = s.ch[m]))) ∧
  (∀ (s : State) (e : Edit) (pre rest : List Edit) (idx sub : Nat) (data : List Byte) (p : Port) (tick : Tick), (s.at tick).rests = true →
    e.cls = .imm → e.body = .obj idx sub data → e.owed = some p → e.at0 + 9600000000 ≤ max s.tb tick →
    pre.all (fun x => decide (x.cls ≠ .imm ∨ max s.tb tick < x.at0 + 9600000000)) = true →
    (∀ n : Ch, (s.ch[n]).applyQ = pre ++ e :: rest → exec (.heldEditWithdrawn ⟨n, by omega⟩ tick) s = .next
      (((s.at tick).modCh n (fun c => { c with applyQ := pre ++ rest })).answer p idx sub abState)) ∧
    (s.devQ = pre ++ e :: rest → exec (.heldEditWithdrawn 8 tick) s = .next
      (State.answer { s.at tick with devQ := pre ++ rest } p idx sub abState))) ∧
  (∀ (s : State) (tick : Tick), (s.at tick).rests = true →
    (∀ n : Ch, (s.ch[n]).applyQ.all (fun x => decide (x.cls ≠ .imm ∨ max s.tb tick < x.at0 + 9600000000)) = true →
      exec (.heldEditWithdrawn ⟨n, by omega⟩ tick) s = .next (s.at tick)) ∧
    (s.devQ.all (fun x => decide (x.cls ≠ .imm ∨ max s.tb tick < x.at0 + 9600000000)) = true →
      exec (.heldEditWithdrawn 8 tick) s = .next (s.at tick)))

/-- A word of a slot that may change is taken, clears VALID of the slot and, if its contents were protected, clears the slot
first; over a port the slot and word indices are written with it. A CHECK records the first check that fails, or makes the
slot VALID; a wiped slot defines nothing, and its CHECK gives 1 (log entry 77). A slot that is locked (in effect in RUN, or
prepared) is not written: over BAR0 WREJ is set, unless the word repeats what the slot holds. A load over a port that nothing
refuses copies the package and leaves its answer for later. A load that fails its checks records ERR 9 and answers
0x0800_0020; as does one whose copy meets a parity error; one whose tag does not verify records ERR 8. Both zero the secure
part of the scratchpad and leave the slot's words. One that opens fills the slot and runs its CHECK: the slot is VALID and
PROT, or its words are zeroed. -/
def Obligations.SlotsAndProtectedLoads : Prop :=
  ((∀ (s : State) (n : Ch) (sl : Fin 2), s.rests = true → s.chParked n = false → s.barOpen = true → s.holds .pcie = true →
      (∀ (w : Fin 20) (data : Word), s.slotLocked n sl = false →
        ∃ t, exec (.slotWordWrite n sl w data .reg) s = .next t ∧ t.has (Lv.VALID n sl) = false ∧ t.has (Lv.PROT n sl) = false ∧
          (∀ f ∈ Sl.fields n sl, f.addr = slotAddr n sl w → t.get f = bits data.toNat f.msb f.lsb) ∧
          (∀ f ∈ Sl.fields n sl, f.addr ≠ slotAddr n sl w → t.get f = if s.slotSecret n sl = true then 0 else s.get f) ∧
          t.get (Lv.SET_SEL n) = s.get (Lv.SET_SEL n) ∧ (s.slotSecret n sl = false → t.ch = s.ch) ∧ (∀ m : Ch, m ≠ n → t.ch[m] = s.ch[m]) ∧
          t = { s with regs := t.regs, ch := t.ch, out := t.out, pcie := t.pcie }) ∧
      (∀ (w : Fin 20) (data : Word), s.slotLocked n sl = true →
        ∃ t, exec (.slotWordWrite n sl w data .reg) s = .next t ∧ (∀ f ∈ Sl.fields n sl, t.get f = s.get f) ∧
          t.get (Lv.VALID n sl) = s.get (Lv.VALID n sl) ∧ t.ch = s.ch) ∧
      (s.slotLocked n sl = false →
        ∃ t, exec (.check n sl .reg) s = .next t ∧ t.get (Lv.ERR n sl) = (if (sl : Nat) ∈ (s.ch[n]).drive.wiped then 1 else s.slotErr n sl) ∧
          t.has (Lv.VALID n sl) = decide (t.get (Lv.ERR n sl) = 0) ∧ t.chSt n = s.chSt n ∧ t.cu = s.cu ∧ t.stake = s.stake ∧
          (∀ m : Ch, m ≠ n → t.ch[m] = s.ch[m]))) ∧
  (∀ (s : State) (n : Ch) (sl : Fin 2) (p : Port), s.rests = true → s.chParked n = false → s.serves p = true → s.spDown = false → s.holds p = true → (s.inRun n = false ∨ (s.ch[n]).applyQ = []) →
      (∀ (w : Fin 20) (data : Word), s.slotLocked n sl = false →
        ∃ t, exec (.slotWordWrite n sl w data (.obj p)) s = .next t ∧ t.has (Lv.VALID n sl) = false ∧ t.has (Lv.PROT n sl) = false ∧
          (∀ f ∈ Sl.fields n sl, f.addr = slotAddr n sl w → t.get f = bits data.toNat f.msb f.lsb) ∧
          (∀ f ∈ Sl.fields n sl, f.addr ≠ slotAddr n sl w → t.get f = if s.slotSecret n sl = true then 0 else s.get f) ∧
          t.get (Lv.SET_SEL n) = s.get (Lv.SET_SEL n) ∧ (s.slotSecret n sl = false → t.ch = s.ch) ∧ (∀ m : Ch, m ≠ n → t.ch[m] = s.ch[m]) ∧
          t = { s with regs := t.regs, ch := t.ch, out := t.out, pcie := t.pcie }) ∧
      (∀ (w : Fin 20) (data : Word), s.slotLocked n sl = true →
        ∃ t, exec (.slotWordWrite n sl w data (.obj p)) s = .next t ∧ (∀ f ∈ Sl.fields n sl, t.get f = s.get f) ∧
          t.get (Lv.VALID n sl) = s.get (Lv.VALID n sl) ∧ t.ch = s.ch) ∧
      (s.slotLocked n sl = false →
        ∃ t, exec (.check n sl (.obj p)) s = .next t ∧ t.get (Lv.ERR n sl) = (if (sl : Nat) ∈ (s.ch[n]).drive.wiped then 1 else s.slotErr n sl) ∧
          t.has (Lv.VALID n sl) = decide (t.get (Lv.ERR n sl) = 0) ∧ t.chSt n = s.chSt n ∧ t.cu = s.cu ∧ t.stake = s.stake ∧
          (∀ m : Ch, m ≠ n → t.ch[m] = s.ch[m]))) ∧
  (∀ (s : State) (n : Ch) (sl : Fin 2) (w : Fin 20) (data : Word), s.rests = true → s.chParked n = false → s.barOpen = true →
    s.holds .pcie = true → s.slotLocked n sl = true →
    exec (.slotWordWrite n sl w data .reg) s = .next (if s.slotChange n sl w data.toNat = true then s.flag (Lv.WREJ n) else s))) ∧
  (∀ (s : State) (n : Ch) (p : Port) (ofs : Nat), s.rests = true →
    (s.reachedCh n (.obj p) = true → s.inBenchmark = false → s.dev.safe = false → ofs % 16 = 0 → ofs < 2 ^ 32 →
      s.loadRefused n (s.get (slotIx n)) = none →
      (ofs + 128 ≤ spVisible →
        exec (.protectedLoad n ofs p) s = .next ((s.spParity ofs 128).1.modDrive n (fun d => { d with
          load := some ⟨s.get (slotIx n), ofs, s.spBytes ofs 128, (s.spParity ofs 128).2, some p⟩ }))) ∧
      (spVisible < ofs + 128 →
        exec (.protectedLoad n ofs p) s = .next (s.modDrive n (fun d => { d with
          load := some ⟨s.get (slotIx n), ofs, [], false, some p⟩ })))) ∧
    (∀ l : Load, (s.ch[n]).drive.load = some l →
      (s.loadErr n l ≠ 0 →
        exec (.protectedLoadDone n none) s = .next
          ((((s.modDrive n (fun d => { d with load := none })).spClearSecure).put (Lv.ERR n l.slot) 9).reply l.port (0x3041 + 0x100 * n) 6 abFail)) ∧
      (∀ o : Nat,
        exec (.protectedLoadDone n (some o)) s = .next
          (((((s.parityNote 10 (spVisible + o)).modDrive n (fun d => { d with load := none })).spClearSecure).put (Lv.ERR n l.slot) 9).reply
            l.port (0x3041 + 0x100 * n) 6 abFail)) ∧
      (s.loadErr n l = 0 →
        ∃ t, exec (.protectedLoadDone n none) s = .next t ∧ (t.ch[n]).drive.load = none ∧ (∀ a, spVisible ≤ a → t.spByte a = 0) ∧
          (∀ a, a < spVisible → t.spByte a = s.spByte a) ∧
          (s.loadOpen l = none → t =
            ((((s.modDrive n (fun d => { d with load := none })).spClearSecure).put (Lv.ERR n l.slot) 8).reply l.port (0x3041 + 0x100 * n) 6 abFail)) ∧
          (∀ clear : List Byte, s.loadOpen l = some clear → l.slot < 2 →
            let u := (s.slotForget n l.slot).slotFill n l.slot clear
            t.get (Lv.ERR n l.slot) = u.slotErr n l.slot ∧ t.has (Lv.VALID n l.slot) = decide (u.slotErr n l.slot = 0) ∧
            t.has (Lv.PROT n l.slot) = decide (u.slotErr n l.slot = 0) ∧
            (∀ f ∈ Sl.fields n l.slot, t.get f = if u.slotErr n l.slot = 0 then u.get f else 0)))) ∧
    (∀ par : Option Nat, (s.ch[n]).drive.load = none → exec (.protectedLoadDone n par) s = .next s))

/-- Precharge that completes sets PRECHG and BAL_OK, and the rails step up to REST of the slot in effect at 200 ns per step;
they are taken to be at REST from then on, which is the model's choice (log entry 61). What completes it shows that a check of
VHV before the switch was passed. The balancer's comparison at a closed switch takes the errors, BAL_OK and BAL_ERR. A
reservoir fault sets RES_FAULT and retires the channel with cause 6; a ramp step that does not settle does so too, and opens
the switch with the rails where they are. A bleed that ends parks a retiring channel as RETIRED and a stopping one as OFF.
Precharge that misses its time in a readmission fails the readmission. An event out of its place changes nothing, which is the
model's choice (log entry 2). -/
def Obligations.PrechargeAndReservoirs : Prop :=
  ∀ (s : State) (n : Ch),
    (((s.switchPass n).ch[n]).drive.precharging = true →
      let u := s.switchPass n
      exec (.prechargeDone n) s = .next
        (((((u.flag (Lv.PRECHG n)).flag (Lv.BAL_OK n)).rampRails n 0 (some (u.restLevel n))).modDrive n (fun d =>
          { d with precharging := false, railsRest := true, prechgAt := some s.tb })).settle) ∧
      ∃ t, exec (.prechargeDone n) s = .next t ∧
        (s.rests = true → t.has (Lv.HV_ON n) = (s.switchPass n).has (Lv.HV_ON n) ∧ t.has (Lv.PRECHG n) = true ∧ t.has (Lv.BAL_OK n) = true ∧ (t.ch[n]).drive.railsRest = true ∧
          (t.ch[n]).drive.railF.levelAt (t.railsEnd n) = s.restLevel n ∧ (t.ch[n]).drive.railW.levelAt (t.railsEnd n) = s.restLevel n)) ∧
    (s.rests = true → (s.ch[n]).drive.precharging = false → (s.ch[n]).drive.vhvAt = none → exec (.prechargeDone n) s = .next s ∧ exec (.prechargeTimeout n) s = .next s) ∧
    (((s.switchPass n).ch[n]).drive.precharging = true → s.chSt n = .readmitting →
      exec (.prechargeTimeout n) s = .next ((((s.switchPass n).modDrive n (fun d => { d with precharging := false })).readmitFail n).settle)) ∧
    (∀ errs : List Int, s.rests = true → s.has (Lv.HV_ON n) = true → (s.ch[n]).drive.vhvAt = none → s.chSt n ≠ .off →
      ∃ t, exec (.balancerCheck n errs) s = .next t ∧
        t.has (Lv.BAL_OK n) = !((List.range 15).any (fun i => decide (256 < 10 * (nthZ errs i).natAbs))) ∧
        t.get (Lv.RES_ERR n 1) = wrap 16 (nthZ errs 0) ∧ t.get (Lv.RES_ERR n 15) = wrap 16 (nthZ errs 14) ∧
        t = { s with regs := t.regs, out := t.out }) ∧
    (s.has (Lv.HV_ON n) = true → s.has (Lv.PRECHG n) = true → s.chSt n ≠ .off →
      exec (.resFault n) s = .next
        ((((s.flag (Lv.RES_FAULT n)).emcyMsg 0x3220 n (s.lineInProgress n)).retire n 6).settle)) ∧
    ((s.ch[n]).drive.railsRest = false → s.has (Lv.HV_ON n) = true →
      let u := ((s.stopRails n).switchOpen n).unflag (Lv.PRECHG n)
      exec (.rampStepTimeout n) s = .next
        ((((u.flag (Lv.RES_FAULT n)).emcyMsg 0x3220 n (u.lineInProgress n)).retire n 6).settle) ∧
      ((s.chSt n = .idle ∨ s.chSt n = .run) → s.safeNow = false →
        ∃ t, exec (.rampStepTimeout n) s = .next t ∧ t.chSt n = .retiring ∧ t.get (Cc.CAUSE n) = 6 ∧ t.has (Lv.RES_FAULT n) = true ∧
          t.has (Lv.HV_ON n) = false ∧ (t.ch[n]).drive.railF = (s.ch[n]).drive.railF.rest s.tb ∧
          (t.ch[n]).drive.railW = (s.ch[n]).drive.railW.rest s.tb)) ∧
    (((s.ch[n]).drive.railsRest = true ∨ s.has (Lv.HV_ON n) = false) → s.rests = true → exec (.rampStepTimeout n) s = .next s) ∧
    ((s.ch[n]).drive.bleeding = true → s.rests = true → s.dev.safeEntry = none →
      (s.chSt n = .retiring →
        ∃ t, exec (.bleedDone n) s = .next t ∧ t.chSt n = .retired ∧ (t.ch[n]).drive.bleeding = false ∧ t.has (Lv.BAL_OK n) = false ∧
          (t.ch[n]).link.st = .down ∧ (t.ch[n]).q.lines = [] ∧ (t.ch[n]).table = (s.ch[n]).table) ∧
      (s.chSt n = .stopping →
        ∃ t, exec (.bleedDone n) s = .next t ∧ t.chSt n = .off ∧ (t.ch[n]).drive.bleeding = false))

/-- An overcurrent of a rail on a channel whose input switch is closed sets the rail's flag, counts, names the line in
progress, drops it with RELEASE 0x01, and, once precharged, takes the rails from where they stand to LV0 and back up to REST,
the first step 20 ns on (the value of a worked example, and that each rail goes up by itself: the model's choices, log entry
61); in RUN the third within 1,000 lines retires the channel with cause 1. With the switch open there is none, which is the
model's choice (log entry 2). Rails that are back are at REST again. The last line decided before a wipe zeroes the wiped
slots, sets WIPED and stops the channel. -/
def Obligations.OvercurrentsAndRails : Prop :=
  ∀ (s : State) (n : Ch),
    (∀ (r : Rail) (tick : Tick), (s.at tick).rests = true → s.has (Lv.HV_ON n) = true → (s.ch[n]).drive.wiped = [] →
      (s.inRun n = true → thirdWithin (s.ch[n]).drive.ocLines ((s.at tick).lineInProgress n) = false) →
      ∃ t, exec (.overcurrent n r tick) s = .next t ∧ t.has (if r = .w then Lv.OC_W n else Lv.OC_F n) = true ∧
        t.get (Lv.OC_CNT n) = min (s.get (Lv.OC_CNT n) + 1) ((Lv.OC_CNT n).card - 1) ∧
        t.getPair (Hid.OC_LO n) (Hid.OC_HI n) = (s.at tick).lineInProgress n % 2 ^ 48 ∧
        (s.has (Lv.PRECHG n) = true → (t.ch[n]).drive.railsRest = false ∧ (t.ch[n]).drive.railF.moves =
          [⟨max s.tb tick, max s.tb tick + 192, rampDown ((s.ch[n]).drive.railF.levelAt (max s.tb tick)) ++ rampUp (s.restLevel n), 1920,
            some (0, s.restLevel n * 256)⟩]) ∧
        (s.has (Lv.PRECHG n) = false → (t.ch[n]).drive.railF = (s.ch[n]).drive.railF) ∧
        (∀ l ∈ (t.ch[n]).lines, l.decided = true → l.runs = false) ∧ t.chSt n = s.chSt n ∧ ctlGroup n grpRelease 0 1 ∈ t.out ∧
        t.tb = max s.tb tick ∧ t.cu = s.cu ∧ (∀ m : Ch, m ≠ n → t.ch[m] = s.ch[m])) ∧
    (∀ (r : Rail) (tick : Tick), s.has (Lv.HV_ON n) = true → s.inRun n = true → (s.at tick).safeNow = false →
      thirdWithin (s.ch[n]).drive.ocLines ((s.at tick).lineInProgress n) = true →
      ∃ t, exec (.overcurrent n r tick) s = .next t ∧ t.chSt n = .retiring ∧ t.get (Cc.CAUSE n) = 1 ∧
        (∀ m : Ch, m ≠ n → t.chSt m = s.chSt m)) ∧
    (∀ (r : Rail) (tick : Tick), (s.at tick).rests = true → s.has (Lv.HV_ON n) = false → exec (.overcurrent n r tick) s = .next (s.at tick)) ∧
    (∀ tick : Tick, (s.at tick).rests = true →
      (s.has (Lv.HV_ON n) = true → (s.ch[n]).drive.bleeding = false → exec (.railRecoveryDone n tick) s = .next
        ((s.at tick).modDrive n (fun d => { d with railF := d.railF.done, railW := d.railW.done, railsRest := true }))) ∧
      ((s.has (Lv.HV_ON n) = false ∨ (s.ch[n]).drive.bleeding = true) → exec (.railRecoveryDone n tick) s = .next (s.at tick))) ∧
    (s.rests = true → (s.ch[n]).drive.wipeStop.isSome = true → s.chSt n = .run → (s.ch[n]).lines.all (fun l => l.decided) = true →
      ∃ t, exec (.wipedSlotClear n) s = .next t ∧ t.chSt n = .stopping ∧ t.has (Lv.WIPED n) = true ∧ (t.ch[n]).drive.wiped = [] ∧
        (t.ch[n]).trav.st = .stopped ∧
        (∀ sl : Fin 2, (sl : Nat) ∈ (s.ch[n]).drive.wiped → ∀ f ∈ Sl.fields n sl, t.get f = 0)) ∧
    (s.rests = true → (s.ch[n]).drive.wipeStop = none → exec (.wipedSlotClear n) s = .next s)

/-- A tamper edge with TAMPER_EN, a glitch or a trigger begins a wipe: the cause is recorded, the secure part reads 0, the key
is gone, and a channel that does not print with a protected slot has that slot cleared, no longer VALID nor PROT. A further
trigger during the wipe only adds its cause. Visible memory stays. Its end counts it and serves the accesses of port S that
waited. That a wipe's end changes nothing while none runs is the model's choice (log entry 2). -/
def Obligations.WipesClearSecrets : Prop :=
  ∀ (s : State), s.rests = true →
    (∀ why : WipeWhy, s.dev.wiping = false →
      ∃ t, exec (.wipe why) s = .next t ∧ t.dev.wiping = true ∧ t.get Pr.WIPE_CAUSE = wipeBit why ∧ t.datum.key = false ∧
        (∀ a, spVisible ≤ a → t.spByte a = 0) ∧ (∀ a, a < spVisible → t.spByte a = s.spByte a) ∧
        (∀ (n : Ch) (sl : Fin 2), s.has (Lv.PROT n sl) = true → t.has (Lv.PROT n sl) = false ∧ t.has (Lv.VALID n sl) = false) ∧
        (∀ (n : Ch) (sl : Fin 2), s.has (Lv.PROT n sl) = true → s.inRun n = false → ∀ f ∈ Sl.fields n sl, t.get f = 0)) ∧
    (∀ why : WipeWhy, s.dev.wiping = true →
      exec (.wipe why) s = .next (s.put Pr.WIPE_CAUSE (s.get Pr.WIPE_CAUSE ||| wipeBit why))) ∧
    (s.dev.wiping = true →
      exec .wipeDone s = .next
        (s.dev.spWait.foldl State.sAccess ((s.modDev (fun d => { d with wiping := false, spWait := [] })).incr Me.WIPE_CNT))) ∧
    (s.dev.wiping = false → exec .wipeDone s = .next s) ∧
    (∀ voltage : Bool, exec (.glitch voltage) s = exec (.wipe (if voltage then .voltageGlitch else .clockGlitch)) s) ∧
    (∀ voltage : Bool, s.dev.wiping = false →
      ∃ t, exec (.glitch voltage) s = .next t ∧ t.get Pr.WIPE_CAUSE = (if voltage then 4 else 2) ∧ t.datum.key = false) ∧
    (s.dev.tamperLow = false → s.datum.tamperEn = true → s.dev.wiping = false →
      ∃ t, exec .tamper s = .next t ∧ t.dev.tamperLow = true ∧ t.dev.wiping = true ∧ t.get Pr.WIPE_CAUSE = 1) ∧
    (s.dev.tamperLow = false → s.datum.tamperEn = false →
      exec .tamper s = .next (s.modDev (fun d => { d with tamperLow := true }))) ∧
    (s.dev.tamperLow = true → exec .tamper s = .next s) ∧
    exec .tamperNHigh s = .next (s.modDev (fun d => { d with tamperLow := false }))

/-- Over a port with the token and expert access: a blank word of a region that is not write-locked takes its data, its check
fuses and its valid fuse when every fuse blows. A fuse that fails its verify leaves the word torn, and the write fails; work
that a sample outside the window, entry to SAFE or a reset stops leaves the fuses blown so far, without the valid fuse, and is
answered as refused, or not at all after a reset. A write of a locked region is refused, leaves every fuse and ends an arm of
the region. An arm with the region's count arms it, with another count it is refused; the arm ends by itself. With the region
armed at its count a write lock is blown, with the write lock a read lock. A margin check leaves its counts in OtpCounts. The
check fuses are those of an open SECDED code (log entry 20), and a reset that gives no answer is the model's reading (log
entry 42). -/
def Obligations.OtpCommandsComplete : Prop :=
  ∀ (s : State) (p : Port), s.rests = true → s.reached (.obj p) = true → s.expertOn p = true → s.otp.rows.length = 16 →
    (∀ v : Word, s.otp.arm = none → s.writeLocked (s.get otpIx / 512) = false → s.datum.lc ≠ 3 → s.otpMay = true →
      s.spareOf (s.get otpIx / 512) (s.get otpIx % 512) = none → (s.otpCell (s.get otpIx)).blank = true → s.get otpIx % 512 < 504 →
      ∃ t, exec (.otpWordWrite v p []) s = .next t ∧
        (t.otpCell (s.get otpIx)).norm = v.toNat + otpChk v.toNat * 2 ^ 32 + 2 ^ 39 ∧
        (t.otpCell (s.get otpIx)).tight = (t.otpCell (s.get otpIx)).norm ∧ t.otp.rows = s.otp.rows ∧
        (t.otpCell (s.get otpIx)).torn = false ∧ t.out.head? = some (.sdo p 0x4C00 2 0) ∧
        (∀ ix, ix ≠ s.get otpIx → t.otpCell ix = s.otpCell ix) ∧ t.datum = s.datum ∧ t.ch = s.ch) ∧
    (∀ (v : Word) (r : FuseRun), s.otp.arm = none → s.writeLocked (s.get otpIx / 512) = false → s.datum.lc ≠ 3 → s.otpMay = true →
      s.spareOf (s.get otpIx / 512) (s.get otpIx % 512) = none → (s.otpCell (s.get otpIx)).blank = true →
      let w := v.toNat + otpChk v.toNat * 2 ^ 32
      ((onesOf w 39).length ≤ r.blown → (∃ i ∈ onesOf w 39, i ∈ r.dud ∨ i ∈ r.weak) →
        ∃ t, exec (.otpWordWrite v p [r]) s = .next t ∧ (t.otpCell (s.get otpIx)).torn = true ∧
          t.out.head? = some (.sdo p 0x4C00 2 abFail) ∧ t.otp.windowOk = true) ∧
      (r.blown < (onesOf w 39).length → r.dud = [] → r.weak = [] →
        ∃ t, exec (.otpWordWrite v p [r]) s = .next t ∧ (t.otpCell (s.get otpIx)).torn = decide (0 < r.blown) ∧
          (t.otpCell (s.get otpIx)).valid = false ∧ t.otp.windowOk = !decide (r.cut = .window) ∧
          (r.cut = .reset → t.out = s.out) ∧ (r.cut ≠ .reset → t.out.head? = some (.sdo p 0x4C00 2 abState)))) ∧
    (∀ (v : Word) (runs : List FuseRun), s.otp.arm = none → s.writeLocked (s.get otpIx / 512) = true →
      exec (.otpWordWrite v p runs) s = .next (s.answer p 0x4C00 2 abState)) ∧
    (∀ count : BitVec 16, s.dev.safe = false →
      (s.otpCount (s.get otpReg) = count.toNat →
        exec (.otpLockArm count p) s = .next
          (State.answer { s with otp := { s.otp with arm := some (s.get otpReg, count.toNat) } } p 0x4C00 6 0)) ∧
      (count.toNat ≤ 504 → s.otpCount (s.get otpReg) ≠ count.toNat → exec (.otpLockArm count p) s = .next (s.answer p 0x4C00 6 abCheck))) ∧
    exec .otpLockArmExpiry s = .next { s with otp := { s.otp with arm := none } } ∧
    (∀ (v : Word) (runs : List FuseRun) (k : Nat), s.otp.arm = some (s.get otpIx / 512, k) → s.writeLocked (s.get otpIx / 512) = true →
      exec (.otpWordWrite v p runs) s = .next (State.answer { s with otp := { s.otp with arm := none } } p 0x4C00 2 abState)) ∧
    exec (.otpMarginCheck p) s = .next ((s.put otpCnt s.otpCounts).answer p 0x4C00 8 0) ∧
    (s.get otpReg < 16 → s.writeLocked (s.get otpReg) = false → s.otp.arm = some (s.get otpReg, s.otpCount (s.get otpReg)) → s.otpMay = true →
      ∃ t, exec (.otpWriteLockBlow p fullRun) s = .next t ∧ t.writeLocked (s.get otpReg) = true ∧ t.otp.arm = none ∧ t.otp.words = s.otp.words) ∧
    (s.get otpReg < 16 → s.readLocked (s.get otpReg) = false → s.writeLocked (s.get otpReg) = true → s.otpMay = true →
      ∃ t, exec (.otpReadLockBlow p fullRun) s = .next t ∧ t.readLocked (s.get otpReg) = true ∧ t.otp.words = s.otp.words)

/-- A transition that nothing refuses wipes first and then blows the fuses of its state, to RETURNED every fuse of the key
words before; a refused one leaves the fuses. Either ends an arm of a lock. A challenge is fresh with each read and is kept
for the response; it expires. A response without a challenge is refused; one that verifies in PROD with debug allowed opens
debug and drops the key. BYPASS, IDCODE and SAMPLE/PRELOAD are always taken: IDCODE with 0x1082_096B on TDO, SAMPLE/PRELOAD
with what the boundary-scan register captured, a free value (log entry 3), while it takes what is shifted in. EXTEST, CLAMP
and HIGHZ act on the pins while no channel runs, and as BYPASS while one does, whenever they were loaded. DBG acts while
processor debug is open and as BYPASS while it is closed: the debugger halts the station processor and lets it go on, reads
and writes the visible scratchpad, the secure part reading 0 and taking nothing, and reads slot words, those of a protected
slot as 0 (operations of the model's own command, log entry 57). Nothing else changes. -/
def Obligations.LifeCycleAndDebug : Prop :=
  (∀ (s : State) (p : Port), s.rests = true → s.reached (.obj p) = true → s.expertOn p = true → s.otp.rows.length = 16 →
    (∀ (code : Word) (a : Nat) (runs : List FuseRun), s.lcRefused code.toNat = some a →
      ∃ t, exec (.lifeCycleAdvance code p runs) s = .next t ∧ t.otp = { s.otp with arm := none } ∧ t.datum = s.datum ∧ t.sp = s.sp) ∧
    (∀ c : Fin 2, s.lcRefused (0x4C430001 + c) = none →
      ∃ t, exec (.lifeCycleAdvance (0x4C430001 + (BitVec.ofNat 32 c)) p []) s = .next t ∧ majority (t.row 0).lc (3 * (c : Nat)) = true ∧
        t.otp.arm = none ∧ t.datum.key = false ∧ (∀ x, spVisible ≤ x → t.spByte x = 0) ∧ t.datum.lc = s.datum.lc) ∧
    (s.lcRefused 0x4C430003 = none → s.otp.words.length ≤ 8192 →
      ∃ t, exec (.lifeCycleAdvance 0x4C430003 p []) s = .next t ∧ majority (t.row 0).lc 6 = true ∧ t.otp.arm = none ∧
        t.datum.key = false ∧ (∀ x, spVisible ≤ x → t.spByte x = 0) ∧
        (∀ c ∈ t.otp.words, c.idx / 512 = 4 → c.valid = true → c.norm % 2 ^ 39 = 2 ^ 39 - 1)) ∧
    exec (.debugChallenge p) s = .next
      (let c := leBytes 16 (Config.challenge s.ctr).toNat;
      State.answerData { s with ctr := s.ctr + 1, datum := { s.datum with chal := some c } } p 0x4E00 4 c) ∧
    (leBytes 16 (Config.challenge s.ctr).toNat).length = 16 ∧
    exec .debugChallengeExpiry s = .next { s with datum := { s.datum with chal := none } } ∧
    (∀ sig : List Byte, sig.length = 64 →
      (s.datum.chal = none → exec (.debugResponse sig p) s = .next (s.answer p 0x4E00 5 abState)) ∧
      (∀ c : List Byte, s.datum.chal = some c → s.datum.lc = 2 → s.datum.dbgChal = true →
        (List.range 16).all (fun i => s.otpValid (2560 + i)) = true → s.loadRunning = false → s.datum.chalFails < 3 →
        exec (.debugResponse sig p) s = .next
          (if Config.ecdsaOk (s.otpBytes 2560 16) ([0x4F, 0x58, 0x44, 0x42, 0x47] ++ c) sig then
            State.answer { s with datum := { s.datum with chal := none, dbg := 2, key := false } } p 0x4E00 5 0
          else State.answer { s with datum := { s.datum with chal := none, chalFails := s.datum.chalFails + 1 } } p 0x4E00 5 abFail)))) ∧
  (∀ s : State, s.rests = true →
    exec .tapBypass s = .next (s.modDev (fun d => { d with tap := .bypass })) ∧
    exec .tapIdcode s = .next ((s.modDev (fun d => { d with tap := .idcode })).emit (.tdo 0x1082096B)) ∧
    (∀ cells : Nat, exec (.tapSamplePreload cells) s = .next
      (State.emit { s.modDev (fun d => { d with tap := .sample, bsr := cells }) with ctr := s.ctr + 1 } (.tdo (Config.freeNat s.ctr)))) ∧
    (∀ (c : Instr) (ir : TapIr), (c = .tapExtest ∧ ir = .extest ∨ c = .tapClamp ∧ ir = .clamp ∨ c = .tapHighz ∧ ir = .highz) →
      exec c s = .next (if s.anyBusy then s.modDev (fun d => { d with tap := ir })
        else (s.modDev (fun d => { d with tap := ir })).emit (.scan ir s.dev.bsr))) ∧
    (∀ op : DbgOp, s.datum.dbg = 0 → exec (.tapDbg op) s = .next (s.modDev (fun d => { d with tap := .dbg }))) ∧
    (s.datum.dbg ≠ 0 →
      exec (.tapDbg .select) s = .next (s.modDev (fun d => { d with tap := .dbg })) ∧
      exec (.tapDbg .halt) s = .next (s.modDev (fun d => { d with tap := .dbg, dbgHalt := true })) ∧
      (s.deferred = [] → exec (.tapDbg .go) s = .next (s.modDev (fun d => { d with tap := .dbg, dbgHalt := false }))) ∧
      (∀ ofs len : Nat, s.parBad = [] → s.bist.running = none → exec (.tapDbg (.read ofs len)) s = .next ((s.modDev (fun d => { d with tap := .dbg })).emit
        (.debug ((List.range len).map (fun i => if ofs + i < spVisible then s.spByte (ofs + i) else 0))))) ∧
      (∀ (ofs : Nat) (bs : List Byte), ∃ t, exec (.tapDbg (.write ofs bs)) s = .next t ∧
        (∀ a, t.spByte a = (if ofs ≤ a ∧ a < ofs + bs.length ∧ a < spVisible then bs.getD (a - ofs) 0 else s.spByte a)) ∧ t.ch = s.ch) ∧
      (∀ (n : Ch) (sl w : Nat), exec (.tapDbg (.slotRead n sl w)) s = .next ((s.modDev (fun d => { d with tap := .dbg })).emit
        (.debug (leBytes 4 (if s.slotSecret n sl then 0 else s.slotWord n sl w)))))) ∧
    ((s.modDev (fun d => { d with tap := .bypass })).tapActs = .bypass ∧
      (∀ ir : TapIr, (ir = .extest ∨ ir = .clamp ∨ ir = .highz) →
        (s.modDev (fun d => { d with tap := ir })).tapActs = if s.anyBusy then .bypass else ir) ∧
      (s.modDev (fun d => { d with tap := .dbg })).tapActs = if s.datum.dbg = 0 then .bypass else .dbg))

/-- A capture that ends is over; its result, classified by the rules, is the last result and waits. A capture shorter than
SNS_MIN is SHORT and counts, one with a sample at a rail CLIP and counts, one of a learning row is LEARN, one without a
signature NO_SIG. The oldest result enters the sense queue while fewer than 16 wait, else it is skipped and counted. With
nothing to end or to queue nothing changes; no other channel changes. That nothing changes where nothing ends or waits is the
model's choice (log entry 2). -/
def Obligations.CapturesAreClassified : Prop :=
  ∀ (s : State) (n : Ch), s.rests = true →
    (∀ smp : List Int, (s.ch[n]).health.cap = none → exec (.captureEnd n smp) s = .next s) ∧
    (∀ (smp : List Int) (cap : Cap), (s.ch[n]).health.cap = some cap →
      let x := (smp.take (s.get (Nh.SNS_LEN n))).map (clamp (-2048) 2047)
      let r := s.classify n cap x
      ∃ t, exec (.captureEnd n smp) s = .next t ∧ (t.ch[n]).health.cap = none ∧ (t.ch[n]).health.last = some r ∧
        (t.ch[n]).health.results = (s.ch[n]).health.results ++ [r] ∧ (t.ch[n]).health.obs = (s.ch[n]).health.obs ∧
        (r.cls = 3 → t.has (Nh.SHORT n) = true ∧ t.get (Nh.SHORT_CNT n) = min (s.get (Nh.SHORT_CNT n) + 1) ((Nh.SHORT_CNT n).card - 1)) ∧
        (r.cls = 4 → t.has (Nh.CLIP n) = true ∧ t.get (Nh.CLIP_CNT n) = min (s.get (Nh.CLIP_CNT n) + 1) ((Nh.CLIP_CNT n).card - 1)) ∧
        (r.cls ≤ 2 → t.get (Nh.CAP_CNT n) = min (s.get (Nh.CAP_CNT n) + 1) ((Nh.CAP_CNT n).card - 1)) ∧
        (x.length < s.get (Nh.SNS_MIN n) → r.cls = 3) ∧
        (s.get (Nh.SNS_MIN n) ≤ x.length → (-2048 ∈ x ∨ 2047 ∈ x) → r.cls = 4) ∧
        (s.get (Nh.SNS_MIN n) ≤ x.length → ¬(-2048 ∈ x ∨ 2047 ∈ x) → s.get (Nh.LEARN n) = 0 → s.get (Nh.SIG_VALID n) = 0 → r.cls = 5) ∧
        r.line = cap.line ∧ r.noz = cap.noz ∧ r.len = x.length ∧ (∀ m : Ch, m ≠ n → t.ch[m] = s.ch[m])) ∧
    ((s.ch[n]).health.results = [] → exec (.senseResult n) s = .next s) ∧
    (∀ (r : SRes) (rest : List SRes), (s.ch[n]).health.results = r :: rest →
      (s.senseQueued n < 16 →
        exec (.senseResult n) s = .next (s.modHealth n (fun h => { h with results := rest, obs := h.obs ++ [(r.noz, false, r.cls, r.dev)] }))) ∧
      (16 ≤ s.senseQueued n →
        exec (.senseResult n) s = .next ((s.modHealth n (fun h => { h with results := rest })).flagBump (Nh.QSKIP n) (Nh.QSKIP_CNT n))))

/-- An observation is taken only with the image domain on, the station processor running and no verdict held for want of a
place in the queue of 64. A SHORT, CLIP, NO_SIG or LEARN class is passed over, and every class of a head that has no sense
route; with the engine off evidence is kept and, with DEV_UPD 0, nothing is written; with the engine on a strip finding MASKED
of a nozzle that is not MASKED is one decision, which writes STATUS 5 and leaves the other fields of the verdict as they
stand. A decision enters the channel's apply queue whole as LINE edits of one request, once 4 places are free, and stays where
it is before; entries change by neither. That nothing changes where no observation and no verdict waits is the model's choice
(log entry 2). -/
def Obligations.ObservationsBecomeVerdicts : Prop :=
  ∀ (s : State) (n : Ch), s.rests = true →
    (((s.ch[n]).health.obs = [] ∨ s.pix.on = false ∨ s.spDown = true ∨ 64 < (s.ch[n]).health.verdicts.length) → exec (.closureObservation n) s = .next s) ∧
    (∀ (i : Nat) (strip : Bool) (code : Nat) (dev : Int) (rest : List (Nat × Bool × Nat × Int)),
      (s.ch[n]).health.obs = (i, strip, code, dev) :: rest → s.pix.on = true → s.spDown = false → (s.ch[n]).health.verdicts.length ≤ 64 →
      (strip = false → (3 ≤ code ∨ s.canRoute n = false) → exec (.closureObservation n) s = .next (s.modHealth n (fun h => { h with obs := rest }))) ∧
      (strip = true → code = 4 → s.has Cl.ENABLE = true → Ent.STATUS (s.entryView n i) ≠ 5 →
        let v := s.entryView n i
        let w := verdictVal 5 (Ent.CMASK v) (if Ent.SUB_EN v then some (Ent.SUB_IDX v) else none) (Ent.SUB_IDX v) (s.evidOf n i).sd
        exec (.closureObservation n) s = .next ((s.modHealth n (fun h =>
          { h with obs := rest, verdicts := h.verdicts ++ [[⟨i, w.1, w.2, 2⟩]] })).incr Cl.DECISIONS) ∧
        Ent.STATUS (closureMerge v w.1 w.2) = 5) ∧
      (s.has Cl.ENABLE = false → (strip = false → code < 3 ∧ s.canRoute n = true ∧ s.get (Nh.DEV_UPD n) = 0) → (strip = true → code ≠ 4) →
        ∃ t, exec (.closureObservation n) s = .next t ∧ (t.ch[n]).health.obs = rest ∧
          t.evidOf n i = (s.evidOf n i).keep strip code dev ∧ (t.ch[n]).health.verdicts = (s.ch[n]).health.verdicts ∧
          (t.ch[n]).table = (s.ch[n]).table ∧ t = { s with ch := t.ch } ∧ (∀ m : Ch, m ≠ n → t.ch[m] = s.ch[m]))) ∧
    ((s.ch[n]).health.verdicts = [] → exec (.verdictEnqueue n) s = .next s) ∧
    (∀ (g : List VWrite) (rest : List (List VWrite)), (s.ch[n]).health.verdicts = g :: rest →
      ((s.chParked n = true ∨ 28 < (s.ch[n]).applyQ.length) → exec (.verdictEnqueue n) s = .next s) ∧
      (s.chParked n = false → (s.ch[n]).applyQ.length ≤ 28 → s.inRun n = true →
        ∃ t, exec (.verdictEnqueue n) s = .next t ∧ (t.ch[n]).health.verdicts = rest ∧ (t.ch[n]).table = (s.ch[n]).table ∧
          (t.ch[n]).applyQ = (s.ch[n]).applyQ ++ g.map (fun w =>
            { body := .closure w.noz w.mask w.val 0 w.why, cls := .line, owed := none, at0 := s.tb }) ∧
          t = { s with ch := t.ch } ∧ (∀ m : Ch, m ≠ n → t.ch[m] = s.ch[m])))

/-- LEARN of rows in effect starts learning on them and refuses a row that is not in effect, over both ports. A read of
SIG_DATA gives the sample at the window's index, or SIG_N at 150, and moves the index on; a write of SIG_N makes the row valid
with that length, and 0 makes it invalid; a write of a sample of 12 bits takes it, over both ports. No other channel changes.
That the index moves from 150 back to 0 is the model's choice (log entry 31). -/
def Obligations.SignaturesAreLearnedAndRead : Prop :=
  (∀ (s : State) (n : Ch), s.rests = true → s.chParked n = false → s.barOpen = true → s.holds .pcie = true →
      (∀ rows : BitVec 8, (∀ r : Fin 8, bit rows.toNat r = true → (r : Nat) < s.nrows n) →
        exec (.learn n rows .reg) s = .next ((s.learnStart n rows.toNat))) ∧
      (∀ v : BitVec 16, s.get (Nh.SIG_IDX n) = 150 → v.toNat ≤ 150 → s.get (Nh.SIG_ROW n) < s.nrows n →
        exec (.signatureAccess n (some v) .reg) s = .next
          (((s.sigLen n (s.get (Nh.SIG_ROW n)) v.toNat).put (Nh.SIG_IDX n) 0))) ∧
      (∀ v : BitVec 16, s.get (Nh.SIG_IDX n) < 150 → -2048 ≤ v.toInt → v.toInt ≤ 2047 → s.get (Nh.SIG_ROW n) < s.nrows n →
        exec (.signatureAccess n (some v) .reg) s = .next
          (((s.sigSample n (s.get (Nh.SIG_ROW n)) (s.get (Nh.SIG_IDX n)) v.toInt).put (Nh.SIG_IDX n) (s.get (Nh.SIG_IDX n) + 1)).answered .reg
            (0x3061 + 0x100 * n) 3 0))) ∧
  (∀ (s : State) (n : Ch) (p : Port), s.rests = true → s.chParked n = false → s.serves p = true → s.spDown = false → s.holds p = true → (s.inRun n = false ∨ (s.ch[n]).applyQ = []) →
      (∀ rows : BitVec 8, (∀ r : Fin 8, bit rows.toNat r = true → (r : Nat) < s.nrows n) →
        exec (.learn n rows (.obj p)) s = .next ((s.learnStart n rows.toNat).answer p (0x3061 + 0x100 * n) 5 0)) ∧
      (s.expertOn p = true → ∀ v : BitVec 16, s.get (Nh.SIG_IDX n) = 150 → v.toNat ≤ 150 → s.get (Nh.SIG_ROW n) < s.nrows n →
        exec (.signatureAccess n (some v) (.obj p)) s = .next
          (((s.sigLen n (s.get (Nh.SIG_ROW n)) v.toNat).put (Nh.SIG_IDX n) 0).answer p (0x3061 + 0x100 * n) 3 0)) ∧
      (s.expertOn p = true → ∀ v : BitVec 16, s.get (Nh.SIG_IDX n) < 150 → -2048 ≤ v.toInt → v.toInt ≤ 2047 → s.get (Nh.SIG_ROW n) < s.nrows n →
        exec (.signatureAccess n (some v) (.obj p)) s = .next
          (((s.sigSample n (s.get (Nh.SIG_ROW n)) (s.get (Nh.SIG_IDX n)) v.toInt).put (Nh.SIG_IDX n) (s.get (Nh.SIG_IDX n) + 1)).answered (.obj p)
            (0x3061 + 0x100 * n) 3 0))) ∧
  (∀ (s : State) (n : Ch), s.rests = true → s.chParked n = false →
    (∀ (rows : BitVec 8) (r : Fin 8), bit rows.toNat r = true → s.nrows n ≤ r →
      (s.barOpen = true → s.holds .pcie = true → exec (.learn n rows .reg) s = .next (s.flag (Nh.WREJ n))) ∧
      (∀ p : Port, s.serves p = true → s.spDown = false → s.holds p = true →
        exec (.learn n rows (.obj p)) s = .next (s.answer p (0x3061 + 0x100 * n) 5 abState))) ∧
    (s.barOpen = true →
      exec (.signatureAccess n none .reg) s = .next ((s.emit (.regData (Nh.SIG_DATA n).addr (s.sigRead n))).sigStep n)) ∧
    (∀ p : Port, s.serves p = true → s.spDown = false → s.expertOn p = true → s.get (Nh.SIG_IDX n) < 150 →
      exec (.signatureAccess n none (.obj p)) s = .next
        ((s.answerData p (0x3061 + 0x100 * n) 3 (leBytes 2 (s.sigRead n))).put (Nh.SIG_IDX n) (s.get (Nh.SIG_IDX n) + 1))) ∧
    (s.get (Nh.SIG_ROW n) < 8 → s.get (Nh.SIG_IDX n) < 150 →
      s.sigRead n = wrap 16 (nthZ ((s.ch[n]).health.sigs.getD (s.get (Nh.SIG_ROW n)) ⟨[], 0⟩).g (s.get (Nh.SIG_IDX n)))) ∧
    (s.sigStep n).get (Nh.SIG_IDX n) = (if s.get (Nh.SIG_IDX n) < 150 then s.get (Nh.SIG_IDX n) + 1 else 0))

/-- STRIP_EN = 1 is refused in MODE 2; where the stake reads the channel's unit it is written, and takes effect at once
outside RUN. STRIP_EN = 0 is written. A strip that waits for analysis and met a parity error counts as ignored, with its
report. Any other is analysed by R276 to R278: it gives its reports and counts as seen; one that is rejected counts as ignored
too and leaves no observation; an accepted one adds the finding of every dot in order, and of the dots judged at least three
quarters are OK. Where R276 leaves the response, the centroid or the paper level open, the analysis follows log entry 64. With
no strip waiting nothing changes. -/
def Obligations.StripsAreEnabledAndAnalysed : Prop :=
  (∀ (s : State) (n : Ch), s.rests = true → s.chParked n = false → s.inRun n = false → 0 < s.get (Nh.STRIP_P n) → 0 < s.get (Nh.STRIP_LEVEL n) → s.barOpen = true → s.holds .pcie = true →
      (s.get (Tr.MODE n) ≠ 2 → s.get (St.CU (s.get (Nh.STRIP_ST n))) = s.get (Tr.CU n) →
        ∃ t, exec (.stripEnWrite n true .reg) s = .next t ∧ t.has (Nh.STRIP_EN n) = true ∧ t.eff (Nh.STRIP_EN n) = 1 ∧
          (∀ f ∈ Nh.fields n, f ≠ Nh.STRIP_EN n → t.get f = s.get f) ∧
          t = { s with regs := t.regs, out := t.out, pcie := t.pcie, fresh := t.fresh }) ∧
      (∃ t, exec (.stripEnWrite n false .reg) s = .next t ∧ t.has (Nh.STRIP_EN n) = false ∧ t.eff (Nh.STRIP_EN n) = 0 ∧
          (∀ f ∈ Nh.fields n, f ≠ Nh.STRIP_EN n → f ≠ Nh.STRIP_PEND n → t.get f = s.get f) ∧ (t.ch[n]).table = (s.ch[n]).table ∧
          (∀ m : Ch, m ≠ n → t.ch[m] = s.ch[m]))) ∧
  (∀ (s : State) (n : Ch) (p : Port), s.rests = true → s.chParked n = false → s.inRun n = false → 0 < s.get (Nh.STRIP_P n) → 0 < s.get (Nh.STRIP_LEVEL n) → s.serves p = true → s.spDown = false → s.holds p = true →
      (s.get (Tr.MODE n) ≠ 2 → s.get (St.CU (s.get (Nh.STRIP_ST n))) = s.get (Tr.CU n) →
        ∃ t, exec (.stripEnWrite n true (.obj p)) s = .next t ∧ t.has (Nh.STRIP_EN n) = true ∧ t.eff (Nh.STRIP_EN n) = 1 ∧
          (∀ f ∈ Nh.fields n, f ≠ Nh.STRIP_EN n → t.get f = s.get f) ∧
          t = { s with regs := t.regs, out := t.out, pcie := t.pcie, fresh := t.fresh }) ∧
      (∃ t, exec (.stripEnWrite n false (.obj p)) s = .next t ∧ t.has (Nh.STRIP_EN n) = false ∧ t.eff (Nh.STRIP_EN n) = 0 ∧
          (∀ f ∈ Nh.fields n, f ≠ Nh.STRIP_EN n → f ≠ Nh.STRIP_PEND n → t.get f = s.get f) ∧ (t.ch[n]).table = (s.ch[n]).table ∧
          (∀ m : Ch, m ≠ n → t.ch[m] = s.ch[m]))) ∧
  (∀ (s : State) (n : Ch), s.rests = true → s.inRun n = false → s.chParked n = false →
    s.get (Tr.MODE n) = 2 → s.has (Nh.STRIP_EN n) = false → 0 < s.get (Nh.STRIP_P n) → 0 < s.get (Nh.STRIP_LEVEL n) →
    (s.barOpen = true → s.holds .pcie = true → exec (.stripEnWrite n true .reg) s = .next (s.flag (Nh.WREJ n))) ∧
    (∀ p : Port, s.serves p = true → s.spDown = false → s.holds p = true →
      exec (.stripEnWrite n true (.obj p)) s = .next (s.answer p (0x3060 + 0x100 * n) 0x11 abState))) ∧
  (∀ (s : State) (n : Ch), s.rests = true →
    (∀ par : Option Nat, s.pix.jobs.all (fun j => j.ch != (n : Nat)) = true → exec (.stripAnalysis n par) s = .next s) ∧
    (∀ j : StripJob, s.pix.jobs = [j] → j.ch = (n : Nat) → s.bist.running = none →
      (∀ ofs : Nat, exec (.stripAnalysis n (some ofs)) s = .next (({ s with pix := { s.pix with jobs := [] } }).parityNote 1 ofs).stripIgnored) ∧
      (let shift := s.stripShift n j;
       let dots := s.stripDots n j shift;
       ∃ t, exec (.stripAnalysis n none) s = .next t ∧ t.pix.jobs = [] ∧ t.get (Cl.REPORT n) = j.s0 % 2 ^ 48 ∧
          (t.ch[n]).health.rep.isSome = true ∧
          (((t.ch[n]).health.obs = (s.ch[n]).health.obs ∧ t.get Cl.STRIPS = s.stripSeen.stripIgnored.get Cl.STRIPS) ∨
            let new := (t.ch[n]).health.obs.drop (s.ch[n]).health.obs.length;
            (t.ch[n]).health.obs = (s.ch[n]).health.obs ++ new ∧
              new.map (fun o => o.1) = dots.map (fun d => d.1.nozzle) ∧ (∀ o ∈ new, o.2.1 = true ∧ o.2.2.1 ≤ 4 ∧ o.2.2.2 = 0) ∧
              3 * (new.filter (fun o => o.2.2.1 ≠ 4)).length ≤ 4 * (new.filter (fun o => o.2.2.1 = 0)).length ∧
              t.get Cl.STRIPS = s.stripSeen.get Cl.STRIPS) ∧
          t = { s with regs := t.regs, ch := t.ch, pix := t.pix, ctr := s.ctr + s.nozzles n } ∧ (∀ m : Ch, m ≠ n → t.ch[m] = s.ch[m]))))

/-- With the image domain off a packet has no effect. A header that comes in on an enabled port shows the port its clock lane,
and counts a corrected single-bit error. A packet of an enabled port that no context claims counts as a drop. A Frame Start
claimed by a context in continuous mode opens a frame stamped with the position and time, closing one still open with flag
FRAMEEND_MISSING; one whose bank reads with a parity error is reported and leaves the frame marked; in triggered mode without
a capture it counts as skipped. A line of the context's type and length enters the port's FIFO and counts; a line beyond LINES
or of another type is only flagged. A Frame End closes the open frame, flagging one that is short. That a packet has no effect
with the image domain off is the model's choice (log entry 2). -/
def Obligations.FramesOpenFillAndClose : Prop :=
  ∀ (s : State) (p : Cam) (vc : BitVec 2) (ecc : Bool), s.rests = true → s.inFlight = [] → s.bist.running = none →
    (s.pixLive = false →
      s.headerIn p ecc = s ∧
      (∀ (bank : Option Nat) (tick : Tick), (s.at tick).rests = true → exec (.frameStart p vc ecc bank tick) s = .next (s.at tick)) ∧ exec (.frameEnd p vc ecc) s = .next s ∧
      (∀ dt b ok, exec (.longPacket p vc dt b ecc ok) s = .next s)) ∧
    (s.pixLive = true → s.has (Ca.PORT_EN p) = true →
      (s.headerIn p ecc).regs = (if ecc then (s.half (Ca.HDR_ERR p) true).regs else s.regs) ∧
      (p.val < s.pix.ports.length → ((s.headerIn p ecc).camPort p).clock = true) ∧
      s.headerIn p ecc = { s with pix := { s.pix with ports := (s.headerIn p ecc).pix.ports }, regs := (s.headerIn p ecc).regs }) ∧
    (s.pixLive = true → s.has (Ca.PORT_EN p) = true → s.claim p vc.toNat = none →
      exec (.frameEnd p vc ecc) s = .next ((s.headerIn p ecc).half (Ca.DROPS p) false) ∧
      (∀ dt b ok, exec (.longPacket p vc dt b ecc ok) s = .next ((s.headerIn p ecc).half (Ca.DROPS p) false))) ∧
    (∀ c : Ctx, s.pixLive = true → s.claim p vc.toNat = some c.val →
      (∀ (tick : Tick) (bank : Option Nat), (s.at tick).rests = true → s.openFrame c = none → s.get (Ca.MODE c) = 0 →
        ∃ t, exec (.frameStart p vc ecc bank tick) s = .next t ∧
          ((t.cam c).frames = (s.cam c).frames ++ [{
            id := (s.cam c).nextId,
            flags := (if (s.cu[(Fin.ofNat 4 (s.get (Cl.CAM_CU c)) : Cun)]).ssiLost then 0x100 else 0), recv := 0, inPipe := 0,
            pos := (s.cu[(Fin.ofNat 4 (s.get (Cl.CAM_CU c)) : Cun)]).pos, tb := (s.at tick).tb, bank := s.bankOf c, isOpen := true,
            badBank := (s.cam c).bankBad || bank.isSome, void := false }]) ∧
          (bank = none → t.regs = (s.headerIn p ecc).regs) ∧ (bank ≠ none → t.has Me.PAR = true ∧ t.get Me.PAR_MEM = 1)) ∧
      (∀ tick : Tick, (s.at tick).rests = true → s.openFrame c = none → s.get (Ca.MODE c) = 1 → (s.cam c).armed = false →
        exec (.frameStart p vc ecc none tick) s = .next (((s.at tick).headerIn p ecc).incr (Ca.SKIPPED c))) ∧
      (s.openFrame c = none → exec (.frameEnd p vc ecc) s = .next ((s.headerIn p ecc).unclaimed p)) ∧
      (∀ f : CamFrame, (s.cam c).frames = [f] → f.isOpen = true →
        (∃ t, exec (.frameEnd p vc ecc) s = .next t ∧ (t.cam c).frames =
          [{ f with isOpen := false, flags := f.flags ||| (if f.recv < s.get (Ca.LINES c) then 1 else 0) }] ∧
          t = { s with pix := t.pix, regs := (s.headerIn p ecc).regs }) ∧
        (∀ tick : Tick, (s.at tick).rests = true → s.get (Ca.MODE c) = 0 →
          ∃ t, exec (.frameStart p vc ecc none tick) s = .next t ∧ (t.cam c).frames.take 1 =
            [{ f with isOpen := false, flags := f.flags ||| 0x40 ||| (if f.recv < s.get (Ca.LINES c) then 1 else 0) }] ∧
            ((t.cam c).frames.drop 1).map (fun g => g.isOpen) = [true]) ∧
        (∀ (dt : BitVec 6) (b : List Byte), dt.toNat = s.get (Ca.DT c) → dt.toNat ∈ longTypes → f.recv < s.get (Ca.LINES c) →
          b.length = wordCount dt.toNat (s.get (Ca.WIDTH c)) → fifoFill (s.camPort p).fifo + b.length ≤ fifoBytes →
          ∃ t, exec (.longPacket p vc dt b ecc true) s = .next t ∧
            (t.cam c).frames = [{ f with recv := f.recv + 1, inPipe := f.inPipe + 1 }] ∧
            (p.val < s.pix.ports.length → (t.camPort p).fifo = (s.camPort p).fifo ++ [⟨c, f.id, f.recv, dt.toNat, b⟩]) ∧
            t = { s with pix := t.pix, regs := t.regs }) ∧
        (∀ (dt : BitVec 6) (b : List Byte) (ok : Bool), dt.toNat = s.get (Ca.DT c) → dt.toNat ∈ longTypes → s.get (Ca.LINES c) ≤ f.recv →
          ∃ t, exec (.longPacket p vc dt b ecc ok) s = .next t ∧ (t.cam c).frames = [{ f with recv := f.recv + 1, flags := f.flags ||| 2 }] ∧
            t.pix.ports = (s.headerIn p ecc).pix.ports ∧ t = { s with pix := t.pix, regs := (s.headerIn p ecc).regs }) ∧
        (∀ (dt : BitVec 6) (b : List Byte) (ok : Bool), dt.toNat ≠ s.get (Ca.DT c) → dt.toNat ∈ longTypes → f.recv < s.get (Ca.LINES c) →
          ∃ t, exec (.longPacket p vc dt b ecc ok) s = .next t ∧ (t.cam c).frames = [{ f with recv := f.recv + 1, flags := f.flags ||| 0x200 }] ∧
            t.pix.ports = (s.headerIn p ecc).pix.ports ∧ t = { s with pix := t.pix, regs := (s.headerIn p ecc).regs }) ∧
        (∀ (dt : BitVec 6) (b : List Byte) (ok : Bool), ¬(dt.toNat ∈ longTypes) →
          exec (.longPacket p vc dt b ecc ok) s = .next ((s.headerIn p ecc).unclaimed p))))

/-- With nothing waiting, or with the image domain off, the pipeline does nothing (the model's choice, log entry 2). The one
waiting line of a port leaves its FIFO and its frame, and is processed with its frame's bank and curves unless its context has
been disabled since. A line whose word in the FIFO has wrong parity is reported for the FIFO of its port; a word of the bank
with wrong parity is reported for the closure working memory and marks the bank. A closed frame with no line on its way
completes where the context does not feed the closure engine: FRAMES counts, FLAGGED counts a flagged one, LAST holds its
flags and position, and the context's event source pulses; an open frame, or one with lines on the way, does not complete.
With black level 0, unit gain, the unit matrix and no curve a pixel passes unchanged for values of 12 bits; every output of
any bank without curves is at most 4095; a tone curve whose entries are at most 4095 gives at most 4095, and at a multiple of
4 gives its own entry. -/
def Obligations.LinesLeaveThePipeline : Prop :=
  (∀ (s : State), s.rests = true → s.bist.running = none →
    (s.pipePort = none → exec (.pipelineLine none) s = .next s) ∧
    (s.pixLive = false → (∀ par : Option Nat, exec (.pipelineLine par) s = .next s) ∧ (∀ c : Ctx, exec (.frameComplete c) s = .next s)) ∧
    (∀ (p : Cam) (l : CamLine) (rest : List CamLine), s.pixLive = true → s.pipePort = some p.val → (s.camPort p).fifo = l :: rest → l.ctx < 4 →
      (∃ t, exec (.pipelineLine none) s = .next t ∧ t.pix.last = p.val ∧ (t.camPort p).fifo = rest ∧ t.regs = s.regs ∧
        (∀ f ∈ (s.cam l.ctx).frames, f.id = l.frame → (s.cam l.ctx).frames = [f] →
          (t.cam l.ctx).frames = [{ f with inPipe := f.inPipe - 1 }] ∧
          (f.void = true → (t.cam l.ctx).out = (s.cam l.ctx).out ∧ t.pix.snap = s.pix.snap) ∧
          (f.void = false → s.has (Ca.TO_CL l.ctx) = true →
            (t.cam l.ctx).out = (s.cam l.ctx).out ++
              [(l.no, (unpack l.dt (s.get (Ca.WIDTH l.ctx)) l.bytes).map (pixel f.bank (s.cam l.ctx).curves))])) ∧
        t = { s with pix := t.pix }) ∧
      (∀ ofs : Nat, ofs < 0x40000 → ∃ t, exec (.pipelineLine (some ofs)) s = .next t ∧ t.has Me.PAR = true ∧ t.get Me.PAR_MEM = 11 + p.val ∧
        (t.camPort p).fifo = rest ∧ t = { s with pix := t.pix, regs := t.regs }) ∧
      (∀ (f : CamFrame) (ofs : Nat), (s.cam l.ctx).frames = [f] → f.id = l.frame → f.void = false → 0x40000 ≤ ofs →
        ∃ t, exec (.pipelineLine (some ofs)) s = .next t ∧ t.has Me.PAR = true ∧ t.get Me.PAR_MEM = 1 ∧ (t.cam l.ctx).bankBad = true ∧
        (t.camPort p).fifo = rest ∧ t = { s with pix := t.pix, regs := t.regs })) ∧
    (∀ c : Ctx,
      ((s.cam c).frames = [] → exec (.frameComplete c) s = .next s) ∧
      (∀ (f : CamFrame) (rest : List CamFrame), (s.cam c).frames = f :: rest →
        ((f.isOpen = true ∨ f.inPipe ≠ 0) → exec (.frameComplete c) s = .next s) ∧
        (f.isOpen = false → f.inPipe = 0 → s.pixLive = true → s.has (Ca.TO_CL c) = false →
          ∃ t, exec (.frameComplete c) s = .next t ∧ (t.cam c).frames = rest ∧
            t.get (Ca.FRAMES c) = (s.get (Ca.FRAMES c) + 1) % 2 ^ 32 ∧ (f.flags < 2 ^ 16 → t.get (Ca.LAST c) = f.flags * 2 ^ 48 + f.pos.toNat) ∧
            t.get (Ca.FLAGGED c) = (if f.flags = 0 then s.get (Ca.FLAGGED c) else (s.get (Ca.FLAGGED c) + 1) % 2 ^ 32) ∧
            t.inFlight = s.inFlight ++ [(0x39 + (c : Nat), s.tb + 32)] ∧
            t = { s with pix := t.pix, regs := t.regs, inFlight := t.inFlight })))) ∧
  ((∀ (bk : Bank) (cv : List (List Nat)) (a b c : Nat), bk.bl = [0, 0, 0] → bk.gain = [0x1000, 0x1000, 0x1000] →
      bk.mtx = [0x1000, 0, 0, 0, 0x1000, 0, 0, 0, 0x1000] → bk.en = 0 → a ≤ 4095 → b ≤ 4095 → c ≤ 4095 → pixel bk cv (a, b, c) = (a, b, c)) ∧
  (∀ (bk : Bank) (cv : List (List Nat)) (px : Nat × Nat × Nat), bk.en = 0 →
      (pixel bk cv px).1 ≤ 4095 ∧ (pixel bk cv px).2.1 ≤ 4095 ∧ (pixel bk cv px).2.2 ≤ 4095) ∧
  (∀ (t : List Nat) (v : Nat), t.all (fun x => x ≤ 4095) = true → toneCurve t v ≤ 4095) ∧
  (∀ (t : List Nat) (v : Nat), v % 4 = 0 → v / 4 ≤ 1023 → toneCurve t v = nth t (v / 4)))

/-- A frame timeout closes the open frame with its flag unless the timeout is 0; disabling a context closes its frame with
ABORT and without its Frame End, voids its lines and clears ENABLE; the trigger falls when its width has passed since its last
pulse; SNAP 1 arms an empty snapshot, or is refused where it would not fit; SNAP 0 ends an armed one; a curve entry is read
and written with its index moving on, and a write is refused while the context is enabled; a header that cannot be corrected
counts and flags the port's open frames; PIX_RESTORE makes a powered pipeline ready; a rewritten bank is whole. That nothing
changes before the width has passed, at a disabled port, and with the pipeline off is the model's choice (log entry 2). -/
def Obligations.CameraControlsComplete : Prop :=
  ∀ (s : State), s.rests = true → s.bist.running = none →
    (∀ c : Ctx,
      (s.get (Ca.TIMEOUT c) = 0 → exec (.csiFrameTimeout c) s = .next s) ∧
      (s.get (Ca.TIMEOUT c) ≠ 0 → exec (.csiFrameTimeout c) s = .next (s.closeFrame c 0x40)) ∧
      (∀ p : Port, s.serves p = true → s.spDown = false → s.holds p = true → s.has (Ca.EN c) = true →
        exec (.contextDisable c p) s = .next
          ((((s.closeFrame c 0xC0).modCam c (fun x => { x with frames := x.frames.map (fun f => { f with void := true }) })).put (Ca.EN c) 0).answer
            p (0x4108 + c) 1 0)) ∧
      (∀ p : Port, s.serves p = true → s.spDown = false → s.holds p = true → s.has (Ca.EN c) = false →
        exec (.contextDisable c p) s = .next (s.answer p (0x4108 + c) 1 0)) ∧
      (∀ p : Port, s.serves p = true → s.spDown = false → s.holds p = true →
        exec (.curveDataAccess c none p) s = .next ((s.curveStep c).answerData p (0x4118 + c) 3 (leBytes 2 (s.curveRead c))) ∧
        (∀ v : BitVec 16, v.toNat ≤ 4095 → s.has (Ca.EN c) = false →
          exec (.curveDataAccess c (some v) p) s = .next ((s.curveWrite c v.toNat).answer p (0x4118 + c) 3 0)) ∧
        (∀ v : BitVec 16, v.toNat ≤ 4095 → s.has (Ca.EN c) = true →
          exec (.curveDataAccess c (some v) p) s = .next (s.answer p (0x4118 + c) 3 abState)) ∧
        (∀ v : BitVec 16, 4095 < v.toNat → exec (.curveDataAccess c (some v) p) s = .next (s.answer p (0x4118 + c) 3 abRange))) ∧
      exec (.contextBankRewrite c) s = .next (s.modCam c (fun x => { x with bankBad := false }))) ∧
    (∀ p : Cam,
      (∀ tick : Tick, (s.at tick).rests = true →
        ((s.camPort p).trig = true → (s.camPort p).till ≤ max s.tb tick →
          exec (.triggerWidthEnd p tick) s = .next (((s.at tick).modPort p (fun q => { q with trig := false })).emit (.trig p false))) ∧
        ((s.camPort p).trig = false ∨ max s.tb tick < (s.camPort p).till → exec (.triggerWidthEnd p tick) s = .next (s.at tick))) ∧
      (s.pixLive = true → s.has (Ca.PORT_EN p) = true → (∀ c : Ctx, (s.cam c).frames = []) →
        ∃ t, exec (.uncorrectablePacketHeader p) s = .next t ∧ t.regs = (s.half (Ca.HDR_ERR p) false).regs ∧ (∀ c : Ctx, (t.cam c).frames = []) ∧
          t.pix.ports = s.pix.ports) ∧
      (s.has (Ca.PORT_EN p) = false → exec (.uncorrectablePacketHeader p) s = .next s)) ∧
    (∀ p : Port, s.serves p = true → s.spDown = false → s.holds p = true →
      (s.snapSize ≤ 262144 →
        exec (.snapArm 1 p) s = .next (({ s with pix := { s.pix with snap := ⟨true, none, 0, false, false, false, 0, s.pix.snap.buf⟩ } }).answer p 0x4120 6 0)) ∧
      (262144 < s.snapSize → exec (.snapArm 1 p) s = .next (s.answer p 0x4120 6 abRange)) ∧
      (s.pix.snap.armed = false → exec (.snapArm 0 p) s = .next (s.answer p 0x4120 6 0)) ∧
      (s.pix.snap.armed = true → exec (.snapArm 0 p) s = .next
        (({ s with pix := { s.pix with snap := { s.pix.snap with armed := false, frame := none, cancelled := true } } }).answer p 0x4120 6 0)) ∧
      (∀ v : Byte, 1 < v.toNat → exec (.snapArm v p) s = .next (s.answer p 0x4120 6 abRange))) ∧
    (s.pix.on = true → exec .pixRestore s = .next { s with pix := { s.pix with ready := true } }) ∧
    (s.pix.on = false → exec .pixRestore s = .next s)

/-- A conversion of an input with no sensor, or of another kind than its sensor, changes nothing. A valid sample of an input
that is not BROKEN puts its code into TEMP, ends the run of bad samples and sets a head's THETA by R354; an out-of-range
sample puts its DIAG and counts in the run, and the eighth in a row makes the input BROKEN with TEMP 0x8000 and counts. A die
sample puts its code into its register; a sample of the logic die also opens or shuts the OTP window. That nothing changes at
such a conversion is the model's choice (log entry 2). -/
def Obligations.SamplesAreTaken : Prop :=
  (∀ (s : State) (m : Thi) (c : Conv) (tick : Tick), (s.at tick).rests = true → s.sampleOf m c = none →
      exec (.thermalSample m c tick) s = .next (s.at tick)) ∧
  (∀ (s : State) (m : Thi) (c : Conv) (tick : Tick) (code : Int), (s.at tick).rests = true → (s.at tick).sampleOf m c = some (.good code) →
      s.has (Th.BROKEN m) = false → s.has (Th.FAST m) = false → code < 8192 → -5120 ≤ code →
      ∃ t, exec (.thermalSample m c tick) s = .next t ∧ t.get (Th.TEMP m) = wrap 16 code ∧ (t.th[m]).oor = 0 ∧
        t.has (Th.FAST m) = false ∧ t.has (Th.BROKEN m) = false ∧ t.get (Th.TRIP_CNT m) = s.get (Th.TRIP_CNT m) ∧
        (isHead m = true → (t.th[m]).theta = throttle (s.get (Th.BAND m)) code) ∧ t.ch = s.ch ∧ t.cu = s.cu) ∧
  (∀ (s : State) (m : Thi) (c : Conv) (tick : Tick) (d : Nat), (s.at tick).rests = true → (s.at tick).sampleOf m c = some (.bad d) → d < 4 →
      s.has (Th.BROKEN m) = false →
      ((s.th[m]).oor < 7 →
        ∃ t, exec (.thermalSample m c tick) s = .next t ∧ t.get (Th.DIAG m) = d ∧ (t.th[m]).oor = (s.th[m]).oor + 1 ∧
        t.has (Th.BROKEN m) = false ∧ t.get (Th.TEMP m) = s.get (Th.TEMP m) ∧ t.ch = s.ch) ∧
      ((s.th[m]).oor = 7 → isHead m = false →
        ∃ t, exec (.thermalSample m c tick) s = .next t ∧ t.get (Th.DIAG m) = d ∧ t.has (Th.BROKEN m) = true ∧
        t.has (Th.BRK m) = true ∧ t.get (Th.TEMP m) = 0x8000 ∧ t.has (Th.FAST m) = false ∧
        t.get (Th.BRK_CNT m) = min (s.get (Th.BRK_CNT m) + 1) ((Th.BRK_CNT m).card - 1) ∧ t.ch = s.ch)) ∧
  (∀ (s : State) (temp : Int), s.rests = true →
      exec (.dieSample true temp) s = .next (s.put Di.DIE_DRIVE (wrap 16 temp)) ∧
      (∃ t, exec (.dieSample false temp) s = .next t ∧ t = { (s.put Di.DIE_LOGIC (wrap 16 temp)) with otp := t.otp } ∧
        t.otp = { s.otp with windowOk := decide (0 ≤ temp ∧ temp ≤ 10880) }))

/-- A trip of a head whose channel is not held sets HELD and TRIP, counts, records its time and, while PD_HOST runs, sets
cause 21; the third within 600 s retires the channel with CAUSE 3 too. A channel already held takes no other, and none is
taken in the cycle of a die trip. HELD ends at the first boundary after the cycle in which the restart condition was met, and
at no boundary before; the condition is a valid sample below 60.0 °C at least 2.000 s after the first of an unbroken run of
them. The scale of a sample is 1024 up to 70 °C less the band, falls linearly and is never below 717, and never rises with the
temperature. A cleared die condition ends condition bit 0 with the last of the two dies. A change of a sensor's type ends
BROKEN and the window and leaves TEMP 0x8000; type 3 is refused, with WREJ over BAR0. That a head trip that comes after the
die trip of its cycle is none follows log entry 69. -/
def Obligations.TripHoldsAndReleases : Prop :=
  (∀ (s : State) (m : Thi), isHead m = true →
      (s.has (Cc.HELD (headCh m)) = true → s.trip m = s) ∧
      (s.safeNow = true → bit (s.get Su.SAFE_COND) 0 = true → s.trip m = s) ∧
      (s.has (Cc.HELD (headCh m)) = false → (s.safeNow && bit (s.get Su.SAFE_COND) 0) = false →
        let t := s.trip m
        let earlier := ((s.th[m]).trips.filter (fun x => s.tb ≤ x + 5760000000000)).length
        t.has (Cc.HELD (headCh m)) = true ∧ t.has (Th.TRIP m) = true ∧
          t.get (Th.TRIP_CNT m) = min (s.get (Th.TRIP_CNT m) + 1) ((Th.TRIP_CNT m).card - 1) ∧
          (t.th[m]).trips.head? = some s.tb ∧ (t.th[m]).heldAt = cycleOf s.tb ∧ (t.th[m]).restart = none ∧
          (s.pcie.on = true → s.pcie.perst = false → bit (t.get Ho.INT_STAT) 21 = true) ∧
          (earlier < 2 → t.ch = s.ch) ∧
          (2 ≤ earlier → s.safeNow = false → (s.dev.commit.all (fun x => x.cyc != cycleOf s.tb)) = true →
            (s.chSt (headCh m) = .idle ∨ s.chSt (headCh m) = .run ∨ s.chSt (headCh m) = .stopping ∨ s.chSt (headCh m) = .readmitting) →
            t.chSt (headCh m) = .retiring ∧ t.get (Cc.CAUSE (headCh m)) = 3))) ∧
  (∀ (s : State) (n : Ch) (m : Thi) (tick : Tick) (k : Nat), (s.at tick).rests = true → (m : Nat) = n → s.boundaryDue n = some k →
      s.has (Cc.HELD n) = true →
      (∀ c : Nat, (s.th[m]).restart = some c → c < cycleOf (max s.tb tick) →
        ∃ t, exec (.lineBoundary n tick []) s = .next t ∧ t.has (Cc.HELD n) = false) ∧
      ((∀ c : Nat, (s.th[m]).restart = some c → cycleOf (max s.tb tick) ≤ c) →
        ∃ t, exec (.lineBoundary n tick []) s = .next t ∧ t.has (Cc.HELD n) = true)) ∧
  (∀ (s : State) (m : Thi) (code : Int),
      (7680 ≤ code → ((s.dwell m code).th[m]).dwell0 = none ∧ ((s.dwell m code).th[m]).restart = (s.th[m]).restart) ∧
      (code < 7680 → (s.th[m]).dwell0 = none → ((s.dwell m code).th[m]).dwell0 = some s.tb) ∧
      (∀ t0 : Nat, code < 7680 → (s.th[m]).dwell0 = some t0 → isHead m = true → s.has (Cc.HELD (headCh m)) = true → (s.th[m]).restart = none →
        ((s.dwell m code).th[m]).restart = (if t0 + 19200000000 ≤ s.tb then some (cycleOf s.tb) else none))) ∧
  (∀ (band : Nat) (code : Int), band ≤ 15 →
      717 ≤ throttle band code ∧ throttle band code ≤ 1024 ∧ (code ≤ 8960 - 128 * band → throttle band code = 1024) ∧
      (0 < band → 8960 ≤ code → throttle band code = 717) ∧
      (∀ code' : Int, code ≤ code' → throttle band code' ≤ throttle band code)) ∧
  (∀ (s : State) (drive : Bool), s.rests = true →
      exec (.dieTripClear drive) s = .next (s.dieClear drive) ∧
      (s.dev.dieHot = (!drive, drive) → bit ((s.dieClear drive).get Su.SAFE_COND) 0 = false ∧ (s.dieClear drive).dev.dieHot = (false, false)) ∧
      (s.dev.dieHot = (true, true) → (s.dieClear drive).regs = s.regs)) ∧
  (∀ (s : State) (m : Thi) (type : BitVec 2), s.rests = true → (isHead m = true → s.inRun (headCh m) = false) → s.barOpen = true → s.holds .pcie = true →
        (type = 3 → exec (.sensorTypeWrite m type .reg) s = .next (s.thFlag (Th.WREJ m))) ∧
        (type ≠ 3 → s.get (Th.TYPE m) ≠ type.toNat →
          ∃ t, exec (.sensorTypeWrite m type .reg) s = .next t ∧ t.get (Th.TYPE m) = type.toNat ∧ t.has (Th.BROKEN m) = false ∧
            t.has (Th.FAST m) = false ∧ t.get (Th.TEMP m) = 0x8000 ∧ (t.th[m]).oor = 0 ∧ (t.th[m]).win = [] ∧ t.ch = s.ch ∧
            t.get (Th.P1 m) = s.get (Th.P1 m) ∧ t.get (Th.P2 m) = s.get (Th.P2 m)) ∧
        (type ≠ 3 → s.get (Th.TYPE m) = type.toNat →
          ∃ t, exec (.sensorTypeWrite m type .reg) s = .next t ∧ t = { s with regs := t.regs, out := t.out, pcie := t.pcie } ∧
            (∀ f ∈ Th.fields m, t.get f = s.get f))) ∧
  (∀ (s : State) (m : Thi) (type : BitVec 2) (p : Port), s.rests = true → (isHead m = true → s.inRun (headCh m) = false) → s.serves p = true → s.spDown = false → s.holds p = true →
        (type = 3 → exec (.sensorTypeWrite m type (.obj p)) s =
            .next (s.answer p (0x4000 + m) 1 abRange)) ∧
        (type ≠ 3 → s.get (Th.TYPE m) ≠ type.toNat →
          ∃ t, exec (.sensorTypeWrite m type (.obj p)) s = .next t ∧ t.get (Th.TYPE m) = type.toNat ∧ t.has (Th.BROKEN m) = false ∧
            t.has (Th.FAST m) = false ∧ t.get (Th.TEMP m) = 0x8000 ∧ (t.th[m]).oor = 0 ∧ (t.th[m]).win = [] ∧ t.ch = s.ch ∧
            t.get (Th.P1 m) = s.get (Th.P1 m) ∧ t.get (Th.P2 m) = s.get (Th.P2 m)) ∧
        (type ≠ 3 → s.get (Th.TYPE m) = type.toNat →
          ∃ t, exec (.sensorTypeWrite m type (.obj p)) s = .next t ∧ t = { s with regs := t.regs, out := t.out, pcie := t.pcie } ∧
            (∀ f ∈ Th.fields m, t.get f = s.get f)))

/-- SHADOW_ARM of a shadow that passes its check arms it, and in ERROR ends the active set; one that fails is refused with its
check number in ARM_ERR and WREJ. The hand-over of an armed shadow to a channel without an active set makes it the active set,
open unless it waits for a trigger, counts it and clears the error; without an armed shadow, or with a set still active,
nothing happens. The other DMA channels stay. With the host reachable and the engine free, the first channel after the last
one granted that wants the engine is granted: a new transfer of its ready length is in progress and the channel is the one
granted last. With no channel wanting it nothing happens, nor while the host is not reachable. That nothing happens there is
the model's choice (log entry 2). -/
def Obligations.DmaSetsAndGrants : Prop :=
  (∀ (s : State) (d : Dch), s.rests = true → s.granting = none → (s.dma[d]).owed = [] →
    (s.barOpen = true → s.holds .pcie = true → s.has (Dm.SHADOW_ARM d) = false → s.armErr d = 0 →
      ∃ t, exec (.shadowArm d) s = .next t ∧ t.has (Dm.SHADOW_ARM d) = true ∧ t.get (Dm.ARM_ERR d) = 0 ∧
        (s.dmaState d ≠ .error →
          (∀ f, f.key ≠ (Dm.SHADOW_ARM d).key → f.key ≠ (Dm.ARM_ERR d).key → t.get f = s.get f) ∧ (t.dma[d]).xf = (s.dma[d]).xf) ∧
        (s.dmaState d = .error → (t.dma[d]).act = false ∧ t.get (Dm.ACT_CFG d) = 0) ∧
        (∀ e : Dch, e ≠ d → t.dma[e] = s.dma[e]) ∧ t = { s with regs := t.regs, dma := t.dma }) ∧
    (s.barOpen = true → s.holds .pcie = true → s.has (Dm.SHADOW_ARM d) = false → s.armErr d ≠ 0 →
      exec (.shadowArm d) s = .next ((s.put (Dm.ARM_ERR d) (s.armErr d)).flag (Dm.WREJ d))) ∧
    (s.has (Dm.SHADOW_ARM d) = true → (s.dma[d]).act = false → (s.dma[d]).xf = [] →
      ¬(s.get (Dm.MODE d) = 0 ∧ s.has (Dm.ENDEN d) = true ∧ s.get (Dm.RD_CNT d) = s.get (Dm.SH_END d)) →
      ∃ t, exec (.handover d) s = .next t ∧ (t.dma[d]).act = true ∧ t.has (Dm.SHADOW_ARM d) = false ∧ t.get (Dm.ERR d) = 0 ∧
        t.get (Dm.ACT_CFG d) = s.dmaShadow d % 2 ^ 32 ∧ t.get (Dm.ACT_END d) = s.get (Dm.SH_END d) ∧
        t.has (Dm.OPEN d) = (!s.has (Dm.TRIG d) || decide ((s.dma[d]).pulseAt = some (cycleOf s.tb))) ∧
        t.get (Dm.HANDOVER_CNT d) = (s.get (Dm.HANDOVER_CNT d) + 1) % (Dm.HANDOVER_CNT d).card ∧
        t = { s with regs := t.regs, dma := s.dma.set d t.dma[d] }) ∧
    (s.has (Dm.SHADOW_ARM d) = false ∨ (s.dma[d]).act = true → exec (.handover d) s = .next s)) ∧
  (∀ (s : State), s.rests = true → s.granting = none →
    (s.dmaHost = false → exec .grant s = .next s) ∧
    ((∀ d : Dch, s.dmaWants d = false) → exec .grant s = .next s) ∧
    (∀ (d : Dch) (l src ea : Nat) (last : Bool), s.dmaHost = true →
      ((List.range 16).map (fun i => (Fin.ofNat 16 (s.get Hid.DMA_LAST + 1 + i) : Dch))).find? (fun e => s.dmaWants e) = some d →
      s.dmaOpenXfer d = none → s.dmaReady d = some (l, src, ea, last) → (s.dmaDst d = 8 → s.dmaDofs d + l ≤ spVisible) →
      ∃ t, exec .grant s = .next t ∧ t.get De.GRANT = d ∧ t.get Hid.DMA_LAST = d ∧
        (t.dma[d]).xf.length = (s.dma[d]).xf.length + 1 ∧ (∃ x ∈ (t.dma[d]).xf, x.len = l) ∧
        (∀ e : Dch, e ≠ d → t.dma[e] = s.dma[e]) ∧ t.ch = s.ch ∧ t.sp = s.sp))

/-- A burst that returns is written in source order into its queue, unswapped when its set's SWAP is 0, and counted unless it
is the last of its transfer; a failing read stops the channel with ERR 1 and rolls its transfer back to the failing burst (one
of a set that has ended is abandoned), a timeout is logged by AER, and the data of the reads issued after it will be
discarded. The read-back of a transfer's last word counts what is left, pulses source 1 + d and ends the transfer. A data
entry of a list is kept for the next transfer; a LINK moves the list on; a bad entry stops an empty channel with ERR 2, a
failed fetch with ERR 1. The order of issues and errors within a transfer follows log entry 38. -/
def Obligations.DmaTransfersComplete : Prop :=
  ∀ (s : State) (d : Dch), s.rests = true → s.granting = none → (s.dma[d]).owed = [] →
    (∀ (x : Xfer) (a n t0 : Nat) (data : List Byte), s.dmaLink = true → (s.dma[d]).junk = [] → (s.dma[d]).xf = [x] → x.out = [(a, n, t0)] → x.rem = 0 → x.fin = false →
      data.length = n → x.dst < 8 → x.swap = 0 →
      ∃ t, exec (.dmaReadCompletion d data none) s = .next t ∧ (t.dma[d]).xf = [{ x with out := [], got := x.got + n, fin := true }] ∧
        t.ch = (s.queuePush (Fin.ofNat 8 x.dst) data).ch ∧ t.regs = s.regs ∧ (∀ e : Dch, e ≠ d → t.dma[e] = s.dma[e])) ∧
    (∀ c ∈ [Instr.dmaReadError d, .dmaReadTimeout d], ∀ (x : Xfer) (rest : List Xfer),
      s.dmaLink = true → (s.dma[d]).junk = [] → (s.dma[d]).xf = x :: rest → x.out ≠ [] →
      (c = .dmaReadTimeout d → (s.at ((x.out.headD (x.src, 0, 0)).2.2 + s.ctoTicks)).rests = true) →
      ∃ t, exec c s = .next t ∧ t.get (Dm.ERR d) = 1 ∧ t.has (Dm.EN d) = false ∧ t.has (Dm.ERRF d) = true ∧
        (c = .dmaReadTimeout d → t.has Cs.AER_CTO = true) ∧
        (x.old = false → (t.dma[d]).xf = [{ x with src := (x.out.headD (x.src, 0, 0)).1, rem := x.len - x.got, out := [] }]) ∧
        (x.old = true → (t.dma[d]).xf = []) ∧ (t.dma[d]).junk = (xfReads (x :: rest)).drop 1 ∧
        (∀ e : Dch, e ≠ d → t.dma[e] = s.dma[e]) ∧ t.ch = s.ch ∧ t.sp = s.sp) ∧
    (∀ (r : Nat × Nat × Nat) (rest : List (Nat × Nat × Nat)) (data : List Byte), s.dmaLink = true → (s.dma[d]).junk = r :: rest →
      data.length = r.2.1 →
      exec (.dmaReadCompletion d data none) s = .next (s.modDma d (fun x => { x with junk := rest }))) ∧
    (∀ (x : Xfer) (rest : List Xfer), (s.dma[d]).xf = x :: rest → x.fin = true → (s.dma[d]).failing = 0 →
      ∃ t, exec (.transferDone d) s = .next t ∧ (t.dma[d]).xf = rest ∧
        t.get (Dm.RD_CNT d) = (s.get (Dm.RD_CNT d) + (x.got - x.cred)) % 2 ^ 32 ∧
        t.inFlight = s.inFlight ++ [(1 + (d : Nat), s.tb + 32)] ∧ t.ch = s.ch ∧ t.sp = s.sp) ∧
    (s.dmaHost = true → (s.dma[d]).act = true → s.dmaMode d = 1 → (s.dma[d]).ent = none → (s.dma[d]).ended = false →
      (s.dma[d]).failing = 0 → s.get (Dm.ERR d) = 0 →
      (∀ addr len flags : Nat, addr % 8 = 0 → len % 8 = 0 → 8 ≤ len → len ≤ 16384 → flags ≤ 1 →
        exec (.listEntryFetch d (.entry addr len flags)) s = .next
          (s.modDma d (fun x => { x with ent := some (addr, len, decide (flags = 1)), links := 0 }))) ∧
      (∀ addr len : Nat, (s.dma[d]).links < 3 →
        exec (.listEntryFetch d (.entry addr len 2)) s = .next (s.modDma d (fun x => { x with entAt := addr, links := x.links + 1 }))) ∧
      (∀ addr len : Nat, (s.dma[d]).xf = [] → exec (.listEntryFetch d (.entry addr len 3)) s = .next (s.dmaError d 2)) ∧
      ((s.dma[d]).xf = [] → exec (.listEntryFetch d .error) s = .next (s.dmaError d 1)))

/-- Pause sets PAUSE, resume clears it; EN 0 withdraws a part-done transfer with WITHDRAWN and its count; EN 1 after an error
clears the error. WR_CNT takes a multiple of 8 within its bound and refuses another; RD_CNT of a channel that is not busy
takes its value and abandons what was in progress but a transfer all of whose reads are issued; a channel in RUNNING refuses
another value. The transfers in progress and the other DMA channels stay in every other case. That such a transfer stays is
log entry 38 (DEDUCED). -/
def Obligations.DmaControlsComplete : Prop :=
  (∀ (s : State) (d : Dch), s.rests = true → s.granting = none → (s.dma[d]).owed = [] → s.barOpen = true → s.holds .pcie = true →
      (∃ t, exec (.pause d .reg) s = .next t ∧ t.has (Dm.PAUSE d) = true ∧ t.get (Dm.EN d) = s.get (Dm.EN d) ∧
        (t.dma[d]).xf = (s.dma[d]).xf ∧ (∀ e : Dch, e ≠ d → t.dma[e] = s.dma[e]) ∧ t.ch = s.ch) ∧
      (∃ t, exec (.resume d .reg) s = .next t ∧ t.has (Dm.PAUSE d) = false ∧ t.get (Dm.EN d) = s.get (Dm.EN d) ∧
        (t.dma[d]).xf = (s.dma[d]).xf ∧ (∀ e : Dch, e ≠ d → t.dma[e] = s.dma[e]) ∧ t.ch = s.ch) ∧
      (∃ t, exec (.withdraw d .reg) s = .next t ∧ t.has (Dm.EN d) = false ∧ t.get (Dm.PAUSE d) = s.get (Dm.PAUSE d) ∧
        (s.has (Dm.EN d) = true → (s.dma[d]).xf ≠ [] → t.has (Dm.WITHDRAWN d) = true ∧
          t.get (Dm.WDRAW_CNT d) = min (s.get (Dm.WDRAW_CNT d) + 1) ((Dm.WDRAW_CNT d).card - 1)) ∧
        (t.dma[d]).xf = (s.dma[d]).xf ∧ (∀ e : Dch, e ≠ d → t.dma[e] = s.dma[e]) ∧ t.ch = s.ch) ∧
      (s.has (Dm.EN d) = false →
        ∃ t, exec (.dmaEnable d .reg) s = .next t ∧ t.has (Dm.EN d) = true ∧ t.get (Dm.ERR d) = 0 ∧ (t.dma[d]).xf = (s.dma[d]).xf ∧
          (∀ e : Dch, e ≠ d → t.dma[e] = s.dma[e]) ∧ t.ch = s.ch)) ∧
  (∀ (s : State) (d : Dch) (p : Port), s.rests = true → s.granting = none → (s.dma[d]).owed = [] → s.serves p = true → s.spDown = false → s.holds p = true →
      (∃ t, exec (.pause d (.obj p)) s = .next t ∧ t.has (Dm.PAUSE d) = true ∧ t.get (Dm.EN d) = s.get (Dm.EN d) ∧
        (t.dma[d]).xf = (s.dma[d]).xf ∧ (∀ e : Dch, e ≠ d → t.dma[e] = s.dma[e]) ∧ t.ch = s.ch) ∧
      (∃ t, exec (.resume d (.obj p)) s = .next t ∧ t.has (Dm.PAUSE d) = false ∧ t.get (Dm.EN d) = s.get (Dm.EN d) ∧
        (t.dma[d]).xf = (s.dma[d]).xf ∧ (∀ e : Dch, e ≠ d → t.dma[e] = s.dma[e]) ∧ t.ch = s.ch) ∧
      (∃ t, exec (.withdraw d (.obj p)) s = .next t ∧ t.has (Dm.EN d) = false ∧ t.get (Dm.PAUSE d) = s.get (Dm.PAUSE d) ∧
        (s.has (Dm.EN d) = true → (s.dma[d]).xf ≠ [] → t.has (Dm.WITHDRAWN d) = true ∧
          t.get (Dm.WDRAW_CNT d) = min (s.get (Dm.WDRAW_CNT d) + 1) ((Dm.WDRAW_CNT d).card - 1)) ∧
        (t.dma[d]).xf = (s.dma[d]).xf ∧ (∀ e : Dch, e ≠ d → t.dma[e] = s.dma[e]) ∧ t.ch = s.ch) ∧
      (s.has (Dm.EN d) = false →
        ∃ t, exec (.dmaEnable d (.obj p)) s = .next t ∧ t.has (Dm.EN d) = true ∧ t.get (Dm.ERR d) = 0 ∧ (t.dma[d]).xf = (s.dma[d]).xf ∧
          (∀ e : Dch, e ≠ d → t.dma[e] = s.dma[e]) ∧ t.ch = s.ch)) ∧
  (∀ (s : State) (d : Dch), s.rests = true → s.granting = none → (s.dma[d]).owed = [] → s.barOpen = true → s.holds .pcie = true →
      (∀ v : Word, v.toNat % 8 = 0 → (v.toNat + 2 ^ 32 - s.get (Dm.RD_CNT d)) % 2 ^ 32 ≤ s.wrBound d →
        exec (.wrCntWrite d v) s = .next (s.put (Dm.WR_CNT d) v.toNat)) ∧
      (∀ v : Word, v.toNat % 8 ≠ 0 → exec (.wrCntWrite d v) s = .next (s.flag (Dm.WREJ d))) ∧
      (∀ v : Word, s.dmaState d = .idle ∨ s.dmaState d = .stopped ∨ s.dmaState d = .error →
        ∃ t, exec (.rdCntWrite d v) s = .next t ∧ t.get (Dm.RD_CNT d) = v.toNat ∧ (t.dma[d]).xf = (s.dma[d]).xf.filter (fun y => y.rem = 0) ∧
          (∀ e : Dch, e ≠ d → t.dma[e] = s.dma[e]) ∧ t.ch = s.ch) ∧
      (∀ v : Word, s.dmaState d = .running → v.toNat ≠ s.get (Dm.RD_CNT d) → exec (.rdCntWrite d v) s = .next (s.flag (Dm.WREJ d))) ∧
      (∀ v : Word, s.dmaState d = .running → v.toNat = s.get (Dm.RD_CNT d) → exec (.rdCntWrite d v) s = .next s))

/-- A host write of the scratchpad gives each enabled byte of its visible part the new value, its OR through the set alias,
its AND-NOT through the clear alias; every other byte of memory reads as before. A read over BAR0 returns the bytes of the
visible part, and 0 for the secure part. A request of more than 128 bytes or across a 4 KiB boundary gets a Completer Abort
and writes nothing. With BAR0 closed nothing happens. When both ports write a byte of the visible part in one cycle, the byte
takes the station processor's value, COLL is set and COLL_CNT counts; without a common byte both writes land and nothing is
counted. A read of the station processor in the cycle of a host write returns what the host writes. With BIST_EN set, no slice
under test, nothing to test again and memory of good parity, the next slice of the sweep comes under test; a word that its
copy reads with an error it cannot correct is reported. A slice that ends well is no longer under test; one that fails sets
BIST_FAIL, counts, and records its memory and word. Memory is as before. With the test off, nothing happens. That nothing
happens with BAR0 closed or with the test off is the model's choice (log entries 2 and 11), and so is how an access of port S
comes (log entry 67). -/
def Obligations.ScratchpadAndBackgroundTest : Prop :=
  (∀ (s : State) (ofs : Nat) (lanes : List (Option Byte)), s.rests = true →
    (s.barOpen = false → ∀ c ∈ [Instr.scratchpadWrite ofs lanes none, .setAliasWrite ofs lanes none, .clearAliasWrite ofs lanes none],
      exec c s = .next s) ∧
    (s.barOpen = true →
    (reqFits ofs lanes.length = false → ∀ c ∈ [Instr.scratchpadWrite ofs lanes none, .setAliasWrite ofs lanes none, .clearAliasWrite ofs lanes none],
      exec c s = .next (s.completerAbort (0x200000 + ofs))) ∧
    (∀ n : Nat, ofs < spSize → 1 ≤ n → reqFits ofs n = true → s.parBad = [] → s.bist.running = none →
      exec (.hiLatchRead (0x200000 + ofs) n [] none) s = .next (s.emit (.barData (0x200000 + ofs)
        ((List.range n).map (fun i => if ofs + i < spVisible then s.spByte (ofs + i) else 0)) false))) ∧
    (reqFits ofs lanes.length = true →
    (∃ t, exec (.scratchpadWrite ofs lanes none) s = .next t ∧
      (∀ a : Nat, t.spByte a = (match (if ofs ≤ a ∧ a < spVisible then (lanes[a - ofs]?).join else none) with | some b => b | none => s.spByte a)) ∧
      t = { s with sp := t.sp, parBad := t.parBad, bist := t.bist, regs := t.regs }) ∧
    (∃ t, exec (.setAliasWrite ofs lanes none) s = .next t ∧
      (∀ a : Nat, t.spByte a = (match (if ofs ≤ a ∧ a < spVisible then (lanes[a - ofs]?).join else none) with | some b => s.spByte a ||| b | none => s.spByte a)) ∧
      t = { s with sp := t.sp, parBad := t.parBad, bist := t.bist, regs := t.regs }) ∧
    (∃ t, exec (.clearAliasWrite ofs lanes none) s = .next t ∧
      (∀ a : Nat, t.spByte a = (match (if ofs ≤ a ∧ a < spVisible then (lanes[a - ofs]?).join else none) with | some b => s.spByte a &&& ~~~b | none => s.spByte a)) ∧
      t = { s with sp := t.sp, parBad := t.parBad, bist := t.bist, regs := t.regs })))) ∧
  (∀ (s : State) (a b : Nat) (x y : Byte), s.rests = true → s.barOpen = true → a < spVisible → b < spVisible → s.bist.running = none →
    (∃ t, exec (.scratchpadWrite a [some x] (some ⟨some .plain, b, [some y]⟩)) s = .next t ∧ t.spByte b = y ∧ (a ≠ b → t.spByte a = x) ∧
      (a = b → t.has Me.COLL = true ∧ t.get Me.COLL_CNT = min (s.get Me.COLL_CNT + 1) (Me.COLL_CNT.card - 1)) ∧
      (a ≠ b → t.regs = s.regs) ∧ (∀ c, c ≠ a → c ≠ b → t.spByte c = s.spByte c) ∧
      t = { s with sp := t.sp, parBad := t.parBad, regs := t.regs }) ∧
    (∃ t, exec (.scratchpadWrite a [some x] (some ⟨none, a, [none]⟩)) s = .next t ∧ t.out = .portS a [x] :: s.out ∧ t.spByte a = x ∧
      t.regs = s.regs)) ∧
  (∀ (s : State), s.rests = true →
    (s.has Me.BIST_EN = false → (∀ single bad, exec (.bistSlice single bad) s = .next s)) ∧
    (∀ r : Nat × Nat, s.has Me.BIST_EN = true → s.bist.running = none → s.dev.boot = .up → s.bist.again = [] → s.parBad = [] →
      s.bistFrom 11 s.bist.mem s.bist.slice = some r →
      exec (.bistSlice [] []) s = .next { s with bist := { s.bist with mem := r.1, slice := r.2 + 1, running := some r } } ∧
      (∀ i : Nat, i < 1024 → ∃ t, exec (.bistSlice [] [i]) s = .next t ∧ t.bist.running = some r ∧ t.sp = s.sp ∧
        (r.1 ≤ 1 → t.has Me.PAR = true ∧ t.get Me.PAR_MEM = r.1 ∧ t.get Me.PAR_CNT = min (s.get Me.PAR_CNT + 1) (Me.PAR_CNT.card - 1)) ∧
        (2 ≤ r.1 → t.has (Ed.UE (r.1 - 2)) = true ∧ t.get (Ed.UE_ENTRY (r.1 - 2)) = 128 * r.2 + i / 8))) ∧
    (∀ r : Nat × Nat, s.bist.running = some r →
      exec (.bistSliceDone none) s = .next { s with bist := { s.bist with running := none } } ∧
      (∀ a : Nat, exec (.bistSliceDone (some a)) s = .next
        ((((State.flagBump { s with bist := { s.bist with running := none } } Me.BIST_FAIL Me.BIST_FAIL_CNT).put Me.FAIL_MEM r.1).put
          Me.FAIL_OFS (a / 8 * 8))))) ∧
    (∀ x : Option Nat, s.bist.running = none → exec (.bistSliceDone x) s = .next s))

/-- With BAR0 closed nothing happens. A dword below 0x10_0000 without all four bytes enabled sets HOST_WREJ; one that is not
aligned gets a Completer Abort; an 8-byte write is two writes, the lower address first. A plain register takes its word, a W1C
register clears the bits written 1. A block that follows the token flags a write without it; a write to a block of a parked
channel is discarded. A word of a unit takes its fields and ignores reserved bits. That nothing happens with BAR0 closed is
log entry 11, and that a block's word without the token is refused whatever it holds is log entry 13. -/
def Obligations.RegisterWritesTakeEffect : Prop :=
  ∀ (s : State) (data : Word), s.rests = true →
    (∀ (addr : Nat) (be : BitVec 4) (up : Option (BitVec 4 × Word)), s.barOpen = false → exec (.registerWrite addr be data up) s = .next s) ∧
    (∀ (addr : Nat) (be : BitVec 4), s.barOpen = true → addr % 4 = 0 → addr < 0x100000 → be ≠ 15 →
      exec (.registerWrite addr be data none) s = .next (s.flag Ho.HOST_WREJ)) ∧
    (∀ (addr : Nat) (be : BitVec 4), s.barOpen = true → addr % 4 ≠ 0 → addr < 0x100000 →
      exec (.registerWrite addr be data none) s = .next (s.completerAbort addr)) ∧
    (∀ v : Word, s.barOpen = true →
      exec (.registerWrite Ho.INT_STAT.addr 15 data (some (15, v))) s = .next
        ((s.put Ho.INT_STAT (s.get Ho.INT_STAT &&& (0xFFFFFFFF ^^^ data.toNat))).put Ho.INT_EN v.toNat)) ∧
    (s.barOpen = true →
      exec (.registerWrite Ho.INT_EN.addr 15 data none) s = .next (s.put Ho.INT_EN data.toNat) ∧
      exec (.registerWrite Ho.INT_STAT.addr 15 data none) s = .next (s.put Ho.INT_STAT (s.get Ho.INT_STAT &&& (0xFFFFFFFF ^^^ data.toNat)))) ∧
    (∀ m : Cun, s.barOpen = true → s.holds .pcie = false →
      exec (.registerWrite (Cu.WIN m).addr 15 data none) s = .next (s.flag (Cu.WREJ m))) ∧
    (∀ m : Cun, s.barOpen = true → s.holds .pcie = true →
      exec (.registerWrite (Cu.WIN m).addr 15 data none) s = .next
        ((s.put (Cu.STILL_T m) (data.toNat / 2 ^ 16 % 2 ^ 15)).put (Cu.WIN m) (data.toNat % 2 ^ 10))) ∧
    (∀ n : Ch, s.barOpen = true → s.chParked n = true →
      exec (.registerWrite (Tr.PITCH n).addr 15 data none) s = .next s)

/-- Over a port that is served: an object or sub-index that does not exist is aborted with its code, on a read and on a write;
an RO object is not written; a value of a wrong length, then one without the token, then one out of range is refused with its
code; a good one takes effect and is answered 0. 0x1018 reads the identity. Nothing but the answer changes on an abort. A
write of any object that nothing refuses takes its effect and is answered 0: its own value, its bits of a register word as a
write of that word, both words of a long value, its command word, its clears; in RUN a LINE write is answered at once and
enters its channel's apply queue, its value read back but not in effect yet, an IMM write takes effect at once if the queue is
empty and else waits behind its edits, unanswered (of a command too: log entry 14), and either is refused when 32 wait. -/
def Obligations.SdoAnswersInOrder : Prop :=
  ∀ (s : State) (p : Port), s.rests = true → s.serves p = true → s.spDown = false →
    (∀ (idx sub a : Nat) (data : List Byte), objFind s.can.nodeId idx sub = .bad a →
      exec (.sdoUpload p idx sub) s = .next (s.answer p idx sub a) ∧
      exec (.sdoDownload p idx sub data) s = .next (s.answer p idx sub a)) ∧
    (∀ (idx k : Nat) (data : List Byte), objFind s.can.nodeId idx 0 = .top k →
      exec (.sdoUpload p idx 0) s = .next (s.answerData p idx 0 [BitVec.ofNat 8 k]) ∧
      exec (.sdoDownload p idx 0 data) s = .next (s.answer p idx 0 abRo)) ∧
    exec (.sdoUpload p 0x1018 1) s = .next (s.answerData p 0x1018 1 [0xB1, 0x06, 0, 0]) ∧
    exec (.sdoUpload p 0x1018 2) s = .next (s.answerData p 0x1018 2 [0x20, 0x08, 0, 0]) ∧
    (∀ data : List Byte, exec (.sdoDownload p 0x1018 1 data) s = .next (s.answer p 0x1018 1 abRo)) ∧
    (∀ (m : Cun) (data : List Byte), data.length ≠ 2 →
      exec (.sdoDownload p (0x2100 + m) 3 data) s = .next (s.answer p (0x2100 + m) 3 abLen)) ∧
    (∀ (m : Cun) (data : List Byte), data.length = 2 → s.holds p = false →
      exec (.sdoDownload p (0x2100 + m) 3 data) s = .next (s.answer p (0x2100 + m) 3 abToken)) ∧
    (∀ (m : Cun) (data : List Byte), data.length = 2 → s.holds p = true → 1023 < leNat data →
      exec (.sdoDownload p (0x2100 + m) 3 data) s = .next (s.answer p (0x2100 + m) 3 abRange)) ∧
    (∀ (m : Cun) (data : List Byte), data.length = 2 → s.holds p = true → leNat data ≤ 1023 →
      ∃ t, exec (.sdoDownload p (0x2100 + m) 3 data) s = .next t ∧ t.get (Cu.WIN m) = leNat data ∧
      (∀ f ∈ Cu.fields m, f ≠ Cu.WIN m → t.get f = s.get f) ∧ t = { s with regs := t.regs, out := t.out, pcie := t.pcie }) ∧
    (∀ (idx sub : Nat) (o : Obj) (data : List Byte), objFind s.can.nodeId idx sub = .row o → s.objBad p idx o data = none →
      s.objCheck p idx o data = none → idx ≠ 0x4C00 → idx ≠ 0x4E00 → (∀ n : Ch, objOfChan idx = some n → s.chParked n = false ∧ s.inRun n = false) →
      (∀ f : Fld, o.kind = .own f → o.cls ≠ .boot → ¬(0x4100 ≤ idx ∧ idx < 0x4114) →
        exec (.sdoDownload p idx sub data) s = .next ((s.put f (leNat data)).answer p idx sub 0).settle) ∧
      (∀ f : Fld, o.kind = .prep f → exec (.sdoDownload p idx sub data) s = .next ((s.put f (leNat data)).answer p idx sub 0).settle) ∧
      (∀ a m l : Nat, o.kind = .word a m l →
        exec (.sdoDownload p idx sub data) s = .next (((blkOf a).apply a (s.objWord a m l (leNat data)) s).answer p idx sub 0).settle) ∧
      (∀ (a : Nat) (cs : List (Nat × Nat)), o.kind = .cmd a cs →
        exec (.sdoDownload p idx sub data) s = .next (((blkOf a).apply a (s.objWord a 31 0 (cmdWord cs (leNat data))) s).answer p idx sub 0).settle) ∧
      (∀ fs : List Fld, o.kind = .clr fs → exec (.sdoDownload p idx sub data) s = .next ((s.clearAll fs).answer p idx sub 0).settle) ∧
      (∀ lo hi : Nat, o.kind = .two lo hi →
        exec (.sdoDownload p idx sub data) s = .next
          (((blkOf hi).apply hi (leNat data / 2 ^ 32) ((blkOf lo).apply lo (leNat data % 2 ^ 32) s)).answer p idx sub 0).settle)) ∧
    (∀ (n : Ch) (idx sub : Nat) (o : Obj) (data : List Byte), objFind s.can.nodeId idx sub = .row o → objOfChan idx = some n →
      s.chParked n = false → s.inRun n = true → s.objBad p idx o data = none → s.objCheck p idx o data = none → o.cls = .imm →
      (s.ch[n]).applyQ ≠ [] →
      ((s.ch[n]).applyQ.length < 32 →
        exec (.sdoDownload p idx sub data) s = .next (s.modCh n (fun c => { c with
          applyQ := c.applyQ ++ [⟨.obj idx sub data, .imm, some p, s.tb⟩] }))) ∧
      (32 ≤ (s.ch[n]).applyQ.length → exec (.sdoDownload p idx sub data) s = .next (s.answer p idx sub abQueue))) ∧
    (∀ (n : Ch) (idx sub : Nat) (o : Obj) (data : List Byte), objFind s.can.nodeId idx sub = .row o → objOfChan idx = some n →
      s.chParked n = false → s.inRun n = true → s.objBad p idx o data = none → s.objCheck p idx o data = none →
      (o.cls = .line → 32 ≤ (s.ch[n]).applyQ.length → exec (.sdoDownload p idx sub data) s = .next (s.answer p idx sub abQueue)) ∧
      (o.cls = .line → (s.ch[n]).applyQ.length < 32 → ∀ a m l : Nat, o.kind = .word a m l →
        ∃ t, exec (.sdoDownload p idx sub data) s = .next t ∧
          (∀ f ∈ (blkOf a).fields, f.addr = a → f.msb = m → f.lsb = l → t.get f = leNat data % 2 ^ (m - l + 1) ∧ t.eff f = s.eff f) ∧
          (t.ch[n]).applyQ = (s.ch[n]).applyQ ++ [⟨.obj idx sub data, .line, none, s.tb⟩] ∧
          (∀ m : Ch, m ≠ n → t.ch[m] = s.ch[m]) ∧ t.cu = s.cu ∧ t.stake = s.stake) ∧
      (o.cls = .imm → (s.ch[n]).applyQ = [] →
        (∀ f : Fld, o.kind = .own f → exec (.sdoDownload p idx sub data) s = .next ((s.put f (leNat data)).answer p idx sub 0).settle) ∧
        (∀ a m l : Nat, o.kind = .word a m l →
          exec (.sdoDownload p idx sub data) s = .next (((blkOf a).apply a (s.objWord a m l (leNat data)) s).answer p idx sub 0).settle)))

/-- A request on an idle mailbox is served: DONE is set, BUSY is clear, RSP_SEQ is the request's. A read of 0x1018:03 leaves
its 4 bytes in the response words, or in the scratchpad at BUF_OFS; a write of SpeedWindow takes effect with its bytes from
the request words or from the scratchpad; an object that does not exist and a CMD that is none are aborted. A request on a
busy mailbox sets MB_OVR. -/
def Obligations.MailboxRequestsComplete : Prop :=
  ∀ (s : State) (seq : Nat), s.rests = true → s.barOpen = true → s.spDown = false → seq < 256 →
    (s.has Mb.BUSY = false →
      (∃ t, exec (.mailboxRead 0x1018 3 seq) s = .next t ∧ t.has Mb.DONE = true ∧ t.has Mb.BUSY = false ∧ t.get Mb.RSP_SEQ = seq ∧
        t.get Mb.RSP_ABORT = 0 ∧ t.get Mb.RSP_LEN = 4 ∧ t.get (Mb.RSP_DATA 0) = 0x10001 ∧
        t = { s with regs := t.regs, out := t.out, pcie := { s.pcie with mb := none } }) ∧
      (∃ t, exec (.mailboxRead 0x1019 0 seq) s = .next t ∧ t.has Mb.DONE = true ∧ t.has Mb.BUSY = false ∧ t.get Mb.RSP_SEQ = seq ∧
        t.get Mb.RSP_ABORT = abNoObj ∧ t = { s with regs := t.regs, out := t.out, pcie := { s.pcie with mb := none } }) ∧
      (∀ (m : Cun) (v : Nat), v ≤ 1023 → s.holds .pcie = true →
        ∃ t, exec (.mailboxWrite (0x2100 + m) 3 seq 2 (leBytes 2 v)) s = .next t ∧ t.get (Cu.WIN m) = v ∧ t.has Mb.DONE = true ∧
        t.has Mb.BUSY = false ∧ t.get Mb.RSP_SEQ = seq ∧ t.get Mb.RSP_ABORT = 0 ∧
        t = { s with regs := t.regs, out := t.out, pcie := { s.pcie with mb := none } }) ∧
      (∀ o : Nat, o % 8 = 0 → o < spVisible →
        ∃ t, exec (.mailboxReadIntoScratchpad 0x1018 3 seq o) s = .next t ∧ t.spBytes o 4 = leBytes 4 0x10001 ∧ t.has Mb.DONE = true ∧
        t.get Mb.RSP_ABORT = 0 ∧ t.get Mb.RSP_LEN = 4 ∧ (∀ a, ¬(o ≤ a ∧ a < o + 4) → t.spByte a = s.spByte a) ∧
        t = { s with regs := t.regs, out := t.out, pcie := { s.pcie with mb := none }, sp := t.sp, parBad := t.parBad, bist := t.bist }) ∧
      (∀ (m : Cun) (o : Nat), o % 8 = 0 → o < spVisible → leNat (s.spBytes o 2) ≤ 1023 → s.holds .pcie = true → s.parBad = [] →
        ∃ t, exec (.mailboxWriteFromScratchpad (0x2100 + m) 3 seq 2 o) s = .next t ∧ t.get (Cu.WIN m) = leNat (s.spBytes o 2) ∧
        t.has Mb.DONE = true ∧ t.get Mb.RSP_ABORT = 0 ∧
        t = { s with regs := t.regs, out := t.out, pcie := { s.pcie with mb := none }, bist := t.bist }) ∧
      (∀ (cmd : BitVec 4) (idx sub : Nat), idx < 2 ^ 16 → sub < 2 ^ 8 → (cmd = 0 ∨ 5 ≤ cmd.toNat) →
        ∃ t, exec (.mailboxInvalidCmd cmd idx sub seq) s = .next t ∧ t.get Mb.RSP_ABORT = abCmd ∧ t.has Mb.DONE = true ∧
        t.get Mb.RSP_SEQ = seq ∧ t = { s with regs := t.regs, out := t.out, pcie := { s.pcie with mb := none } })) ∧
    (s.has Mb.BUSY = true →
      ∃ t, exec (.mailboxRead 0x1018 3 seq) s = .next t ∧ t.has Ho.MB_OVR = true ∧ t.has Mb.BUSY = true ∧ t.out = s.out ∧
      t = { s with regs := t.regs })

/-- Whatever the state of the channels, a write of an EPOCH object leaves every committed value: PITCH, offset, REV_SHIFT and
waveform selection in effect, commits on their way, the state of the epoch and every channel's state. -/
def Obligations.EpochObjectsWaitForCommit : Prop :=
  ∀ (s : State) (p : Port) (idx sub : Nat) (o : Obj) (data : List Byte), s.rests = true →
    objFind s.can.nodeId idx sub = .row o → o.cls = .epoch →
    ∃ t, exec (.sdoDownload p idx sub data) s = .next t ∧
    (∀ n : Ch, t.get (Tr.PITCH n) = s.get (Tr.PITCH n) ∧ t.get (Tr.OFS_INT n) = s.get (Tr.OFS_INT n) ∧
      t.get (Tr.OFS_FRAC n) = s.get (Tr.OFS_FRAC n) ∧ t.get (Tr.REV_SHIFT n) = s.get (Tr.REV_SHIFT n) ∧
      t.get (Lv.SET_SEL n) = s.get (Lv.SET_SEL n) ∧ t.get (Lv.ACT_SET n) = s.get (Lv.ACT_SET n) ∧
      (t.ch[n]).trav = (s.ch[n]).trav ∧ t.chSt n = s.chSt n) ∧ t.epoch = s.epoch ∧ t.cu = s.cu ∧ t.stake = s.stake

/-- The holder passes the token by ControlOwner or through TOKEN_CTL: it moves at once, TOKEN_MOVED is set, cause bit 2 is set
and TOKEN_CNT increments. A write of the holder's own value changes nothing but the answer. -/
def Obligations.TokenPasses : Prop :=
  (∀ (s : State) (dst : Port), s.rests = true → s.pcie.on = true → s.pcie.perst = false → s.barOpen = true → s.holds .pcie = true →
      (dst ≠ s.dev.token → (dst = .pcie → s.pcieLost = false) →
        ∃ t, exec (.tokenPass dst .reg) s = .next t ∧ t.dev.token = dst ∧ t.has Ho.TOKEN_MOVED = true ∧ bit (t.get Ho.INT_STAT) 2 = true ∧
        t.get Ho.TOKEN_CNT = (s.get Ho.TOKEN_CNT + 1) % 2 ^ 32 ∧
        t = { s with regs := t.regs, out := t.out, pcie := t.pcie, dev := { s.dev with token := dst } }) ∧
      (dst = s.dev.token → exec (.tokenPass dst .reg) s = .next (s))) ∧
  (∀ (s : State) (dst : Port) (p : Port), s.rests = true → s.pcie.on = true → s.pcie.perst = false → s.serves p = true → s.spDown = false → s.holds p = true →
      (dst ≠ s.dev.token → (dst = .pcie → s.pcieLost = false) →
        ∃ t, exec (.tokenPass dst (.obj p)) s = .next t ∧ t.dev.token = dst ∧ t.has Ho.TOKEN_MOVED = true ∧ bit (t.get Ho.INT_STAT) 2 = true ∧
        t.get Ho.TOKEN_CNT = (s.get Ho.TOKEN_CNT + 1) % 2 ^ 32 ∧
        t = { s with regs := t.regs, out := t.out, pcie := t.pcie, dev := { s.dev with token := dst } }) ∧
      (dst = s.dev.token → exec (.tokenPass dst (.obj p)) s = .next (s.answer p 0x2000 5 0)))

/-- Every reset of PD_HOST resets the DMA engine, the MSI-X table, INT_STAT, INT_EN and the mailbox, ends expert access of PCI
Express and, but for a Function Level Reset, takes the link down; no unit or stake changes, and no channel but for the answers
it owed to PCI Express, which are lost. The release of PERST, the link coming up, D3hot and D0 do that alone, with the power
state in configuration space; D3hot holds the DMA channel that was issuing reads. A masked vector that is pending sends its
message when it is unmasked. While PD_HOST runs, a cause that is not set sets its bit and no other; with INT_EN and the vector
unmasked, out of D3hot, one message leaves; masked, it pends; without INT_EN nothing leaves. A cause already set does nothing
more. While PD_HOST is parked or in reset nothing is kept. That PCIE_LINK_UP also stands for the end of enumeration, and a
Function Level Reset takes the configuration with it, are the model's choices (log entries 46 and 66). -/
def Obligations.HostResetsAndInterrupts : Prop :=
  (∀ (s : State), s.rests = true →
    (∀ k : HostReset,
      ∃ t, exec (.pcieReset k) s = .next t ∧ (∀ v : Fin 32, v ≠ 2 → bit (t.get Ho.INT_STAT) v = false) ∧ t.get Ho.INT_EN = 0 ∧ t.has Mb.BUSY = false ∧
      (∀ d : Dch, t.get (Dm.EN d) = 0) ∧ t.dma = State.reset.dma ∧ t.dev.expPcie = false ∧ t.pcie.mb = none ∧
      t.pcie.perst = (s.pcie.perst || decide (k = .perst)) ∧ t.pcie.linkUp = (s.pcie.linkUp && decide (k = .flr)) ∧
      t.cu = s.cu ∧ t.stake = s.stake ∧ t.pcie.conf = false ∧ (t.dev.token = .can ∨ s.dev.boot ≠ .up) ∧
      (∀ n : Ch, (∀ x : Edit, x ∈ (t.ch[n]).applyQ → x.owed ≠ some .pcie) ∧
        t.ch[n] = { s.ch[n] with
          applyQ := ((s.ch[n]).applyQ.map (fun x => { x with owed := notHost x.owed })),
          drive := { (s.ch[n]).drive with load := (t.ch[n]).drive.load },
          link := { (s.ch[n]).link with fe := (t.ch[n]).link.fe, feQ := (t.ch[n]).link.feQ } })) ∧
    exec .perstRelease s = .next { s with pcie := { s.pcie with perst := false } } ∧
    (s.pcie.on = true → s.pcie.perst = false → exec .pcieLinkUp s = .next { s with pcie := { s.pcie with linkUp := true, conf := true } }) ∧
    (s.pcie.on = true → s.pcie.perst = true → exec .pcieLinkUp s = .next s) ∧
    (s.pcie.on = true → s.pcie.linkUp = true →
      ∃ t, exec .d3hotEntry s = .next t ∧ t.pcie = { s.pcie with d3 := true } ∧ t.granting = none ∧ t.regs = (s.dmaTick.put Cs.PM_STATE 3).regs ∧ t.ch = s.ch ∧
        (∀ d : Dch, s.dmaTick.granting.any (fun g => g.1 = (d : Nat)) = true → (t.dma[d]).held = true)) ∧
    exec .returnToD0 s = .next { s.put Cs.PM_STATE 0 with pcie := { s.pcie with d3 := false } } ∧
    (∀ v : Fin 32, s.barOpen = true → s.has (Mx.MASK v) = true → s.has (Mx.PBA v) = true →
      exec (.msixUnmask v) s = .next (((s.unflag (Mx.MASK v)).unflag (Mx.PBA v)).emit (.msix v))) ∧
    (∀ v : Fin 32, s.barOpen = true → s.has (Mx.PBA v) = false → exec (.msixUnmask v) s = .next (s.unflag (Mx.MASK v)))) ∧
  (∀ (s : State) (v : Fin 32),
    ((s.pcie.on = false ∨ s.pcie.perst = true) → s.cause v = s) ∧
    (s.pcie.on = true → s.pcie.perst = false → bit (s.get Ho.INT_STAT) v = true → s.cause v = s) ∧
    (s.pcie.on = true → s.pcie.perst = false → bit (s.get Ho.INT_STAT) v = false → s.get Ho.INT_STAT < 2 ^ 32 →
      bit ((s.cause v).get Ho.INT_STAT) v = true ∧
      (∀ w : Fin 32, w ≠ v → bit ((s.cause v).get Ho.INT_STAT) w = bit (s.get Ho.INT_STAT) w) ∧
      (bit (s.get Ho.INT_EN) v = true → s.pcie.d3 = false → s.has (Mx.MASK v) = false → (s.cause v).out = .msix v :: s.out) ∧
      (bit (s.get Ho.INT_EN) v = true → s.pcie.d3 = false → s.has (Mx.MASK v) = true →
        (s.cause v).has (Mx.PBA v) = true ∧ (s.cause v).out = s.out) ∧
      (bit (s.get Ho.INT_EN) v = false → (s.cause v).out = s.out)) ∧
    s.cause v = { s with regs := (s.cause v).regs, out := (s.cause v).out })

/-- A node past initialisation follows Start, Stop and Enter Pre-Operational. Reset Communication leaves it PRE-OPERATIONAL
with the predefined error list and expert access of CAN FD gone, and sends boot-up; NMT Reset Node while a channel is busy
does the same and no more. The producer sends the node's state. Bus-off sets CAN_BUSOFF and leaves the error counters at a
value that the spec does not state (a free value, log entry 3); the recovery clears it and tells EMCY 0x8140. Expert access is
switched on or off at the port that writes 0x4558 or 0; any other value is refused. -/
def Obligations.CanStatesComplete : Prop :=
  ∀ (s : State), s.rests = true →
    (∀ (c : Instr) (x : Nmt), (c, x) ∈ [(Instr.nmtStart, Nmt.operational), (Instr.nmtStop, Nmt.stopped), (Instr.nmtEnterPreOperational, Nmt.preOp)] →
      s.canUp = true → s.can.nmt ≠ .init →
      ∃ t, exec c s = .next t ∧ t.can.nmt = x ∧ t.regs = s.regs ∧ t.ch = s.ch ∧ t.out = s.out ∧ t.dev = s.dev ∧
        t.can.queue = s.can.queue) ∧
    (s.canUp = true → s.can.nmt ≠ .init →
      ∃ t, exec .nmtResetCommunication s = .next t ∧ t.can.nmt = .preOp ∧ t.can.errs.length ≤ 1 ∧ t.dev.expCan = false ∧
        t.out.head? = some .bootUp ∧ t.cu = s.cu ∧ t.stake = s.stake) ∧
    (s.canUp = true → s.anyBusy = true → s.can.nmt ≠ .init →
      ∃ t, exec .nmtResetNode s = .next t ∧ t.can.nmt = .preOp ∧ t.dev.expCan = false ∧ (∀ n : Ch, t.chSt n = s.chSt n)) ∧
    (s.canUp = true → s.get hbProducer ≠ 0 → s.can.nmt ≠ .init → exec .heartbeatSend s = .next (s.emit (.heartbeat s.can.nmt))) ∧
    (s.canUp = true →
      exec .busOff s = .next ((({ s with ctr := s.ctr + 1 } : State).put canErrs (Config.freeNat s.ctr % 2 ^ 16)).flag Ho.CAN_BUSOFF)) ∧
    (s.has Ho.CAN_BUSOFF = true → exec .busOffRecovery s = .next ((s.unflag Ho.CAN_BUSOFF).emcyMsg 0x8140 0xFF 0)) ∧
    (∀ p : Port, s.serves p = true → s.spDown = false →
      exec (.expertAccess 0x4558 p) s = .next
        ((s.modDev (fun d => match p with | .can => { d with expCan := true } | .pcie => { d with expPcie := true })).answer p 0x2000 2 0) ∧
      exec (.expertAccess 0 p) s = .next
        ((s.modDev (fun d => match p with | .can => { d with expCan := false } | .pcie => { d with expPcie := false })).answer p 0x2000 2 0) ∧
      (∀ v : BitVec 16, v ≠ 0 → v ≠ 0x4558 → exec (.expertAccess v p) s = .next (s.answer p 0x2000 2 abRange)))

/-- In OPERATIONAL: the event timer of a valid event-driven TPDO whose inhibit time is over sends it; before that it makes it
due; a remote request sends a TPDO of type 0xFC or 0xFD; the end of the inhibit time sends what is due; a change check sends
an event-driven TPDO whose value differs from the one last sent, and with none event-driven does nothing. A SYNC counts toward
a TPDO of type n from 1 to 240 and sends it at the n-th, unless its inhibit time is not over; it then applies the RPDOs that
waited for it; with neither it does nothing. An RPDO shorter than its mapping tells EMCY 0x8210, a synchronous one waits for
the SYNC and an event-driven one is applied. A TPDO that is sent carries the values of its mapped objects in mapping order,
padded with 0 to a CAN FD length; it notes what it sent and when, and is no longer due. One that maps FarEndRead of a channel
whose link is UP first reads the far end, behind an access in progress, and leaves when the answer is there: that is the
model's choice (log entry 62). The order of SYNC is log entry 18. -/
def Obligations.PdosComplete : Prop :=
  (∀ (s : State) (p : Fin 4), s.canOper = true →
    (s.tEvent p = true → s.get (Pdo.tEvt p) ≠ 0 → s.tReady p = true →
      exec (.tpdoEventTimer p) s = .next (s.tSend p).settle) ∧
    (s.tEvent p = true → s.get (Pdo.tEvt p) ≠ 0 → s.tReady p = false → s.rests = true →
      exec (.tpdoEventTimer p) s = .next (s.modTpdo p (fun x => { x with due := true }))) ∧
    (s.tValid p = true → (s.tType p = 0xFC ∨ s.tType p = 0xFD) → s.tReady p = true →
      exec (.tpdoRemoteRequest p) s = .next (s.tSend p).settle) ∧
    ((s.tRun p).due = true → s.tValid p = true → s.can.queue = [] →
      exec (.tpdoInhibitEnd p) s = .next ((s.at (s.tFree p)).tSend p).settle) ∧
    (s.rests = true → (∀ q : Fin 4, s.tEvent q = false) → exec .tpdoChangeCheck s = .next s) ∧
    (s.rests = true → s.tEvent 0 = true → (∀ q : Fin 4, q ≠ 0 → s.tEvent q = false) → (s.tTake 0).1 = s → (s.tRun 0).last ≠ none →
      (s.tRun 0).last ≠ some (s.tTake 0).2 → s.tReady 0 = true → exec .tpdoChangeCheck s = .next (s.tSend 0).settle) ∧
    (s.rests = true → (∀ q : Fin 4, s.tValid q = false ∨ 240 < s.tType q) → s.can.rpdoWait = [] → exec .canSync s = .next s) ∧
    (∀ k : Nat, s.can.rpdoWait = [] → (∀ q : Fin 4, q ≠ p → s.tValid q = false ∨ 240 < s.tType q) → s.tValid p = true →
      s.tType p ≤ 240 → s.tType p ≠ 0 → (s.tRun p).syncs = k → (p : Nat) < s.can.tpdo.length →
      (k + 1 < s.tType p → s.rests = true → exec .canSync s = .next (s.modTpdo p (fun x => { x with syncs := k + 1 }))) ∧
      (s.tType p ≤ k + 1 →
        let u := s.modTpdo p (fun x => { x with syncs := 0 })
        (s.tReady p = true → exec .canSync s = .next ((u.tSend p).modCan (fun c => { c with rpdoWait := [] })).settle) ∧
        (s.tReady p = false → s.rests = true → exec .canSync s = .next u))) ∧
    (∀ data : List Byte, (∀ q : Fin 4, s.tValid q = false ∨ 240 < s.tType q) → s.can.rpdoWait = [((p : Nat), data)] →
      exec .canSync s = .next ((s.modCan (fun c => { c with rpdoWait := [] })).rApply p data).settle) ∧
    (∀ data : List Byte, s.rValid p = true →
      (data.length < s.rBytes p → s.rests = true → exec (.rpdo p data) s = .next (s.emcyMsg 0x8210 0xFF 0)) ∧
      (s.rBytes p ≤ data.length → s.get (Pdo.rTyp p) ≤ 240 → s.rests = true →
        exec (.rpdo p data) s = .next (s.modCan (fun c => { c with rpdoWait := c.rpdoWait ++ [((p : Nat), data)] }))) ∧
      (s.rBytes p ≤ data.length → 240 < s.get (Pdo.rTyp p) → exec (.rpdo p data) s = .next (s.rApply p data).settle))) ∧
  (∀ (s : State) (p : Fin 4), s.can.tpdo.length = 4 → (s.tTake p).2.length ≤ 64 →
    let t := State.tSendNow p s
    t.out = .tpdo p ((s.tTake p).2 ++ List.replicate (fdLength (s.tTake p).2.length - (s.tTake p).2.length) 0) :: (s.tTake p).1.out ∧
      fdLength (s.tTake p).2.length ∈ [0, 1, 2, 3, 4, 5, 6, 7, 8, 12, 16, 20, 24, 32, 48, 64] ∧
      (s.tTake p).2.length ≤ fdLength (s.tTake p).2.length ∧
      (t.tRun p).last = some (s.tTake p).2 ∧ (t.tRun p).due = false ∧ (t.tRun p).sentAt = some (s.tTake p).1.tb ∧
      ((s.tRun p).wait = none → s.tFar p = [] → s.tSend p = t) ∧
      ((s.tRun p).wait = none → (∀ n : Ch, s.tFar p = [n] → (s.ch[n]).link.fe ≠ none →
        (s.tSend p).out = s.out ∧ ((s.tSend p).tRun p).wait = some .send ∧
          ((s.tSend p).ch[n]).link.feQ = (s.ch[n]).link.feQ ++ [⟨s.get (Lk.ADDR n), 0, false, .pdo p⟩])))

/-- An occurrence of a code that has not been sent from its source within 10 ms, with room in the source's queue, enters the
fault log in front, the error list in front (at most 16) and the queue at its end, but before the messages of its channel that
a later line caused, so that a channel's messages stand in line order. The EMCY command sends the message in front, unless it
is held back, with its code, error register and source; in NMT STOPPED it is dropped unsent (log entry 18). While every
message is held back none leaves; with the 3.3 V supply low each is. That a message waits while its channel still has an
earlier line undecided is the model's choice (log entry 74). A node that can send answers the four identity inquiries with its
identity, Configure Node-ID and Configure Bit Timing with error 1 and Store Configuration with error 2; a fastscan that starts
anew is answered and resets its position; one whose part does not match is not answered. Configuration changes nothing. The
frames' layout is CiA 305's (log entry 7). -/
def Obligations.MessagesLeave : Prop :=
  ((∀ (s : State) (code src line : Nat) (info : List Byte), code ≠ 0 →
    s.can.sent.all (fun e => !(e.code == code && e.src == src)) = true → s.roomFor src = true →
    let t := s.emcyInfo code src line info
    t.can.queue = queueMsg s.can.queue ⟨code, src, line, info, none⟩ ∧ t.can.errs = ((code, src) :: s.can.errs).take 16 ∧
    t.can.log = (⟨code, src, line, s.errReg, 0⟩ :: s.can.log).take 128 ∧ t.can.conds = s.can.conds ∧ t.ch = s.ch ∧ t.cu = s.cu ∧
    t.stake = s.stake ∧ t.dev = s.dev ∧ t.get logCount = (s.get logCount + 1) % 2 ^ 32) ∧
  (∀ (q : List Msg) (m : Msg),
    (q.all (fun x => !(x.src == m.src && decide (m.line < x.line))) = true ∨ 8 ≤ m.src ∨ m.line = 0 → queueMsg q m = q ++ [m]) ∧
    (queueMsg q m).filter (fun x => x.src != m.src) = q.filter (fun x => x.src != m.src) ∧
    (queueMsg q m).length = q.length + 1 ∧
    (m.src < 8 → m.line ≠ 0 → ((q.filter (fun x => x.src == m.src && x.line != 0)).map (fun x => x.line)).Pairwise (· ≤ ·) →
      (((queueMsg q m).filter (fun x => x.src == m.src && x.line != 0)).map (fun x => x.line)).Pairwise (· ≤ ·))) ∧
  (∀ (s : State) (m : Msg) (rest : List Msg), s.rests = true → s.can.queue = m :: rest → s.canUp = true → m.record = none → s.msgHeld m = false →
    ((s.can.nmt = .preOp ∨ s.can.nmt = .operational) → bit (s.get (cobEmcy s.can.nodeId)) 31 = false →
      exec .emcy s = .next ((s.modCan (fun c => { c with queue := rest })).emit (.emcy m.code s.errReg m.src (m.info.map BitVec.toNat)))) ∧
    (s.can.nmt = .stopped → exec .emcy s = .next (s.modCan (fun c => { c with queue := rest })))) ∧
  (∀ (s : State), s.rests = true → s.can.queue.all s.msgHeld = true → exec .emcy s = .next s) ∧
  (∀ (s : State) (m : Msg), s.dev.ioLow = true → s.msgHeld m = true)) ∧
  (∀ (s : State), s.rests = true → s.canUp = true →
    exec (.lssIdentityInquiry 0) s = .next (s.emit (lssFrame 0x5A 0x06B1)) ∧
    exec (.lssIdentityInquiry 1) s = .next (s.emit (lssFrame 0x5B 0x0820)) ∧
    exec (.lssIdentityInquiry 2) s = .next (s.emit (lssFrame 0x5C 0x10001)) ∧
    exec (.lssIdentityInquiry 3) s = .next (s.emit (lssFrame 0x5D 0)) ∧
    (∀ id : Byte, exec (.lssConfigureNodeId id) s = .next (s.emit (lssFrame 0x11 1))) ∧
    (∀ a b : Byte, exec (.lssConfigureBitTiming a b) s = .next (s.emit (lssFrame 0x13 1))) ∧
    exec .lssStoreConfiguration s = .next (s.emit (lssFrame 0x17 2)) ∧
    (∀ (id : Word) (sub next : Byte),
      exec (.lssFastscan id 0x80 sub next) s = .next ((s.modCan (fun c => { c with lssPos := 0 })).emit (lssFrame 0x4F 0))) ∧
    (∀ (id : Word) (next : Byte), s.can.lssPos = 0 → id ≠ 0x06B1 → exec (.lssFastscan id 0 0 next) s = .next s))

/-- With the token and a flash fitted: "save" keeps the values of its moment and is answered 400 ms later, when they stand in
the copy that does not hold the newest valid set, with the next sequence number, and are the newest (while the 32-bit numbers
have not run out); until then a further save or load is refused. "load" journals a set without values; 0 to the error list
clears it; erase opens an update and forgets the image; data is appended; verify names the other slot as boot slot from the
next reset on if the image passes, the boot slot itself staying until then, and is refused if not. Each is answered on its
port. That a save takes its whole 400 ms and stores the values of its start, and that a load is instantaneous and refused
meanwhile, are the model's choices (log entry 44). -/
def Obligations.StoreAndProgramComplete : Prop :=
  (∀ (s : State) (p : Port), s.rests = true → s.reached (.obj p) = true →
    exec (.errorListClear p) s = .next ((s.modCan (fun c => { c with errs := [] })).answer p 0x1003 0 0) ∧
    (s.flash.present = true →
      (s.flash.saving = none →
        exec (.save p) s = .next { s with flash := { s.flash with saving := some ⟨s.savedVals, s.tb + 3840000000, some p⟩ } } ∧
        exec (.load p) s = .next (State.answer { s with flash := s.flash.journal [] } p 0x1011 1 0)) ∧
      (s.flash.saving.isSome = true →
        exec (.save p) s = .next (s.answer p 0x1010 1 abState) ∧ exec (.load p) s = .next (s.answer p 0x1011 1 abState)) ∧
      exec (.programErase p) s = .next (State.answer { s with flash := { s.flash with
        prog := 1, image := [], slots := s.flash.slots.set (1 - s.flash.bootSlot) (some []) } } p 0x1F51 1 0) ∧
      (∀ data : List Byte, (s.flash.prog = 1 ∨ s.flash.prog = 2) → s.flash.image.length + data.length ≤ 1048576 →
        exec (.programData p data) s = .next
          (State.answer { s with flash := { s.flash with
            prog := 2, image := s.flash.image ++ data,
            slots := s.flash.slots.set (1 - s.flash.bootSlot) (some (s.flash.image ++ data)) } } p 0x1F50 1 0)) ∧
      (∃ t, exec (.programVerify p) s = .next t ∧ t.ch = s.ch ∧
        (s.imagePasses s.flash.image = false → t = State.answer { s with flash := { s.flash with prog := 4 } } p 0x1F51 1 abFail) ∧
        (s.imagePasses s.flash.image = true → t.flash.nextBoot = 1 - s.flash.bootSlot ∧ t.flash.bootSlot = s.flash.bootSlot ∧ t.flash.prog = 3))) ∧
    (s.flash.present = false →
      exec (.save p) s = .next (s.answer p 0x1010 1 abFail) ∧ exec (.load p) s = .next (s.answer p 0x1011 1 abFail) ∧
      exec (.programErase p) s = .next (s.answer p 0x1F51 1 abFail))) ∧
  (∀ s : State,
    (∀ v : Saving, s.flash.saving = some v →
      (v.due ≤ s.tb → s.saveSettle =
        (let t : State := { s with flash := { s.flash.journal v.vals with saving := none } };
         match v.port with | some q => t.answer q 0x1010 1 0 | none => t)) ∧
      (s.tb < v.due → s.saveSettle = s)) ∧
    (s.flash.copies.length = 2 →
      (∀ (k : Nat) (old : ParamCopy), s.flash.newest = some (k, old) → old.seq + 1 < 2 ^ 32) → ∀ vals : List (Nat × Nat × List Byte),
      ∃ (i : Nat) (c : ParamCopy), (s.flash.journal vals).copies[i]? = some (some c) ∧ c.vals = vals ∧ (s.flash.journal vals).newest = some (i, c) ∧
        (∀ (k : Nat) (old : ParamCopy), s.flash.newest = some (k, old) → k ≠ i ∧ (s.flash.journal vals).copies[k]? = some (some old))))

/-- With the consumer configured, in the benchmark run or after it (bus-off or not), a heartbeat missing for its time sets
HB_LOST and an EMCY 0x8130 of source 0xFF is in the log, and in the queue unless the 10 ms rule held it back or no room was
left; the next heartbeat clears HB_LOST. Every channel, unit and stake is unchanged. -/
def Obligations.HeartbeatConsumer : Prop :=
  ∀ (s : State), s.rests = true →
    (s.canTimed = true → s.hbWatched = true → s.has Ho.HB_LOST = false →
      ∃ t, exec .heartbeatLost s = .next t ∧ t.has Ho.HB_LOST = true ∧
        t.can.log.any (fun e => e.code == 0x8130 && e.src == 0xFF) = true ∧
        (s.can.sent.all (fun e => !(e.code == 0x8130 && e.src == 0xFF)) = true → s.roomFor 0xFF = true →
          t.can.queue.any (fun m => m.code == 0x8130 && m.src == 0xFF) = true) ∧
        t.ch = s.ch ∧ t.cu = s.cu ∧ t.stake = s.stake) ∧
    (s.has Ho.HB_LOST = true →
      ∃ t, exec .heartbeatReceived s = .next t ∧ t.has Ho.HB_LOST = false ∧ t.ch = s.ch ∧ t.cu = s.cu ∧ t.stake = s.stake)

/-- Bytes that arrive at a channel's port form 64-bit words in the order they come, over the ends of bursts; the staging queue
takes the whole words, the bytes of an unfinished word wait for the rest of it, and nothing is taken while the domain is
parked. A line is complete with every 1,280th byte and no other, and no byte is lost. The code of nozzle i is bits [2 (i mod
4) + 1 : 2 (i mod 4)] of byte floor(i / 4), and codes 1, 2 and 3 map to the drive codes of S, M and L of their rail, code 0 to
none. D_max is the largest DELAY in effect; E_r is DELAY_r, and D_max - DELAY_r on a backward pass in mode 2. -/
def Obligations.ImageLinesReachRows : Prop :=
  (∀ (s : State) (n : Ch) (bs : List Byte), (s.chParked n = true → s.queuePush n bs = s)) ∧
  (∀ (s : State) (n : Ch) (bs : List Byte), s.chParked n = false → (s.ch[n]).q.part.length < 1280 →
    let w := (s.ch[n]).q.word ++ bs
    let q := ((s.queuePush n bs).ch[n]).q
    q.word = w.drop (8 * (w.length / 8)) ∧ q.word.length < 8 ∧
    q.part.length = ((s.ch[n]).q.part.length + 8 * (w.length / 8)) % 1280 ∧
    q.lines.length = (s.ch[n]).q.lines.length + ((s.ch[n]).q.part.length + 8 * (w.length / 8)) / 1280 ∧
    (q.lines.drop (s.ch[n]).q.lines.length).all (fun l => l.data.length == 1280) = true ∧
    (q.lines.drop (s.ch[n]).q.lines.length).flatMap (fun l => l.data) ++ q.part ++ q.word = (s.ch[n]).q.part ++ w) ∧
  (∀ (noz : Nat) (bs : List Byte) (i : Nat), noz ≤ 5120 → i < noz →
    (imageCodes noz bs).length = noz ∧
    (imageCodes noz bs).getD i 0 = (bs.getD (i / 4) 0).toNat / 2 ^ (2 * (i % 4)) % 4) ∧
  (∀ (s : State) (n : Ch) (w : Bool), s.codeMap n 0 w = 0 ∧
    s.codeMap n 1 w = s.get (if w then Ed.MAP_SW n else Ed.MAP_SF n) ∧
    s.codeMap n 2 w = s.get (if w then Ed.MAP_MW n else Ed.MAP_MF n) ∧
    s.codeMap n 3 w = s.get (if w then Ed.MAP_LW n else Ed.MAP_LF n)) ∧
  (∀ (s : State) (n : Ch) (k r : Nat),
    (s.get (Tr.MODE n) ≠ 2 ∨ s.passBack n k = false → s.rowE n k r = ((s.ch[n]).store.rows.getD r (0, 0)).2) ∧
    (s.get (Tr.MODE n) = 2 → s.passBack n k = true →
      s.rowE n k r = rowsDmax (s.ch[n]).store.rows - ((s.ch[n]).store.rows.getD r (0, 0)).2)) ∧
  (∀ rows : List (Nat × Nat),
    (rowsUsed rows).all (fun x => decide (x.2 ≤ rowsDmax rows)) = true ∧
    (rowsUsed rows ≠ [] → (rowsUsed rows).any (fun x => x.2 == rowsDmax rows) = true))

/-- Encoding a line moves b into every nozzle's history, 1 when its drive code is not 0, and leaves the entry's other bits:
HIST becomes (HIST * 2 + b) mod 64, so bit 0 is this line and bit j + 1 what bit j was. With BS_MODE 0 every level is on rail
F; with BS_MODE 1 on rail W exactly when a bit of HIST[BS_H - 1 : 0] is 1; the level is unchanged, and a level of 0 has drive
code 0 whatever the rail. A BS_H of 0 or 7 is refused over BAR0 and as an object; 1 to 6 takes effect, at once on a channel
that is not in RUN, where BS_MODE in the same word is one of its values. -/
def Obligations.HistoryAndRails : Prop :=
  (∀ (s : State) (n : Ch) (k i : Nat), i < s.nozzles n →
    let r := s.encodeCodes n k
    let b := if r.2.1.getD i 0 = 0 then 0 else 1
    Ent.HIST (r.1.entry n i) = (Ent.HIST (s.entry n i) * 2 + b) % 64 ∧
    bit (r.1.entry n i) 0 = (r.2.1.getD i 0 != 0) ∧
    (∀ j : Fin 5, bit (r.1.entry n i) ((j : Nat) + 1) = bit (s.entry n i) j) ∧
    r.1.entry n i / 64 = s.entry n i / 64) ∧
  (∀ (s : State) (n : Ch) (h v : Nat),
    (s.eff (Ed.BS_MODE n) = 0 → s.backsight n h v = (false, v)) ∧
    (s.eff (Ed.BS_MODE n) = 1 →
      (s.backsight n h v).2 = v ∧ (s.backsight n h v).1 = (List.range (s.eff (Ed.BS_H n))).any (fun j => bit h j)) ∧
    (∀ w : Bool, s.codeMap n 0 w = 0)) ∧
  (∀ (s : State) (n : Ch), s.rests = true → s.chParked n = false →
    (∀ v : Fin 8, s.barOpen = true → s.holds .pcie = true → ((v : Nat) = 0 ∨ (v : Nat) = 7) →
      exec (.registerWrite (Ed.BS_H n).addr 15 (BitVec.ofNat 32 v) none) s = .next (s.flag (Ed.WREJ n))) ∧
    (∀ (p : Port) (v : Fin 8), s.serves p = true → s.spDown = false → s.holds p = true →
      ((v : Nat) = 0 ∨ (v : Nat) = 7 →
        exec (.sdoDownload p (0x3030 + 0x100 * n) 2 [BitVec.ofNat 8 v]) s = .next (s.answer p (0x3030 + 0x100 * n) 2 0x06090030)) ∧
      (1 ≤ (v : Nat) → (v : Nat) ≤ 6 → s.get (Ed.BS_MODE n) < 3 → s.inRun n = false → (s.ch[n]).applyQ = [] →
        ∃ t, exec (.sdoDownload p (0x3030 + 0x100 * n) 2 [BitVec.ofNat 8 v]) s = .next t ∧
          t.get (Ed.BS_H n) = v ∧ t.eff (Ed.BS_H n) = v)))

/-- Every object that has a sub-index above 00, but the PDO mapping objects and 0x1003, has a sub-index 00 that reads, without
expert access, one byte: the highest of its sub-indices, 0x40 for 0x3031 + 0x100 n and 0x17 for 0x2100 + n; a write to it is
answered 0x0601_0002. 0x1018:03 reads 0x0001_0001, base-layer step 1 and metal step 1. -/
def Obligations.SubIndexZero : Prop :=
  ∀ (s : State) (p : Port), s.rests = true → s.serves p = true → s.spDown = false →
    (∀ (idx sub : Nat) (o : Obj), objFind s.can.nodeId idx sub = .row o → 0 < sub → idx ≠ 0x1003 → idx / 4 ≠ 0x1600 / 4 → idx / 4 ≠ 0x1A00 / 4 →
      ∃ k : Nat, sub ≤ k ∧ (∃ o' : Obj, objFind s.can.nodeId idx k = .row o') ∧
        (∀ j : Nat, k < j → ∀ o' : Obj, objFind s.can.nodeId idx j ≠ .row o') ∧
        exec (.sdoUpload p idx 0) s = .next (s.answerData p idx 0 [BitVec.ofNat 8 k]) ∧
        (∀ data : List Byte, exec (.sdoDownload p idx 0 data) s = .next (s.answer p idx 0 0x06010002)) ∧
        (∀ n : Ch, idx = 0x3031 + 0x100 * n → k = 0x40) ∧ (∀ m : Cun, idx = 0x2100 + m → k = 0x17)) ∧
    exec (.sdoUpload p 0x1018 3) s = .next (s.answerData p 0x1018 3 (leBytes 4 0x00010001)) ∧
    bits (leNat (leBytes 4 0x00010001)) 31 16 = 1 ∧ bits (leNat (leBytes 4 0x00010001)) 15 0 = 1
end

