-- ==== Sys2Proof/Laws/Fuses.lean ====
section
/-! SUPPORT. The OTP words' code is a SECDED code whatever Config leaves open, and the check bits of 0 are 0 (R467, R472). -/
namespace Sys2Proof.Machine

/-- Whatever columns an implementation has, the code in use is a SECDED code (R467). -/
theorem secded_otpColumns : secded otpColumns = true := by
  unfold otpColumns
  simp only
  split
  · assumption
  · decide +kernel
/-- A word in which nothing reads 1 keeps the check bits it has. -/
theorem otpChk_zero_fold (l : List Nat) (a : Nat) :
    l.foldl (fun (x : Nat) (i : Nat) => if (0 : Nat).testBit i then x ^^^ otpColumns.getD i 0 else x) a = a := by
  induction l generalizing a with
  | nil => rfl
  | cons i l ih => rw [List.foldl_cons, Nat.zero_testBit]; exact ih a
/-- The check bits of 0 are 0, so a blank word reads 0 without an error (R472). -/
@[simp] theorem otpChk_zero : otpChk 0 = 0 := otpChk_zero_fold _ 0

end Sys2Proof.Machine
end

