-- ==== Sys2Proof/Laws/Memory.lean ====
section
/-! SUPPORT. The scratchpad's memory: a read after a write, and that every memory operation keeps the canonical form, which the
memory of reset has. -/
namespace Sys2Proof.Machine

theorem memory_get_drop_same (m : List Host.Cell) (a : Nat) : Memory.get (Memory.drop m a) a = 0 := by
  induction m with
  | nil => rfl
  | cons c r ih => unfold Memory.drop; split <;> simp_all [Memory.get]
theorem memory_get_drop_ne (m : List Host.Cell) {a b : Nat} (h : a ≠ b) : Memory.get (Memory.drop m a) b = Memory.get m b := by
  induction m with
  | nil => rfl
  | cons c r ih => unfold Memory.drop; split <;> simp_all [Memory.get]
theorem memory_get_ins_same (m : List Host.Cell) (a : Nat) (v : Byte) : Memory.get (Memory.ins (Memory.drop m a) a v) a = v := by
  induction m with
  | nil => simp [Memory.drop, Memory.ins, Memory.get]
  | cons c r ih =>
    unfold Memory.drop; split
    · exact ih
    · unfold Memory.ins; split <;> simp_all [Memory.get]
theorem memory_get_ins_ne (m : List Host.Cell) {a b : Nat} (v : Byte) (h : a ≠ b) : Memory.get (Memory.ins m a v) b = Memory.get m b := by
  induction m with
  | nil => simp [Memory.ins, Memory.get, h]
  | cons c r ih => unfold Memory.ins; split <;> simp_all [Memory.get]
/-- A byte inside the scratchpad reads what was written. -/
theorem memory_get_put_same (m : List Host.Cell) {a : Nat} (v : Byte) (h : a < spSize) : Memory.get (Memory.put m a v) a = v := by
  unfold Memory.put; split
  · rename_i e
    obtain e | e := e
    · rw [memory_get_drop_same, e]
    · omega
  · exact memory_get_ins_same m a v
/-- Every other byte reads what it read. -/
theorem memory_get_put_ne (m : List Host.Cell) {a b : Nat} (v : Byte) (h : a ≠ b) : Memory.get (Memory.put m a v) b = Memory.get m b := by
  unfold Memory.put; split
  · exact memory_get_drop_ne m h
  · rw [memory_get_ins_ne _ v h, memory_get_drop_ne m h]

theorem memory_wfFrom_cons {lo k : Nat} {v : Byte} {r : List Host.Cell} :
    Memory.wfFrom lo ((k, v) :: r) = true ↔ lo ≤ k ∧ k < spSize ∧ v ≠ 0 ∧ Memory.wfFrom (k + 1) r = true := by
  simp [Memory.wfFrom, and_assoc]
theorem memory_wfFrom_mono {lo hi : Nat} (h : lo ≤ hi) : ∀ {m : List Host.Cell}, Memory.wfFrom hi m = true → Memory.wfFrom lo m = true
  | [], _ => rfl
  | (k, v) :: r, e => by
    rw [memory_wfFrom_cons] at *
    exact ⟨by omega, e.2⟩
theorem memory_wfFrom_drop (a : Nat) : ∀ {lo : Nat} {m : List Host.Cell}, Memory.wfFrom lo m = true → Memory.wfFrom lo (Memory.drop m a) = true
  | _, [], _ => rfl
  | lo, (k, v) :: r, e => by
    rw [memory_wfFrom_cons] at e
    unfold Memory.drop; split
    · exact memory_wfFrom_mono (by omega) (memory_wfFrom_drop a e.2.2.2)
    · rw [memory_wfFrom_cons]; exact ⟨e.1, e.2.1, e.2.2.1, memory_wfFrom_drop a e.2.2.2⟩
theorem memory_drop_noKey (a : Nat) (m : List Host.Cell) : ∀ c ∈ Memory.drop m a, c.1 ≠ a := by
  induction m with
  | nil => intro c h; cases h
  | cons b r ih =>
    obtain ⟨k, v⟩ := b
    unfold Memory.drop; split
    · exact ih
    · intro c h
      obtain h | h := List.mem_cons.mp h
      · rw [h]; assumption
      · exact ih c h
theorem memory_wfFrom_ins {a : Nat} {b : Byte} (ha : a < spSize) (hb : b ≠ 0) : ∀ {lo : Nat} {m : List Host.Cell}, lo ≤ a →
    (∀ c ∈ m, c.1 ≠ a) → Memory.wfFrom lo m = true → Memory.wfFrom lo (Memory.ins m a b) = true
  | lo, [], h, _, _ => by rw [Memory.ins, memory_wfFrom_cons]; exact ⟨h, ha, hb, rfl⟩
  | lo, (k, v) :: r, h, n, e => by
    rw [memory_wfFrom_cons] at e
    have hk : k ≠ a := n (k, v) List.mem_cons_self
    unfold Memory.ins; split
    · rw [memory_wfFrom_cons, memory_wfFrom_cons]; exact ⟨h, ha, hb, by omega, e.2⟩
    · rw [memory_wfFrom_cons]
      exact ⟨e.1, e.2.1, e.2.2.1, memory_wfFrom_ins ha hb (by omega) (fun c x => n c (List.mem_cons_of_mem _ x)) e.2.2.2⟩
/-- A write keeps the canonical form. -/
theorem memory_wf_put {m : List Host.Cell} (a : Nat) (b : Byte) (h : Memory.wf m = true) :
    Memory.wf (Memory.put m a b) = true := by
  unfold Memory.wf Memory.put at *; split
  · exact memory_wfFrom_drop a h
  · exact memory_wfFrom_ins (by omega) (by tauto) (Nat.zero_le a) (memory_drop_noKey a m) (memory_wfFrom_drop a h)
theorem memory_wfFrom_filter (p : Host.Cell → Bool) : ∀ {lo : Nat} {m : List Host.Cell}, Memory.wfFrom lo m = true →
    Memory.wfFrom lo (m.filter p) = true
  | _, [], _ => rfl
  | lo, (k, v) :: r, e => by
    rw [memory_wfFrom_cons] at e
    rw [List.filter_cons]; split
    · rw [memory_wfFrom_cons]; exact ⟨e.1, e.2.1, e.2.2.1, memory_wfFrom_filter p e.2.2.2⟩
    · exact memory_wfFrom_mono (by omega) (memory_wfFrom_filter p e.2.2.2)
/-- Clearing a part keeps it. -/
theorem memory_wf_filter (p : Host.Cell → Bool) {m : List Host.Cell} (h : Memory.wf m = true) : Memory.wf (m.filter p) = true :=
  memory_wfFrom_filter p h
/-- The memory of reset has it. -/
theorem memory_wf_reset : Memory.wf State.reset.sp = true := by decide +kernel

/-- The bytes that an access lists lie below its upper bound. -/
theorem spLanes_lt {ofs lo hi : Nat} {lanes : List (Option Byte)} : ∀ x ∈ spLanes ofs lanes lo hi, x.1 < hi := by
  intro x h
  unfold spLanes at h
  rw [List.mem_filterMap] at h
  obtain ⟨⟨o, i⟩, _, h⟩ := h
  cases o with
  | none => simp at h
  | some b => simp only at h; split at h <;> simp_all; cases h; omega

end Sys2Proof.Machine
end

