-- ==== Sys2Proof/Laws/Sparse.lean ====
section
/-! SUPPORT. The sparse register list: what a key reads after a put, and that the one canonical order is kept. -/
namespace Sys2Proof.Machine

theorem sparseGet_drop_same (d : Nat) (l : List (Nat × Nat)) (q : Nat) : sparseGet d (sparseDrop l q) q = d := by
  induction l with
  | nil => rfl
  | cons c r ih => unfold sparseDrop; split <;> simp_all [sparseGet]
theorem sparseGet_drop_ne (d : Nat) (l : List (Nat × Nat)) {q p : Nat} (h : q ≠ p) : sparseGet d (sparseDrop l q) p = sparseGet d l p := by
  induction l with
  | nil => rfl
  | cons c r ih => unfold sparseDrop; split <;> simp_all [sparseGet]
theorem sparseGet_ins_same (d : Nat) (l : List (Nat × Nat)) (q x : Nat) : sparseGet d (sparseIns (sparseDrop l q) q x) q = x := by
  induction l with
  | nil => simp [sparseDrop, sparseIns, sparseGet]
  | cons c r ih =>
    unfold sparseDrop; split
    · exact ih
    · unfold sparseIns; split <;> simp_all [sparseGet]
theorem sparseGet_ins_ne (d : Nat) (l : List (Nat × Nat)) {q p : Nat} (x : Nat) (h : q ≠ p) :
    sparseGet d (sparseIns l q x) p = sparseGet d l p := by
  induction l with
  | nil => simp [sparseIns, sparseGet, h]
  | cons c r ih => unfold sparseIns; split <;> simp_all [sparseGet]
/-- A key reads what was put there. -/
theorem sparseGet_put_same (d : Nat) (l : List (Nat × Nat)) (q x : Nat) : sparseGet d (sparsePut d l q x) q = x := by
  unfold sparsePut; split
  · simp_all [sparseGet_drop_same]
  · exact sparseGet_ins_same d l q x
/-- Every other key reads what it read, whatever it reads as when unlisted. -/
theorem sparseGet_put_ne (d e : Nat) (l : List (Nat × Nat)) {q p : Nat} (x : Nat) (h : q ≠ p) :
    sparseGet e (sparsePut d l q x) p = sparseGet e l p := by
  unfold sparsePut; split
  · exact sparseGet_drop_ne e l h
  · rw [sparseGet_ins_ne e _ x h, sparseGet_drop_ne e l h]

theorem regsRiseFrom_cons {lo k v : Nat} {r : List (Nat × Nat)} :
    regsRiseFrom lo ((k, v) :: r) = true ↔ lo ≤ k ∧ regsRiseFrom (k + 1) r = true := by
  simp [regsRiseFrom]
theorem regsRiseFrom_mono {lo hi : Nat} (h : lo ≤ hi) : ∀ {l : List (Nat × Nat)}, regsRiseFrom hi l = true → regsRiseFrom lo l = true
  | [], _ => rfl
  | (k, v) :: r, e => by
    rw [regsRiseFrom_cons] at *
    exact ⟨by omega, e.2⟩
theorem regsRiseFrom_drop (q : Nat) : ∀ {lo : Nat} {l : List (Nat × Nat)}, regsRiseFrom lo l = true → regsRiseFrom lo (sparseDrop l q) = true
  | _, [], _ => rfl
  | lo, (k, v) :: r, e => by
    rw [regsRiseFrom_cons] at e
    unfold sparseDrop; split
    · exact regsRiseFrom_mono (by omega) (regsRiseFrom_drop q e.2)
    · rw [regsRiseFrom_cons]; exact ⟨e.1, regsRiseFrom_drop q e.2⟩
theorem sparseDrop_noKey (q : Nat) (l : List (Nat × Nat)) : ∀ c ∈ sparseDrop l q, c.1 ≠ q := by
  induction l with
  | nil => intro c h; cases h
  | cons b r ih =>
    obtain ⟨k, v⟩ := b
    unfold sparseDrop; split
    · exact ih
    · intro c h
      obtain h | h := List.mem_cons.mp h
      · rw [h]; assumption
      · exact ih c h
theorem regsRiseFrom_ins (q x : Nat) : ∀ {lo : Nat} {l : List (Nat × Nat)}, lo ≤ q → (∀ c ∈ l, c.1 ≠ q) → regsRiseFrom lo l = true →
    regsRiseFrom lo (sparseIns l q x) = true
  | lo, [], h, _, _ => by simp [sparseIns, regsRiseFrom, h]
  | lo, (k, v) :: r, h, n, e => by
    rw [regsRiseFrom_cons] at e
    have hk : k ≠ q := n (k, v) List.mem_cons_self
    unfold sparseIns; split
    · rw [regsRiseFrom_cons, regsRiseFrom_cons]; exact ⟨h, by omega, e.2⟩
    · rw [regsRiseFrom_cons]
      exact ⟨e.1, regsRiseFrom_ins q x (by omega) (fun c m => n c (List.mem_cons_of_mem _ m)) e.2⟩
/-- A put keeps the list's one canonical order. -/
theorem regsRiseFrom_put (d q x : Nat) {l : List (Nat × Nat)} (h : regsRiseFrom 0 l = true) : regsRiseFrom 0 (sparsePut d l q x) = true := by
  unfold sparsePut; split
  · exact regsRiseFrom_drop q h
  · exact regsRiseFrom_ins q x (Nat.zero_le q) (sparseDrop_noKey q l) (regsRiseFrom_drop q h)
/-- So does a filter. -/
theorem regsRiseFrom_filter (p : Nat × Nat → Bool) : ∀ {lo : Nat} {l : List (Nat × Nat)}, regsRiseFrom lo l = true →
    regsRiseFrom lo (l.filter p) = true
  | _, [], _ => rfl
  | lo, (k, v) :: r, e => by
    rw [regsRiseFrom_cons] at e
    rw [List.filter_cons]; split
    · rw [regsRiseFrom_cons]; exact ⟨e.1, regsRiseFrom_filter p e.2⟩
    · exact regsRiseFrom_mono (by omega) (regsRiseFrom_filter p e.2)

end Sys2Proof.Machine
end

