-- ==== Sys2Proof/Laws/Keeps.lean ====
section
/-! SUPPORT. What every operation keeps, said once for each: the queue of commands is unchanged, and the invariant holds
afterwards if it held before. -/
namespace Sys2Proof.Machine

/-- The queue of the first state is the second's, and the invariant passes from the first to the second. -/
structure Keeps (z s : State) : Prop where
  pending : s.pending = z.pending
  inv : Inv z → Inv s

theorem Keeps.refl (s : State) : Keeps s s := ⟨rfl, id⟩
theorem Keeps.trans {a b c : State} (h : Keeps a b) (k : Keeps b c) : Keeps a c := ⟨k.pending.trans h.pending, fun i => k.inv (h.inv i)⟩
/-- A state with the same queue whose lists keep their order. -/
theorem Keeps.of {z s t : State} (h : Keeps z s) (hp : t.pending = s.pending) (hr : regsRiseFrom 0 s.regs = true → regsRiseFrom 0 t.regs = true)
    (hm : Memory.wf s.sp = true → Memory.wf t.sp = true) : Keeps z t :=
  ⟨hp.trans h.pending, fun i => ⟨hm (h.inv i).1, hr (h.inv i).2⟩⟩
/-- A state that differs in neither the queue nor the register list nor the scratchpad. -/
theorem Keeps.same {z s t : State} (h : Keeps z s) (hp : t.pending = s.pending) (hr : t.regs = s.regs) (hs : t.sp = s.sp) : Keeps z t :=
  h.of hp (by rw [hr]; exact id) (by rw [hs]; exact id)
/-- The same, for an update written out field by field. -/
theorem keeps_mk {z s : State} (tb ctr : Nat) (cu : Vector Cu 4) (stake : Vector Stake 16) (inFlight : List (Nat × Nat))
    (ch : Vector Chan 8) (devQ : List Edit) (epoch : EpState) (pix : Pix) (verdictLog : List (Nat × Nat)) (th : Vector Thermal 10)
    (dma : Vector Dma 16) (granting : Option (Nat × Nat)) (parBad : List Nat) (bist : Bist) (otp : Otp) (datum : Datum) (flash : Flash)
    (can : Can) (pcie : Pcie) (deferred : List Instr)
    (fresh : List (Nat × Nat × Nat)) (dev : Dev) (out : List Out) :
    Keeps z ⟨s.pending, tb, ctr, s.regs, cu, stake, inFlight, ch, devQ, epoch, pix, verdictLog, th, dma, granting, s.sp, parBad, bist, otp,
      datum, flash, can, pcie, deferred, fresh, dev, out⟩ ↔ Keeps z s :=
  ⟨fun h => ⟨h.pending, h.inv⟩, fun h => h.same rfl rfl rfl⟩
theorem keeps_ite {z : State} {p : Prop} [Decidable p] {a b : State} (ha : Keeps z a) (hb : Keeps z b) : Keeps z (if p then a else b) := by
  split <;> assumption
theorem keeps_foldl {α : Type} {z : State} (f : State → α → State) (hf : ∀ t x, Keeps z t → Keeps z (f t x)) (l : List α) :
    ∀ {s : State}, Keeps z s → Keeps z (l.foldl f s) := by
  induction l with
  | nil => intro s h; exact h
  | cons a l ih => intro s h; exact ih (hf s a h)
/-- A fold that carries something beside the state. -/
theorem keeps_foldl_fst {α β : Type} {z : State} (f : State × β → α → State × β) (hf : ∀ t x, Keeps z t.1 → Keeps z (f t x).1) (l : List α) :
    ∀ {s : State × β}, Keeps z s.1 → Keeps z (l.foldl f s).1 := by
  induction l with
  | nil => intro s h; exact h
  | cons a l ih => intro s h; exact ih (hf s a h)


/-! ### Flags -/

theorem keeps_put {z : State} (s : State) (f : Fld) (v : Nat) (hs : Keeps z s) : Keeps z (s.put f v) :=
  hs.of rfl (regsRiseFrom_put _ _ _) id
theorem keeps_putEff {z : State} (s : State) (f : Fld) (v : Nat) (hs : Keeps z s) : Keeps z (s.putEff f v) :=
  hs.of rfl (regsRiseFrom_put _ _ _) id
theorem keeps_putBoth {z : State} (s : State) (f : Fld) (v : Nat) (hs : Keeps z s) : Keeps z (State.putBoth s f v) := by
  unfold State.putBoth
  with_reducible repeat' first | assumption | apply keeps_putEff | apply keeps_put
theorem keeps_flag {z : State} (s : State) (f : Fld) (hs : Keeps z s) : Keeps z (State.flag s f) := by
  unfold State.flag
  with_reducible repeat' first | assumption | apply keeps_put
theorem keeps_unflag {z : State} (s : State) (f : Fld) (hs : Keeps z s) : Keeps z (State.unflag s f) := by
  unfold State.unflag
  with_reducible repeat' first | assumption | apply keeps_put
theorem keeps_putB {z : State} (s : State) (f : Fld) (b : Bool) (hs : Keeps z s) : Keeps z (State.putB s f b) := by
  unfold State.putB
  with_reducible repeat' first | assumption | apply keeps_put
theorem keeps_bumpBy {z : State} (s : State) (f : Fld) (n : Nat) (hs : Keeps z s) : Keeps z (State.bumpBy s f n) := by
  unfold State.bumpBy
  with_reducible repeat' first | assumption | apply keeps_put
theorem keeps_bump {z : State} (s : State) (f : Fld) (hs : Keeps z s) : Keeps z (State.bump s f) := by
  unfold State.bump
  with_reducible repeat' first | assumption | apply keeps_bumpBy
theorem keeps_incrBy {z : State} (s : State) (f : Fld) (n : Nat) (hs : Keeps z s) : Keeps z (State.incrBy s f n) := by
  unfold State.incrBy
  with_reducible repeat' first | assumption | apply keeps_put
theorem keeps_incr {z : State} (s : State) (f : Fld) (hs : Keeps z s) : Keeps z (State.incr s f) := by
  unfold State.incr
  with_reducible repeat' first | assumption | apply keeps_incrBy
theorem keeps_flagBump {z : State} (s : State) (fl cnt : Fld) (hs : Keeps z s) : Keeps z (State.flagBump s fl cnt) := by
  unfold State.flagBump
  with_reducible repeat' first | assumption | apply keeps_bump | apply keeps_flag
theorem keeps_putPair {z : State} (s : State) (lo hi : Fld) (v : Nat) (hs : Keeps z s) :
    Keeps z (State.putPair s lo hi v) := by
  unfold State.putPair
  with_reducible repeat' first | assumption | apply keeps_put
theorem keeps_clearAll {z : State} (s : State) (fs : List Fld) (hs : Keeps z s) : Keeps z (State.clearAll s fs) := by
  unfold State.clearAll
  with_reducible repeat' first
    | assumption | apply keeps_unflag | dsimp only | simp only [keeps_mk] | (refine keeps_foldl _ (fun t x ht => ?_) _ ?_)
theorem keeps_resetAll {z : State} (s : State) (fs : List Fld) (hs : Keeps z s) : Keeps z (State.resetAll s fs) := by
  unfold State.resetAll
  with_reducible repeat' first
    | assumption | apply keeps_putBoth | dsimp only | simp only [keeps_mk] | (refine keeps_foldl _ (fun t x ht => ?_) _ ?_)
theorem keeps_noteShadow {z : State} (s : State) (f : Fld) (hs : Keeps z s) : Keeps z (State.noteShadow s f) := by
  unfold State.noteShadow
  with_reducible repeat' first | assumption | dsimp only | simp only [keeps_mk]
theorem keeps_writeFld {z : State} (s : State) (f : Fld) (data : Nat) (inRun : Bool) (hs : Keeps z s) :
    Keeps z (State.writeFld s f data inRun) := by
  unfold State.writeFld
  with_reducible repeat' first
    | assumption | apply keeps_noteShadow | apply keeps_putBoth | apply keeps_put | dsimp only | simp only [keeps_mk] | split
theorem keeps_writeWord {z : State} (s : State) (fs : List Fld) (addr data : Nat) (inRun : Bool) (hs : Keeps z s) :
    Keeps z (State.writeWord s fs addr data inRun) := by
  unfold State.writeWord
  with_reducible repeat' first
    | assumption | apply keeps_writeFld | dsimp only | simp only [keeps_mk] | (refine keeps_foldl _ (fun t x ht => ?_) _ ?_)

/-! ### Ops -/

theorem keeps_at {z : State} (s : State) (t : Tick) (hs : Keeps z s) : Keeps z (State.at s t) := by
  unfold State.at
  with_reducible repeat' first | assumption | dsimp only | simp only [keeps_mk]
theorem keeps_emit {z : State} (s : State) (o : Out) (hs : Keeps z s) : Keeps z (State.emit s o) := by
  unfold State.emit
  with_reducible repeat' first | assumption | dsimp only | simp only [keeps_mk]
theorem keeps_freed {z : State} (s : State) (hs : Keeps z s) : Keeps z (State.freed s) := by
  unfold State.freed
  with_reducible repeat' first | assumption | dsimp only | simp only [keeps_mk]
theorem keeps_modCh {z : State} (s : State) (n : Ch) (f : Chan → Chan) (hs : Keeps z s) : Keeps z (State.modCh s n f) := by
  unfold State.modCh
  with_reducible repeat' first | assumption | dsimp only | simp only [keeps_mk]
theorem keeps_modCu {z : State} (s : State) (n : Cun) (f : Cu → Cu) (hs : Keeps z s) : Keeps z (State.modCu s n f) := by
  unfold State.modCu
  with_reducible repeat' first | assumption | dsimp only | simp only [keeps_mk]
theorem keeps_modStk {z : State} (s : State) (i : Stk) (f : Stake → Stake) (hs : Keeps z s) :
    Keeps z (State.modStk s i f) := by
  unfold State.modStk
  with_reducible repeat' first | assumption | dsimp only | simp only [keeps_mk]
theorem keeps_modTh {z : State} (s : State) (m : Thi) (f : Thermal → Thermal) (hs : Keeps z s) :
    Keeps z (State.modTh s m f) := by
  unfold State.modTh
  with_reducible repeat' first | assumption | dsimp only | simp only [keeps_mk]
theorem keeps_modDma {z : State} (s : State) (d : Dch) (f : Dma → Dma) (hs : Keeps z s) : Keeps z (State.modDma s d f) := by
  unfold State.modDma
  with_reducible repeat' first | assumption | dsimp only | simp only [keeps_mk]
theorem keeps_modTrav {z : State} (s : State) (n : Ch) (f : Trav → Trav) (hs : Keeps z s) :
    Keeps z (State.modTrav s n f) := by
  unfold State.modTrav
  with_reducible repeat' first | assumption | apply keeps_modCh
theorem keeps_modLink {z : State} (s : State) (n : Ch) (f : Link → Link) (hs : Keeps z s) :
    Keeps z (State.modLink s n f) := by
  unfold State.modLink
  with_reducible repeat' first | assumption | apply keeps_modCh
theorem keeps_modDrive {z : State} (s : State) (n : Ch) (f : Drive → Drive) (hs : Keeps z s) :
    Keeps z (State.modDrive s n f) := by
  unfold State.modDrive
  with_reducible repeat' first | assumption | apply keeps_modCh
theorem keeps_modHealth {z : State} (s : State) (n : Ch) (f : Health → Health) (hs : Keeps z s) :
    Keeps z (State.modHealth s n f) := by
  unfold State.modHealth
  with_reducible repeat' first | assumption | apply keeps_modCh
theorem keeps_modDev {z : State} (s : State) (f : Dev → Dev) (hs : Keeps z s) : Keeps z (State.modDev s f) := by
  unfold State.modDev
  with_reducible repeat' first | assumption | dsimp only | simp only [keeps_mk]
theorem keeps_modCan {z : State} (s : State) (f : Can → Can) (hs : Keeps z s) : Keeps z (State.modCan s f) := by
  unfold State.modCan
  with_reducible repeat' first | assumption | dsimp only | simp only [keeps_mk]
theorem keeps_modCam {z : State} (s : State) (c : Nat) (f : Context → Context) (hs : Keeps z s) :
    Keeps z (State.modCam s c f) := by
  unfold State.modCam
  with_reducible repeat' first | assumption | dsimp only | simp only [keeps_mk]
theorem keeps_forCh {z : State} (s : State) (f : Ch → State → State) (hs : Keeps z s)
    (hf : ∀ (n : Ch) (t : State), Keeps z t → Keeps z (f n t)) : Keeps z (s.forCh f) :=
  keeps_foldl _ (fun t n ht => hf n t ht) _ hs
theorem keeps_cause {z : State} (s : State) (v : Nat) (hs : Keeps z s) : Keeps z (State.cause s v) := by
  unfold State.cause
  with_reducible repeat' first
    | assumption | apply keeps_emit | apply keeps_flag | apply keeps_put | dsimp only | simp only [keeps_mk] | split
theorem keeps_pulse {z : State} (s : State) (src : Nat) (hs : Keeps z s) : Keeps z (State.pulse s src) := by
  unfold State.pulse
  with_reducible repeat' first | assumption | dsimp only | simp only [keeps_mk] | split
theorem keeps_emcyInfo {z : State} (s : State) (code src line : Nat) (info : List Byte) (hs : Keeps z s) :
    Keeps z (State.emcyInfo s code src line info) := by
  unfold State.emcyInfo
  with_reducible repeat' first
    | assumption | apply keeps_cause | apply keeps_modCan | apply keeps_incr | apply keeps_bump | dsimp only
    | simp only [keeps_mk] | split
theorem keeps_emcyMsg {z : State} (s : State) (code src line : Nat) (hs : Keeps z s) :
    Keeps z (State.emcyMsg s code src line) := by
  unfold State.emcyMsg
  with_reducible repeat' first | assumption | apply keeps_emcyInfo
theorem keeps_unsay {z : State} (s : State) (code src : Nat) (hs : Keeps z s) : Keeps z (State.unsay s code src) := by
  unfold State.unsay
  with_reducible repeat' first | assumption | apply keeps_record | apply keeps_modCan | apply keeps_put
theorem keeps_unpulse {z : State} (s : State) (src : Nat) (hs : Keeps z s) : Keeps z (State.unpulse s src) := by
  unfold State.unpulse
  with_reducible repeat' first | assumption | dsimp only | simp only [keeps_mk]
theorem keeps_condOn {z : State} (s : State) (code src : Nat) (hs : Keeps z s) : Keeps z (State.condOn s code src) := by
  unfold State.condOn
  with_reducible repeat' first | assumption | apply keeps_modCan | dsimp only | simp only [keeps_mk] | split
theorem keeps_condOff {z : State} (s : State) (code src : Nat) (hs : Keeps z s) : Keeps z (State.condOff s code src) := by
  unfold State.condOff
  with_reducible repeat' first | assumption | apply keeps_emcyMsg | apply keeps_modCan | dsimp only | simp only [keeps_mk] | split
theorem keeps_record {z : State} (s : State) (n : Ch) (ev line : Nat) (mapped : Bool) (hs : Keeps z s) :
    Keeps z (State.record s n ev line mapped) := by
  unfold State.record
  with_reducible repeat' first | assumption | apply keeps_modCan | apply keeps_bump | dsimp only | simp only [keeps_mk] | split
theorem keeps_setCh {z : State} (s : State) (n : Ch) (x : ChState) (hs : Keeps z s) : Keeps z (State.setCh s n x) := by
  unfold State.setCh
  with_reducible repeat' first
    | assumption | apply keeps_record | apply keeps_cause | apply keeps_modCh | dsimp only | simp only [keeps_mk] | split
theorem keeps_moveToken {z : State} (s : State) (p : Port) (hs : Keeps z s) : Keeps z (State.moveToken s p) := by
  unfold State.moveToken
  with_reducible repeat' first
    | assumption | apply keeps_cause | apply keeps_modDev | apply keeps_incr | apply keeps_flag | dsimp only
    | simp only [keeps_mk] | split
theorem keeps_tokenCheck {z : State} (s : State) (hs : Keeps z s) : Keeps z (State.tokenCheck s) := by
  unfold State.tokenCheck
  with_reducible repeat' first | assumption | apply keeps_moveToken | dsimp only | simp only [keeps_mk] | split
theorem keeps_camPos {z : State} (s : State) (m : Cun) (hs : Keeps z s) : Keeps z (State.camPos s m) := by
  unfold State.camPos
  with_reducible repeat' first
    | assumption | apply keeps_modCam | dsimp only | simp only [keeps_mk] | (refine keeps_foldl _ (fun t x ht => ?_) _ ?_)
    | (refine keeps_foldl_fst _ (fun t x ht => ?_) _ ?_) | split

/-! ### Ladder -/

theorem keeps_setRail {z : State} (s : State) (n : Ch) (w : Bool) (r : RailRun) (hs : Keeps z s) :
    Keeps z (State.setRail s n w r) := by
  unfold State.setRail
  with_reducible repeat' first | assumption | apply keeps_modDrive
theorem keeps_planRail {z : State} (s : State) (n : Ch) (w : Bool) (r : RailRun) (hs : Keeps z s) :
    Keeps z (State.planRail s n w r) := by
  unfold State.planRail
  with_reducible repeat' first | assumption | apply keeps_setRail | apply keeps_emit | dsimp only | simp only [keeps_mk] | split
theorem keeps_rampRail {z : State} (s : State) (n : Ch) (delay : Nat) (up : Option Nat) (w : Bool) (hs : Keeps z s) :
    Keeps z (State.rampRail s n delay up w) := by
  unfold State.rampRail
  with_reducible repeat' first | assumption | apply keeps_planRail
theorem keeps_rampRails {z : State} (s : State) (n : Ch) (delay : Nat) (up : Option Nat) (hs : Keeps z s) :
    Keeps z (State.rampRails s n delay up) := by
  unfold State.rampRails
  with_reducible repeat' first | assumption | apply keeps_rampRail
theorem keeps_stopRails {z : State} (s : State) (n : Ch) (hs : Keeps z s) : Keeps z (State.stopRails s n) := by
  unfold State.stopRails
  with_reducible repeat' first | assumption | apply keeps_modDrive
theorem keeps_railsDone {z : State} (s : State) (n : Ch) (hs : Keeps z s) : Keeps z (State.railsDone s n) := by
  unfold State.railsDone
  with_reducible repeat' first | assumption | apply keeps_modDrive

/-! ### Chainage -/

theorem keeps_stakeDisarm {z : State} (s : State) (i : Stk) (hs : Keeps z s) : Keeps z (State.stakeDisarm s i) := by
  unfold State.stakeDisarm
  with_reducible repeat' first | assumption | apply keeps_modStk | apply keeps_unflag
theorem keeps_stakeLate {z : State} (s : State) (i : Stk) (hs : Keeps z s) : Keeps z (State.stakeLate s i) := by
  unfold State.stakeLate
  with_reducible repeat' first | assumption | apply keeps_emcyMsg | apply keeps_pulse
theorem keeps_stakeArm {z : State} (s : State) (i : Stk) (hs : Keeps z s) : Keeps z (State.stakeArm s i) := by
  unfold State.stakeArm
  with_reducible repeat' first
    | assumption | apply keeps_stakeLate | apply keeps_stakeDisarm | apply keeps_modStk | apply keeps_flag | dsimp only
    | simp only [keeps_mk] | split
theorem keeps_stakeHit {z : State} (s : State) (i : Stk) (t : Nat) (hs : Keeps z s) : Keeps z (State.stakeHit s i t) := by
  unfold State.stakeHit
  with_reducible repeat' first
    | assumption | apply keeps_stakeArm | apply keeps_stakeDisarm | apply keeps_pulse | apply keeps_modStk | apply keeps_incr
    | apply keeps_put | dsimp only | simp only [keeps_mk] | split
theorem keeps_stakeLateHit {z : State} (s : State) (i : Stk) (hs : Keeps z s) : Keeps z (State.stakeLateHit s i).1 := by
  unfold State.stakeLateHit
  with_reducible repeat' first
    | assumption | apply keeps_stakeHit | apply keeps_stakeLate | apply keeps_at | apply keeps_flag | dsimp only
    | simp only [keeps_mk] | split
theorem keeps_stakeTarget {z : State} (s : State) (i : Stk) (t : Pos) (hs : Keeps z s) :
    Keeps z (State.stakeTarget s i t) := by
  unfold State.stakeTarget
  with_reducible repeat' first | assumption | apply keeps_stakeArm | apply keeps_modStk | apply keeps_putPair
theorem keeps_stakesJudge {z : State} (s : State) (n : Cun) (hs : Keeps z s) : Keeps z (State.stakesJudge s n) := by
  unfold State.stakesJudge
  with_reducible repeat' first
    | assumption | apply keeps_stakeArm | dsimp only | simp only [keeps_mk] | (refine keeps_foldl _ (fun t x ht => ?_) _ ?_)
    | (refine keeps_foldl_fst _ (fun t x ht => ?_) _ ?_) | split
theorem keeps_posUpdate {z : State} (s : State) (n : Cun) (p : Pos) (t : Nat) (hs : Keeps z s) :
    Keeps z (State.posUpdate s n p t).1 := by
  unfold State.posUpdate
  with_reducible repeat' first
    | assumption | apply keeps_stakeHit | apply keeps_modCu | dsimp only | simp only [keeps_mk]
    | (refine keeps_foldl _ (fun t x ht => ?_) _ ?_) | (refine keeps_foldl_fst _ (fun t x ht => ?_) _ ?_) | split
theorem keeps_edgeTime {z : State} (s : State) (n : Cun) (back : Bool) (t acc : Nat) (len : Nat) (start : Option Nat) (hs : Keeps z s) :
    Keeps z (State.edgeTime s n back t acc len start) := by
  unfold State.edgeTime
  with_reducible repeat' first | assumption | apply keeps_modCu
theorem keeps_quadEdge {z : State} (s : State) (n : Cun) (a b : Bool) (t : Nat) (hs : Keeps z s) :
    Keeps z (State.quadEdge s n a b t).1 := by
  unfold State.quadEdge
  with_reducible repeat' first
    | assumption | apply keeps_edgeTime | apply keeps_posUpdate | apply keeps_modCu | apply keeps_bump | dsimp only
    | simp only [keeps_mk] | split
theorem keeps_ssiReject {z : State} (s : State) (n : Cun) (hs : Keeps z s) : Keeps z (State.ssiReject s n) := by
  unfold State.ssiReject
  with_reducible repeat' first
    | assumption | apply keeps_camPos | apply keeps_condOn | apply keeps_emcyMsg | apply keeps_modCu | apply keeps_bump
    | dsimp only | simp only [keeps_mk] | split
theorem keeps_ssiTake {z : State} (s : State) (n : Cun) (v : Nat) (hs : Keeps z s) : Keeps z (State.ssiTake s n v) := by
  unfold State.ssiTake
  with_reducible repeat' first | assumption | apply keeps_condOff | apply keeps_modCu | dsimp only | simp only [keeps_mk] | split
theorem keeps_ssiFrameEnd {z : State} (s : State) (n : Cun) (low : Bool) (raw : Nat) (chk : Bool) (hs : Keeps z s) :
    Keeps z (State.ssiFrameEnd s n low raw chk).1 := by
  unfold State.ssiFrameEnd
  with_reducible repeat' first
    | assumption | apply keeps_ssiTake | apply keeps_ssiReject | apply keeps_edgeTime | apply keeps_posUpdate | apply keeps_modCu
    | dsimp only | split
theorem keeps_cuPreset {z : State} (s : State) (n : Cun) (hs : Keeps z s) : Keeps z (State.cuPreset s n) := by
  unfold State.cuPreset
  with_reducible repeat' first | assumption | apply keeps_stakesJudge | apply keeps_camPos | apply keeps_modCu | apply keeps_flag
theorem keeps_homeEnd {z : State} (s : State) (n : Cun) (hs : Keeps z s) : Keeps z (State.homeEnd s n) := by
  unfold State.homeEnd
  with_reducible repeat' first | assumption | apply keeps_modCu | apply keeps_unflag
theorem keeps_homeDone {z : State} (s : State) (n : Cun) (hs : Keeps z s) : Keeps z (State.homeDone s n) := by
  unfold State.homeDone
  with_reducible repeat' first | assumption | apply keeps_homeEnd | apply keeps_cuPreset
theorem keeps_zEdge {z : State} (s : State) (n : Cun) (hs : Keeps z s) : Keeps z (State.zEdge s n) := by
  unfold State.zEdge
  with_reducible repeat' first
    | assumption | apply keeps_homeDone | apply keeps_emcyMsg | apply keeps_modCu | apply keeps_bump | dsimp only
    | simp only [keeps_mk] | split
theorem keeps_cuReset {z : State} (s : State) (n : Cun) (hs : Keeps z s) : Keeps z (State.cuReset s n) := by
  unfold State.cuReset
  with_reducible repeat' first
    | assumption | apply keeps_homeEnd | apply keeps_stakeDisarm | apply keeps_camPos | apply keeps_condOff | apply keeps_modCu
    | apply keeps_unflag | dsimp only | simp only [keeps_mk] | (refine keeps_foldl _ (fun t x ht => ?_) _ ?_)
    | (refine keeps_foldl_fst _ (fun t x ht => ?_) _ ?_) | split
theorem keeps_swFollow {z : State} (s old : State) (n : Cun) (hs : Keeps z s) :
    Keeps z (State.swFollow s old n) := by
  unfold State.swFollow
  with_reducible repeat' first
    | assumption | apply keeps_homeDone | apply keeps_modCu | apply keeps_flag | dsimp only | simp only [keeps_mk] | split
theorem keeps_windowEnd {z : State} (s : State) (n : Cun) (hs : Keeps z s) : Keeps z (State.windowEnd s n) := by
  unfold State.windowEnd
  with_reducible repeat' first | assumption | apply keeps_modCu
theorem keeps_enterStill {z : State} (s : State) (n : Cun) (hs : Keeps z s) : Keeps z (State.enterStill s n) := by
  unfold State.enterStill
  with_reducible repeat' first | assumption | apply keeps_modCu
theorem keeps_cuSnap {z : State} (s : State) (n : Cun) (hs : Keeps z s) : Keeps z (State.cuSnap s n) := by
  unfold State.cuSnap
  with_reducible repeat' first
    | assumption | apply keeps_put | dsimp only | simp only [keeps_mk] | (refine keeps_foldl _ (fun t x ht => ?_) _ ?_)
theorem keeps_cuApply {z : State} (n : Cun) (addr data : Nat) (s : State) (hs : Keeps z s) :
    Keeps z (cuApply n addr data s) := by
  unfold cuApply
  with_reducible repeat' first
    | assumption | apply keeps_swFollow | apply keeps_cuReset | apply keeps_homeEnd | apply keeps_cuPreset | apply keeps_modCu
    | apply keeps_writeWord | apply keeps_flag | dsimp only | simp only [keeps_mk] | split
theorem keeps_stkApply {z : State} (i : Stk) (addr data : Nat) (s : State) (hs : Keeps z s) :
    Keeps z (stkApply i addr data s) := by
  unfold stkApply
  with_reducible repeat' first
    | assumption | apply keeps_stakeTarget | apply keeps_stakeArm | apply keeps_stakeDisarm | apply keeps_writeWord | dsimp only
    | simp only [keeps_mk] | split

/-! ### Memory -/

theorem keeps_parityNote {z : State} (s : State) (mem ofs : Nat) (hs : Keeps z s) :
    Keeps z (State.parityNote s mem ofs) := by
  unfold State.parityNote
  with_reducible repeat' first | assumption | apply keeps_flagBump | apply keeps_put
theorem keeps_spoil {z : State} (s : State) (as : List Nat) (hs : Keeps z s) : Keeps z (State.spoil s as) := by
  unfold State.spoil
  with_reducible repeat' first | assumption | dsimp only | simp only [keeps_mk]
theorem keeps_bankSpoil {z : State} (s : State) (ofs : Nat) (hs : Keeps z s) : Keeps z (State.bankSpoil s ofs) := by
  unfold State.bankSpoil
  with_reducible repeat' first | assumption | apply keeps_modCam | dsimp only | simp only [keeps_mk] | split
theorem keeps_bistGo {z : State} (s : State) (single bad : List Nat) (r : Nat × Nat) (again : List ((Nat × Nat) × Bool)) (hs : Keeps z s) :
    Keeps z (State.bistGo s single bad r again) := by
  unfold State.bistGo
  with_reducible repeat' first
    | assumption | apply keeps_bankSpoil | apply keeps_spoil | apply keeps_parityNote | apply keeps_modCh | apply keeps_flagBump
    | apply keeps_bumpBy | apply keeps_flag | apply keeps_put | dsimp only | simp only [keeps_mk]
    | (refine keeps_foldl _ (fun t x ht => ?_) _ ?_) | (refine keeps_foldl_fst _ (fun t x ht => ?_) _ ?_) | split
theorem keeps_bistStart {z : State} (s : State) (single bad : List Nat) (hs : Keeps z s) :
    Keeps z (State.bistStart s single bad) := by
  unfold State.bistStart
  with_reducible repeat' first | assumption | apply keeps_bistGo | apply keeps_incr | dsimp only | simp only [keeps_mk] | split
theorem keeps_bistDone {z : State} (s : State) (failAt : Option Nat) (hs : Keeps z s) :
    Keeps z (State.bistDone s failAt) := by
  unfold State.bistDone
  with_reducible repeat' first | assumption | apply keeps_flagBump | apply keeps_put | dsimp only | simp only [keeps_mk] | split
theorem keeps_bistTouch {z : State} (s : State) (m : Nat) (p : Nat → Bool) (hs : Keeps z s) :
    Keeps z (State.bistTouch s m p) := by
  unfold State.bistTouch
  with_reducible repeat' first | assumption | apply keeps_flagBump | apply keeps_bump | dsimp only | simp only [keeps_mk] | split
theorem keeps_sliceTouch {z : State} (s : State) (m ofs len : Nat) (hs : Keeps z s) :
    Keeps z (State.sliceTouch s m ofs len) := by
  unfold State.sliceTouch
  with_reducible repeat' first | assumption | apply keeps_bistTouch
theorem keeps_entryTouch {z : State} (s : State) (n : Ch) (i : Nat) (hs : Keeps z s) :
    Keeps z (State.entryTouch s n i) := by
  unfold State.entryTouch
  with_reducible repeat' first | assumption | apply keeps_sliceTouch
theorem keeps_tableTouch {z : State} (s : State) (n : Ch) (hs : Keeps z s) : Keeps z (State.tableTouch s n) := by
  unfold State.tableTouch
  with_reducible repeat' first | assumption | apply keeps_bistTouch
theorem keeps_closureTouch {z : State} (s : State) (hs : Keeps z s) : Keeps z (State.closureTouch s) := by
  unfold State.closureTouch
  with_reducible repeat' first | assumption | apply keeps_bistTouch | dsimp only | simp only [keeps_mk] | split
theorem keeps_spApply {z : State} (s : State) (o : SpOp) (ls : List (Nat × Byte)) (hs : Keeps z s) : Keeps z (s.spApply o ls) := by
  unfold State.spApply
  refine keeps_bistTouch _ _ _ (keeps_foldl _ (fun t x ht => ?_) _ hs)
  exact Keeps.of ht rfl id (memory_wf_put _ _)
theorem keeps_spParity {z : State} (s0 : State) (ofs len : Nat) (hs0 : Keeps z s0) :
    Keeps z (State.spParity s0 ofs len).1 := by
  unfold State.spParity
  with_reducible repeat' first
    | assumption | apply keeps_sliceTouch | apply keeps_bumpBy | apply keeps_flag | apply keeps_put | dsimp only
    | simp only [keeps_mk] | split
theorem keeps_sAccess {z : State} (s : State) (a : SPort) (hs : Keeps z s) : Keeps z (State.sAccess s a) := by
  unfold State.sAccess
  with_reducible repeat' first
    | assumption | apply keeps_spParity | apply keeps_spApply | apply keeps_modDev | apply keeps_emit | dsimp only
    | simp only [keeps_mk] | split
theorem keeps_spBoth {z : State} (s : State) (o : SpOp) (h : List (Nat × Byte)) (sp : Option SPort) (hs : Keeps z s) :
    Keeps z (State.spBoth s o h sp) := by
  unfold State.spBoth
  with_reducible repeat' first
    | assumption | apply keeps_sAccess | apply keeps_spApply | apply keeps_flagBump | dsimp only | simp only [keeps_mk] | split
theorem keeps_completerAbort {z : State} (s : State) (addr : Nat) (hs : Keeps z s) :
    Keeps z (State.completerAbort s addr) := by
  unfold State.completerAbort
  with_reducible repeat' first | assumption | apply keeps_emit | apply keeps_flag
theorem keeps_spWrite {z : State} (s : State) (o : SpOp) (ofs : Nat) (lanes : List (Option Byte)) (sp : Option SPort) (hs : Keeps z s) :
    Keeps z (State.spWrite s o ofs lanes sp) := by
  unfold State.spWrite
  with_reducible repeat' first
    | assumption | apply keeps_completerAbort | apply keeps_spBoth | dsimp only | simp only [keeps_mk] | split
theorem keeps_spClearSecure {z : State} (s : State) (hs : Keeps z s) : Keeps z s.spClearSecure :=
  hs.of rfl id (memory_wf_filter _)
theorem keeps_memLive {z : State} (s : State) (hs : Keeps z s) : Keeps z (State.memLive s) := by
  unfold State.memLive
  with_reducible repeat' first | assumption | apply keeps_put
theorem keeps_memApply {z : State} (addr data : Nat) (s : State) (hs : Keeps z s) : Keeps z (memApply addr data s) := by
  unfold memApply
  with_reducible repeat' first | assumption | apply keeps_writeWord

/-! ### Answer -/

theorem keeps_mbAnswer {z : State} (s : State) (idx sub abort : Nat) (data : List Byte) (hs : Keeps z s) :
    Keeps z (State.mbAnswer s idx sub abort data) := by
  unfold State.mbAnswer
  with_reducible repeat' first
    | assumption | apply keeps_spApply | apply keeps_cause | apply keeps_unflag | apply keeps_flag | apply keeps_put | dsimp only
    | simp only [keeps_mk] | (refine keeps_foldl _ (fun t x ht => ?_) _ ?_) | (refine keeps_foldl_fst _ (fun t x ht => ?_) _ ?_)
    | split
theorem keeps_answer {z : State} (s : State) (p : Port) (idx sub abort : Nat) (hs : Keeps z s) :
    Keeps z (State.answer s p idx sub abort) := by
  unfold State.answer
  with_reducible repeat' first | assumption | apply keeps_mbAnswer | apply keeps_emit | dsimp only | simp only [keeps_mk] | split
theorem keeps_answerData {z : State} (s : State) (p : Port) (idx sub : Nat) (data : List Byte) (hs : Keeps z s) :
    Keeps z (State.answerData s p idx sub data) := by
  unfold State.answerData
  with_reducible repeat' first | assumption | apply keeps_mbAnswer | apply keeps_emit | dsimp only | simp only [keeps_mk] | split
theorem keeps_reply {z : State} (s : State) (p : Option Port) (idx sub abort : Nat) (hs : Keeps z s) :
    Keeps z (State.reply s p idx sub abort) := by
  unfold State.reply
  with_reducible repeat' first | assumption | apply keeps_answer | dsimp only | simp only [keeps_mk] | split

/-! ### DmaSet -/

theorem keeps_dmaSettle {z : State} (s : State) (d : Dch) (hs : Keeps z s) : Keeps z (State.dmaSettle s d) := by
  unfold State.dmaSettle
  with_reducible repeat' first
    | assumption | apply keeps_answer | apply keeps_modDma | dsimp only | simp only [keeps_mk]
    | (refine keeps_foldl _ (fun t x ht => ?_) _ ?_) | (refine keeps_foldl_fst _ (fun t x ht => ?_) _ ?_) | split
theorem keeps_dmaEnd {z : State} (s : State) (d : Dch) (hs : Keeps z s) : Keeps z (State.dmaEnd s d) := by
  unfold State.dmaEnd
  with_reducible repeat' first | assumption | apply keeps_modDma | apply keeps_clearAll
theorem keeps_dmaEndIf {z : State} (s : State) (d : Dch) (hs : Keeps z s) : Keeps z (State.dmaEndIf s d) := by
  unfold State.dmaEndIf
  with_reducible repeat' first | assumption | apply keeps_dmaEnd | dsimp only | simp only [keeps_mk] | split
theorem keeps_dmaError {z : State} (s : State) (d : Dch) (err : Nat) (hs : Keeps z s) :
    Keeps z (State.dmaError s d err) := by
  unfold State.dmaError
  with_reducible repeat' first
    | assumption | apply keeps_modDma | apply keeps_bump | apply keeps_unflag | apply keeps_flag | apply keeps_put
theorem keeps_dmaFailDue {z : State} (s : State) (d : Dch) (hs : Keeps z s) : Keeps z (State.dmaFailDue s d) := by
  unfold State.dmaFailDue
  with_reducible repeat' first | assumption | apply keeps_dmaError | dsimp only | simp only [keeps_mk] | split
theorem keeps_dmaStopIssue {z : State} (s : State) (d : Dch) (hs : Keeps z s) : Keeps z (State.dmaStopIssue s d) := by
  unfold State.dmaStopIssue
  with_reducible repeat' first | assumption | dsimp only | simp only [keeps_mk] | split
theorem keeps_issueOne {z : State} (s : State) (d : Dch) (t : Nat) (hs : Keeps z s) : Keeps z (State.issueOne s d t) := by
  unfold State.issueOne
  with_reducible repeat' first | assumption | apply keeps_modDma | apply keeps_put | dsimp only | simp only [keeps_mk] | split
theorem keeps_issueDue {z : State} : ∀ (f : Nat) (x0 : Bool) (s : State), Keeps z s → Keeps z (State.issueDue f x0 s) := by
  intro f
  induction f with
  | zero => intro x0 s h; exact h
  | succ f ih =>
    intro x0 s h
    unfold State.issueDue
    with_reducible repeat' first
      | assumption | apply keeps_issueOne | apply keeps_at | dsimp only | simp only [keeps_mk] | split | apply ih
theorem keeps_dmaTick {z : State} (s : State) (hs : Keeps z s) : Keeps z (State.dmaTick s) := by
  unfold State.dmaTick
  with_reducible repeat' first | assumption | apply keeps_issueDue
theorem keeps_dmaParked {z : State} (s : State) (n : Ch) (hs : Keeps z s) : Keeps z (State.dmaParked s n) := by
  unfold State.dmaParked
  with_reducible repeat' first
    | assumption | apply keeps_dmaTick | apply keeps_dmaStopIssue | apply keeps_dmaError | apply keeps_dmaEndIf
    | apply keeps_dmaSettle | apply keeps_modDma | apply keeps_incrBy | dsimp only | simp only [keeps_mk]
    | (refine keeps_foldl _ (fun t x ht => ?_) _ ?_) | (refine keeps_foldl_fst _ (fun t x ht => ?_) _ ?_) | split

/-! ### Send -/

theorem keeps_modLine {z : State} (s : State) (n : Ch) (k : Nat) (f : Line → Line) (hs : Keeps z s) :
    Keeps z (State.modLine s n k f) := by
  unfold State.modLine
  with_reducible repeat' first | assumption | apply keeps_modCh
theorem keeps_sendLine {z : State} (s : State) (n : Ch) (k i : Nat) (hs : Keeps z s) :
    Keeps z (State.sendLine s n k i) := by
  unfold State.sendLine
  with_reducible repeat' first
    | assumption | apply keeps_modFrame | apply keeps_modLine | apply keeps_modLink | apply keeps_emit | apply keeps_bump
    | dsimp only | simp only [keeps_mk] | split
theorem keeps_sendCtl {z : State} (s : State) (n : Ch) (id : Nat) (f : Frame) (hs : Keeps z s) :
    Keeps z (State.sendCtl s n id f) := by
  unfold State.sendCtl
  with_reducible repeat' first
    | assumption | apply keeps_modLink | apply keeps_emit | apply keeps_bump | dsimp only | simp only [keeps_mk] | split
theorem keeps_linkPump {z : State} : ∀ (f : Nat) (x0 : Ch) (s : State), Keeps z s → Keeps z (State.linkPump f x0 s) := by
  intro f
  induction f with
  | zero => intro x0 s h; exact h
  | succ f ih =>
    intro x0 s h
    unfold State.linkPump
    with_reducible repeat' first
      | assumption | apply keeps_sendCtl | apply keeps_sendLine | dsimp only | simp only [keeps_mk] | split | apply ih
theorem keeps_linkTick {z : State} (s : State) (n : Ch) (hs : Keeps z s) : Keeps z (State.linkTick s n) := by
  unfold State.linkTick
  with_reducible repeat' first | assumption | apply keeps_linkPump
theorem keeps_pump {z : State} (s : State) (n : Ch) (hs : Keeps z s) : Keeps z (State.pump s n) := by
  unfold State.pump
  with_reducible repeat' first | assumption | apply keeps_linkTick | apply keeps_modLink

/-! ### Recovery -/

theorem keeps_cutFrame {z : State} (s : State) (n : Ch) (p : Nat → Bool) (hs : Keeps z s) :
    Keeps z (State.cutFrame s n p) := by
  unfold State.cutFrame
  with_reducible repeat' first
    | assumption | apply keeps_linkTick | apply keeps_modLink | apply keeps_emit | dsimp only | simp only [keeps_mk] | split
theorem keeps_release {z : State} (s : State) (n : Ch) (reason : Nat) (hs : Keeps z s) :
    Keeps z (State.release s n reason) := by
  unfold State.release
  with_reducible repeat' first
    | assumption | apply keeps_cutFrame | apply keeps_modLink | apply keeps_modCh | apply keeps_emit | dsimp only
    | simp only [keeps_mk] | split
theorem keeps_travStop {z : State} (s : State) (n : Ch) (hs : Keeps z s) : Keeps z (State.travStop s n) := by
  unfold State.travStop
  with_reducible repeat' first | assumption | apply keeps_modTrav
theorem keeps_lineMsgs {z : State} (s : State) (n : Ch) (k : Nat) (ms : List (Nat × List Byte)) (hs : Keeps z s) :
    Keeps z (State.lineMsgs s n k ms) := by
  unfold State.lineMsgs
  with_reducible repeat' first
    | assumption | apply keeps_emcyMsg | apply keeps_emcyInfo | dsimp only | simp only [keeps_mk]
    | (refine keeps_foldl _ (fun t x ht => ?_) _ ?_) | (refine keeps_foldl_fst _ (fun t x ht => ?_) _ ?_) | split
theorem keeps_dropUndecided {z : State} (s0 : State) (n : Ch) (hs0 : Keeps z s0) : Keeps z (State.dropUndecided s0 n) := by
  unfold State.dropUndecided
  with_reducible repeat' first
    | assumption | apply keeps_lineMsgs | apply keeps_modCh | dsimp only | simp only [keeps_mk]
    | (refine keeps_foldl _ (fun t x ht => ?_) _ ?_) | (refine keeps_foldl_fst _ (fun t x ht => ?_) _ ?_) | split
theorem keeps_epochLose {z : State} (s : State) (n : Ch) (hs : Keeps z s) : Keeps z (State.epochLose s n) := by
  unfold State.epochLose
  with_reducible repeat' first | assumption | apply keeps_put | dsimp only | simp only [keeps_mk] | split
theorem keeps_switchSent {z : State} (s : State) (n : Nat) (close : Bool) (hs : Keeps z s) :
    Keeps z (State.switchSent s n close) := by
  unfold State.switchSent
  with_reducible repeat' first | assumption | apply keeps_modDev
theorem keeps_switchOpen {z : State} (s : State) (n : Ch) (hs : Keeps z s) : Keeps z (State.switchOpen s n) := by
  unfold State.switchOpen
  with_reducible repeat' first | assumption | apply keeps_switchSent | apply keeps_modDrive | apply keeps_unflag
theorem keeps_openSettle {z : State} (n : Ch) (s : State) (hs : Keeps z s) : Keeps z (State.openSettle n s) := by
  unfold State.openSettle
  with_reducible repeat' first | assumption | apply keeps_switchOpen | dsimp only | simp only [keeps_mk] | split
theorem keeps_switchDrop {z : State} (s : State) (n : Ch) (hs : Keeps z s) : Keeps z (State.switchDrop s n) := by
  unfold State.switchDrop
  with_reducible repeat' first | assumption | apply keeps_modDev | dsimp only | simp only [keeps_mk] | split
theorem keeps_rampAndOpen {z : State} (s : State) (n : Ch) (hs : Keeps z s) : Keeps z (State.rampAndOpen s n) := by
  unfold State.rampAndOpen
  with_reducible repeat' first
    | assumption | apply keeps_switchDrop | apply keeps_openSettle | apply keeps_rampRails | apply keeps_modDrive
    | apply keeps_unflag | dsimp only | simp only [keeps_mk] | split
theorem keeps_epochSet {z : State} (s : State) (n : Ch) (r : Rebase) (hs : Keeps z s) : Keeps z (State.epochSet s n r) := by
  unfold State.epochSet
  with_reducible repeat' first | assumption | apply keeps_put
theorem keeps_commitBack {z : State} (s : State) (x : Nat × Trav × Rebase) (hs : Keeps z s) :
    Keeps z (State.commitBack s x) := by
  unfold State.commitBack
  with_reducible repeat' first | assumption | apply keeps_epochSet | apply keeps_modTrav
theorem keeps_commitUndo {z : State} (s : State) (n : Ch) (hs : Keeps z s) : Keeps z (State.commitUndo s n) := by
  unfold State.commitUndo
  with_reducible repeat' first
    | assumption | apply keeps_commitBack | apply keeps_unpulse | apply keeps_unsay | apply keeps_modDev | apply keeps_put
    | dsimp only | simp only [keeps_mk] | (refine keeps_foldl _ (fun t x ht => ?_) _ ?_)
    | (refine keeps_foldl_fst _ (fun t x ht => ?_) _ ?_) | split
theorem keeps_retireMark {z : State} (s : State) (n : Ch) (cause : Nat) (hs : Keeps z s) :
    Keeps z (State.retireMark s n cause) := by
  unfold State.retireMark
  with_reducible repeat' first | assumption | apply keeps_cause | apply keeps_modDev | dsimp only | simp only [keeps_mk] | split
theorem keeps_retireBack {z : State} (s : State) (m : RetireMark) (hs : Keeps z s) : Keeps z (State.retireBack s m) := by
  unfold State.retireBack
  with_reducible repeat' first
    | assumption | apply keeps_record | apply keeps_unpulse | apply keeps_unsay | apply keeps_cause | apply keeps_modCan
    | apply keeps_modCh | apply keeps_put | dsimp only | simp only [keeps_mk]
theorem keeps_retireUndo {z : State} (s : State) (hs : Keeps z s) : Keeps z (State.retireUndo s) := by
  unfold State.retireUndo
  with_reducible repeat' first
    | assumption | apply keeps_retireBack | apply keeps_modDev | dsimp only | simp only [keeps_mk]
    | (refine keeps_foldl _ (fun t x ht => ?_) _ ?_)
theorem keeps_retire {z : State} (s0 : State) (n : Ch) (cause : Nat) (hs0 : Keeps z s0) :
    Keeps z (State.retire s0 n cause) := by
  unfold State.retire
  with_reducible repeat' first
    | assumption | apply keeps_retireMark | apply keeps_commitUndo | apply keeps_rampAndOpen | apply keeps_epochLose
    | apply keeps_dropUndecided | apply keeps_travStop | apply keeps_release | apply keeps_setCh | apply keeps_emcyMsg
    | apply keeps_pulse | apply keeps_cause | apply keeps_modHealth | apply keeps_modCh | apply keeps_bump | apply keeps_put
    | dsimp only | simp only [keeps_mk] | split
theorem keeps_parkCh {z : State} (s : State) (n : Ch) (hs : Keeps z s) : Keeps z (State.parkCh s n) := by
  unfold State.parkCh
  with_reducible repeat' first
    | assumption | apply keeps_dmaParked | apply keeps_modCh | apply keeps_unflag | apply keeps_put | dsimp only
    | simp only [keeps_mk] | split
theorem keeps_pixPark {z : State} (s : State) (hs : Keeps z s) : Keeps z (State.pixPark s) := by
  unfold State.pixPark
  with_reducible repeat' first
    | assumption | apply keeps_emit | apply keeps_clearAll | dsimp only | simp only [keeps_mk]
    | (refine keeps_foldl _ (fun t x ht => ?_) _ ?_) | (refine keeps_foldl_fst _ (fun t x ht => ?_) _ ?_) | split
theorem keeps_pixFollow {z : State} (s : State) (hs : Keeps z s) : Keeps z (State.pixFollow s) := by
  unfold State.pixFollow
  with_reducible repeat' first | assumption | apply keeps_pixPark | dsimp only | simp only [keeps_mk] | split
theorem keeps_safeFinish {z : State} (s : State) (hs : Keeps z s) : Keeps z (State.safeFinish s) := by
  unfold State.safeFinish
  with_reducible repeat' first
    | assumption | apply keeps_pixPark | apply keeps_condOn | apply keeps_emcyMsg | apply keeps_cause | apply keeps_modCan
    | apply keeps_modDev | apply keeps_bump | apply keeps_put | dsimp only | simp only [keeps_mk] | split
theorem keeps_safeCh {z : State} (s : State) (reason : Nat) (n : Ch) (hs : Keeps z s) :
    Keeps z (State.safeCh s reason n) := by
  unfold State.safeCh
  with_reducible repeat' first
    | assumption | apply keeps_parkCh | apply keeps_rampAndOpen | apply keeps_switchDrop | apply keeps_dropUndecided
    | apply keeps_travStop | apply keeps_release | apply keeps_setCh | dsimp only | simp only [keeps_mk] | split
theorem keeps_benchMs {z : State} (s : State) (hs : Keeps z s) : Keeps z (State.benchMs s) := by
  unfold State.benchMs
  with_reducible repeat' first | assumption | apply keeps_put
theorem keeps_benchFail {z : State} (s : State) (n : Ch) (res cause : Nat) (hs : Keeps z s) :
    Keeps z (State.benchFail s n res cause) := by
  unfold State.benchFail
  with_reducible repeat' first | assumption | apply keeps_retire | apply keeps_cause | apply keeps_put
theorem keeps_benchLast {z : State} (s : State) (n : Ch) (hs : Keeps z s) : Keeps z (State.benchLast s n) := by
  unfold State.benchLast
  with_reducible repeat' first
    | assumption | apply keeps_benchFail | apply keeps_setCh | apply keeps_put | dsimp only | simp only [keeps_mk] | split
theorem keeps_benchSettle {z : State} (n : Ch) (s : State) (hs : Keeps z s) : Keeps z (State.benchSettle n s) := by
  unfold State.benchSettle
  with_reducible repeat' first | assumption | apply keeps_benchLast | dsimp only | simp only [keeps_mk] | split
theorem keeps_enterSafe {z : State} (s0 : State) (bitNo code reason : Nat) (hs0 : Keeps z s0) :
    Keeps z (State.enterSafe s0 bitNo code reason) := by
  unfold State.enterSafe
  with_reducible repeat' first
    | assumption | apply keeps_benchSettle | apply keeps_benchMs | apply keeps_safeCh | apply keeps_safeFinish
    | apply keeps_retireUndo | apply keeps_epochLose | apply keeps_answer | apply keeps_tokenCheck | apply keeps_condOn
    | apply keeps_emcyMsg | apply keeps_modDev | apply keeps_put | dsimp only | simp only [keeps_mk]
    | (refine keeps_foldl _ (fun t x ht => ?_) _ ?_) | (refine keeps_foldl_fst _ (fun t x ht => ?_) _ ?_)
    | refine keeps_forCh _ _ ?_ (fun n t ht => ?_) | split
theorem keeps_dropInProgress {z : State} (s : State) (n : Ch) (hs : Keeps z s) : Keeps z (State.dropInProgress s n) := by
  unfold State.dropInProgress
  with_reducible repeat' first | assumption | apply keeps_modCh
theorem keeps_stopCh {z : State} (s : State) (n : Ch) (hs : Keeps z s) : Keeps z (State.stopCh s n) := by
  unfold State.stopCh
  with_reducible repeat' first
    | assumption | apply keeps_dropUndecided | apply keeps_travStop | apply keeps_setCh | dsimp only | simp only [keeps_mk]
    | split

end Sys2Proof.Machine
end

