-- ==== Sys2Proof/Laws/KeepsLine.lean ====
section
/-! SUPPORT. What the operations keep, further: the chapters of a line: traverse, line data, substitution, drivers, link, nozzle health, camera. -/
namespace Sys2Proof.Machine

/-! ### Traverse -/

theorem keeps_rebaseSettle {z : State} (s : State) (n : Ch) (hs : Keeps z s) : Keeps z (State.rebaseSettle s n) := by
  unfold State.rebaseSettle
  with_reducible repeat' first
    | assumption | apply keeps_modTrav | apply keeps_putPair | apply keeps_put | dsimp only | simp only [keeps_mk] | split
theorem keeps_decideMark {z : State} (s : State) (n : Ch) (k : Nat) (fires : Bool) (hs : Keeps z s) :
    Keeps z (State.decideMark s n k fires) := by
  unfold State.decideMark
  with_reducible repeat' first
    | assumption | apply keeps_rebaseSettle | apply keeps_lineMsgs | apply keeps_record | apply keeps_pulse | apply keeps_modTrav
    | apply keeps_modCh | dsimp only | simp only [keeps_mk] | split
theorem keeps_senseLost {z : State} (s : State) (n : Ch) (l : Option Line) (hs : Keeps z s) :
    Keeps z (State.senseLost s n l) := by
  unfold State.senseLost
  with_reducible repeat' first | assumption | apply keeps_flagBump | dsimp only | simp only [keeps_mk] | split
theorem keeps_forgetLine {z : State} (s : State) (n : Ch) (k : Nat) (hs : Keeps z s) :
    Keeps z (State.forgetLine s n k) := by
  unfold State.forgetLine
  with_reducible repeat' first | assumption | apply keeps_modCh
theorem keeps_dropPlain {z : State} (s : State) (n : Ch) (k : Nat) (hs : Keeps z s) : Keeps z (State.dropPlain s n k) := by
  unfold State.dropPlain
  with_reducible repeat' first | assumption | apply keeps_forgetLine | apply keeps_senseLost | apply keeps_decideMark
theorem keeps_dropLine {z : State} (s : State) (n : Ch) (k : Nat) (code : Nat) (hs : Keeps z s) :
    Keeps z (State.dropLine s n k code) := by
  unfold State.dropLine
  with_reducible repeat' first | assumption | apply keeps_dropPlain | apply keeps_emcyMsg
theorem keeps_gapDrop {z : State} (s : State) (n : Ch) (k : Nat) (hs : Keeps z s) : Keeps z (State.gapDrop s n k) := by
  unfold State.gapDrop
  with_reducible repeat' first | assumption | apply keeps_dropLine | apply keeps_flagBump
theorem keeps_gapSweep {z : State} : ∀ (f : Nat) (x0 : Bool) (x1 : Ch) (s : State), Keeps z s → Keeps z (State.gapSweep f x0 x1 s) := by
  intro f
  induction f with
  | zero => intro x0 x1 s h; exact h
  | succ f ih =>
    intro x0 x1 s h
    unfold State.gapSweep
    with_reducible repeat' first | assumption | apply keeps_gapDrop | dsimp only | simp only [keeps_mk] | split | apply ih
theorem keeps_gapRebase {z : State} (s : State) (n : Ch) (hs : Keeps z s) : Keeps z (State.gapRebase s n) := by
  unfold State.gapRebase
  with_reducible repeat' first
    | assumption | apply keeps_gapSweep | apply keeps_modTrav | dsimp only | simp only [keeps_mk] | split
theorem keeps_setSched {z : State} (s : State) (n : Ch) (e : Sched) (hs : Keeps z s) : Keeps z (State.setSched s n e) := by
  unfold State.setSched
  with_reducible repeat' first | assumption | apply keeps_modTrav
theorem keeps_withdraw {z : State} (s : State) (n : Ch) (due : Nat) (all : Bool) (hs : Keeps z s) :
    Keeps z (State.withdraw s n due all) := by
  unfold State.withdraw
  with_reducible repeat' first | assumption | apply keeps_modTrav
theorem keeps_predict {z : State} : ∀ (f : Nat) (x0 : Ch) (x1 : EdgeRec) (x2 : Nat) (x3 : Nat) (s : State), Keeps z s → Keeps z (State.predict f x0 x1 x2 x3 s) := by
  intro f
  induction f with
  | zero => intro x0 x1 x2 x3 s h; exact h
  | succ f ih =>
    intro x0 x1 x2 x3 s h
    unfold State.predict
    with_reducible repeat' first | assumption | apply keeps_setSched | dsimp only | simp only [keeps_mk] | split | apply ih
theorem keeps_lockLines {z : State} : ∀ (f : Nat) (x0 : Ch) (x1 : EdgeRec) (x2 : Nat) (x3 : Bool) (s : State), Keeps z s → Keeps z (State.lockLines f x0 x1 x2 x3 s) := by
  intro f
  induction f with
  | zero => intro x0 x1 x2 x3 s h; exact h
  | succ f ih =>
    intro x0 x1 x2 x3 s h
    unfold State.lockLines
    with_reducible repeat' first | assumption | apply keeps_setSched | dsimp only | simp only [keeps_mk] | split | apply ih
theorem keeps_cutLines {z : State} : ∀ (f : Nat) (x0 : Nat) (x1 : Ch) (s : State), Keeps z s → Keeps z (State.cutLines f x0 x1 s) := by
  intro f
  induction f with
  | zero => intro x0 x1 s h; exact h
  | succ f ih =>
    intro x0 x1 s h
    unfold State.cutLines
    with_reducible repeat' first
      | assumption | apply keeps_dropLine | apply keeps_bump | dsimp only | simp only [keeps_mk] | split | apply ih
theorem keeps_travPlace {z : State} (s0 : State) (n : Ch) (r : EdgeRec) (hs0 : Keeps z s0) :
    Keeps z (State.travPlace s0 n r) := by
  unfold State.travPlace
  with_reducible repeat' first
    | assumption | apply keeps_lockLines | apply keeps_predict | apply keeps_withdraw | apply keeps_gapRebase | dsimp only
    | simp only [keeps_mk] | split
theorem keeps_travRegain {z : State} (s : State) (n : Ch) (r : EdgeRec) (hs : Keeps z s) :
    Keeps z (State.travRegain s n r) := by
  unfold State.travRegain
  with_reducible repeat' first | assumption | apply keeps_gapSweep | dsimp only | simp only [keeps_mk] | split
theorem keeps_travRecord {z : State} (s : State) (n : Ch) (r : EdgeRec) (hs : Keeps z s) :
    Keeps z (State.travRecord s n r) := by
  unfold State.travRecord
  with_reducible repeat' first
    | assumption | apply keeps_travRegain | apply keeps_travPlace | apply keeps_cutLines | apply keeps_withdraw
    | apply keeps_modTrav | apply keeps_flag | dsimp only | simp only [keeps_mk] | split
theorem keeps_travRecords {z : State} (s : State) (m : Cun) (r : EdgeRec) (hs : Keeps z s) :
    Keeps z (State.travRecords s m r) := by
  unfold State.travRecords
  with_reducible repeat' first
    | assumption | apply keeps_travRecord | dsimp only | simp only [keeps_mk] | refine keeps_forCh _ _ ?_ (fun n t ht => ?_)
    | split
theorem keeps_startLate {z : State} (s : State) (n : Ch) (hs : Keeps z s) : Keeps z (State.startLate s n) := by
  unfold State.startLate
  with_reducible repeat' first
    | assumption | apply keeps_dropUndecided | apply keeps_travStop | apply keeps_release | apply keeps_setCh | apply keeps_flag
theorem keeps_travHit {z : State} (s : State) (n : Ch) (h : Hit) (hs : Keeps z s) : Keeps z (State.travHit s n h) := by
  unfold State.travHit
  with_reducible repeat' first
    | assumption | apply keeps_startLate | apply keeps_setSched | apply keeps_modTrav | apply keeps_putPair | dsimp only
    | simp only [keeps_mk] | split
theorem keeps_travFired {z : State} (s : State) (n : Ch) (k tick : Nat) (hs : Keeps z s) :
    Keeps z (State.travFired s n k tick) := by
  unfold State.travFired
  with_reducible repeat' first
    | assumption | apply keeps_emcyMsg | apply keeps_modTrav | apply keeps_flag | apply keeps_put | dsimp only
    | simp only [keeps_mk] | split
theorem keeps_overspeed {z : State} (s : State) (n : Ch) (k : Nat) (hs : Keeps z s) : Keeps z (State.overspeed s n k) := by
  unfold State.overspeed
  with_reducible repeat' first
    | assumption | apply keeps_dropLine | apply keeps_emcyMsg | apply keeps_pulse | apply keeps_flagBump | apply keeps_flag
theorem keeps_travLive {z : State} (s : State) (n : Ch) (hs : Keeps z s) : Keeps z (State.travLive s n) := by
  unfold State.travLive
  with_reducible repeat' first | assumption | apply keeps_putB | apply keeps_put

/-! ### LineData -/

theorem keeps_blankHistory {z : State} (s : State) (n : Ch) (k : Nat) (hs : Keeps z s) :
    Keeps z (State.blankHistory s n k) := by
  unfold State.blankHistory
  with_reducible repeat' first | assumption | apply keeps_modCh
theorem keeps_geomReport {z : State} (s : State) (n : Ch) (e : Nat) (hs : Keeps z s) :
    Keeps z (State.geomReport s n e) := by
  unfold State.geomReport
  with_reducible repeat' first | assumption | apply keeps_put
theorem keeps_geomApply {z : State} (s : State) (n : Ch) (hs : Keeps z s) : Keeps z (State.geomApply s n) := by
  unfold State.geomApply
  with_reducible repeat' first
    | assumption | apply keeps_geomReport | apply keeps_modCh | apply keeps_put | dsimp only | simp only [keeps_mk] | split
theorem keeps_queuePush {z : State} (s : State) (n : Ch) (bs : List Byte) (hs : Keeps z s) :
    Keeps z (State.queuePush s n bs) := by
  unfold State.queuePush
  with_reducible repeat' first | assumption | apply keeps_modCh | dsimp only | simp only [keeps_mk] | split
theorem keeps_queueFlush {z : State} (s : State) (n : Ch) (hs : Keeps z s) : Keeps z (State.queueFlush s n) := by
  unfold State.queueFlush
  with_reducible repeat' first | assumption | apply keeps_modCh
theorem keeps_setQTag {z : State} (s : State) (n : Ch) (t : Nat) (hs : Keeps z s) : Keeps z (State.setQTag s n t) := by
  unfold State.setQTag
  with_reducible repeat' first | assumption | apply keeps_modCh
theorem keeps_queueTake {z : State} (s : State) (n : Ch) (k : Nat) (hs : Keeps z s) :
    Keeps z (State.queueTake s n k).1 := by
  unfold State.queueTake
  with_reducible repeat' first
    | assumption | apply keeps_modCh | apply keeps_bumpBy | apply keeps_flag | dsimp only | simp only [keeps_mk] | split
theorem keeps_storeImage {z : State} (s : State) (n : Ch) (im : Image) (hs : Keeps z s) :
    Keeps z (State.storeImage s n im) := by
  unfold State.storeImage
  with_reducible repeat' first | assumption | apply keeps_modCh
theorem keeps_lineCe {z : State} (s : State) (n : Ch) (hs : Keeps z s) : Keeps z (State.lineCe s n) := by
  unfold State.lineCe
  with_reducible repeat' first | assumption | apply keeps_flagBump
theorem keeps_lineUe {z : State} (s : State) (n : Ch) (w : Nat) (hs : Keeps z s) : Keeps z (State.lineUe s n w) := by
  unfold State.lineUe
  with_reducible repeat' first
    | assumption | apply keeps_retire | apply keeps_modCh | apply keeps_flagBump | apply keeps_put | dsimp only
    | simp only [keeps_mk] | split
theorem keeps_lineLive {z : State} (s : State) (n : Ch) (hs : Keeps z s) : Keeps z (State.lineLive s n) := by
  unfold State.lineLive
  with_reducible repeat' first | assumption | apply keeps_put
theorem keeps_lineRefused {z : State} (n : Ch) (addr data : Nat) (s : State) (hs : Keeps z s) :
    Keeps z (lineRefused n addr data s) := by
  unfold lineRefused
  with_reducible repeat' first
    | assumption | apply keeps_geomApply | apply keeps_geomReport | dsimp only | simp only [keeps_mk] | split
theorem keeps_lineApply {z : State} (n : Ch) (addr data : Nat) (s : State) (hs : Keeps z s) :
    Keeps z (lineApply n addr data s) := by
  unfold lineApply
  with_reducible repeat' first
    | assumption | apply keeps_setQTag | apply keeps_queueFlush | apply keeps_geomApply | apply keeps_writeWord | apply keeps_put
    | dsimp only | simp only [keeps_mk] | split

/-! ### EditStage -/

theorem keeps_setEntry {z : State} (s : State) (n : Ch) (i v : Nat) (hs : Keeps z s) :
    Keeps z (State.setEntry s n i v) := by
  unfold State.setEntry
  with_reducible repeat' first | assumption | apply keeps_modCh
theorem keeps_tableUe {z : State} (s : State) (n : Ch) (i : Nat) (hs : Keeps z s) : Keeps z (State.tableUe s n i) := by
  unfold State.tableUe
  with_reducible repeat' first
    | assumption | apply keeps_setEntry | apply keeps_retire | apply keeps_modCh | apply keeps_flagBump | apply keeps_put
    | dsimp only | simp only [keeps_mk] | split
theorem keeps_encodeCodes {z : State} (s : State) (n : Ch) (k : Nat) (hs : Keeps z s) :
    Keeps z (State.encodeCodes s n k).1 := by
  unfold State.encodeCodes
  with_reducible repeat' first
    | assumption | apply keeps_modCh | apply keeps_bumpBy | apply keeps_flag | apply keeps_put | dsimp only | simp only [keeps_mk]
    | split
theorem keeps_shiftHistory {z : State} (s : State) (n : Ch) (hs : Keeps z s) : Keeps z (State.shiftHistory s n) := by
  unfold State.shiftHistory
  with_reducible repeat' first | assumption | apply keeps_modCh
theorem keeps_clearHistory {z : State} (s : State) (n : Ch) (hs : Keeps z s) : Keeps z (State.clearHistory s n) := by
  unfold State.clearHistory
  with_reducible repeat' first | assumption | apply keeps_modCh
theorem keeps_tblDone {z : State} (s : State) (n : Ch) (line : Nat) (hs : Keeps z s) :
    Keeps z (State.tblDone s n line) := by
  unfold State.tblDone
  with_reducible repeat' first | assumption | apply keeps_putPair | apply keeps_incr
theorem keeps_forgetNozzle {z : State} (s : State) (n : Ch) (i : Nat) (hs : Keeps z s) :
    Keeps z (State.forgetNozzle s n i) := by
  unfold State.forgetNozzle
  with_reducible repeat' first | assumption | apply keeps_modHealth
theorem keeps_applyEntry {z : State} (s : State) (n : Ch) (i mask val line : Nat) (hs : Keeps z s) :
    Keeps z (State.applyEntry s n i mask val line) := by
  unfold State.applyEntry
  with_reducible repeat' first
    | assumption | apply keeps_forgetNozzle | apply keeps_tblDone | apply keeps_setEntry | apply keeps_modCh | apply keeps_flag
    | dsimp only | simp only [keeps_mk] | split
theorem keeps_applyPattern {z : State} (s : State) (n : Ch) (h val line : Nat) (hs : Keeps z s) :
    Keeps z (State.applyPattern s n h val line) := by
  unfold State.applyPattern
  with_reducible repeat' first | assumption | apply keeps_tblDone | apply keeps_putEff
theorem keeps_applyTile {z : State} (s : State) (n : Ch) (w val line : Nat) (hs : Keeps z s) :
    Keeps z (State.applyTile s n w val line) := by
  unfold State.applyTile
  with_reducible repeat' first | assumption | apply keeps_tblDone | apply keeps_putEff
theorem keeps_editLive {z : State} (s : State) (n : Ch) (hs : Keeps z s) : Keeps z (State.editLive s n) := by
  unfold State.editLive
  with_reducible repeat' first | assumption | apply keeps_put

/-! ### Levelling -/

theorem keeps_slotClear {z : State} (s : State) (n : Ch) (sl : Nat) (hs : Keeps z s) :
    Keeps z (State.slotClear s n sl) := by
  unfold State.slotClear
  with_reducible repeat' first | assumption | apply keeps_clearAll
theorem keeps_slotForget {z : State} (s : State) (n : Ch) (sl : Nat) (hs : Keeps z s) :
    Keeps z (State.slotForget s n sl) := by
  unfold State.slotForget
  with_reducible repeat' first | assumption | apply keeps_slotClear | apply keeps_modDrive | apply keeps_unflag
theorem keeps_slotWrite {z : State} (s : State) (n : Ch) (sl w data : Nat) (hs : Keeps z s) :
    Keeps z (State.slotWrite s n sl w data) := by
  unfold State.slotWrite
  with_reducible repeat' first
    | assumption | apply keeps_slotForget | apply keeps_unflag | apply keeps_put | dsimp only | simp only [keeps_mk]
    | (refine keeps_foldl _ (fun t x ht => ?_) _ ?_) | (refine keeps_foldl_fst _ (fun t x ht => ?_) _ ?_) | split
theorem keeps_runRail {z : State} (s : State) (n : Ch) (l : Line) (use sigma : Nat) (w : Bool) (hs : Keeps z s) :
    Keeps z (State.runRail s n l use sigma w) := by
  unfold State.runRail
  with_reducible repeat' first | assumption | apply keeps_planRail
theorem keeps_fireRails {z : State} (s0 : State) (n : Ch) (l : Line) (runs : Bool) (hs0 : Keeps z s0) :
    Keeps z (State.fireRails s0 n l runs) := by
  unfold State.fireRails
  with_reducible repeat' first
    | assumption | apply keeps_runRail | apply keeps_emit | apply keeps_put | dsimp only | simp only [keeps_mk] | split
theorem keeps_prechargeStart {z : State} (s : State) (n : Ch) (hs : Keeps z s) : Keeps z (State.prechargeStart s n) := by
  unfold State.prechargeStart
  with_reducible repeat' first | assumption | apply keeps_switchSent | apply keeps_modDrive | apply keeps_flag
theorem keeps_switchCheck {z : State} (s : State) (n : Ch) (hs : Keeps z s) : Keeps z (State.switchCheck s n) := by
  unfold State.switchCheck
  with_reducible repeat' first | assumption | apply keeps_modDrive
theorem keeps_switchPass {z : State} (s : State) (n : Ch) (hs : Keeps z s) : Keeps z (State.switchPass s n) := by
  unfold State.switchPass
  with_reducible repeat' first | assumption | apply keeps_prechargeStart | dsimp only | simp only [keeps_mk] | split
theorem keeps_balance {z : State} (s : State) (n : Ch) (errs : List Int) (hs : Keeps z s) :
    Keeps z (State.balance s n errs) := by
  unfold State.balance
  with_reducible repeat' first
    | assumption | apply keeps_emit | apply keeps_putB | apply keeps_flag | apply keeps_put | dsimp only | simp only [keeps_mk]
    | (refine keeps_foldl _ (fun t x ht => ?_) _ ?_) | (refine keeps_foldl_fst _ (fun t x ht => ?_) _ ?_) | split
theorem keeps_resFault {z : State} (s : State) (n : Ch) (hs : Keeps z s) : Keeps z (State.resFault s n) := by
  unfold State.resFault
  with_reducible repeat' first | assumption | apply keeps_retire | apply keeps_emcyMsg | apply keeps_flag
theorem keeps_railDrop {z : State} (s : State) (n : Ch) (delay : Nat) (hs : Keeps z s) :
    Keeps z (State.railDrop s n delay) := by
  unfold State.railDrop
  with_reducible repeat' first
    | assumption | apply keeps_dropInProgress | apply keeps_release | apply keeps_rampRails | apply keeps_modDrive | dsimp only
    | simp only [keeps_mk] | split
theorem keeps_overcurrent {z : State} (s : State) (n : Ch) (w : Bool) (hs : Keeps z s) :
    Keeps z (State.overcurrent s n w) := by
  unfold State.overcurrent
  with_reducible repeat' first
    | assumption | apply keeps_railDrop | apply keeps_retire | apply keeps_emcyMsg | apply keeps_modDrive | apply keeps_putPair
    | apply keeps_bump | apply keeps_flag | dsimp only | simp only [keeps_mk] | split
theorem keeps_levelLive {z : State} (s : State) (n : Ch) (hs : Keeps z s) : Keeps z (State.levelLive s n) := by
  unfold State.levelLive
  with_reducible repeat' first | assumption | apply keeps_put

/-! ### Link -/

theorem keeps_queueCtl {z : State} (s : State) (n : Ch) (id : Nat) (f : Frame) (hs : Keeps z s) :
    Keeps z (State.queueCtl s n id f) := by
  unfold State.queueCtl
  with_reducible repeat' first | assumption | apply keeps_pump | apply keeps_linkTick | apply keeps_modLink
theorem keeps_abandonLine {z : State} (s : State) (n : Ch) (k : Nat) (hs : Keeps z s) :
    Keeps z (State.abandonLine s n k) := by
  unfold State.abandonLine
  with_reducible repeat' first | assumption | apply keeps_cutFrame | apply keeps_modLine | apply keeps_modLink
theorem keeps_lineFail {z : State} (s : State) (n : Ch) (k i : Nat) (hs : Keeps z s) :
    Keeps z (State.lineFail s n k i) := by
  unfold State.lineFail
  with_reducible repeat' first
    | assumption | apply keeps_modFrame | apply keeps_abandonLine | apply keeps_modLine | dsimp only | simp only [keeps_mk]
    | split
theorem keeps_txFail {z : State} (s : State) (n : Ch) (t : Tx) (hs : Keeps z s) : Keeps z (State.txFail s n t) := by
  unfold State.txFail
  with_reducible repeat' first
    | assumption | apply keeps_lineFail | apply keeps_pump | apply keeps_modLink | dsimp only | simp only [keeps_mk] | split
theorem keeps_takeTx {z s s0 : State} {n : Ch} {q late : Nat} {t : Tx} (hs : Keeps z s) (e : s.takeTx n q late = some (s0, t)) : Keeps z s0 := by
  unfold State.takeTx at e
  obtain ⟨x, -, h⟩ := Option.map_eq_some_iff.mp e
  cases h
  exact keeps_modLink _ _ _ (keeps_linkTick _ _ (keeps_at _ _ (keeps_linkTick _ _ hs)))
theorem keeps_sendTable {z : State} (s : State) (n : Ch) (sl : Nat) (hs : Keeps z s) :
    Keeps z (State.sendTable s n sl) := by
  unfold State.sendTable
  with_reducible repeat' first | assumption | apply keeps_queueCtl | dsimp only | simp only [keeps_mk] | split
theorem keeps_trainBegin {z : State} (s : State) (n : Ch) (st : LinkState) (hs : Keeps z s) :
    Keeps z (State.trainBegin s n st) := by
  unfold State.trainBegin
  with_reducible repeat' first | assumption | apply keeps_modLink | apply keeps_emit
theorem keeps_tsr {z : State} (s : State) (n : Ch) (ver cap : Nat) (hs : Keeps z s) : Keeps z (State.tsr s n ver cap) := by
  unfold State.tsr
  with_reducible repeat' first
    | assumption | apply keeps_queueCtl | apply keeps_modLink | apply keeps_emit | apply keeps_put | dsimp only
    | simp only [keeps_mk] | (refine keeps_foldl _ (fun t x ht => ?_) _ ?_) | (refine keeps_foldl_fst _ (fun t x ht => ?_) _ ?_)
    | split
theorem keeps_trainCheck {z : State} (s : State) (n : Ch) (hs : Keeps z s) : Keeps z (State.trainCheck s n) := by
  unfold State.trainCheck
  with_reducible repeat' first
    | assumption | apply keeps_retrain | apply keeps_condOff | apply keeps_modLink | dsimp only | simp only [keeps_mk] | split
theorem keeps_retrain {z : State} (s : State) (n : Ch) (hs : Keeps z s) : Keeps z (State.retrain s n) := by
  unfold State.retrain
  with_reducible repeat' first
    | assumption | apply keeps_trainBegin | apply keeps_retire | apply keeps_release | apply keeps_modLink | apply keeps_bump
    | dsimp only | simp only [keeps_mk] | split
theorem keeps_linkLoss {z : State} (s : State) (n : Ch) (hs : Keeps z s) : Keeps z (State.linkLoss s n) := by
  unfold State.linkLoss
  with_reducible repeat' first
    | assumption | apply keeps_retrain | apply keeps_epochLose | apply keeps_condOn | apply keeps_emcyMsg | apply keeps_flag
    | dsimp only | simp only [keeps_mk] | split
theorem keeps_feGo {z : State} (s : State) (n : Ch) (a : FeAcc) (hs : Keeps z s) : Keeps z (State.feGo s n a) := by
  unfold State.feGo
  with_reducible repeat' first | assumption | apply keeps_queueCtl | apply keeps_modLink | apply keeps_flag
theorem keeps_feStart {z : State} (s : State) (n : Ch) (addr val : Nat) (write : Bool) (use : FeFor) (hs : Keeps z s) :
    Keeps z (State.feStart s n addr val write use) := by
  unfold State.feStart
  with_reducible repeat' first | assumption | apply keeps_feGo | apply keeps_modLink | dsimp only | simp only [keeps_mk] | split
theorem keeps_feOver {z : State} (s : State) (n : Ch) (failed : Bool) (hs : Keeps z s) :
    Keeps z (State.feOver s n failed) := by
  unfold State.feOver
  with_reducible repeat' first
    | assumption | apply keeps_feGo | apply keeps_linkTick | apply keeps_modLink | apply keeps_unflag | apply keeps_flag
    | dsimp only | simp only [keeps_mk] | split
theorem keeps_feTell {z : State} (s : State) (a : FeAcc) (f : State → Port → State) (hs : Keeps z s)
    (hf : ∀ (t : State) (p : Port), Keeps z t → Keeps z (f t p)) : Keeps z (s.feTell a f) := by
  unfold State.feTell
  split
  · exact hf _ _ hs
  · exact hs
theorem keeps_ackTx {z : State} (s : State) (n : Ch) (q : Nat) (hs : Keeps z s) : Keeps z (State.ackTx s n q) := by
  unfold State.ackTx
  with_reducible repeat' first
    | intro x0 x1 h0 | assumption | apply keeps_modFrame | apply keeps_feTell | apply keeps_feOver | apply keeps_trainCheck
    | apply keeps_pump | apply keeps_modLine | apply keeps_answer | apply keeps_modLink | dsimp only | simp only [keeps_mk]
    | split | exact keeps_takeTx hs ‹_›
theorem keeps_nakTx {z : State} (s : State) (n : Ch) (q : Nat) (hs : Keeps z s) : Keeps z (State.nakTx s n q) := by
  unfold State.nakTx
  with_reducible repeat' first
    | assumption | apply keeps_txFail | apply keeps_modLink | dsimp only | simp only [keeps_mk] | split
    | exact keeps_takeTx hs ‹_›
theorem keeps_txTimeout {z : State} (s : State) (n : Ch) (q : Nat) (hs : Keeps z s) : Keeps z (State.txTimeout s n q) := by
  unfold State.txTimeout
  with_reducible repeat' first
    | assumption | apply keeps_linkLoss | apply keeps_txFail | apply keeps_modLink | apply keeps_bump | dsimp only
    | simp only [keeps_mk] | split | exact keeps_takeTx hs ‹_›
theorem keeps_feFail {z : State} (s : State) (n : Ch) (hs : Keeps z s) : Keeps z (State.feFail s n) := by
  unfold State.feFail
  with_reducible repeat' first
    | intro x0 x1 h0 | assumption | apply keeps_feTell | apply keeps_feOver | apply keeps_answer | dsimp only
    | simp only [keeps_mk] | split
theorem keeps_stat {z : State} (s : State) (n : Ch) (addr val : Nat) (hs : Keeps z s) :
    Keeps z (State.stat s n addr val) := by
  unfold State.stat
  with_reducible repeat' first
    | assumption | apply keeps_feOver | apply keeps_answerData | apply keeps_modCan | apply keeps_put | dsimp only
    | simp only [keeps_mk] | split
theorem keeps_ferr {z : State} (s : State) (n : Ch) (code tag : Nat) (hs : Keeps z s) :
    Keeps z (State.ferr s n code tag) := by
  unfold State.ferr
  with_reducible repeat' first
    | assumption | apply keeps_emcyMsg | apply keeps_flagBump | apply keeps_put | dsimp only | simp only [keeps_mk] | split
theorem keeps_sendLatch {z : State} (s : State) (n : Ch) (l : Line) (null : Bool) (hs : Keeps z s) :
    Keeps z (State.sendLatch s n l null) := by
  unfold State.sendLatch
  with_reducible repeat' first | assumption | apply keeps_pump | apply keeps_linkTick | apply keeps_modCh | apply keeps_emit
theorem keeps_latchNext {z : State} (s : State) (n : Ch) (tick : Nat) (hs : Keeps z s) :
    Keeps z (State.latchNext s n tick) := by
  unfold State.latchNext
  with_reducible repeat' first | assumption | apply keeps_sendLatch | dsimp only | simp only [keeps_mk] | split
theorem keeps_lackLine {z : State} (s : State) (n : Ch) (tag : Nat) (empty : Bool) (hs : Keeps z s) :
    Keeps z (State.lackLine s n tag empty) := by
  unfold State.lackLine
  with_reducible repeat' first | assumption | apply keeps_modCh
theorem keeps_linkCheck {z : State} (s : State) (n : Ch) (sl : Nat) (hs : Keeps z s) :
    Keeps z (State.linkCheck s n sl).1 := by
  unfold State.linkCheck
  with_reducible repeat' first | assumption | apply keeps_put
theorem keeps_linkLive {z : State} (s : State) (n : Ch) (hs : Keeps z s) : Keeps z (State.linkLive s n) := by
  unfold State.linkLive
  with_reducible repeat' first | assumption | apply keeps_put
theorem keeps_linkApply {z : State} (n : Ch) (addr data : Nat) (s : State) (hs : Keeps z s) :
    Keeps z (linkApply n addr data s) := by
  unfold linkApply
  with_reducible repeat' first
    | assumption | apply keeps_feStart | apply keeps_trainBegin | apply keeps_writeWord | dsimp only | simp only [keeps_mk]
    | split

/-! ### Health -/

theorem keeps_learnTake {z : State} (s : State) (n : Ch) (row : Nat) (smp : List Int) (hs : Keeps z s) :
    Keeps z (State.learnTake s n row smp) := by
  unfold State.learnTake
  with_reducible repeat' first
    | assumption | apply keeps_modHealth | apply keeps_flag | apply keeps_put | dsimp only | simp only [keeps_mk] | split
theorem keeps_captureEnd {z : State} (s : State) (n : Ch) (samples : List Int) (hs : Keeps z s) :
    Keeps z (State.captureEnd s n samples) := by
  unfold State.captureEnd
  with_reducible repeat' first
    | assumption | apply keeps_learnTake | apply keeps_modHealth | apply keeps_flagBump | apply keeps_bump | dsimp only
    | simp only [keeps_mk] | split
theorem keeps_senseResult {z : State} (s : State) (n : Ch) (hs : Keeps z s) : Keeps z (State.senseResult s n) := by
  unfold State.senseResult
  with_reducible repeat' first
    | assumption | apply keeps_modHealth | apply keeps_flagBump | dsimp only | simp only [keeps_mk] | split
theorem keeps_senseOpen {z : State} (s : State) (n : Ch) (l : Line) (i : Nat) (hs : Keeps z s) :
    Keeps z (State.senseOpen s n l i) := by
  unfold State.senseOpen
  with_reducible repeat' first | assumption | apply keeps_modHealth
theorem keeps_learnStart {z : State} (s : State) (n : Ch) (rows : Nat) (hs : Keeps z s) :
    Keeps z (State.learnStart s n rows) := by
  unfold State.learnStart
  with_reducible repeat' first | assumption | apply keeps_modHealth | apply keeps_put
theorem keeps_sigStep {z : State} (s : State) (n : Ch) (hs : Keeps z s) : Keeps z (State.sigStep s n) := by
  unfold State.sigStep
  with_reducible repeat' first | assumption | apply keeps_put
theorem keeps_sigLen {z : State} (s : State) (n : Ch) (row len : Nat) (hs : Keeps z s) :
    Keeps z (State.sigLen s n row len) := by
  unfold State.sigLen
  with_reducible repeat' first | assumption | apply keeps_modHealth | apply keeps_put
theorem keeps_sigSample {z : State} (s : State) (n : Ch) (row i : Nat) (x : Int) (hs : Keeps z s) :
    Keeps z (State.sigSample s n row i x) := by
  unfold State.sigSample
  with_reducible repeat' first | assumption | apply keeps_modHealth | apply keeps_put
theorem keeps_sigWrite {z : State} (s : State) (n : Ch) (v : Nat) (hs : Keeps z s) : Keeps z (State.sigWrite s n v) := by
  unfold State.sigWrite
  with_reducible repeat' first
    | assumption | apply keeps_sigSample | apply keeps_sigLen | apply keeps_sigStep | dsimp only | simp only [keeps_mk] | split
theorem keeps_stripHit {z : State} (s : State) (n : Ch) (h : Hit) (hs : Keeps z s) : Keeps z (State.stripHit s n h) := by
  unfold State.stripHit
  with_reducible repeat' first
    | assumption | apply keeps_modHealth | apply keeps_putPair | apply keeps_flagBump | apply keeps_flag | dsimp only
    | simp only [keeps_mk] | split
theorem keeps_stripDecided {z : State} (s : State) (n : Ch) (k : Nat) (hs : Keeps z s) :
    Keeps z (State.stripDecided s n k) := by
  unfold State.stripDecided
  with_reducible repeat' first
    | assumption | apply keeps_modHealth | apply keeps_bump | apply keeps_unflag | dsimp only | simp only [keeps_mk] | split
theorem keeps_stripCancel {z : State} (s : State) (n : Ch) (hs : Keeps z s) : Keeps z (State.stripCancel s n) := by
  unfold State.stripCancel
  with_reducible repeat' first
    | assumption | apply keeps_modHealth | apply keeps_unflag | dsimp only | simp only [keeps_mk] | split
theorem keeps_stripSeen {z : State} (s : State) (hs : Keeps z s) : Keeps z (State.stripSeen s) := by
  unfold State.stripSeen
  with_reducible repeat' first | assumption | apply keeps_put
theorem keeps_stripIgnored {z : State} (s : State) (hs : Keeps z s) : Keeps z (State.stripIgnored s) := by
  unfold State.stripIgnored
  with_reducible repeat' first | assumption | apply keeps_put
theorem keeps_stripFrame {z : State} (s : State) (c : Nat) (f : CamFrame) (px : List (Nat × List (Nat × Nat × Nat))) (lines : Nat) (hs : Keeps z s) :
    Keeps z (State.stripFrame s c f px lines) := by
  unfold State.stripFrame
  with_reducible repeat' first
    | assumption | apply keeps_stripIgnored | apply keeps_modHealth | dsimp only | simp only [keeps_mk]
    | (refine keeps_foldl _ (fun t x ht => ?_) _ ?_) | (refine keeps_foldl_fst _ (fun t x ht => ?_) _ ?_)
    | refine keeps_forCh _ _ ?_ (fun n t ht => ?_) | split
theorem keeps_stitchReport {z : State} (s : State) (n : Ch) (hs : Keeps z s) : Keeps z (State.stitchReport s n) := by
  unfold State.stitchReport
  with_reducible repeat' first | assumption | apply keeps_put | dsimp only | simp only [keeps_mk] | split
theorem keeps_stripReport {z : State} (s : State) (n : Ch) (j : StripJob) (dots : List StripDot) (rowX : List Int) (shift : Int) (hs : Keeps z s) :
    Keeps z (State.stripReport s n j dots rowX shift) := by
  unfold State.stripReport
  with_reducible repeat' first
    | assumption | apply keeps_stitchReport | apply keeps_modHealth | apply keeps_put | dsimp only | simp only [keeps_mk]
    | (refine keeps_foldl _ (fun t x ht => ?_) _ ?_) | (refine keeps_foldl_fst _ (fun t x ht => ?_) _ ?_)
    | refine keeps_forCh _ _ ?_ (fun n t ht => ?_) | split
theorem keeps_stripAnalysis {z : State} (s : State) (n : Ch) (par : Option Nat) (hs : Keeps z s) :
    Keeps z (State.stripAnalysis s n par) := by
  unfold State.stripAnalysis
  with_reducible repeat' first
    | assumption | apply keeps_stripReport | apply keeps_stripIgnored | apply keeps_stripSeen | apply keeps_closureTouch
    | apply keeps_parityNote | apply keeps_modHealth | dsimp only | simp only [keeps_mk] | split
theorem keeps_setEvid {z : State} (s : State) (n : Ch) (e : Evid) (hs : Keeps z s) : Keeps z (State.setEvid s n e) := by
  unfold State.setEvid
  with_reducible repeat' first | assumption | apply keeps_modHealth
theorem keeps_devUpdate {z : State} (s : State) (n : Ch) (i : Nat) (e : Evid) (hs : Keeps z s) :
    Keeps z (State.devUpdate s n i e) := by
  unfold State.devUpdate
  with_reducible repeat' first | assumption | apply keeps_modHealth | dsimp only | simp only [keeps_mk] | split
theorem keeps_decideGroup {z : State} (s : State) (n : Ch) (g : List VWrite) (hs : Keeps z s) :
    Keeps z (State.decideGroup s n g) := by
  unfold State.decideGroup
  with_reducible repeat' first | assumption | apply keeps_modHealth | apply keeps_incr
theorem keeps_rejudge {z : State} (s : State) (n : Ch) (i why : Nat) (hs : Keeps z s) :
    Keeps z (State.rejudge s n i why) := by
  unfold State.rejudge
  with_reducible repeat' first
    | assumption | apply keeps_decideGroup | apply keeps_devUpdate | dsimp only | simp only [keeps_mk] | split
theorem keeps_maskedVerdict {z : State} (s : State) (n : Ch) (i : Nat) (hs : Keeps z s) :
    Keeps z (State.maskedVerdict s n i) := by
  unfold State.maskedVerdict
  with_reducible repeat' first | assumption | apply keeps_decideGroup | dsimp only | simp only [keeps_mk] | split
theorem keeps_closureObservation {z : State} (s : State) (n : Ch) (hs : Keeps z s) :
    Keeps z (State.closureObservation s n) := by
  unfold State.closureObservation
  with_reducible repeat' first
    | assumption | apply keeps_Blk_live | apply keeps_maskedVerdict | apply keeps_rejudge | apply keeps_devUpdate
    | apply keeps_setEvid | apply keeps_modHealth | dsimp only | simp only [keeps_mk] | split
theorem keeps_verdictNote {z : State} (s : State) (n : Ch) (i line old new why : Nat) (hs : Keeps z s) :
    Keeps z (State.verdictNote s n i line old new why) := by
  unfold State.verdictNote
  with_reducible repeat' first | assumption | apply keeps_cause | apply keeps_incr | dsimp only | simp only [keeps_mk]
theorem keeps_applyClosure {z : State} (s : State) (n : Ch) (i mask val line why : Nat) (hs : Keeps z s) :
    Keeps z (State.applyClosure s n i mask val line why).1 := by
  unfold State.applyClosure
  with_reducible repeat' first
    | assumption | apply keeps_verdictNote | apply keeps_tblDone | apply keeps_setEntry | dsimp only | simp only [keeps_mk]
    | split
theorem keeps_resultLatch {z : State} (s : State) (n : Ch) (hs : Keeps z s) : Keeps z (State.resultLatch s n) := by
  unfold State.resultLatch
  with_reducible repeat' first
    | assumption | apply keeps_put | dsimp only | simp only [keeps_mk] | (refine keeps_foldl _ (fun t x ht => ?_) _ ?_)
    | (refine keeps_foldl_fst _ (fun t x ht => ?_) _ ?_) | split
theorem keeps_healthApply {z : State} (n : Ch) (addr data : Nat) (s : State) (hs : Keeps z s) :
    Keeps z (healthApply n addr data s) := by
  unfold healthApply
  with_reducible repeat' first
    | assumption | apply keeps_stripCancel | apply keeps_sigWrite | apply keeps_learnStart | apply keeps_writeWord | dsimp only
    | simp only [keeps_mk] | split

/-! ### Camera -/

theorem keeps_half {z : State} (s : State) (f : Fld) (hi : Bool) (hs : Keeps z s) : Keeps z (State.half s f hi) := by
  unfold State.half
  with_reducible repeat' first | assumption | apply keeps_put | dsimp only | simp only [keeps_mk] | split
theorem keeps_unclaimed {z : State} (s : State) (p : Nat) (hs : Keeps z s) : Keeps z (State.unclaimed s p) := by
  unfold State.unclaimed
  with_reducible repeat' first | assumption | apply keeps_half | dsimp only | simp only [keeps_mk] | split
theorem keeps_modFrame {z : State} (s : State) (c id : Nat) (f : CamFrame → CamFrame) (hs : Keeps z s) :
    Keeps z (State.modFrame s c id f) := by
  unfold State.modFrame
  with_reducible repeat' first | assumption | apply keeps_modCam
theorem keeps_snapDone {z : State} (s : State) (flagged : Bool) (hs : Keeps z s) : Keeps z (State.snapDone s flagged) := by
  unfold State.snapDone
  with_reducible repeat' first | assumption | dsimp only | simp only [keeps_mk]
theorem keeps_closeFrame {z : State} (s : State) (c extra : Nat) (hs : Keeps z s) :
    Keeps z (State.closeFrame s c extra) := by
  unfold State.closeFrame
  with_reducible repeat' first
    | assumption | apply keeps_snapDone | apply keeps_modFrame | dsimp only | simp only [keeps_mk] | split
theorem keeps_modPort {z : State} (s : State) (p : Nat) (f : CamPort → CamPort) (hs : Keeps z s) :
    Keeps z (State.modPort s p f) := by
  unfold State.modPort
  with_reducible repeat' first | assumption | dsimp only | simp only [keeps_mk]
theorem keeps_headerIn {z : State} (s : State) (p : Nat) (ecc : Bool) (hs : Keeps z s) :
    Keeps z (State.headerIn s p ecc) := by
  unfold State.headerIn
  with_reducible repeat' first | assumption | apply keeps_modPort | apply keeps_half | dsimp only | simp only [keeps_mk] | split
theorem keeps_bankParity {z : State} (s : State) (c : Nat) (ofs : Option Nat) (hs : Keeps z s) :
    Keeps z (State.bankParity s c ofs) := by
  unfold State.bankParity
  with_reducible repeat' first
    | assumption | apply keeps_parityNote | apply keeps_modCam | dsimp only | simp only [keeps_mk] | split
theorem keeps_frameStart {z : State} (s0 : State) (p vc : Nat) (bank : Option Nat) (hs0 : Keeps z s0) :
    Keeps z (State.frameStart s0 p vc bank) := by
  unfold State.frameStart
  with_reducible repeat' first
    | assumption | apply keeps_bankParity | apply keeps_closeFrame | apply keeps_unclaimed | apply keeps_sliceTouch
    | apply keeps_modCam | apply keeps_incr | dsimp only | simp only [keeps_mk] | split
theorem keeps_longPacket {z : State} (s : State) (p vc dt : Nat) (bytes : List Byte) (crcOk : Bool) (hs : Keeps z s) :
    Keeps z (State.longPacket s p vc dt bytes crcOk) := by
  unfold State.longPacket
  with_reducible repeat' first
    | assumption | apply keeps_modPort | apply keeps_modFrame | apply keeps_unclaimed | apply keeps_half | apply keeps_incr
    | apply keeps_put | dsimp only | simp only [keeps_mk] | split
theorem keeps_frameEnd {z : State} (s : State) (p vc : Nat) (hs : Keeps z s) : Keeps z (State.frameEnd s p vc) := by
  unfold State.frameEnd
  with_reducible repeat' first
    | assumption | apply keeps_closeFrame | apply keeps_unclaimed | dsimp only | simp only [keeps_mk] | split
theorem keeps_frameTimeout {z : State} (s : State) (c : Nat) (hs : Keeps z s) : Keeps z (State.frameTimeout s c) := by
  unfold State.frameTimeout
  with_reducible repeat' first | assumption | apply keeps_closeFrame | dsimp only | simp only [keeps_mk] | split
theorem keeps_badHeader {z : State} (s : State) (p : Nat) (hs : Keeps z s) : Keeps z (State.badHeader s p) := by
  unfold State.badHeader
  with_reducible repeat' first
    | assumption | apply keeps_half | apply keeps_modCam | dsimp only | simp only [keeps_mk]
    | (refine keeps_foldl _ (fun t x ht => ?_) _ ?_) | (refine keeps_foldl_fst _ (fun t x ht => ?_) _ ?_) | split
theorem keeps_lineOut {z : State} (s : State) (l : CamLine) (f : CamFrame) (px : List (Nat × Nat × Nat)) (hs : Keeps z s) :
    Keeps z (State.lineOut s l f px) := by
  unfold State.lineOut
  with_reducible repeat' first
    | assumption | apply keeps_snapDone | apply keeps_closureTouch | apply keeps_sliceTouch | apply keeps_modCam | dsimp only
    | simp only [keeps_mk] | split
theorem keeps_curvesTouch {z : State} (s : State) (c en : Nat) (hs : Keeps z s) : Keeps z (State.curvesTouch s c en) := by
  unfold State.curvesTouch
  with_reducible repeat' first
    | assumption | apply keeps_sliceTouch | dsimp only | simp only [keeps_mk] | (refine keeps_foldl _ (fun t x ht => ?_) _ ?_)
    | (refine keeps_foldl_fst _ (fun t x ht => ?_) _ ?_) | split
theorem keeps_pipelineLine {z : State} (s : State) (par : Option Nat) (hs : Keeps z s) :
    Keeps z (State.pipelineLine s par) := by
  unfold State.pipelineLine
  with_reducible repeat' first
    | assumption | apply keeps_curvesTouch | apply keeps_lineOut | apply keeps_bankParity | apply keeps_modPort
    | apply keeps_modFrame | apply keeps_parityNote | dsimp only | simp only [keeps_mk] | split
theorem keeps_frameComplete {z : State} (s : State) (c : Nat) (hs : Keeps z s) : Keeps z (State.frameComplete s c) := by
  unfold State.frameComplete
  with_reducible repeat' first
    | assumption | apply keeps_stripFrame | apply keeps_pulse | apply keeps_modCam | apply keeps_incr | apply keeps_put
    | dsimp only | simp only [keeps_mk] | split
theorem keeps_captureSink {z : State} (s : State) (c : Nat) (hs : Keeps z s) : Keeps z (State.captureSink s c) := by
  unfold State.captureSink
  with_reducible repeat' first
    | assumption | apply keeps_modPort | apply keeps_modCam | apply keeps_emit | dsimp only | simp only [keeps_mk] | split
theorem keeps_trigEnd {z : State} (s : State) (p : Nat) (hs : Keeps z s) : Keeps z (State.trigEnd s p) := by
  unfold State.trigEnd
  with_reducible repeat' first | assumption | apply keeps_modPort | apply keeps_emit | dsimp only | simp only [keeps_mk] | split
theorem keeps_snapArm {z : State} (s : State) (v : Nat) (hs : Keeps z s) : Keeps z (State.snapArm s v) := by
  unfold State.snapArm
  with_reducible repeat' first | assumption | dsimp only | simp only [keeps_mk] | split
theorem keeps_curveStep {z : State} (s : State) (c : Nat) (hs : Keeps z s) : Keeps z (State.curveStep s c) := by
  unfold State.curveStep
  with_reducible repeat' first | assumption | apply keeps_put
theorem keeps_curveWrite {z : State} (s : State) (c v : Nat) (hs : Keeps z s) : Keeps z (State.curveWrite s c v) := by
  unfold State.curveWrite
  with_reducible repeat' first | assumption | apply keeps_curveStep | apply keeps_sliceTouch | apply keeps_modCam
theorem keeps_contextOff {z : State} (s : State) (c : Nat) (hs : Keeps z s) : Keeps z (State.contextOff s c) := by
  unfold State.contextOff
  with_reducible repeat' first | assumption | apply keeps_closeFrame | apply keeps_modCam | apply keeps_put

end Sys2Proof.Machine
end

