-- ==== Sys2Proof/Laws/KeepsDevice.lean ====
section
/-! SUPPORT. What the operations keep, further: the DMA engine, OTP, thermal, channels, protection, power, blocks and the object store. -/
namespace Sys2Proof.Machine

/-! ### Engine -/

theorem keeps_dmaArm {z : State} (s : State) (d : Dch) (hs : Keeps z s) : Keeps z (State.dmaArm s d) := by
  unfold State.dmaArm
  with_reducible repeat' first
    | assumption | apply keeps_dmaEnd | apply keeps_modDma | apply keeps_flag | apply keeps_put | dsimp only
    | simp only [keeps_mk] | split
theorem keeps_handover {z : State} (s : State) (d : Dch) (hs : Keeps z s) : Keeps z (State.handover s d) := by
  unfold State.handover
  with_reducible repeat' first
    | assumption | apply keeps_dmaEndIf | apply keeps_modDma | apply keeps_putPair | apply keeps_incr | apply keeps_putB
    | apply keeps_unflag | apply keeps_put | dsimp only | simp only [keeps_mk] | split
theorem keeps_dmaTrigger {z : State} (s : State) (d : Dch) (hs : Keeps z s) : Keeps z (State.dmaTrigger s d) := by
  unfold State.dmaTrigger
  with_reducible repeat' first | assumption | apply keeps_modDma | apply keeps_flag | dsimp only | simp only [keeps_mk] | split
theorem keeps_grantTo {z : State} (s : State) (d : Dch) (hs : Keeps z s) : Keeps z (State.grantTo s d) := by
  unfold State.grantTo
  with_reducible repeat' first
    | assumption | apply keeps_fin | apply keeps_issueDue | apply keeps_dmaError | apply keeps_modDma | apply keeps_put
    | dsimp only | simp only [keeps_mk] | split
theorem keeps_grant {z : State} (s0 : State) (hs0 : Keeps z s0) : Keeps z (State.grant s0) := by
  unfold State.grant
  with_reducible repeat' first
    | assumption | apply keeps_grantTo | apply keeps_issueDue | dsimp only | simp only [keeps_mk] | split
theorem keeps_dmaCount {z : State} (s : State) (d : Dch) (dst k : Nat) (hs : Keeps z s) :
    Keeps z (State.dmaCount s d dst k) := by
  unfold State.dmaCount
  with_reducible repeat' first | assumption | apply keeps_incrBy | dsimp only | simp only [keeps_mk] | split
theorem keeps_dmaWriteOut {z : State} (s : State) (d : Dch) (x : Xfer) (sp : Option SPort) (bs : List Byte) (hs : Keeps z s) :
    Keeps z (State.dmaWriteOut s d x sp bs) := by
  unfold State.dmaWriteOut
  with_reducible repeat' first
    | assumption | apply keeps_queuePush | apply keeps_spBoth | apply keeps_put | dsimp only | simp only [keeps_mk] | split
theorem keeps_dmaNow {z : State} (s0 : State) (d : Dch) (hs0 : Keeps z s0) : Keeps z (State.dmaNow s0 d) := by
  unfold State.dmaNow
  with_reducible repeat' first
    | assumption | apply keeps_dmaTick | apply keeps_issueDue | dsimp only | simp only [keeps_mk] | split
theorem keeps_dmaPlace {z : State} (s : State) (full : Bool) (hs : Keeps z s) : Keeps z (State.dmaPlace s full) := by
  unfold State.dmaPlace
  with_reducible repeat' first | assumption | dsimp only | simp only [keeps_mk]
theorem keeps_dmaJunk {z : State} (s : State) (d : Dch) (hs : Keeps z s) : Keeps z (State.dmaJunk s d) := by
  unfold State.dmaJunk
  with_reducible repeat' first | assumption | apply keeps_dmaPlace | apply keeps_modDma
theorem keeps_dmaCompletion {z : State} (s0 : State) (d : Dch) (data : List Byte) (sp : Option SPort) (hs0 : Keeps z s0) :
    Keeps z (State.dmaCompletion s0 d data sp) := by
  unfold State.dmaCompletion
  with_reducible repeat' first
    | assumption | apply keeps_fin | apply keeps_dmaJunk | apply keeps_dmaPlace | apply keeps_dmaNow | apply keeps_dmaWriteOut
    | apply keeps_dmaCount | apply keeps_dmaSettle | apply keeps_modDma | dsimp only | simp only [keeps_mk] | split
theorem keeps_transferDone {z : State} (s : State) (d : Dch) (hs : Keeps z s) : Keeps z (State.transferDone s d) := by
  unfold State.transferDone
  with_reducible repeat' first
    | assumption | apply keeps_fin | apply keeps_dmaCount | apply keeps_dmaFailDue | apply keeps_dmaEndIf | apply keeps_dmaSettle
    | apply keeps_pulse | apply keeps_modDma | dsimp only | simp only [keeps_mk] | split
theorem keeps_dmaReadFail {z : State} (s0 : State) (d : Dch) (hs0 : Keeps z s0) : Keeps z (State.dmaReadFail s0 d) := by
  unfold State.dmaReadFail
  with_reducible repeat' first
    | assumption | apply keeps_dmaJunk | apply keeps_dmaNow | apply keeps_dmaStopIssue | apply keeps_dmaError
    | apply keeps_dmaSettle | apply keeps_modDma | dsimp only | simp only [keeps_mk] | split
theorem keeps_dmaTimeout {z : State} (s0 : State) (d : Dch) (hs0 : Keeps z s0) : Keeps z (State.dmaTimeout s0 d) := by
  unfold State.dmaTimeout
  with_reducible repeat' first
    | assumption | apply keeps_dmaReadFail | apply keeps_dmaNow | apply keeps_at | apply keeps_flag | dsimp only
    | simp only [keeps_mk] | split
theorem keeps_entryFail {z : State} (s : State) (d : Dch) (err : Nat) (hs : Keeps z s) :
    Keeps z (State.entryFail s d err) := by
  unfold State.entryFail
  with_reducible repeat' first
    | assumption | apply keeps_dmaError | apply keeps_modDma | dsimp only | simp only [keeps_mk] | split
theorem keeps_listFetch {z : State} (s0 : State) (d : Dch) (res : FetchRes) (hs0 : Keeps z s0) :
    Keeps z (State.listFetch s0 d res) := by
  unfold State.listFetch
  with_reducible repeat' first
    | assumption | apply keeps_entryFail | apply keeps_dmaTick | apply keeps_modDma | dsimp only | simp only [keeps_mk] | split
theorem keeps_dmaPauseSet {z : State} (s : State) (d : Dch) (on : Bool) (hs : Keeps z s) :
    Keeps z (State.dmaPauseSet s d on) := by
  unfold State.dmaPauseSet
  with_reducible repeat' first
    | assumption | apply keeps_dmaStopIssue | apply keeps_modDma | apply keeps_putB | dsimp only | simp only [keeps_mk] | split
theorem keeps_dmaHold {z : State} (s : State) (hs : Keeps z s) : Keeps z (State.dmaHold s) := by
  unfold State.dmaHold
  with_reducible repeat' first | assumption | apply keeps_modDma | dsimp only | simp only [keeps_mk] | split
theorem keeps_dmaEnSet {z : State} (s : State) (d : Dch) (on : Bool) (hs : Keeps z s) :
    Keeps z (State.dmaEnSet s d on) := by
  unfold State.dmaEnSet
  with_reducible repeat' first
    | assumption | apply keeps_dmaStopIssue | apply keeps_modDma | apply keeps_flagBump | apply keeps_unflag | apply keeps_flag
    | apply keeps_put | dsimp only | simp only [keeps_mk] | split
theorem keeps_dmaRdSet {z : State} (s : State) (d : Dch) (v : Nat) (hs : Keeps z s) : Keeps z (State.dmaRdSet s d v) := by
  unfold State.dmaRdSet
  with_reducible repeat' first
    | assumption | apply keeps_dmaFailDue | apply keeps_dmaEndIf | apply keeps_dmaSettle | apply keeps_modDma | apply keeps_put
    | dsimp only | simp only [keeps_mk] | split
theorem keeps_dmaReset {z : State} (s : State) (hs : Keeps z s) : Keeps z (State.dmaReset s) := by
  unfold State.dmaReset
  with_reducible repeat' first
    | assumption | apply keeps_dmaSettle | apply keeps_resetAll | apply keeps_put | dsimp only | simp only [keeps_mk]
    | (refine keeps_foldl _ (fun t x ht => ?_) _ ?_)
theorem keeps_dmaLive {z : State} (s : State) (d : Dch) (hs : Keeps z s) : Keeps z (State.dmaLive s d) := by
  unfold State.dmaLive
  with_reducible repeat' first | assumption | apply keeps_put
theorem keeps_engineLive {z : State} (s : State) (hs : Keeps z s) : Keeps z (State.engineLive s) := by
  unfold State.engineLive
  with_reducible repeat' first | assumption | apply keeps_putB | apply keeps_put
theorem keeps_dmaRefused {z : State} (d : Dch) (addr data : Nat) (s : State) (hs : Keeps z s) :
    Keeps z (dmaRefused d addr data s) := by
  unfold dmaRefused
  with_reducible repeat' first | assumption | apply keeps_put | dsimp only | simp only [keeps_mk] | split
theorem keeps_dmaApply {z : State} (d : Dch) (addr data : Nat) (s0 : State) (hs0 : Keeps z s0) :
    Keeps z (dmaApply d addr data s0) := by
  unfold dmaApply
  with_reducible repeat' first
    | assumption | apply keeps_dmaRdSet | apply keeps_dmaEnSet | apply keeps_dmaPauseSet | apply keeps_dmaArm
    | apply keeps_dmaTick | apply keeps_dmaSettle | apply keeps_writeWord | dsimp only | simp only [keeps_mk] | split

/-! ### Otp -/

theorem keeps_setCell {z : State} (s : State) (c : OtpCell) (hs : Keeps z s) : Keeps z (State.setCell s c) := by
  unfold State.setCell
  with_reducible repeat' first | assumption | dsimp only | simp only [keeps_mk]
theorem keeps_modRow {z : State} (s : State) (g : Nat) (f : LockRow → LockRow) (hs : Keeps z s) :
    Keeps z (State.modRow s g f) := by
  unfold State.modRow
  with_reducible repeat' first | assumption | dsimp only | simp only [keeps_mk]
theorem keeps_cutSeen {z : State} (s : State) (r : FuseRun) (b : Blow) (hs : Keeps z s) :
    Keeps z (State.cutSeen s r b) := by
  unfold State.cutSeen
  with_reducible repeat' first | assumption | dsimp only | simp only [keeps_mk] | split
theorem keeps_spareTag {z : State} (s : State) (g k w : Nat) (c : OtpCell) (r : FuseRun) (hs : Keeps z s) :
    Keeps z (State.spareTag s g k w c r).1 := by
  unfold State.spareTag
  with_reducible repeat' first | assumption | apply keeps_cutSeen | apply keeps_modRow | apply keeps_setCell
theorem keeps_spareWrite {z : State} (s : State) (g w k v : Nat) (rd rt : FuseRun) (hs : Keeps z s) :
    Keeps z (State.spareWrite s g w k v rd rt).1 := by
  unfold State.spareWrite
  with_reducible repeat' first
    | assumption | apply keeps_spareTag | apply keeps_cutSeen | apply keeps_setCell | dsimp only | simp only [keeps_mk] | split
theorem keeps_otpWrite {z : State} (s0 : State) (ix v : Nat) (runs : List FuseRun) (hs0 : Keeps z s0) :
    Keeps z (State.otpWrite s0 ix v runs).1 := by
  unfold State.otpWrite
  with_reducible repeat' first
    | assumption | apply keeps_spareWrite | apply keeps_cutSeen | apply keeps_setCell | dsimp only | simp only [keeps_mk] | split
theorem keeps_otpArm {z : State} (s : State) (n : Nat) (g : Nat) (hs : Keeps z s) : Keeps z (State.otpArm s n g).1 := by
  unfold State.otpArm
  with_reducible repeat' first | assumption | dsimp only | simp only [keeps_mk] | split
theorem keeps_otpDisarm {z : State} (s : State) (hs : Keeps z s) : Keeps z (State.otpDisarm s) := by
  unfold State.otpDisarm
  with_reducible repeat' first | assumption | dsimp only | simp only [keeps_mk]
theorem keeps_blowWriteLock {z : State} (s : State) (g : Nat) (run : FuseRun) (hs : Keeps z s) :
    Keeps z (State.blowWriteLock s g run).1 := by
  unfold State.blowWriteLock
  with_reducible repeat' first
    | assumption | apply keeps_otpDisarm | apply keeps_cutSeen | apply keeps_modRow | dsimp only | simp only [keeps_mk] | split
theorem keeps_blowReadLock {z : State} (s : State) (g : Nat) (run : FuseRun) (hs : Keeps z s) :
    Keeps z (State.blowReadLock s g run).1 := by
  unfold State.blowReadLock
  with_reducible repeat' first
    | assumption | apply keeps_otpDisarm | apply keeps_cutSeen | apply keeps_modRow | dsimp only | simp only [keeps_mk] | split
theorem keeps_otpCheck {z : State} (s : State) (hs : Keeps z s) : Keeps z (State.otpCheck s) := by
  unfold State.otpCheck
  with_reducible repeat' first | assumption | apply keeps_put
theorem keeps_otpTouch {z : State} (s : State) (idx sub : Nat) (hs : Keeps z s) : Keeps z (State.otpTouch s idx sub) := by
  unfold State.otpTouch
  with_reducible repeat' first | assumption | apply keeps_otpDisarm | dsimp only | simp only [keeps_mk] | split
theorem keeps_burnKey {z : State} (s : State) (run : FuseRun) (hs : Keeps z s) : Keeps z (State.burnKey s run).1 := by
  unfold State.burnKey
  with_reducible repeat' first
    | assumption | apply keeps_setCell | dsimp only | simp only [keeps_mk] | (refine keeps_foldl _ (fun t x ht => ?_) _ ?_)
    | (refine keeps_foldl_fst _ (fun t x ht => ?_) _ ?_)
theorem keeps_lcBlow {z : State} (s0 : State) (t : Nat) (runs : List FuseRun) (hs0 : Keeps z s0) :
    Keeps z (State.lcBlow s0 t runs).1 := by
  unfold State.lcBlow
  with_reducible repeat' first
    | assumption | apply keeps_burnKey | apply keeps_otpDisarm | apply keeps_cutSeen | apply keeps_modRow | dsimp only
    | simp only [keeps_mk] | (refine keeps_foldl _ (fun t x ht => ?_) _ ?_) | (refine keeps_foldl_fst _ (fun t x ht => ?_) _ ?_)
    | split

/-! ### Thermal -/

theorem keeps_thFlag {z : State} (s : State) (f : Fld) (hs : Keeps z s) : Keeps z (State.thFlag s f) := by
  unfold State.thFlag
  with_reducible repeat' first | assumption | apply keeps_cause | apply keeps_flag
theorem keeps_setTheta {z : State} (s : State) (m : Thi) (v : Nat) (hs : Keeps z s) : Keeps z (State.setTheta s m v) := by
  unfold State.setTheta
  with_reducible repeat' first | assumption | apply keeps_modTh
theorem keeps_goSlow {z : State} (s : State) (m : Thi) (hs : Keeps z s) : Keeps z (State.goSlow s m) := by
  unfold State.goSlow
  with_reducible repeat' first | assumption | apply keeps_modTh | apply keeps_unflag
theorem keeps_trip {z : State} (s : State) (m : Thi) (hs : Keeps z s) : Keeps z (State.trip s m) := by
  unfold State.trip
  with_reducible repeat' first
    | assumption | apply keeps_thFlag | apply keeps_retire | apply keeps_condOn | apply keeps_modDev | apply keeps_modTh
    | apply keeps_bump | apply keeps_flag | dsimp only | simp only [keeps_mk] | split
theorem keeps_dwell {z : State} (s : State) (m : Thi) (code : Int) (hs : Keeps z s) : Keeps z (State.dwell s m code) := by
  unfold State.dwell
  with_reducible repeat' first | assumption | apply keeps_modTh | dsimp only | simp only [keeps_mk] | split
theorem keeps_boardWarn {z : State} (s : State) (m : Thi) (code : Int) (hs : Keeps z s) :
    Keeps z (State.boardWarn s m code) := by
  unfold State.boardWarn
  with_reducible repeat' first | assumption | apply keeps_thFlag | dsimp only | simp only [keeps_mk] | split
theorem keeps_validSample {z : State} (s : State) (m : Thi) (code : Int) (hs : Keeps z s) :
    Keeps z (State.validSample s m code) := by
  unfold State.validSample
  with_reducible repeat' first
    | assumption | apply keeps_boardWarn | apply keeps_trip | apply keeps_goSlow | apply keeps_setTheta | apply keeps_modTh
    | apply keeps_flag | apply keeps_put | dsimp only | simp only [keeps_mk] | split
theorem keeps_badSample {z : State} (s : State) (m : Thi) (diag : Nat) (hs : Keeps z s) :
    Keeps z (State.badSample s m diag) := by
  unfold State.badSample
  with_reducible repeat' first
    | assumption | apply keeps_goSlow | apply keeps_setTheta | apply keeps_thFlag | apply keeps_retire | apply keeps_modTh
    | apply keeps_bump | apply keeps_flag | apply keeps_put | dsimp only | simp only [keeps_mk] | split
theorem keeps_thermalSample {z : State} (s : State) (m : Thi) (c : Conv) (hs : Keeps z s) :
    Keeps z (State.thermalSample s m c) := by
  unfold State.thermalSample
  with_reducible repeat' first
    | assumption | apply keeps_badSample | apply keeps_validSample | apply keeps_boardWarn | apply keeps_dwell
    | apply keeps_goSlow | apply keeps_condOff | apply keeps_modTh | apply keeps_unflag | apply keeps_put | dsimp only
    | simp only [keeps_mk] | split
theorem keeps_typeChanged {z : State} (s : State) (m : Thi) (hs : Keeps z s) : Keeps z (State.typeChanged s m) := by
  unfold State.typeChanged
  with_reducible repeat' first
    | assumption | apply keeps_goSlow | apply keeps_condOff | apply keeps_modTh | apply keeps_unflag | apply keeps_put
    | dsimp only | simp only [keeps_mk] | split
theorem keeps_thermalBoundary {z : State} (s : State) (n : Ch) (cyc : Nat) (hs : Keeps z s) :
    Keeps z (State.thermalBoundary s n cyc).1 := by
  unfold State.thermalBoundary
  with_reducible repeat' first
    | assumption | apply keeps_thFlag | apply keeps_condOff | apply keeps_condOn | apply keeps_modTh | apply keeps_unflag
    | apply keeps_put | dsimp only | simp only [keeps_mk] | split
theorem keeps_tripBack {z : State} (s : State) (k : TripMark) (hs : Keeps z s) : Keeps z (State.tripBack s k) := by
  unfold State.tripBack
  with_reducible repeat' first
    | assumption | apply keeps_modCan | apply keeps_modTh | apply keeps_unflag | apply keeps_flag | apply keeps_put
theorem keeps_tripUndo {z : State} (s : State) (hs : Keeps z s) : Keeps z (State.tripUndo s) := by
  unfold State.tripUndo
  with_reducible repeat' first
    | assumption | apply keeps_tripBack | apply keeps_modDev | dsimp only | simp only [keeps_mk]
    | (refine keeps_foldl _ (fun t x ht => ?_) _ ?_)
theorem keeps_dieTrip {z : State} (s0 : State) (drive : Bool) (hs0 : Keeps z s0) : Keeps z (State.dieTrip s0 drive) := by
  unfold State.dieTrip
  with_reducible repeat' first
    | assumption | apply keeps_tripUndo | apply keeps_thFlag | apply keeps_enterSafe | apply keeps_modDev
theorem keeps_dieClear {z : State} (s : State) (drive : Bool) (hs : Keeps z s) : Keeps z (State.dieClear s drive) := by
  unfold State.dieClear
  with_reducible repeat' first
    | assumption | apply keeps_condOff | apply keeps_modDev | apply keeps_put | dsimp only | simp only [keeps_mk] | split
theorem keeps_dieSample {z : State} (s : State) (drive : Bool) (temp : Int) (hs : Keeps z s) :
    Keeps z (State.dieSample s drive temp) := by
  unfold State.dieSample
  with_reducible repeat' first | assumption | apply keeps_put | dsimp only | simp only [keeps_mk] | split
theorem keeps_thermalLive {z : State} (s : State) (m : Thi) (hs : Keeps z s) : Keeps z (State.thermalLive s m) := by
  unfold State.thermalLive
  with_reducible repeat' first | assumption | apply keeps_put
theorem keeps_thermalApply {z : State} (m : Thi) (addr data : Nat) (s : State) (hs : Keeps z s) :
    Keeps z (thermalApply m addr data s) := by
  unfold thermalApply
  with_reducible repeat' first
    | assumption | apply keeps_typeChanged | apply keeps_writeWord | dsimp only | simp only [keeps_mk] | split

/-! ### Channel -/

theorem keeps_rebaseDrop {z : State} (s : State) (n : Ch) (hs : Keeps z s) : Keeps z (State.rebaseDrop s n) := by
  unfold State.rebaseDrop
  with_reducible repeat' first
    | assumption | apply keeps_epochSet | apply keeps_modTrav | dsimp only | simp only [keeps_mk] | split
theorem keeps_startReport {z : State} (s : State) (n : Ch) (hs : Keeps z s) : Keeps z (State.startReport s n) := by
  unfold State.startReport
  with_reducible repeat' first | assumption | apply keeps_flag | apply keeps_put | dsimp only | simp only [keeps_mk] | split
theorem keeps_pipeStart {z : State} (s : State) (n : Ch) (k : Nat) (hs : Keeps z s) : Keeps z (State.pipeStart s n k) := by
  unfold State.pipeStart
  with_reducible repeat' first | assumption | apply keeps_modHealth | apply keeps_modCh | apply keeps_unflag
theorem keeps_startGo {z : State} (s0 : State) (n : Ch) (hs0 : Keeps z s0) : Keeps z (State.startGo s0 n).1 := by
  unfold State.startGo
  with_reducible repeat' first
    | assumption | apply keeps_pipeStart | apply keeps_rebaseDrop | apply keeps_startLate | apply keeps_epochLose
    | apply keeps_setCh | apply keeps_modTrav | dsimp only | simp only [keeps_mk] | split
theorem keeps_startTry {z : State} (s : State) (n : Ch) (hs : Keeps z s) : Keeps z (State.startTry s n).1 := by
  unfold State.startTry
  with_reducible repeat' first
    | assumption | apply keeps_startGo | apply keeps_startReport | apply keeps_rebaseDrop | apply keeps_flag | apply keeps_put
    | dsimp only | simp only [keeps_mk] | split
theorem keeps_stopDone {z : State} (s : State) (n : Ch) (hs : Keeps z s) : Keeps z (State.stopDone s n) := by
  unfold State.stopDone
  with_reducible repeat' first
    | assumption | apply keeps_dropUndecided | apply keeps_release | apply keeps_setCh | apply keeps_modDrive | dsimp only
    | simp only [keeps_mk] | split
theorem keeps_freshWindows {z : State} (s : State) (n : Ch) (hs : Keeps z s) : Keeps z (State.freshWindows s n) := by
  unfold State.freshWindows
  with_reducible repeat' first | assumption | apply keeps_modCh
theorem keeps_powerCh {z : State} (s : State) (n : Ch) (hs : Keeps z s) : Keeps z (State.powerCh s n) := by
  unfold State.powerCh
  with_reducible repeat' first | assumption | apply keeps_modCh
theorem keeps_readmitGo {z : State} (s : State) (n : Ch) (hs : Keeps z s) : Keeps z (State.readmitGo s n) := by
  unfold State.readmitGo
  with_reducible repeat' first
    | assumption | apply keeps_powerCh | apply keeps_freshWindows | apply keeps_trainBegin | apply keeps_switchCheck
    | apply keeps_setQTag | apply keeps_epochLose | apply keeps_setCh | apply keeps_modCh | dsimp only | simp only [keeps_mk]
    | split
theorem keeps_readmitOrder {z : State} (s : State) (n : Ch) (hs : Keeps z s) : Keeps z (State.readmitOrder s n) := by
  unfold State.readmitOrder
  with_reducible repeat' first | assumption | apply keeps_flag | dsimp only | simp only [keeps_mk] | split
theorem keeps_readmitFail {z : State} (s : State) (n : Ch) (hs : Keeps z s) : Keeps z (State.readmitFail s n) := by
  unfold State.readmitFail
  with_reducible repeat' first | assumption | apply keeps_retire | apply keeps_modCh | apply keeps_flag
theorem keeps_readmitBegin {z : State} (s : State) (n : Ch) (hs : Keeps z s) : Keeps z (State.readmitBegin s n) := by
  unfold State.readmitBegin
  with_reducible repeat' first
    | assumption | apply keeps_pipeStart | apply keeps_startLate | apply keeps_setCh | apply keeps_emcyMsg | apply keeps_modTrav
    | apply keeps_modCh | apply keeps_bump | apply keeps_bumpBy | dsimp only | simp only [keeps_mk] | split
theorem keeps_ctlLive {z : State} (s : State) (n : Ch) (hs : Keeps z s) : Keeps z (State.ctlLive s n) := by
  unfold State.ctlLive
  with_reducible repeat' first | assumption | apply keeps_put
theorem keeps_epochFail {z : State} (s : State) (n reason : Nat) (hs : Keeps z s) :
    Keeps z (State.epochFail s n reason) := by
  unfold State.epochFail
  with_reducible repeat' first | assumption | apply keeps_put | dsimp only | simp only [keeps_mk]
theorem keeps_epochWatch {z : State} (s : State) (hs : Keeps z s) : Keeps z (State.epochWatch s) := by
  unfold State.epochWatch
  with_reducible repeat' first | assumption | apply keeps_epochFail | dsimp only | simp only [keeps_mk] | split
theorem keeps_epochLtc {z : State} (s : State) (hs : Keeps z s) : Keeps z (State.epochLtc s) := by
  unfold State.epochLtc
  with_reducible repeat' first
    | assumption | apply keeps_put | dsimp only | simp only [keeps_mk] | (refine keeps_foldl _ (fun t x ht => ?_) _ ?_)
theorem keeps_prepareGo {z : State} (s : State) (hs : Keeps z s) : Keeps z (State.prepareGo s).1 := by
  unfold State.prepareGo
  with_reducible repeat' first
    | assumption | apply keeps_epochLtc | apply keeps_epochFail | apply keeps_put | dsimp only | simp only [keeps_mk] | split
theorem keeps_commitCh {z : State} (s : State) (n : Ch) (number : Nat) (hs : Keeps z s) :
    Keeps z (State.commitCh s n number) := by
  unfold State.commitCh
  with_reducible repeat' first
    | assumption | apply keeps_epochSet | apply keeps_modTrav | dsimp only | simp only [keeps_mk] | split
theorem keeps_commitTake {z : State} (s : State) (hs : Keeps z s) : Keeps z (State.commitTake s).1 := by
  unfold State.commitTake
  with_reducible repeat' first
    | assumption | apply keeps_commitCh | apply keeps_epochFail | apply keeps_gapRebase | apply keeps_emcyMsg | apply keeps_pulse
    | apply keeps_modDev | apply keeps_put | dsimp only | simp only [keeps_mk] | (refine keeps_foldl _ (fun t x ht => ?_) _ ?_)
    | (refine keeps_foldl_fst _ (fun t x ht => ?_) _ ?_) | split
theorem keeps_commitGo {z : State} (s : State) (hs : Keeps z s) : Keeps z (State.commitGo s).1 := by
  unfold State.commitGo
  with_reducible repeat' first | assumption | apply keeps_commitTake | dsimp only | simp only [keeps_mk] | split
theorem keeps_commitSync {z : State} (s : State) (hs : Keeps z s) : Keeps z (State.commitSync s) := by
  unfold State.commitSync
  with_reducible repeat' first | assumption | apply keeps_commitTake | dsimp only | simp only [keeps_mk] | split
theorem keeps_cancelGo {z : State} (s : State) (hs : Keeps z s) : Keeps z (State.cancelGo s) := by
  unfold State.cancelGo
  with_reducible repeat' first | assumption | dsimp only | simp only [keeps_mk]
theorem keeps_epochLive {z : State} (s : State) (hs : Keeps z s) : Keeps z (State.epochLive s) := by
  unfold State.epochLive
  with_reducible repeat' first | assumption | apply keeps_put
theorem keeps_epochApply {z : State} (addr data : Nat) (s : State) (hs : Keeps z s) : Keeps z (epochApply addr data s) := by
  unfold epochApply
  with_reducible repeat' first
    | assumption | apply keeps_cancelGo | apply keeps_commitGo | apply keeps_prepareGo | apply keeps_writeWord | dsimp only
    | simp only [keeps_mk] | split

/-! ### Protection -/

theorem keeps_slotCheck {z : State} (s : State) (n : Ch) (sl : Nat) (hs : Keeps z s) :
    Keeps z (State.slotCheck s n sl) := by
  unfold State.slotCheck
  with_reducible repeat' first
    | assumption | apply keeps_sendTable | apply keeps_putB | apply keeps_put | dsimp only | simp only [keeps_mk] | split
theorem keeps_levelApply {z : State} (n : Ch) (addr data : Nat) (s : State) (hs : Keeps z s) :
    Keeps z (levelApply n addr data s) := by
  unfold levelApply
  with_reducible repeat' first
    | assumption | apply keeps_slotCheck | apply keeps_writeWord | dsimp only | simp only [keeps_mk] | split
theorem keeps_wipeFree {z : State} (s : State) (n : Ch) (hs : Keeps z s) : Keeps z (State.wipeFree s n) := by
  unfold State.wipeFree
  with_reducible repeat' first
    | assumption | apply keeps_slotForget | dsimp only | simp only [keeps_mk] | (refine keeps_foldl _ (fun t x ht => ?_) _ ?_)
theorem keeps_wipeZero {z : State} (s : State) (n : Ch) (hs : Keeps z s) : Keeps z (State.wipeZero s n) := by
  unfold State.wipeZero
  with_reducible repeat' first
    | assumption | apply keeps_slotClear | apply keeps_modDrive | dsimp only | simp only [keeps_mk]
    | (refine keeps_foldl _ (fun t x ht => ?_) _ ?_)
theorem keeps_wipeCh {z : State} (n : Ch) (s : State) (hs : Keeps z s) : Keeps z (State.wipeCh n s) := by
  unfold State.wipeCh
  with_reducible repeat' first
    | assumption | apply keeps_wipeZero | apply keeps_wipeFree | apply keeps_stopCh | apply keeps_reply | apply keeps_emcyMsg
    | apply keeps_modDrive | apply keeps_modCh | apply keeps_unflag | apply keeps_flag | apply keeps_put | dsimp only
    | simp only [keeps_mk] | (refine keeps_foldl _ (fun t x ht => ?_) _ ?_) | (refine keeps_foldl_fst _ (fun t x ht => ?_) _ ?_)
    | split
theorem keeps_wipeGo {z : State} (s : State) (why : WipeWhy) (hs : Keeps z s) : Keeps z (State.wipeGo s why) := by
  unfold State.wipeGo
  with_reducible repeat' first
    | assumption | apply keeps_wipeCh | apply keeps_spClearSecure | apply keeps_modDev | apply keeps_put | dsimp only
    | simp only [keeps_mk] | refine keeps_forCh _ _ ?_ (fun n t ht => ?_) | split
theorem keeps_wipeEnd {z : State} (s : State) (hs : Keeps z s) : Keeps z (State.wipeEnd s) := by
  unfold State.wipeEnd
  with_reducible repeat' first
    | assumption | apply keeps_sAccess | apply keeps_modDev | apply keeps_incr | dsimp only | simp only [keeps_mk]
    | (refine keeps_foldl _ (fun t x ht => ?_) _ ?_) | (refine keeps_foldl_fst _ (fun t x ht => ?_) _ ?_) | split
theorem keeps_wipedClear {z : State} (s : State) (n : Ch) (hs : Keeps z s) : Keeps z (State.wipedClear s n) := by
  unfold State.wipedClear
  with_reducible repeat' first
    | assumption | apply keeps_wipeZero | apply keeps_stopCh | apply keeps_flag | dsimp only | simp only [keeps_mk] | split
theorem keeps_wipedSettle {z : State} (s : State) (n : Ch) (hs : Keeps z s) : Keeps z (State.wipedSettle s n) := by
  unfold State.wipedSettle
  with_reducible repeat' first
    | assumption | apply keeps_wipeZero | apply keeps_modDrive | apply keeps_flag | dsimp only | simp only [keeps_mk] | split
theorem keeps_loadStart {z : State} (s : State) (n : Ch) (sl ofs : Nat) (p : Option Port) (hs : Keeps z s) :
    Keeps z (State.loadStart s n sl ofs p) := by
  unfold State.loadStart
  with_reducible repeat' first
    | assumption | apply keeps_spParity | apply keeps_modDrive | dsimp only | simp only [keeps_mk] | split
theorem keeps_slotFill {z : State} (s : State) (n : Ch) (sl : Nat) (clear : List Byte) (hs : Keeps z s) :
    Keeps z (State.slotFill s n sl clear) := by
  unfold State.slotFill
  with_reducible repeat' first
    | assumption | apply keeps_put | dsimp only | simp only [keeps_mk] | (refine keeps_foldl _ (fun t x ht => ?_) _ ?_)
theorem keeps_loadDone {z : State} (s0 : State) (n : Ch) (par : Option Nat) (hs0 : Keeps z s0) :
    Keeps z (State.loadDone s0 n par) := by
  unfold State.loadDone
  with_reducible repeat' first
    | assumption | apply keeps_slotFill | apply keeps_sendTable | apply keeps_slotForget | apply keeps_slotClear
    | apply keeps_reply | apply keeps_spClearSecure | apply keeps_parityNote | apply keeps_modDrive | apply keeps_unflag
    | apply keeps_flag | apply keeps_put | dsimp only | simp only [keeps_mk] | split
theorem keeps_challengeNew {z : State} (s : State) (hs : Keeps z s) : Keeps z (State.challengeNew s).1 := by
  unfold State.challengeNew
  with_reducible repeat' first | assumption | dsimp only | simp only [keeps_mk]
theorem keeps_challengeExpire {z : State} (s : State) (hs : Keeps z s) : Keeps z (State.challengeExpire s) := by
  unfold State.challengeExpire
  with_reducible repeat' first | assumption | dsimp only | simp only [keeps_mk]
theorem keeps_debugRespond {z : State} (s : State) (sig : List Byte) (hs : Keeps z s) :
    Keeps z (State.debugRespond s sig).1 := by
  unfold State.debugRespond
  with_reducible repeat' first | assumption | dsimp only | simp only [keeps_mk] | split
theorem keeps_tapTake {z : State} (s : State) (i : TapIr) (hs : Keeps z s) : Keeps z (State.tapTake s i) := by
  unfold State.tapTake
  with_reducible repeat' first | assumption | apply keeps_modDev
theorem keeps_tapSample {z : State} (s : State) (cells : Nat) (hs : Keeps z s) : Keeps z (State.tapSample s cells) := by
  unfold State.tapSample
  with_reducible repeat' first | assumption | apply keeps_tapTake | apply keeps_modDev | apply keeps_freed | apply keeps_emit
theorem keeps_tapPins {z : State} (s : State) (i : TapIr) (hs : Keeps z s) : Keeps z (State.tapPins s i) := by
  unfold State.tapPins
  with_reducible repeat' first | assumption | apply keeps_tapTake | apply keeps_emit | dsimp only | simp only [keeps_mk] | split
theorem keeps_protLive {z : State} (s : State) (hs : Keeps z s) : Keeps z (State.protLive s) := by
  unfold State.protLive
  with_reducible repeat' first | assumption | apply keeps_putB | apply keeps_put

/-! ### Power -/

theorem keeps_loseAnswers {z : State} (s : State) (hs : Keeps z s) : Keeps z (State.loseAnswers s) := by
  unfold State.loseAnswers
  with_reducible repeat' first | assumption | apply keeps_modDev | dsimp only | simp only [keeps_mk]
theorem keeps_hostReset {z : State} (s : State) (hs : Keeps z s) : Keeps z (State.hostReset s) := by
  unfold State.hostReset
  with_reducible repeat' first
    | assumption | apply keeps_dmaReset | apply keeps_moveToken | apply keeps_loseAnswers | apply keeps_modDev | apply keeps_resetAll
    | dsimp only | simp only [keeps_mk] | split
theorem keeps_saveSettle {z : State} (s : State) (hs : Keeps z s) : Keeps z (State.saveSettle s) := by
  unfold State.saveSettle
  with_reducible repeat' first | assumption | apply keeps_reply | dsimp only | simp only [keeps_mk] | split
theorem keeps_standbyStep {z : State} (s : State) (hs : Keeps z s) : Keeps z (State.standbyStep s) := by
  unfold State.standbyStep
  with_reducible repeat' first
    | assumption | apply keeps_pixPark | apply keeps_reply | apply keeps_modDev | dsimp only | simp only [keeps_mk] | split
theorem keeps_standbyGo {z : State} (s : State) (p : Option Port) (hs : Keeps z s) : Keeps z (State.standbyGo s p) := by
  unfold State.standbyGo
  with_reducible repeat' first
    | assumption | apply keeps_standbyStep | apply keeps_rampAndOpen | apply keeps_reply | apply keeps_cause | apply keeps_modDev
    | dsimp only | simp only [keeps_mk] | refine keeps_forCh _ _ ?_ (fun n t ht => ?_) | split
theorem keeps_hostPark {z : State} (s : State) (hs : Keeps z s) : Keeps z (State.hostPark s) := by
  unfold State.hostPark
  with_reducible repeat' first
    | assumption | apply keeps_hostReset | apply keeps_modDev | dsimp only | simp only [keeps_mk] | split
theorem keeps_wakeCh {z : State} (n : Ch) (s : State) (hs : Keeps z s) : Keeps z (State.wakeCh n s) := by
  unfold State.wakeCh
  with_reducible repeat' first
    | assumption | apply keeps_powerCh | apply keeps_trainBegin | apply keeps_switchCheck | apply keeps_setCh | dsimp only
    | simp only [keeps_mk] | split
theorem keeps_wakeGo {z : State} (s : State) (p : Option Port) (hs : Keeps z s) : Keeps z (State.wakeGo s p) := by
  unfold State.wakeGo
  with_reducible repeat' first
    | assumption | apply keeps_wakeCh | apply keeps_reply | apply keeps_modDev | dsimp only | simp only [keeps_mk]
    | refine keeps_forCh _ _ ?_ (fun n t ht => ?_) | split
theorem keeps_wakeDone {z : State} (s : State) (hs : Keeps z s) : Keeps z (State.wakeDone s) := by
  unfold State.wakeDone
  with_reducible repeat' first
    | assumption | apply keeps_reply | apply keeps_cause | apply keeps_modDev | dsimp only | simp only [keeps_mk] | split
theorem keeps_bleedDone {z : State} (s0 : State) (n : Ch) (hs0 : Keeps z s0) : Keeps z (State.bleedDone s0 n) := by
  unfold State.bleedDone
  with_reducible repeat' first
    | assumption | apply keeps_standbyStep | apply keeps_safeFinish | apply keeps_parkCh | apply keeps_switchDrop
    | apply keeps_switchOpen | apply keeps_epochLose | apply keeps_setCh | apply keeps_modDrive | apply keeps_unflag | dsimp only
    | simp only [keeps_mk] | split
theorem keeps_benchShared {z : State} (s : State) (f : Fld) (bitNo code ms : Nat) (hs : Keeps z s) :
    Keeps z (State.benchShared s f bitNo code ms) := by
  unfold State.benchShared
  with_reducible repeat' first | assumption | apply keeps_enterSafe | apply keeps_flag | apply keeps_put
theorem keeps_benchTest {z : State} (s : State) (chs : List Ch) (ok : ChanTest → Bool) (res cause : Nat) (hs : Keeps z s) :
    Keeps z (State.benchTest s chs ok res cause) := by
  unfold State.benchTest
  with_reducible repeat' first
    | assumption | apply keeps_benchFail | apply keeps_cause | apply keeps_modDev | dsimp only | simp only [keeps_mk]
    | (refine keeps_foldl _ (fun t x ht => ?_) _ ?_) | (refine keeps_foldl_fst _ (fun t x ht => ?_) _ ?_) | split
theorem keeps_benchUnfit {z : State} (s : State) (n : Ch) (hs : Keeps z s) : Keeps z (State.benchUnfit s n) := by
  unfold State.benchUnfit
  with_reducible repeat' first | assumption | apply keeps_setCh | apply keeps_put
theorem keeps_benchClear {z : State} (s : State) (chs : List Ch) (hs : Keeps z s) : Keeps z (s.benchClear chs) :=
  Keeps.of (keeps_foldl _ (fun _ _ ht => keeps_modCh _ _ _ ht) _ hs) rfl id (fun i => memory_wf_filter _ i)
theorem keeps_benchPower {z : State} (s : State) (n : Ch) (hs : Keeps z s) : Keeps z (State.benchPower s n) := by
  unfold State.benchPower
  with_reducible repeat' first | assumption | apply keeps_powerCh | apply keeps_trainBegin | apply keeps_prechargeStart
theorem keeps_benchStart {z : State} (s : State) (v : BenchView) (powerUp : Bool) (hs : Keeps z s) :
    Keeps z (State.benchStart s v powerUp) := by
  unfold State.benchStart
  with_reducible repeat' first
    | apply keeps_ite | assumption | apply keeps_benchPower | apply keeps_benchClear | apply keeps_benchUnfit
    | apply keeps_benchTest | apply keeps_benchShared | apply keeps_otpCheck | apply keeps_emcyMsg | apply keeps_modDev
    | apply keeps_resetAll | dsimp only | simp only [keeps_mk] | (refine keeps_foldl _ (fun t x ht => ?_) _ ?_)
theorem keeps_upFail {z : State} (s : State) (n : Ch) (res cause : Nat) (hs : Keeps z s) :
    Keeps z (State.upFail s n res cause) := by
  unfold State.upFail
  with_reducible repeat' first
    | assumption | apply keeps_readmitFail | apply keeps_benchFail | apply keeps_retire | apply keeps_cause | dsimp only
    | simp only [keeps_mk] | split
theorem keeps_trainFail {z : State} (s : State) (n : Ch) (hs : Keeps z s) : Keeps z (State.trainFail s n) := by
  unfold State.trainFail
  with_reducible repeat' first | assumption | apply keeps_upFail | apply keeps_modLink
theorem keeps_trainTimeout {z : State} (s : State) (n : Ch) (hs : Keeps z s) : Keeps z (State.trainTimeout s n) := by
  unfold State.trainTimeout
  with_reducible repeat' first | assumption | apply keeps_trainFail | dsimp only | simp only [keeps_mk] | split
theorem keeps_tsrTake {z : State} (s : State) (n : Ch) (ver cap : Nat) (hs : Keeps z s) :
    Keeps z (State.tsrTake s n ver cap) := by
  unfold State.tsrTake
  with_reducible repeat' first
    | assumption | apply keeps_trainFail | apply keeps_tsr | apply keeps_modHealth | dsimp only | simp only [keeps_mk] | split
theorem keeps_retrainMissed {z : State} (s : State) (n : Ch) (hs : Keeps z s) : Keeps z (State.retrainMissed s n) := by
  unfold State.retrainMissed
  with_reducible repeat' first | assumption | apply keeps_retrain | dsimp only | simp only [keeps_mk] | split
theorem keeps_prechargeDone {z : State} (s0 : State) (n : Ch) (hs0 : Keeps z s0) : Keeps z (State.prechargeDone s0 n) := by
  unfold State.prechargeDone
  with_reducible repeat' first
    | assumption | apply keeps_switchPass | apply keeps_rampRails | apply keeps_modDrive | apply keeps_flag | dsimp only
    | simp only [keeps_mk] | split
theorem keeps_prechargeTimeout {z : State} (s0 : State) (n : Ch) (hs0 : Keeps z s0) :
    Keeps z (State.prechargeTimeout s0 n) := by
  unfold State.prechargeTimeout
  with_reducible repeat' first
    | assumption | apply keeps_upFail | apply keeps_switchPass | apply keeps_modDrive | dsimp only | simp only [keeps_mk] | split
theorem keeps_benchEnd {z : State} (s : State) (hs : Keeps z s) : Keeps z (State.benchEnd s) := by
  unfold State.benchEnd
  with_reducible repeat' first
    | assumption | apply keeps_benchLast | apply keeps_benchMs | apply keeps_reply | apply keeps_tokenCheck | apply keeps_cause
    | apply keeps_modDev | apply keeps_put | dsimp only | simp only [keeps_mk] | refine keeps_forCh _ _ ?_ (fun n t ht => ?_)
    | split
theorem keeps_safeExitGo {z : State} (s : State) (v : BenchView) (p : Option Port) (hs : Keeps z s) :
    Keeps z (State.safeExitGo s v p) := by
  unfold State.safeExitGo
  with_reducible repeat' first | assumption | apply keeps_benchStart | apply keeps_modDev
theorem keeps_deviceReset {z : State} (s : State) (src : Nat) (b : BootStage) (hs : Keeps z s) : Keeps z (s.deviceReset src b) :=
  keeps_otpDisarm _ (keeps_put _ _ _ (Keeps.of hs rfl (fun _ => rfl) (fun _ => rfl)))
theorem keeps_supervisorSilent {z : State} (s : State) (hs : Keeps z s) : Keeps z (State.supervisorSilent s) := by
  unfold State.supervisorSilent
  with_reducible repeat' first
    | assumption | apply keeps_rampAndOpen | dsimp only | simp only [keeps_mk] | refine keeps_forCh _ _ ?_ (fun n t ht => ?_)
    | split
theorem keeps_romSeen {z : State} (s : State) (r : RomView) (hs : Keeps z s) : Keeps z (State.romSeen s r) := by
  unfold State.romSeen
  with_reducible repeat' first | assumption | apply keeps_modDev | apply keeps_bumpBy | dsimp only | simp only [keeps_mk] | split
theorem keeps_wdExpire {z : State} (s0 : State) (rom : RomView) (hs0 : Keeps z s0) : Keeps z (State.wdExpire s0 rom) := by
  unfold State.wdExpire
  with_reducible repeat' first
    | assumption | apply keeps_enterSafe | apply keeps_emcyMsg | apply keeps_modDev | apply keeps_bump | apply keeps_bumpBy
    | dsimp only | simp only [keeps_mk] | split

/-! ### Blocks -/

theorem keeps_travApply {z : State} (n : Ch) (addr data : Nat) (s : State) (hs : Keeps z s) :
    Keeps z (travApply n addr data s) := by
  unfold travApply
  with_reducible repeat' first
    | assumption | apply keeps_startTry | apply keeps_stopCh | apply keeps_modTrav | apply keeps_writeWord | dsimp only
    | simp only [keeps_mk] | split
theorem keeps_travRefused {z : State} (n : Ch) (addr data : Nat) (s : State) (hs : Keeps z s) :
    Keeps z (travRefused n addr data s) := by
  unfold travRefused
  with_reducible repeat' first | assumption | apply keeps_startTry | apply keeps_put | dsimp only | simp only [keeps_mk] | split
theorem keeps_lineRefusedAll {z : State} (n : Ch) (addr data : Nat) (s : State) (hs : Keeps z s) :
    Keeps z (lineRefusedAll n addr data s) := by
  unfold lineRefusedAll
  with_reducible repeat' first | assumption | apply keeps_lineRefused | dsimp only | simp only [keeps_mk] | split
theorem keeps_tokenSet {z : State} (s : State) (v : Nat) (hs : Keeps z s) : Keeps z (State.tokenSet s v) := by
  unfold State.tokenSet
  with_reducible repeat' first | assumption | apply keeps_moveToken
theorem keeps_pwrGo {z : State} (s : State) (v : Nat) (p : Option Port) (hs : Keeps z s) : Keeps z (State.pwrGo s v p) := by
  unfold State.pwrGo
  with_reducible repeat' first
    | assumption | apply keeps_wakeGo | apply keeps_standbyGo | apply keeps_put | dsimp only | simp only [keeps_mk] | split
theorem keeps_pwrAgain {z : State} (s : State) (v : Nat) (hs : Keeps z s) : Keeps z (State.pwrAgain s v) := by
  unfold State.pwrAgain
  with_reducible repeat' first | assumption | apply keeps_pwrGo | dsimp only | simp only [keeps_mk] | split
theorem keeps_hostEntry {z : State} (s : State) (n : Ch) (i mask val line : Nat) (hs : Keeps z s) :
    Keeps z (State.hostEntry s n i mask val line) := by
  unfold State.hostEntry
  with_reducible repeat' first
    | assumption | apply keeps_verdictNote | apply keeps_applyEntry | dsimp only | simp only [keeps_mk] | split
theorem keeps_applyTbl {z : State} (s : State) (n : Ch) (b : EditBody) (line : Nat) (hs : Keeps z s) :
    Keeps z (State.applyTbl s n b line) := by
  unfold State.applyTbl
  with_reducible repeat' first
    | assumption | apply keeps_hostEntry | apply keeps_applyTile | apply keeps_applyPattern | apply keeps_entryTouch | dsimp only
    | simp only [keeps_mk] | split
theorem keeps_stageTbl {z : State} (s : State) (n : Ch) (b : EditBody) (hs : Keeps z s) :
    Keeps z (State.stageTbl s n b) := by
  unfold State.stageTbl
  with_reducible repeat' first | assumption | apply keeps_put | dsimp only | simp only [keeps_mk] | split
theorem keeps_tblRequest {z : State} (s : State) (n : Ch) (bs : List EditBody) (hs : Keeps z s) :
    Keeps z (State.tblRequest s n bs) := by
  unfold State.tblRequest
  with_reducible repeat' first
    | assumption | apply keeps_stageTbl | apply keeps_applyTbl | apply keeps_modCh | apply keeps_bumpBy | apply keeps_flag
    | dsimp only | simp only [keeps_mk] | (refine keeps_foldl _ (fun t x ht => ?_) _ ?_)
    | (refine keeps_foldl_fst _ (fun t x ht => ?_) _ ?_) | split
theorem keeps_tableStore {z : State} (s : State) (n : Ch) (ofs : Nat) (bytes : List Byte) (hs : Keeps z s) :
    Keeps z (State.tableStore s n ofs bytes) := by
  unfold State.tableStore
  with_reducible repeat' first
    | assumption | apply keeps_tblRequest | apply keeps_flag | dsimp only | simp only [keeps_mk] | split
theorem keeps_Blk_refused {z : State} (b : Blk) (addr data : Nat) (s : State) (hs : Keeps z s) :
    Keeps z (Blk.refused b addr data s) := by
  unfold Blk.refused
  with_reducible repeat' first
    | assumption | apply keeps_lineRefusedAll | apply keeps_travRefused | apply keeps_readmitOrder | apply keeps_dmaRefused
    | dsimp only | simp only [keeps_mk] | split
theorem keeps_swPulses {z : State} (s : State) (v : Nat) (hs : Keeps z s) : Keeps z (State.swPulses s v) := by
  unfold State.swPulses
  with_reducible repeat' first
    | assumption | apply keeps_pulse | dsimp only | simp only [keeps_mk] | (refine keeps_foldl _ (fun t x ht => ?_) _ ?_)
    | (refine keeps_foldl_fst _ (fun t x ht => ?_) _ ?_) | split
theorem keeps_msixUnmask {z : State} (s : State) (v : Nat) (hs : Keeps z s) : Keeps z (State.msixUnmask s v) := by
  unfold State.msixUnmask
  with_reducible repeat' first | assumption | apply keeps_emit | apply keeps_unflag | dsimp only | simp only [keeps_mk] | split
theorem keeps_Blk_apply {z : State} (b : Blk) (addr data : Nat) (s : State) (hs : Keeps z s) :
    Keeps z (Blk.apply b addr data s) := by
  unfold Blk.apply
  with_reducible repeat' first
    | assumption | apply keeps_msixUnmask | apply keeps_swPulses | apply keeps_tblRequest | apply keeps_pwrAgain
    | apply keeps_tokenSet | apply keeps_travApply | apply keeps_safeExitGo | apply keeps_levelApply | apply keeps_epochApply
    | apply keeps_readmitOrder | apply keeps_readmitGo | apply keeps_thermalApply | apply keeps_dmaApply | apply keeps_healthApply
    | apply keeps_linkApply | apply keeps_slotWrite | apply keeps_lineApply | apply keeps_retire | apply keeps_memApply
    | apply keeps_stkApply | apply keeps_cuApply | apply keeps_writeWord | dsimp only | simp only [keeps_mk] | split
theorem keeps_Blk_flagRefused {z : State} (b : Blk) (addr data : Nat) (s : State) (hs : Keeps z s) :
    Keeps z (Blk.flagRefused b addr data s) := by
  unfold Blk.flagRefused
  with_reducible repeat' first | assumption | apply keeps_thFlag | apply keeps_flag | dsimp only | simp only [keeps_mk] | split
theorem keeps_regWrite {z : State} (s : State) (addr data : Nat) (hs : Keeps z s) :
    Keeps z (State.regWrite s addr data) := by
  unfold State.regWrite
  with_reducible repeat' first
    | assumption | apply keeps_Blk_flagRefused | apply keeps_Blk_apply | apply keeps_Blk_refused | dsimp only
    | simp only [keeps_mk] | split
theorem keeps_Blk_live {z : State} (b : Blk) (s : State) (hs : Keeps z s) : Keeps z (Blk.live b s) := by
  unfold Blk.live
  with_reducible repeat' first
    | assumption | apply keeps_protLive | apply keeps_epochLive | apply keeps_ctlLive | apply keeps_thermalLive
    | apply keeps_engineLive | apply keeps_dmaLive | apply keeps_resultLatch | apply keeps_linkLive | apply keeps_levelLive
    | apply keeps_editLive | apply keeps_lineLive | apply keeps_travLive | apply keeps_dmaTick | apply keeps_memLive
    | apply keeps_cuSnap | apply keeps_putPair | apply keeps_putB | apply keeps_put | dsimp only | simp only [keeps_mk] | split
theorem keeps_latchRead {z : State} (s : State) (addr : Nat) (hs : Keeps z s) : Keeps z (State.latchRead s addr) := by
  unfold State.latchRead
  with_reducible repeat' first
    | assumption | apply keeps_Blk_live | apply keeps_emit | apply keeps_put | dsimp only | simp only [keeps_mk]
    | (refine keeps_foldl _ (fun t x ht => ?_) _ ?_)
theorem keeps_readStep {z : State} (s : State) (addr : Nat) (hs : Keeps z s) : Keeps z (State.readStep s addr) := by
  unfold State.readStep
  with_reducible repeat' first | assumption | apply keeps_sigStep | dsimp only | simp only [keeps_mk] | split
theorem keeps_wordRead {z : State} (s : State) (addr : Nat) (hs : Keeps z s) : Keeps z (State.wordRead s addr) := by
  unfold State.wordRead
  with_reducible repeat' first
    | assumption | apply keeps_readStep | apply keeps_latchRead | apply keeps_emit | dsimp only | simp only [keeps_mk] | split

/-! ### Access -/

theorem keeps_freeBits {z : State} (s : State) (w : Nat) (hs : Keeps z s) : Keeps z (State.freeBits s w).1 := by
  unfold State.freeBits
  with_reducible repeat' first | assumption | apply keeps_freed
theorem keeps_ixStep {z : State} (s : State) (n : Ch) (k : Kept) (hs : Keeps z s) : Keeps z (State.ixStep s n k) := by
  unfold State.ixStep
  with_reducible repeat' first | assumption | apply keeps_sigStep | apply keeps_put | dsimp only | simp only [keeps_mk] | split
theorem keeps_keptView {z : State} (s : State) (n : Ch) (hs : Keeps z s) : Keeps z (State.keptView s n).1 := by
  unfold State.keptView
  with_reducible repeat' first
    | assumption | apply keeps_ixStep | dsimp only | simp only [keeps_mk] | (refine keeps_foldl _ (fun t x ht => ?_) _ ?_)
    | (refine keeps_foldl_fst _ (fun t x ht => ?_) _ ?_)
theorem keeps_fnRead {z : State} (s : State) (p : Port) (idx sub size : Nat) (hs : Keeps z s) :
    Keeps z (State.fnRead s p idx sub size).1 := by
  unfold State.fnRead
  with_reducible repeat' first
    | assumption | apply keeps_keptView | apply keeps_challengeNew | apply keeps_curveStep | apply keeps_sigStep
    | apply keeps_entryTouch | dsimp only | simp only [keeps_mk] | split
theorem keeps_objRead {z : State} (s : State) (p : Port) (idx : Nat) (o : Obj) (hs : Keeps z s) :
    Keeps z (State.objRead s p idx o).1 := by
  unfold State.objRead
  with_reducible repeat' first | assumption | apply keeps_fnRead | dsimp only | simp only [keeps_mk] | split
theorem keeps_objRefused {z : State} (s : State) (o : Obj) (data : List Byte) (hs : Keeps z s) :
    Keeps z (State.objRefused s o data) := by
  unfold State.objRefused
  with_reducible repeat' first | assumption | apply keeps_Blk_refused | dsimp only | simp only [keeps_mk] | split

/-! ### Store -/

theorem keeps_saveGo {z : State} (s : State) (p : Option Port) (hs : Keeps z s) : Keeps z (State.saveGo s p) := by
  unfold State.saveGo
  with_reducible repeat' first | assumption | dsimp only | simp only [keeps_mk]
theorem keeps_loadDefaults {z : State} (s : State) (hs : Keeps z s) : Keeps z (State.loadDefaults s) := by
  unfold State.loadDefaults
  with_reducible repeat' first | assumption | dsimp only | simp only [keeps_mk]
theorem keeps_setRaw {z : State} (s : State) (fs : List Fld) (a data : Nat) (hs : Keeps z s) :
    Keeps z (State.setRaw s fs a data) := by
  unfold State.setRaw
  with_reducible repeat' first
    | assumption | apply keeps_putBoth | dsimp only | simp only [keeps_mk] | (refine keeps_foldl _ (fun t x ht => ?_) _ ?_)
theorem keeps_chanFnSet {z : State} (s : State) (n : Ch) (ofs sub v : Nat) (hs : Keeps z s) :
    Keeps z (State.chanFnSet s n ofs sub v) := by
  unfold State.chanFnSet
  with_reducible repeat' first
    | assumption | apply keeps_setQTag | apply keeps_putBoth | dsimp only | simp only [keeps_mk] | split
theorem keeps_objSet {z : State} (s : State) (idx : Nat) (o : Obj) (data : List Byte) (hs : Keeps z s) :
    Keeps z (State.objSet s idx o data) := by
  unfold State.objSet
  with_reducible repeat' first
    | assumption | apply keeps_chanFnSet | apply keeps_setRaw | apply keeps_modStk | apply keeps_put | dsimp only
    | simp only [keeps_mk] | split
theorem keeps_cellSet {z : State} (s : State) (idx k v : Nat) (hs : Keeps z s) : Keeps z (State.cellSet s idx k v) := by
  unfold State.cellSet
  with_reducible repeat' first
    | assumption | apply keeps_slotWrite | apply keeps_setEntry | apply keeps_modCam | apply keeps_putBoth | dsimp only
    | simp only [keeps_mk] | split
theorem keeps_setSig {z : State} (s : State) (n : Ch) (row : Nat) (data : List Byte) (hs : Keeps z s) :
    Keeps z (State.setSig s n row data) := by
  unfold State.setSig
  with_reducible repeat' first | assumption | apply keeps_modHealth | apply keeps_put
theorem keeps_loadOne {z : State} (s : State) (bad : Option (Nat × Nat)) (x : Nat × Nat × List Byte) (hs : Keeps z s) :
    Keeps z (State.loadOne s bad x).1 := by
  unfold State.loadOne
  with_reducible repeat' first
    | assumption | apply keeps_setSig | apply keeps_cellSet | apply keeps_objSet | dsimp only | simp only [keeps_mk] | split
theorem keeps_loadParams {z : State} (s : State) (below : Nat) (hs : Keeps z s) : Keeps z (State.loadParams s below) := by
  unfold State.loadParams
  with_reducible repeat' first
    | assumption | apply keeps_loadOne | apply keeps_emcyInfo | dsimp only | simp only [keeps_mk]
    | (refine keeps_foldl _ (fun t x ht => ?_) _ ?_) | (refine keeps_foldl_fst _ (fun t x ht => ?_) _ ?_) | split
theorem keeps_epochLoaded {z : State} (s : State) (hs : Keeps z s) : Keeps z (State.epochLoaded s) := by
  unfold State.epochLoaded
  with_reducible repeat' first
    | assumption | apply keeps_epochSet | dsimp only | simp only [keeps_mk] | refine keeps_forCh _ _ ?_ (fun n t ht => ?_)
theorem keeps_progErase {z : State} (s : State) (hs : Keeps z s) : Keeps z (State.progErase s) := by
  unfold State.progErase
  with_reducible repeat' first | assumption | dsimp only | simp only [keeps_mk]
theorem keeps_progData {z : State} (s : State) (data : List Byte) (hs : Keeps z s) : Keeps z (State.progData s data) := by
  unfold State.progData
  with_reducible repeat' first | assumption | dsimp only | simp only [keeps_mk]
theorem keeps_progVerify {z : State} (s : State) (hs : Keeps z s) : Keeps z (State.progVerify s).1 := by
  unfold State.progVerify
  with_reducible repeat' first | assumption | dsimp only | simp only [keeps_mk] | split
theorem keeps_setExpert {z : State} (s : State) (p : Port) (on : Bool) (hs : Keeps z s) :
    Keeps z (State.setExpert s p on) := by
  unfold State.setExpert
  with_reducible repeat' first | assumption | apply keeps_modDev
theorem keeps_fin {z : State} (s : State) (hs : Keeps z s) : Keeps z (fin s).1 := by
  unfold fin
  with_reducible repeat' first | assumption
theorem keeps_finAb {z : State} (r : State × Nat) (h : Keeps z r.1) : Keeps z (finAb r).1 := h
theorem keeps_lcGo {z : State} (s : State) (code : Nat) (runs : List FuseRun) (hs : Keeps z s) :
    Keeps z (State.lcGo s code runs).1 := by
  unfold State.lcGo
  with_reducible repeat' first | assumption | apply keeps_wipeGo | apply keeps_lcBlow
theorem keeps_command {z : State} (s : State) (n : Ch) (v : Nat) (hs : Keeps z s) : Keeps z (State.command s n v).1 := by
  unfold State.command
  with_reducible repeat' first
    | assumption | apply keeps_startTry | apply keeps_stopCh | dsimp only | simp only [keeps_mk] | split
theorem keeps_checkGo {z : State} (s : State) (n : Ch) (hs : Keeps z s) : Keeps z (State.checkGo s n).1 := by
  unfold State.checkGo
  with_reducible repeat' first | assumption | apply keeps_slotCheck
theorem keeps_pauseGo {z : State} (s : State) (d : Dch) (on : Bool) (owed : Option Port) (hs : Keeps z s) :
    Keeps z (State.pauseGo s d on owed).1 := by
  unfold State.pauseGo
  with_reducible repeat' first
    | assumption | apply keeps_fin | apply keeps_dmaApply | apply keeps_modDma | dsimp only | simp only [keeps_mk] | split
theorem keeps_epochControl {z : State} (s : State) (v : Nat) (hs : Keeps z s) : Keeps z (State.epochControl s v).1 := by
  unfold State.epochControl
  with_reducible repeat' first
    | assumption | apply keeps_cancelGo | apply keeps_commitGo | apply keeps_prepareGo | dsimp only | simp only [keeps_mk] | split
theorem keeps_chanFnDo {z : State} (s : State) (n : Ch) (ofs sub v : Nat) (owed : Option Port) (hs : Keeps z s) :
    Keeps z (State.chanFnDo s n ofs sub v owed).1 := by
  unfold State.chanFnDo
  with_reducible repeat' first
    | assumption | apply keeps_checkGo | apply keeps_command | apply keeps_finAb | apply keeps_fin | apply keeps_tblRequest
    | apply keeps_loadStart | apply keeps_sigWrite | apply keeps_sigLen | apply keeps_feStart | apply keeps_slotWrite
    | apply keeps_setQTag | dsimp only | simp only [keeps_mk] | split
theorem keeps_fnDo {z : State} (s : State) (w : World) (p : Port) (owed : Option Port) (idx sub : Nat) (data : List Byte) (hs : Keeps z s) :
    Keeps z (State.fnDo s w p owed idx sub data).1 := by
  unfold State.fnDo
  with_reducible repeat' first
    | assumption | apply keeps_chanFnDo | apply keeps_epochControl | apply keeps_pauseGo | apply keeps_lcGo | apply keeps_finAb
    | apply keeps_fin | apply keeps_setExpert | apply keeps_progVerify | apply keeps_progData | apply keeps_progErase
    | apply keeps_loadDefaults | apply keeps_saveGo | apply keeps_pwrGo | apply keeps_tokenSet | apply keeps_safeExitGo
    | apply keeps_saveSettle | apply keeps_debugRespond | apply keeps_otpCheck | apply keeps_blowReadLock
    | apply keeps_blowWriteLock | apply keeps_otpArm | apply keeps_otpWrite | apply keeps_contextOff | apply keeps_curveWrite
    | apply keeps_snapArm | apply keeps_modCan | apply keeps_flag | apply keeps_put | dsimp only | simp only [keeps_mk] | split
theorem keeps_ownDo {z : State} (s : State) (idx : Nat) (o : Obj) (f : Fld) (data : List Byte) (hs : Keeps z s) :
    Keeps z (State.ownDo s idx o f data) := by
  unfold State.ownDo
  with_reducible repeat' first
    | assumption | apply keeps_modPort | apply keeps_sliceTouch | apply keeps_put | dsimp only | simp only [keeps_mk] | split
theorem keeps_objDo {z : State} (s : State) (w : World) (p : Port) (owed : Option Port) (idx : Nat) (o : Obj) (data : List Byte) (hs : Keeps z s) :
    Keeps z (State.objDo s w p owed idx o data).1 := by
  unfold State.objDo
  with_reducible repeat' first
    | assumption | apply keeps_ownDo | apply keeps_fnDo | apply keeps_fin | apply keeps_Blk_apply | apply keeps_clearAll
    | apply keeps_put | dsimp only | simp only [keeps_mk] | split

end Sys2Proof.Machine
end

