-- ==== Sys2Proof/Laws/KeepsCommands.lean ====
section
/-! SUPPORT. What the operations keep, further: edits, boundaries, decisions, the two ports, start-up and what comes from outside. -/
namespace Sys2Proof.Machine

/-! ### Queue -/

theorem keeps_enqueue {z : State} (s : State) (n : Ch) (b : EditBody) (c : Cls) (owed : Option Port) (hs : Keeps z s) :
    Keeps z (State.enqueue s n b c owed) := by
  unfold State.enqueue
  with_reducible repeat' first | assumption | apply keeps_modCh
theorem keeps_objNow {z : State} (s : State) (w : World) (p : Port) (owed : Option Port) (idx : Nat) (o : Obj) (data : List Byte) (hs : Keeps z s) :
    Keeps z (State.objNow s w p owed idx o data).1 := by
  unfold State.objNow
  with_reducible repeat' first
    | assumption | apply keeps_objDo | apply keeps_objRefused | apply keeps_otpTouch | dsimp only | simp only [keeps_mk] | split
theorem keeps_objKeep {z : State} (s : State) (p : Port) (n : Ch) (idx : Nat) (o : Obj) (data : List Byte) (hs : Keeps z s) :
    Keeps z (State.objKeep s p n idx o data).1 := by
  unfold State.objKeep
  with_reducible repeat' first | assumption | apply keeps_fin | apply keeps_modCh | dsimp only | simp only [keeps_mk] | split
theorem keeps_objStage {z : State} (s : State) (w : World) (p : Port) (n : Ch) (idx : Nat) (o : Obj) (data : List Byte) (hs : Keeps z s) :
    Keeps z (State.objStage s w p n idx o data) := by
  unfold State.objStage
  with_reducible repeat' first | assumption | apply keeps_enqueue | apply keeps_objDo | dsimp only | simp only [keeps_mk] | split
theorem keeps_objRun {z : State} (s : State) (w : World) (p : Port) (owed : Option Port) (n : Ch) (idx : Nat) (o : Obj) (data : List Byte) (hs : Keeps z s) :
    Keeps z (State.objRun s w p owed n idx o data).1 := by
  unfold State.objRun
  with_reducible repeat' first
    | assumption | apply keeps_objStage | apply keeps_enqueue | apply keeps_objDo | apply keeps_fin | dsimp only
    | simp only [keeps_mk] | split
theorem keeps_objWrite {z : State} (s : State) (w : World) (p : Port) (owed : Option Port) (idx sub : Nat) (data : List Byte) (hs : Keeps z s) :
    Keeps z (State.objWrite s w p owed idx sub data).1 := by
  unfold State.objWrite
  with_reducible repeat' first
    | assumption | apply keeps_objRun | apply keeps_objKeep | apply keeps_objNow | apply keeps_objRefused | dsimp only
    | simp only [keeps_mk] | split
theorem keeps_applyEdit {z : State} (s : State) (n : Ch) (e : Edit) (k : Nat) (hs : Keeps z s) :
    Keeps z (State.applyEdit s n e k).1 := by
  unfold State.applyEdit
  with_reducible repeat' first
    | assumption | apply keeps_objDo | apply keeps_objRefused | apply keeps_applyTbl | apply keeps_applyClosure
    | apply keeps_reply | apply keeps_entryTouch | dsimp only | simp only [keeps_mk] | split
theorem keeps_drainSome {z : State} (s : State) (n : Ch) (k : Nat) (p : Edit → Bool) (hs : Keeps z s) :
    Keeps z (State.drainSome s n k p).1 := by
  unfold State.drainSome
  with_reducible repeat' first
    | assumption | apply keeps_applyEdit | apply keeps_modCh | dsimp only | simp only [keeps_mk]
    | (refine keeps_foldl _ (fun t x ht => ?_) _ ?_) | (refine keeps_foldl_fst _ (fun t x ht => ?_) _ ?_)
theorem keeps_drain {z : State} (s : State) (n : Ch) (k : Nat) (hs : Keeps z s) : Keeps z (State.drain s n k).1 := by
  unfold State.drain
  with_reducible repeat' first | assumption | apply keeps_drainSome
theorem keeps_drainOld {z : State} (s : State) (n : Ch) (k : Nat) (hs : Keeps z s) : Keeps z (State.drainOld s n k).1 := by
  unfold State.drainOld
  with_reducible repeat' first | assumption | apply keeps_drainSome
theorem keeps_shadowsIn {z : State} (s : State) (n : Ch) (v : Fld → Nat) (hs : Keeps z s) :
    Keeps z (State.shadowsIn s n v) := by
  unfold State.shadowsIn
  with_reducible repeat' first
    | assumption | apply keeps_stripCancel | apply keeps_putEff | dsimp only | simp only [keeps_mk]
    | (refine keeps_foldl _ (fun t x ht => ?_) _ ?_) | (refine keeps_foldl_fst _ (fun t x ht => ?_) _ ?_) | split
theorem keeps_keptIn {z : State} (n : Ch) (s : State) (hs : Keeps z s) : Keeps z (State.keptIn n s) := by
  unfold State.keptIn
  with_reducible repeat' first
    | assumption | apply keeps_objRun | apply keeps_objDo | apply keeps_objRefused | apply keeps_modCh | apply keeps_flag
    | dsimp only | simp only [keeps_mk] | (refine keeps_foldl _ (fun t x ht => ?_) _ ?_)
    | (refine keeps_foldl_fst _ (fun t x ht => ?_) _ ?_) | split
theorem keeps_quiet {z : State} (n : Ch) (s : State) (hs : Keeps z s) : Keeps z (State.quiet n s) := by
  unfold State.quiet
  with_reducible repeat' first
    | assumption | apply keeps_shadowsIn | apply keeps_drain | apply keeps_wipedSettle | apply keeps_wipeFree
    | apply keeps_emcyInfo | apply keeps_modCh | dsimp only | simp only [keeps_mk]
    | (refine keeps_foldl _ (fun t x ht => ?_) _ ?_) | (refine keeps_foldl_fst _ (fun t x ht => ?_) _ ?_) | split
theorem keeps_switchSettle {z : State} (n : Ch) (s : State) (hs : Keeps z s) : Keeps z (State.switchSettle n s) := by
  unfold State.switchSettle
  with_reducible repeat' first | assumption | apply keeps_switchPass | dsimp only | simp only [keeps_mk] | split
theorem keeps_settle {z : State} (s : State) (hs : Keeps z s) : Keeps z (State.settle s) := by
  unfold State.settle
  with_reducible repeat' first
    | assumption | apply keeps_switchSettle | apply keeps_quiet | apply keeps_keptIn | apply keeps_wakeCh | apply keeps_saveSettle
    | apply keeps_epochWatch | apply keeps_benchSettle | apply keeps_pixFollow | apply keeps_openSettle | apply keeps_tokenCheck
    | dsimp only | simp only [keeps_mk] | refine keeps_forCh _ _ ?_ (fun n t ht => ?_) | split
theorem keeps_sdoWrite {z : State} (s : State) (w : World) (p : Port) (idx sub : Nat) (data : List Byte) (hs : Keeps z s) :
    Keeps z (State.sdoWrite s w p idx sub data) := by
  unfold State.sdoWrite
  with_reducible repeat' first
    | assumption | apply keeps_objWrite | apply keeps_answer | dsimp only | simp only [keeps_mk] | split
theorem keeps_farRead {z : State} (s : State) (p : Port) (idx : Nat) (hs : Keeps z s) :
    Keeps z (State.farRead s p idx) := by
  unfold State.farRead
  with_reducible repeat' first
    | assumption | apply keeps_feStart | apply keeps_answerData | apply keeps_answer | dsimp only | simp only [keeps_mk] | split
theorem keeps_sdoRead {z : State} (s : State) (p : Port) (idx sub : Nat) (hs : Keeps z s) :
    Keeps z (State.sdoRead s p idx sub) := by
  unfold State.sdoRead
  with_reducible repeat' first
    | assumption | apply keeps_farRead | apply keeps_objRead | apply keeps_answerData | apply keeps_answer | dsimp only
    | simp only [keeps_mk] | split
theorem keeps_withdrawn {z : State} (s : State) (e : Edit) (hs : Keeps z s) : Keeps z (withdrawn s e) := by
  unfold withdrawn
  with_reducible repeat' first | assumption | apply keeps_reply | dsimp only | simp only [keeps_mk] | split
theorem keeps_heldWithdraw {z : State} (s : State) (q : Nat) (hs : Keeps z s) : Keeps z (State.heldWithdraw s q) := by
  unfold State.heldWithdraw
  with_reducible repeat' first
    | assumption | apply keeps_withdrawn | apply keeps_modCh | dsimp only | simp only [keeps_mk] | split

/-! ### Boundary -/

theorem keeps_note {z : State} (s : State) (n : Ch) (k : Nat) (early : Bool) (m : Nat × List Byte) (hs : Keeps z s) :
    Keeps z (State.note s n k early m) := by
  unfold State.note
  with_reducible repeat' first
    | assumption | apply keeps_lineMsgs | apply keeps_modLine | dsimp only | simp only [keeps_mk] | split
theorem keeps_tableErrs {z : State} (s : State) (n : Ch) (errs : List MemErr) (hs : Keeps z s) :
    Keeps z (State.tableErrs s n errs) := by
  unfold State.tableErrs
  with_reducible repeat' first
    | assumption | apply keeps_tableUe | apply keeps_modCh | apply keeps_flagBump | dsimp only | simp only [keeps_mk]
    | (refine keeps_foldl _ (fun t x ht => ?_) _ ?_) | (refine keeps_foldl_fst _ (fun t x ht => ?_) _ ?_) | split
theorem keeps_boundaryEdits {z : State} (s : State) (n : Ch) (k : Nat) (early : Bool) (hs : Keeps z s) :
    Keeps z (State.boundaryEdits s n k early) := by
  unfold State.boundaryEdits
  with_reducible repeat' first
    | assumption | apply keeps_note | apply keeps_shadowsIn | apply keeps_drainOld | dsimp only | simp only [keeps_mk]
    | (refine keeps_foldl _ (fun t x ht => ?_) _ ?_)
theorem keeps_boundaryCommit {z : State} (s : State) (n : Ch) (k : Nat) (hs : Keeps z s) :
    Keeps z (State.boundaryCommit s n k) := by
  unfold State.boundaryCommit
  with_reducible repeat' first
    | assumption | apply keeps_modTrav | apply keeps_put | dsimp only | simp only [keeps_mk]
    | (refine keeps_foldl _ (fun t x ht => ?_) _ ?_)
theorem keeps_boundaryHistory {z : State} (s : State) (n : Ch) (k : Nat) (hs : Keeps z s) :
    Keeps z (State.boundaryHistory s n k) := by
  unfold State.boundaryHistory
  with_reducible repeat' first
    | assumption | apply keeps_clearHistory | apply keeps_blankHistory | dsimp only | simp only [keeps_mk] | split
theorem keeps_storeUe {z : State} (s : State) (n : Ch) (w : Nat × Nat) (hs : Keeps z s) :
    Keeps z (State.storeUe s n w) := by
  unfold State.storeUe
  with_reducible repeat' first | assumption | apply keeps_modCh
theorem keeps_lineErrs {z : State} (s : State) (n : Ch) (k : Nat) (early : Bool) (errs : List MemErr) (hs : Keeps z s) :
    Keeps z (State.lineErrs s n k early errs) := by
  unfold State.lineErrs
  with_reducible repeat' first
    | assumption | apply keeps_storeUe | apply keeps_note | apply keeps_lineUe | apply keeps_lineCe | dsimp only
    | simp only [keeps_mk] | (refine keeps_foldl _ (fun t x ht => ?_) _ ?_) | (refine keeps_foldl_fst _ (fun t x ht => ?_) _ ?_)
    | split
theorem keeps_admitLine {z : State} (s : State) (n : Ch) (k : Nat) (early : Bool) (errs : List MemErr) (hs : Keeps z s) :
    Keeps z (State.admitLine s n k early errs).1 := by
  unfold State.admitLine
  with_reducible repeat' first
    | assumption | apply keeps_note | apply keeps_storeImage | apply keeps_queueTake | apply keeps_flagBump | dsimp only
    | simp only [keeps_mk] | split
theorem keeps_entryErrs {z : State} (s : State) (n : Ch) (k : Nat) (hs : Keeps z s) : Keeps z (State.entryErrs s n k) := by
  unfold State.entryErrs
  with_reducible repeat' first
    | assumption | apply keeps_note | apply keeps_tableUe | dsimp only | simp only [keeps_mk]
    | (refine keeps_foldl _ (fun t x ht => ?_) _ ?_)
theorem keeps_encodeLine {z : State} (s : State) (n : Ch) (k : Nat) (null held : Bool) (hs : Keeps z s) :
    Keeps z (State.encodeLine s n k null held) := by
  unfold State.encodeLine
  with_reducible repeat' first
    | assumption | apply keeps_shiftHistory | apply keeps_encodeCodes | apply keeps_modLine | dsimp only | simp only [keeps_mk]
    | split
theorem keeps_boundaryEnd {z : State} (s : State) (n : Ch) (k : Nat) (hs : Keeps z s) :
    Keeps z (State.boundaryEnd s n k) := by
  unfold State.boundaryEnd
  with_reducible repeat' first
    | assumption | apply keeps_rebaseSettle | apply keeps_tableTouch | apply keeps_modCh | apply keeps_put
theorem keeps_boundaryAt {z : State} (s : State) (n : Ch) (k : Nat) (errs : List MemErr) (hs : Keeps z s) :
    Keeps z (State.boundaryAt s n k errs) := by
  unfold State.boundaryAt
  with_reducible repeat' first
    | assumption | apply keeps_boundaryEnd | apply keeps_encodeLine | apply keeps_entryErrs | apply keeps_admitLine
    | apply keeps_lineErrs | apply keeps_boundaryHistory | apply keeps_boundaryCommit | apply keeps_boundaryEdits
    | apply keeps_tableErrs | apply keeps_note | apply keeps_thermalBoundary | apply keeps_shiftHistory | apply keeps_modCh
    | dsimp only | simp only [keeps_mk] | (refine keeps_foldl _ (fun t x ht => ?_) _ ?_)
    | (refine keeps_foldl_fst _ (fun t x ht => ?_) _ ?_) | split
theorem keeps_lineBoundary {z : State} (s : State) (n : Ch) (errs : List MemErr) (hs : Keeps z s) :
    Keeps z (State.lineBoundary s n errs) := by
  unfold State.lineBoundary
  with_reducible repeat' first | assumption | apply keeps_boundaryAt | dsimp only | simp only [keeps_mk] | split
theorem keeps_lineEncoded {z : State} (s : State) (n : Ch) (hs : Keeps z s) : Keeps z (State.lineEncoded s n) := by
  unfold State.lineEncoded
  with_reducible repeat' first | assumption | apply keeps_modLine | apply keeps_modCh | dsimp only | simp only [keeps_mk] | split
theorem keeps_transmitLine {z : State} (s : State) (n : Ch) (hs : Keeps z s) : Keeps z (State.transmitLine s n) := by
  unfold State.transmitLine
  with_reducible repeat' first | assumption | apply keeps_pump | apply keeps_linkTick | apply keeps_modCh

/-! ### Decision -/

theorem keeps_lateLatch {z : State} (s : State) (n : Ch) (l : Line) (hs : Keeps z s) : Keeps z (State.lateLatch s n l) := by
  unfold State.lateLatch
  with_reducible repeat' first
    | assumption | apply keeps_sendLatch | apply keeps_abandonLine | dsimp only | simp only [keeps_mk] | split
theorem keeps_fireLine {z : State} (s : State) (n : Ch) (l : Line) (tick : Nat) (runs : Bool) (hs : Keeps z s) :
    Keeps z (State.fireLine s n l tick runs) := by
  unfold State.fireLine
  with_reducible repeat' first
    | assumption | apply keeps_stripDecided | apply keeps_fireRails | apply keeps_travFired | apply keeps_senseLost
    | apply keeps_modCh | apply keeps_bump | dsimp only | simp only [keeps_mk] | split
theorem keeps_passLine {z : State} (s : State) (n : Ch) (l : Line) (tick : Nat) (hs : Keeps z s) :
    Keeps z (State.passLine s n l tick) := by
  unfold State.passLine
  with_reducible repeat' first
    | assumption | apply keeps_fireLine | apply keeps_lateLatch | apply keeps_decideMark | apply keeps_emcyMsg
    | apply keeps_flagBump | dsimp only | simp only [keeps_mk] | split
theorem keeps_lagLine {z : State} (s : State) (n : Ch) (k tick : Nat) (hs : Keeps z s) :
    Keeps z (State.lagLine s n k tick) := by
  unfold State.lagLine
  with_reducible repeat' first
    | assumption | apply keeps_fireLine | apply keeps_sendLatch | apply keeps_decideMark | apply keeps_emcyMsg | apply keeps_modCh
    | apply keeps_flagBump | dsimp only | simp only [keeps_mk] | split
theorem keeps_recovDrop {z : State} (s : State) (n : Ch) (k : Nat) (hs : Keeps z s) : Keeps z (State.recovDrop s n k) := by
  unfold State.recovDrop
  with_reducible repeat' first | assumption | apply keeps_dropPlain | apply keeps_flagBump
theorem keeps_placedCount {z : State} (s : State) (n : Ch) (kind : SchedKind) (hs : Keeps z s) :
    Keeps z (State.placedCount s n kind) := by
  unfold State.placedCount
  with_reducible repeat' first | assumption | apply keeps_flagBump | apply keeps_bump | dsimp only | simp only [keeps_mk] | split
theorem keeps_undelNote {z : State} (s : State) (n : Ch) (k : Nat) (hs : Keeps z s) : Keeps z (State.undelNote s n k) := by
  unfold State.undelNote
  with_reducible repeat' first | assumption | apply keeps_flagBump | dsimp only | simp only [keeps_mk] | split
theorem keeps_decideAt {z : State} (s0 : State) (n : Ch) (e : Sched) (tick : Nat) (hs0 : Keeps z s0) :
    Keeps z (State.decideAt s0 n e tick) := by
  unfold State.decideAt
  with_reducible repeat' first
    | assumption | apply keeps_undelNote | apply keeps_placedCount | apply keeps_recovDrop | apply keeps_lagLine
    | apply keeps_passLine | apply keeps_overspeed | apply keeps_gapDrop | dsimp only | simp only [keeps_mk] | split
theorem keeps_gapScheds {z : State} : ∀ (f : Nat) (x0 : Ch) (s : State), Keeps z s → Keeps z (State.gapScheds f x0 s) := by
  intro f
  induction f with
  | zero => intro x0 s h; exact h
  | succ f ih =>
    intro x0 s h
    unfold State.gapScheds
    with_reducible repeat' first | assumption | apply keeps_gapDrop | dsimp only | simp only [keeps_mk] | split | apply ih
theorem keeps_lineDecision {z : State} (s : State) (n : Ch) (hs : Keeps z s) : Keeps z (State.lineDecision s n) := by
  unfold State.lineDecision
  with_reducible repeat' first
    | assumption | apply keeps_gapScheds | apply keeps_decideAt | apply keeps_gapRebase | apply keeps_pump | apply keeps_linkTick
    | apply keeps_modTrav | apply keeps_at | dsimp only | simp only [keeps_mk] | split
theorem keeps_spx {z : State} (s : State) (n : Ch) (j : Nat) (hs : Keeps z s) : Keeps z (State.spx s n j) := by
  unfold State.spx
  with_reducible repeat' first | assumption | apply keeps_modLine | apply keeps_emit | dsimp only | simp only [keeps_mk] | split
theorem keeps_sns {z : State} (s : State) (n : Ch) (hs : Keeps z s) : Keeps z (State.sns s n) := by
  unfold State.sns
  with_reducible repeat' first
    | assumption | apply keeps_spx | apply keeps_senseOpen | apply keeps_emit | dsimp only | simp only [keeps_mk] | split

/-! ### Can -/

theorem keeps_nmtSet {z : State} (s : State) (x : Nmt) (hs : Keeps z s) : Keeps z (State.nmtSet s x) := by
  unfold State.nmtSet
  with_reducible repeat' first
    | assumption | apply keeps_tokenCheck | apply keeps_modCan | dsimp only | simp only [keeps_mk] | split
theorem keeps_resetComm {z : State} (s : State) (hs : Keeps z s) : Keeps z s.resetComm :=
  keeps_emit _ _ (keeps_loadParams _ _ (keeps_modDev _ _ (keeps_modCan _ _ (Keeps.of hs rfl (regsRiseFrom_filter _) id))))
theorem keeps_nmtResetComm {z : State} (s : State) (hs : Keeps z s) : Keeps z (State.nmtResetComm s) := by
  unfold State.nmtResetComm
  with_reducible repeat' first | assumption | apply keeps_resetComm | dsimp only | simp only [keeps_mk] | split
theorem keeps_nmtResetNode {z : State} (s : State) (hs : Keeps z s) : Keeps z (State.nmtResetNode s) := by
  unfold State.nmtResetNode
  with_reducible repeat' first
    | assumption | apply keeps_resetComm | apply keeps_deviceReset | apply keeps_emcyMsg | dsimp only | simp only [keeps_mk]
    | split
theorem keeps_hbReceived {z : State} (s : State) (hs : Keeps z s) : Keeps z (State.hbReceived s) := by
  unfold State.hbReceived
  with_reducible repeat' first
    | assumption | apply keeps_tokenCheck | apply keeps_condOff | apply keeps_unflag | dsimp only | simp only [keeps_mk] | split
theorem keeps_hbLost {z : State} (s : State) (hs : Keeps z s) : Keeps z (State.hbLost s) := by
  unfold State.hbLost
  with_reducible repeat' first
    | assumption | apply keeps_tokenCheck | apply keeps_condOn | apply keeps_emcyMsg | apply keeps_flag | dsimp only
    | simp only [keeps_mk] | split
theorem keeps_hbSend {z : State} (s : State) (hs : Keeps z s) : Keeps z (State.hbSend s) := by
  unfold State.hbSend
  with_reducible repeat' first | assumption | apply keeps_emit | dsimp only | simp only [keeps_mk] | split
theorem keeps_busOff {z : State} (s : State) (hs : Keeps z s) : Keeps z (State.busOff s) := by
  unfold State.busOff
  with_reducible repeat' first
    | assumption | apply keeps_freeBits | apply keeps_tokenCheck | apply keeps_flag | apply keeps_put | dsimp only
    | simp only [keeps_mk] | split
theorem keeps_busRecover {z : State} (s : State) (hs : Keeps z s) : Keeps z (State.busRecover s) := by
  unfold State.busRecover
  with_reducible repeat' first
    | assumption | apply keeps_emcyMsg | apply keeps_unflag | apply keeps_put | dsimp only | simp only [keeps_mk] | split
theorem keeps_modTpdo {z : State} (s : State) (p : Nat) (f : Tpdo → Tpdo) (hs : Keeps z s) :
    Keeps z (State.modTpdo s p f) := by
  unfold State.modTpdo
  with_reducible repeat' first | assumption | apply keeps_modCan
theorem keeps_tTake {z : State} (s : State) (p : Nat) (hs : Keeps z s) : Keeps z (State.tTake s p).1 := by
  unfold State.tTake
  with_reducible repeat' first
    | assumption | apply keeps_objRead | dsimp only | simp only [keeps_mk] | (refine keeps_foldl _ (fun t x ht => ?_) _ ?_)
    | (refine keeps_foldl_fst _ (fun t x ht => ?_) _ ?_) | split
theorem keeps_tAsk {z : State} (s : State) (p : Nat) (w : PdoWait) (f : State → State) (hs : Keeps z s) (hf : ∀ (x0 : State), Keeps z x0 → Keeps z (f x0)) :
    Keeps z (State.tAsk s p w f) := by
  unfold State.tAsk
  with_reducible repeat' first
    | apply hf | assumption | apply keeps_modTpdo | apply keeps_feStart | dsimp only | simp only [keeps_mk]
    | (refine keeps_foldl _ (fun t x ht => ?_) _ ?_) | (refine keeps_foldl_fst _ (fun t x ht => ?_) _ ?_) | split
theorem keeps_tSendNow {z : State} (p : Nat) (s : State) (hs : Keeps z s) : Keeps z (State.tSendNow p s) := by
  unfold State.tSendNow
  with_reducible repeat' first | assumption | apply keeps_tTake | apply keeps_modTpdo | apply keeps_emit
theorem keeps_tSend {z : State} (s : State) (p : Nat) (hs : Keeps z s) : Keeps z (State.tSend s p) := by
  unfold State.tSend
  with_reducible repeat' first | assumption | apply keeps_tSendNow | apply keeps_tAsk
theorem keeps_tDue {z : State} (s : State) (p : Nat) (hs : Keeps z s) : Keeps z (State.tDue s p) := by
  unfold State.tDue
  with_reducible repeat' first | assumption | apply keeps_tSend | apply keeps_modTpdo | dsimp only | simp only [keeps_mk] | split
theorem keeps_tpdoTimer {z : State} (s : State) (p : Nat) (hs : Keeps z s) : Keeps z (State.tpdoTimer s p) := by
  unfold State.tpdoTimer
  with_reducible repeat' first | assumption | apply keeps_tDue | dsimp only | simp only [keeps_mk] | split
theorem keeps_tCheckNow {z : State} (p : Nat) (s : State) (hs : Keeps z s) : Keeps z (State.tCheckNow p s) := by
  unfold State.tCheckNow
  with_reducible repeat' first
    | assumption | apply keeps_tSendNow | apply keeps_tTake | apply keeps_modTpdo | dsimp only | simp only [keeps_mk] | split
theorem keeps_tCheck {z : State} (s : State) (p : Nat) (hs : Keeps z s) : Keeps z (State.tCheck s p) := by
  unfold State.tCheck
  with_reducible repeat' first | assumption | apply keeps_tCheckNow | apply keeps_tAsk | dsimp only | simp only [keeps_mk] | split
theorem keeps_tpdoCheck {z : State} (s : State) (hs : Keeps z s) : Keeps z (State.tpdoCheck s) := by
  unfold State.tpdoCheck
  with_reducible repeat' first
    | assumption | apply keeps_tCheck | dsimp only | simp only [keeps_mk] | (refine keeps_foldl _ (fun t x ht => ?_) _ ?_)
    | (refine keeps_foldl_fst _ (fun t x ht => ?_) _ ?_) | split
theorem keeps_tpdoRemote {z : State} (s : State) (p : Nat) (hs : Keeps z s) : Keeps z (State.tpdoRemote s p) := by
  unfold State.tpdoRemote
  with_reducible repeat' first | assumption | apply keeps_tSend | dsimp only | simp only [keeps_mk] | split
theorem keeps_tChanged {z : State} (p : Nat) (s : State) (hs : Keeps z s) : Keeps z (State.tChanged p s) := by
  unfold State.tChanged
  with_reducible repeat' first | assumption | apply keeps_tSendNow | apply keeps_tTake | dsimp only | simp only [keeps_mk] | split
theorem keeps_tGo {z : State} (s : State) (p : Nat) (hs : Keeps z s) : Keeps z (State.tGo s p) := by
  unfold State.tGo
  with_reducible repeat' first
    | assumption | apply keeps_tChanged | apply keeps_tCheckNow | apply keeps_tSendNow | apply keeps_modTpdo | dsimp only
    | simp only [keeps_mk] | split
theorem keeps_tpdoGo {z : State} (s : State) (hs : Keeps z s) : Keeps z (State.tpdoGo s) := by
  unfold State.tpdoGo
  with_reducible repeat' first
    | assumption | apply keeps_tGo | dsimp only | simp only [keeps_mk] | (refine keeps_foldl _ (fun t x ht => ?_) _ ?_)
theorem keeps_tSync {z : State} (s : State) (p : Nat) (hs : Keeps z s) : Keeps z (State.tSync s p) := by
  unfold State.tSync
  with_reducible repeat' first
    | assumption | apply keeps_tChanged | apply keeps_tSend | apply keeps_tAsk | apply keeps_modTpdo | dsimp only
    | simp only [keeps_mk] | split
theorem keeps_rWrite {z : State} (a : State × List Byte × Option Nat) (e : Nat) (h : Keeps z a.1) : Keeps z (State.rWrite a e).1 := by
  unfold State.rWrite
  repeat' first
    | with_reducible assumption
    | with_reducible apply keeps_bump
    | with_reducible apply keeps_objWrite
    | split
    | dsimp only
theorem keeps_rApply {z : State} (s : State) (p : Nat) (data : List Byte) (hs : Keeps z s) :
    Keeps z (State.rApply s p data) := by
  unfold State.rApply
  with_reducible repeat' first
    | assumption | apply keeps_rWrite | apply keeps_setExpert | apply keeps_emcyInfo | dsimp only | simp only [keeps_mk]
    | (refine keeps_foldl _ (fun t x ht => ?_) _ ?_) | (refine keeps_foldl_fst _ (fun t x ht => ?_) _ ?_) | split
theorem keeps_rpdo {z : State} (s : State) (p : Nat) (data : List Byte) (hs : Keeps z s) :
    Keeps z (State.rpdo s p data) := by
  unfold State.rpdo
  with_reducible repeat' first
    | assumption | apply keeps_rApply | apply keeps_emcyMsg | apply keeps_modCan | dsimp only | simp only [keeps_mk] | split
theorem keeps_canSync {z : State} (s : State) (hs : Keeps z s) : Keeps z (State.canSync s) := by
  unfold State.canSync
  with_reducible repeat' first
    | assumption | apply keeps_rApply | apply keeps_tSync | apply keeps_modCan | dsimp only | simp only [keeps_mk]
    | (refine keeps_foldl _ (fun t x ht => ?_) _ ?_) | (refine keeps_foldl_fst _ (fun t x ht => ?_) _ ?_) | split
theorem keeps_sendRecord {z : State} (s : State) (v : Nat) (rest : List Msg) (hs : Keeps z s) :
    Keeps z (State.sendRecord s v rest) := by
  unfold State.sendRecord
  with_reducible repeat' first
    | assumption | apply keeps_tSend | apply keeps_modTpdo | apply keeps_modCan | apply keeps_put | dsimp only
    | simp only [keeps_mk] | (refine keeps_foldl _ (fun t x ht => ?_) _ ?_) | (refine keeps_foldl_fst _ (fun t x ht => ?_) _ ?_)
    | split
theorem keeps_emcySend {z : State} (s : State) (hs : Keeps z s) : Keeps z (State.emcySend s) := by
  unfold State.emcySend
  with_reducible repeat' first
    | assumption | apply keeps_sendRecord | apply keeps_record | apply keeps_modCan | apply keeps_emit | dsimp only
    | simp only [keeps_mk] | split
theorem keeps_inhibitEnd {z : State} (s : State) (p : Nat) (hs : Keeps z s) : Keeps z (State.inhibitEnd s p) := by
  unfold State.inhibitEnd
  with_reducible repeat' first
    | assumption | apply keeps_sendRecord | apply keeps_tSend | apply keeps_modTpdo | apply keeps_record | apply keeps_at
    | dsimp only | simp only [keeps_mk] | split
theorem keeps_lssAnswer {z : State} (s : State) (cs v : Nat) (hs : Keeps z s) : Keeps z (State.lssAnswer s cs v) := by
  unfold State.lssAnswer
  with_reducible repeat' first | assumption | apply keeps_emit | dsimp only | simp only [keeps_mk] | split
theorem keeps_lssScan {z : State} (s : State) (id bitCheck sub next : Nat) (hs : Keeps z s) :
    Keeps z (State.lssScan s id bitCheck sub next) := by
  unfold State.lssScan
  with_reducible repeat' first
    | assumption | apply keeps_lssAnswer | apply keeps_modCan | dsimp only | simp only [keeps_mk] | split

/-! ### Bar -/

theorem keeps_sinkAct {z : State} (s : State) (k : Nat) (hs : Keeps z s) : Keeps z (State.sinkAct s k) := by
  unfold State.sinkAct
  with_reducible repeat' first
    | assumption | apply keeps_dmaTrigger | apply keeps_captureSink | apply keeps_stakeArm | apply keeps_cause | apply keeps_emit
    | dsimp only | simp only [keeps_mk] | split
theorem keeps_sinkTake {z : State} (s : State) (k : Nat) (hs : Keeps z s) : Keeps z (State.sinkTake s k) := by
  unfold State.sinkTake
  with_reducible repeat' first
    | assumption | apply keeps_sinkAct | apply keeps_bump | apply keeps_unflag | apply keeps_flag | dsimp only
    | simp only [keeps_mk] | split
theorem keeps_deliver {z : State} (s : State) (src : Nat) (hs : Keeps z s) : Keeps z (State.deliver s src) := by
  unfold State.deliver
  with_reducible repeat' first
    | assumption | apply keeps_sinkTake | dsimp only | simp only [keeps_mk] | (refine keeps_foldl _ (fun t x ht => ?_) _ ?_)
    | (refine keeps_foldl_fst _ (fun t x ht => ?_) _ ?_) | split
theorem keeps_eventPulse {z : State} (s : State) (hs : Keeps z s) : Keeps z (State.eventPulse s) := by
  unfold State.eventPulse
  with_reducible repeat' first | assumption | apply keeps_deliver | apply keeps_at | dsimp only | simp only [keeps_mk] | split
theorem keeps_deliverDue {z : State} : ∀ (f : Nat)  (s : State), Keeps z s → Keeps z (State.deliverDue f s) := by
  intro f
  induction f with
  | zero => intro  s h; exact h
  | succ f ih =>
    intro  s h
    unfold State.deliverDue
    with_reducible repeat' first | assumption | apply keeps_eventPulse | dsimp only | simp only [keeps_mk] | split | apply ih
theorem keeps_syncReceived {z : State} (s : State) (hs : Keeps z s) : Keeps z (State.syncReceived s) := by
  unfold State.syncReceived
  with_reducible repeat' first
    | assumption | apply keeps_commitSync | apply keeps_homeDone | apply keeps_pulse | apply keeps_incr | dsimp only
    | simp only [keeps_mk] | (refine keeps_foldl _ (fun t x ht => ?_) _ ?_) | (refine keeps_foldl_fst _ (fun t x ht => ?_) _ ?_)
    | split
theorem keeps_deferIf {z : State} (s : State) (c : Instr) (f : State → State) (hs : Keeps z s)
    (hf : ∀ t : State, Keeps z t → Keeps z (f t)) : Keeps z (s.deferIf c f) := by
  unfold State.deferIf
  split
  · exact hs.same rfl rfl rfl
  · exact hf s hs
theorem keeps_reqWrite {z : State} (s : State) (w : World) (p : Port) (idx sub : Nat) (data : List Byte) (hs : Keeps z s) :
    Keeps z (State.reqWrite s w p idx sub data) := by
  unfold State.reqWrite
  with_reducible repeat' first | intro t ht | assumption | apply keeps_deferIf | apply keeps_sdoWrite
theorem keeps_reqRead {z : State} (s : State) (p : Port) (idx sub : Nat) (hs : Keeps z s) :
    Keeps z (State.reqRead s p idx sub) := by
  unfold State.reqRead
  with_reducible repeat' first | intro t ht | assumption | apply keeps_deferIf | apply keeps_sdoRead
theorem keeps_mbTouch {z : State} (s : State) (idx sub : Nat) (hs : Keeps z s) : Keeps z (State.mbTouch s idx sub) := by
  unfold State.mbTouch
  with_reducible repeat' first | assumption | apply keeps_otpTouch | dsimp only | simp only [keeps_mk] | split
theorem keeps_mbArea {z : State} (s : State) (ofs len : Nat) (hs : Keeps z s) : Keeps z (State.mbArea s ofs len).1 := by
  unfold State.mbArea
  with_reducible repeat' first | assumption | apply keeps_spParity
theorem keeps_mbDo {z : State} (s : State) (cmd idx sub len ofs : Nat) (data : List Byte) (hs : Keeps z s) :
    Keeps z (State.mbDo s cmd idx sub len ofs data) := by
  unfold State.mbDo
  with_reducible repeat' first
    | assumption | apply keeps_mbArea | apply keeps_mbTouch | apply keeps_sdoRead | apply keeps_sdoWrite | apply keeps_answer
    | dsimp only | simp only [keeps_mk] | split
theorem keeps_mbServe {z : State} (s : State) (idx sub : Nat) (hs : Keeps z s) : Keeps z (State.mbServe s idx sub) := by
  unfold State.mbServe
  with_reducible repeat' first | intro t ht | assumption | apply keeps_mbDo | apply keeps_deferIf
theorem keeps_serveDeferred {z : State} (s : State) (c : Instr) (hs : Keeps z s) : Keeps z (State.serveDeferred s c) := by
  unfold State.serveDeferred
  with_reducible repeat' first
    | assumption | apply keeps_mbDo | apply keeps_sdoRead | apply keeps_sdoWrite | dsimp only | simp only [keeps_mk] | split
theorem keeps_serveLost {z : State} (s : State) (c : Instr) (hs : Keeps z s) : Keeps z (State.serveLost s c) := by
  unfold State.serveLost
  with_reducible repeat' first
    | assumption | apply keeps_loseAnswers | apply keeps_serveDeferred | dsimp only | simp only [keeps_mk]
theorem keeps_serveAll {z : State} (s : State) (hs : Keeps z s) : Keeps z (State.serveAll s) := by
  unfold State.serveAll
  with_reducible repeat' first
    | assumption | apply keeps_serveLost | apply keeps_serveDeferred | split | dsimp only | simp only [keeps_mk] | (refine keeps_foldl _ (fun t x ht => ?_) _ ?_)
theorem keeps_restartDone {z : State} (s : State) (rom : RomView) (hs : Keeps z s) : Keeps z (State.restartDone s rom) := by
  unfold State.restartDone
  with_reducible repeat' first
    | assumption | apply keeps_serveAll | apply keeps_romSeen | apply keeps_modDev | dsimp only | simp only [keeps_mk] | split
theorem keeps_tapDebug {z : State} (s0 : State) (op : DbgOp) (hs0 : Keeps z s0) : Keeps z (State.tapDebug s0 op) := by
  unfold State.tapDebug
  with_reducible repeat' first
    | assumption | apply keeps_serveAll | apply keeps_tapTake | apply keeps_slotWrite | apply keeps_spParity | apply keeps_spApply
    | apply keeps_modDev | apply keeps_emit | dsimp only | simp only [keeps_mk] | split
theorem keeps_mbGo {z : State} (s : State) (hs : Keeps z s) : Keeps z (State.mbGo s) := by
  unfold State.mbGo
  with_reducible repeat' first
    | assumption | apply keeps_mbServe | apply keeps_unflag | apply keeps_flag | dsimp only | simp only [keeps_mk] | split
theorem keeps_mbRequest {z : State} (s : State) (cmd idx sub seq len ofs : Nat) (data : List Byte) (hs : Keeps z s) :
    Keeps z (State.mbRequest s cmd idx sub seq len ofs data) := by
  unfold State.mbRequest
  with_reducible repeat' first
    | assumption | apply keeps_mbGo | apply keeps_put | dsimp only | simp only [keeps_mk]
    | (refine keeps_foldl _ (fun t x ht => ?_) _ ?_) | (refine keeps_foldl_fst _ (fun t x ht => ?_) _ ?_) | split
theorem keeps_barWord {z : State} (s : State) (addr data : Nat) (hs : Keeps z s) : Keeps z (State.barWord s addr data) := by
  unfold State.barWord
  with_reducible repeat' first
    | assumption | apply keeps_mbGo | apply keeps_deliverDue | apply keeps_regWrite | dsimp only | simp only [keeps_mk] | split
theorem keeps_tableLanes {z : State} (s : State) (n : Ch) (ofs : Nat) (ls : List (Option Byte)) (hs : Keeps z s) :
    Keeps z (State.tableLanes s n ofs ls) := by
  unfold State.tableLanes
  with_reducible repeat' first
    | assumption | apply keeps_tableStore | dsimp only | simp only [keeps_mk] | (refine keeps_foldl _ (fun t x ht => ?_) _ ?_)
    | (refine keeps_foldl_fst _ (fun t x ht => ?_) _ ?_) | split
theorem keeps_barMem {z : State} (s : State) (addr : Nat) (ls : List (Option Byte)) (hs : Keeps z s) :
    Keeps z (State.barMem s addr ls) := by
  unfold State.barMem
  with_reducible repeat' first
    | assumption | apply keeps_tableLanes | apply keeps_tableStore | apply keeps_spWrite | apply keeps_completerAbort | dsimp only
    | simp only [keeps_mk] | split
theorem keeps_barDword {z : State} (s : State) (addr : Nat) (be : BitVec 4) (data : Nat) (hs : Keeps z s) :
    Keeps z (State.barDword s addr be data) := by
  unfold State.barDword
  with_reducible repeat' first | assumption | apply keeps_barWord | apply keeps_flag | dsimp only | simp only [keeps_mk] | split
theorem keeps_barStore {z : State} (s : State) (addr : Nat) (be : BitVec 4) (data : Nat) (upper : Option (BitVec 4 × Nat)) (hs : Keeps z s) :
    Keeps z (State.barStore s addr be data upper) := by
  unfold State.barStore
  with_reducible repeat' first
    | assumption | apply keeps_barDword | apply keeps_barMem | apply keeps_completerAbort | dsimp only | simp only [keeps_mk]
    | split
theorem keeps_barBytes {z : State} (s : State) (addr : Nat) (bytes : List Byte) (hs : Keeps z s) :
    Keeps z (State.barBytes s addr bytes) := by
  unfold State.barBytes
  with_reducible repeat' first
    | assumption | apply keeps_barStore | apply keeps_barMem | apply keeps_completerAbort | dsimp only | simp only [keeps_mk]
    | split
theorem keeps_winRead {z : State} (s : State) (addr len : Nat) (bad : List Nat) (hs : Keeps z s) :
    Keeps z (State.winRead s addr len bad).1 := by
  unfold State.winRead
  with_reducible repeat' first
    | assumption | apply keeps_bankParity | apply keeps_spParity | apply keeps_sliceTouch | apply keeps_spoil
    | apply keeps_parityNote | dsimp only | simp only [keeps_mk] | (refine keeps_foldl _ (fun t x ht => ?_) _ ?_)
    | (refine keeps_foldl_fst _ (fun t x ht => ?_) _ ?_) | split
theorem keeps_barRead {z : State} (s0 : State) (addr len : Nat) (bad : List Nat) (sp : Option SPort) (hs0 : Keeps z s0) :
    Keeps z (State.barRead s0 addr len bad sp) := by
  unfold State.barRead
  with_reducible repeat' first
    | assumption | apply keeps_winRead | apply keeps_wordRead | apply keeps_completerAbort | apply keeps_sAccess
    | apply keeps_emit | dsimp only | simp only [keeps_mk] | (refine keeps_foldl _ (fun t x ht => ?_) _ ?_)
    | (refine keeps_foldl_fst _ (fun t x ht => ?_) _ ?_) | split
theorem keeps_viaReg {z : State} (s : State) (addr data : Nat) (hs : Keeps z s) : Keeps z (State.viaReg s addr data) := by
  unfold State.viaReg
  with_reducible repeat' first | assumption | apply keeps_barStore
theorem keeps_portWrite {z : State} (s : State) (w : World) (p : Port) (idx sub : Nat) (data : List Byte) (hs : Keeps z s) :
    Keeps z (State.portWrite s w p idx sub data) := by
  unfold State.portWrite
  with_reducible repeat' first | assumption | apply keeps_reqWrite | dsimp only | simp only [keeps_mk] | split
theorem keeps_portRead {z : State} (s : State) (p : Port) (idx sub : Nat) (hs : Keeps z s) :
    Keeps z (State.portRead s p idx sub) := by
  unfold State.portRead
  with_reducible repeat' first | assumption | apply keeps_reqRead | dsimp only | simp only [keeps_mk] | split

/-! ### StartUp -/

theorem keeps_resetRelease {z : State} (s : State) (node : Nat) (hs : Keeps z s) : Keeps z (State.resetRelease s node) := by
  unfold State.resetRelease
  with_reducible repeat' first
    | assumption | apply keeps_modCan | apply keeps_modDev | apply keeps_put | dsimp only | simp only [keeps_mk] | split
theorem keeps_datumBuild {z : State} (s : State) (hs : Keeps z s) : Keeps z (State.datumBuild s) := by
  unfold State.datumBuild
  with_reducible repeat' first | assumption | apply keeps_modDev | dsimp only | simp only [keeps_mk]
theorem keeps_pllLock {z : State} (s : State) (hs : Keeps z s) : Keeps z s.pllLock := by
  unfold State.pllLock
  dsimp only
  split
  · apply keeps_datumBuild
    apply keeps_modDev
    exact Keeps.of (keeps_modDev s (fun d => { d with pll := true }) hs) rfl id (fun _ => rfl)
  · exact keeps_modDev _ _ hs
theorem keeps_pllLost {z : State} (s : State) (hs : Keeps z s) : Keeps z (State.pllLost s) := by
  unfold State.pllLost
  with_reducible repeat' first
    | assumption | apply keeps_enterSafe | apply keeps_modDev | dsimp only | simp only [keeps_mk] | split
theorem keeps_bootFirmware {z : State} (s : State) (hs : Keeps z s) : Keeps z (State.bootFirmware s) := by
  unfold State.bootFirmware
  with_reducible repeat' first | assumption | apply keeps_freeBits | dsimp only | simp only [keeps_mk]
theorem keeps_firmwareStart {z : State} (s : State) (v : BootView) (hs : Keeps z s) :
    Keeps z (State.firmwareStart s v) := by
  unfold State.firmwareStart
  with_reducible repeat' first
    | assumption | apply keeps_bootFirmware | apply keeps_epochLoaded | apply keeps_loadParams | apply keeps_romSeen
    | apply keeps_benchStart | apply keeps_tokenCheck | apply keeps_modCan | apply keeps_modDev | apply keeps_emit
    | apply keeps_put | dsimp only | simp only [keeps_mk] | split
theorem keeps_resetNow {z : State} (s : State) (src : Nat) (hs : Keeps z s) : Keeps z (State.resetNow s src) := by
  unfold State.resetNow
  with_reducible repeat' first | assumption | apply keeps_deviceReset

/-! ### Incidents -/

theorem keeps_classS {z : State} (s : State) (bitNo code : Nat) (hs : Keeps z s) : Keeps z (State.classS s bitNo code) := by
  unfold State.classS
  with_reducible repeat' first | assumption | apply keeps_enterSafe | dsimp only | simp only [keeps_mk] | split
theorem keeps_hitsOut {z : State} (s : State) (hits : List Hit) (hs : Keeps z s) : Keeps z (s.hitsOut hits) :=
  keeps_foldl _ (fun _ _ ht => keeps_forCh _ _ ht (fun _ _ hu => keeps_stripHit _ _ _ (keeps_travHit _ _ _ hu))) _ hs
theorem keeps_recordOut {z : State} (s : State) (n : Cun) (back : Bool) (t ready : Nat) (ssi : Option (Nat × Nat)) (regained : Bool) (hs : Keeps z s) :
    Keeps z (State.recordOut s n back t ready ssi regained) := by
  unfold State.recordOut
  with_reducible repeat' first | assumption | apply keeps_travRecords
theorem keeps_quadIn {z : State} (s : State) (n : Cun) (a b : Bool) (tick : Nat) (hs : Keeps z s) :
    Keeps z (State.quadIn s n a b tick) := by
  unfold State.quadIn
  with_reducible repeat' first
    | assumption | apply keeps_recordOut | apply keeps_hitsOut | apply keeps_quadEdge | apply keeps_at | dsimp only
    | simp only [keeps_mk] | split
theorem keeps_ssiIn {z : State} (s : State) (n : Cun) (low : Bool) (raw : Nat) (chk : Bool) (tick : Nat) (hs : Keeps z s) :
    Keeps z (State.ssiIn s n low raw chk tick) := by
  unfold State.ssiIn
  with_reducible repeat' first
    | assumption | apply keeps_recordOut | apply keeps_hitsOut | apply keeps_ssiFrameEnd | apply keeps_at | dsimp only
    | simp only [keeps_mk] | split
theorem keeps_ssiStart {z : State} (s : State) (n : Cun) (tick : Nat) (hs : Keeps z s) :
    Keeps z (State.ssiStart s n tick) := by
  unfold State.ssiStart
  with_reducible repeat' first
    | assumption | apply keeps_modCu | apply keeps_emit | apply keeps_at | dsimp only | simp only [keeps_mk] | split
theorem keeps_switchIn {z : State} (s : State) (n : Cun) (sw : Switch) (level : Bool) (hs : Keeps z s) :
    Keeps z (State.switchIn s n sw level) := by
  unfold State.switchIn
  with_reducible repeat' first | assumption | apply keeps_swFollow | apply keeps_modCu
theorem keeps_stillIn {z : State} (s : State) (n : Cun) (tick : Nat) (hs : Keeps z s) :
    Keeps z (State.stillIn s n tick) := by
  unfold State.stillIn
  with_reducible repeat' first | assumption | apply keeps_enterStill | apply keeps_at | dsimp only | simp only [keeps_mk] | split
theorem keeps_lateIn {z : State} (s : State) (i : Stk) (hs : Keeps z s) : Keeps z (State.lateIn s i) := by
  unfold State.lateIn
  with_reducible repeat' first | assumption | apply keeps_hitsOut | apply keeps_stakeLateHit
theorem keeps_d2dFail {z : State} (s : State) (n : Ch) (hs : Keeps z s) : Keeps z (State.d2dFail s n) := by
  unfold State.d2dFail
  with_reducible repeat' first
    | assumption | apply keeps_railDrop | apply keeps_retire | apply keeps_emcyMsg | apply keeps_modDrive | apply keeps_bump
    | dsimp only | simp only [keeps_mk] | split
theorem keeps_supHold {z : State} (s : State) (hs : Keeps z s) : Keeps z (State.supHold s) := by
  unfold State.supHold
  with_reducible repeat' first
    | assumption | apply keeps_modDev | apply keeps_modDrive | apply keeps_unflag | apply keeps_flag | dsimp only
    | simp only [keeps_mk] | split
theorem keeps_supFail {z : State} (s : State) (hs : Keeps z s) : Keeps z (State.supFail s) := by
  unfold State.supFail
  with_reducible repeat' first
    | assumption | apply keeps_supHold | apply keeps_classS | apply keeps_modDev | apply keeps_bump | dsimp only
    | simp only [keeps_mk] | split
theorem keeps_supApply {z : State} (s : State) (hs : Keeps z s) : Keeps z (State.supApply s) := by
  unfold State.supApply
  with_reducible repeat' first
    | assumption | apply keeps_prechargeStart | apply keeps_switchOpen | dsimp only | simp only [keeps_mk] | split
theorem keeps_supAgain {z : State} (s : State) (hs : Keeps z s) : Keeps z (State.supAgain s) := by
  unfold State.supAgain
  with_reducible repeat' first
    | assumption | apply keeps_supApply | apply keeps_modDev | apply keeps_emit | dsimp only | simp only [keeps_mk] | split
theorem keeps_resIn {z : State} (s : State) (n : Ch) (hs : Keeps z s) : Keeps z (State.resIn s n) := by
  unfold State.resIn
  with_reducible repeat' first | assumption | apply keeps_resFault | apply keeps_put | dsimp only | simp only [keeps_mk] | split
theorem keeps_rampFail {z : State} (s : State) (n : Ch) (hs : Keeps z s) : Keeps z (State.rampFail s n) := by
  unfold State.rampFail
  with_reducible repeat' first
    | assumption | apply keeps_resFault | apply keeps_switchOpen | apply keeps_stopRails | apply keeps_unflag | dsimp only
    | simp only [keeps_mk] | split
theorem keeps_railsBack {z : State} (s : State) (n : Ch) (hs : Keeps z s) : Keeps z (State.railsBack s n) := by
  unfold State.railsBack
  with_reducible repeat' first
    | assumption | apply keeps_railsDone | apply keeps_modDrive | dsimp only | simp only [keeps_mk] | split
theorem keeps_vhvIn {z : State} (s : State) (n : Ch) (hs : Keeps z s) : Keeps z (State.vhvIn s n) := by
  unfold State.vhvIn
  with_reducible repeat' first
    | assumption | apply keeps_classS | apply keeps_upFail | apply keeps_modDrive | dsimp only | simp only [keeps_mk] | split
theorem keeps_balanceIn {z : State} (s0 : State) (n : Ch) (errs : List Int) (hs0 : Keeps z s0) :
    Keeps z (State.balanceIn s0 n errs) := by
  unfold State.balanceIn
  with_reducible repeat' first
    | assumption | apply keeps_balance | apply keeps_switchPass | apply keeps_benchFail | dsimp only | simp only [keeps_mk]
    | split
theorem keeps_overIn {z : State} (s : State) (n : Ch) (w : Bool) (hs : Keeps z s) : Keeps z (State.overIn s n w) := by
  unfold State.overIn
  with_reducible repeat' first | assumption | apply keeps_overcurrent | dsimp only | simp only [keeps_mk] | split
theorem keeps_verdictPass {z : State} (s : State) (n : Ch) (hs : Keeps z s) : Keeps z (State.verdictPass s n) := by
  unfold State.verdictPass
  with_reducible repeat' first
    | assumption | apply keeps_modHealth | apply keeps_modCh | dsimp only | simp only [keeps_mk] | split
theorem keeps_tamperIn {z : State} (s : State) (hs : Keeps z s) : Keeps z (State.tamperIn s) := by
  unfold State.tamperIn
  with_reducible repeat' first | assumption | apply keeps_wipeGo | apply keeps_modDev | dsimp only | simp only [keeps_mk] | split
theorem keeps_tamperHigh {z : State} (s : State) (hs : Keeps z s) : Keeps z (State.tamperHigh s) := by
  unfold State.tamperHigh
  with_reducible repeat' first | assumption | apply keeps_modDev
theorem keeps_glitchIn {z : State} (s : State) (voltage : Bool) (hs : Keeps z s) : Keeps z (State.glitchIn s voltage) := by
  unfold State.glitchIn
  with_reducible repeat' first | assumption | apply keeps_wipeGo
theorem keeps_supplyFault {z : State} (s : State) (which : Nat) (hs : Keeps z s) : Keeps z (State.supplyFault s which) := by
  unfold State.supplyFault
  with_reducible repeat' first | assumption | apply keeps_classS | apply keeps_modDev | dsimp only | simp only [keeps_mk] | split
theorem keeps_condClear {z : State} (s : State) (i : Nat) (hs : Keeps z s) : Keeps z (State.condClear s i) := by
  unfold State.condClear
  with_reducible repeat' first
    | assumption | apply keeps_condOff | apply keeps_modDev | apply keeps_put | dsimp only | simp only [keeps_mk] | split
theorem keeps_pcieResetIn {z : State} (s : State) (k : HostReset) (hs : Keeps z s) : Keeps z (State.pcieResetIn s k) := by
  unfold State.pcieResetIn
  with_reducible repeat' first | assumption | apply keeps_hostReset | dsimp only | simp only [keeps_mk]
theorem keeps_perstOff {z : State} (s : State) (hs : Keeps z s) : Keeps z (State.perstOff s) := by
  unfold State.perstOff
  with_reducible repeat' first | assumption | dsimp only | simp only [keeps_mk]
theorem keeps_linkUpIn {z : State} (s : State) (hs : Keeps z s) : Keeps z (State.linkUpIn s) := by
  unfold State.linkUpIn
  with_reducible repeat' first | assumption | dsimp only | simp only [keeps_mk] | split
theorem keeps_d3In {z : State} (s : State) (hs : Keeps z s) : Keeps z (State.d3In s) := by
  unfold State.d3In
  with_reducible repeat' first
    | assumption | apply keeps_dmaHold | apply keeps_dmaTick | apply keeps_put | dsimp only | simp only [keeps_mk] | split
theorem keeps_d0In {z : State} (s : State) (hs : Keeps z s) : Keeps z (State.d0In s) := by
  unfold State.d0In
  with_reducible repeat' first | assumption | apply keeps_put | dsimp only | simp only [keeps_mk]
theorem keeps_perstWake {z : State} (s : State) (hs : Keeps z s) : Keeps z (State.perstWake s) := by
  unfold State.perstWake
  with_reducible repeat' first | assumption | apply keeps_wakeGo | dsimp only | simp only [keeps_mk] | split
theorem keeps_pixRestore {z : State} (s : State) (hs : Keeps z s) : Keeps z (State.pixRestore s) := by
  unfold State.pixRestore
  with_reducible repeat' first | assumption | apply keeps_sliceTouch | dsimp only | simp only [keeps_mk] | split
theorem keeps_bankRewrite {z : State} (s : State) (c : Nat) (hs : Keeps z s) : Keeps z (State.bankRewrite s c) := by
  unfold State.bankRewrite
  with_reducible repeat' first | assumption | apply keeps_sliceTouch | apply keeps_modCam
theorem keeps_tsrIn {z : State} (s : State) (n : Ch) (ver cap : Nat) (hs : Keeps z s) :
    Keeps z (State.tsrIn s n ver cap) := by
  unfold State.tsrIn
  with_reducible repeat' first
    | assumption | apply keeps_tsrTake | apply keeps_retrain | dsimp only | simp only [keeps_mk] | split
theorem keeps_ferrIn {z : State} (s : State) (n : Ch) (code tag : Nat) (hs : Keeps z s) :
    Keeps z (State.ferrIn s n code tag) := by
  unfold State.ferrIn
  with_reducible repeat' first | assumption | apply keeps_ferr | dsimp only | simp only [keeps_mk] | split
theorem keeps_codeViolation {z : State} (s : State) (n : Ch) (hs : Keeps z s) : Keeps z (State.codeViolation s n) := by
  unfold State.codeViolation
  with_reducible repeat' first | assumption | apply keeps_bump | dsimp only | simp only [keeps_mk] | split
theorem keeps_viaObj {z : State} (s : State) (p : Port) (idx sub k v : Nat) (hs : Keeps z s) :
    Keeps z (State.viaObj s p idx sub k v) := by
  unfold State.viaObj
  with_reducible repeat' first | assumption | apply keeps_portWrite
theorem keeps_viaOne {z : State} (s : State) (via : Via) (addr word idx sub k v : Nat) (hs : Keeps z s) :
    Keeps z (State.viaOne s via addr word idx sub k v) := by
  unfold State.viaOne
  with_reducible repeat' first | assumption | apply keeps_viaObj | apply keeps_viaReg | dsimp only | simp only [keeps_mk] | split

end Sys2Proof.Machine
end

