-- ==== Sys2Proof/Laws/State.lean ====
section
/-! SUPPORT. What every update leaves unchanged, field by field, and what it sets, so that no proof unfolds a record update. -/
namespace Sys2Proof.Machine

/-! ### The basic updates -/

@[simp] theorem put_pending (s : State) (f : Fld) (v : Nat) : (s.put f v).pending = s.pending := rfl
@[simp] theorem put_tb (s : State) (f : Fld) (v : Nat) : (s.put f v).tb = s.tb := rfl
@[simp] theorem put_ctr (s : State) (f : Fld) (v : Nat) : (s.put f v).ctr = s.ctr := rfl
@[simp] theorem put_cu (s : State) (f : Fld) (v : Nat) : (s.put f v).cu = s.cu := rfl
@[simp] theorem put_stake (s : State) (f : Fld) (v : Nat) : (s.put f v).stake = s.stake := rfl
@[simp] theorem put_inFlight (s : State) (f : Fld) (v : Nat) : (s.put f v).inFlight = s.inFlight := rfl
@[simp] theorem put_ch (s : State) (f : Fld) (v : Nat) : (s.put f v).ch = s.ch := rfl
@[simp] theorem put_devQ (s : State) (f : Fld) (v : Nat) : (s.put f v).devQ = s.devQ := rfl
@[simp] theorem put_epoch (s : State) (f : Fld) (v : Nat) : (s.put f v).epoch = s.epoch := rfl
@[simp] theorem put_pix (s : State) (f : Fld) (v : Nat) : (s.put f v).pix = s.pix := rfl
@[simp] theorem put_verdictLog (s : State) (f : Fld) (v : Nat) : (s.put f v).verdictLog = s.verdictLog := rfl
@[simp] theorem put_th (s : State) (f : Fld) (v : Nat) : (s.put f v).th = s.th := rfl
@[simp] theorem put_dma (s : State) (f : Fld) (v : Nat) : (s.put f v).dma = s.dma := rfl
@[simp] theorem put_granting (s : State) (f : Fld) (v : Nat) : (s.put f v).granting = s.granting := rfl
@[simp] theorem put_sp (s : State) (f : Fld) (v : Nat) : (s.put f v).sp = s.sp := rfl
@[simp] theorem put_parBad (s : State) (f : Fld) (v : Nat) : (s.put f v).parBad = s.parBad := rfl
@[simp] theorem put_bist (s : State) (f : Fld) (v : Nat) : (s.put f v).bist = s.bist := rfl
@[simp] theorem put_otp (s : State) (f : Fld) (v : Nat) : (s.put f v).otp = s.otp := rfl
@[simp] theorem put_datum (s : State) (f : Fld) (v : Nat) : (s.put f v).datum = s.datum := rfl
@[simp] theorem put_flash (s : State) (f : Fld) (v : Nat) : (s.put f v).flash = s.flash := rfl
@[simp] theorem put_can (s : State) (f : Fld) (v : Nat) : (s.put f v).can = s.can := rfl
@[simp] theorem put_pcie (s : State) (f : Fld) (v : Nat) : (s.put f v).pcie = s.pcie := rfl
@[simp] theorem put_deferred (s : State) (f : Fld) (v : Nat) : (s.put f v).deferred = s.deferred := rfl
@[simp] theorem put_fresh (s : State) (f : Fld) (v : Nat) : (s.put f v).fresh = s.fresh := rfl
@[simp] theorem put_dev (s : State) (f : Fld) (v : Nat) : (s.put f v).dev = s.dev := rfl
@[simp] theorem put_out (s : State) (f : Fld) (v : Nat) : (s.put f v).out = s.out := rfl
@[simp] theorem putEff_pending (s : State) (f : Fld) (v : Nat) : (s.putEff f v).pending = s.pending := rfl
@[simp] theorem putEff_tb (s : State) (f : Fld) (v : Nat) : (s.putEff f v).tb = s.tb := rfl
@[simp] theorem putEff_ctr (s : State) (f : Fld) (v : Nat) : (s.putEff f v).ctr = s.ctr := rfl
@[simp] theorem putEff_cu (s : State) (f : Fld) (v : Nat) : (s.putEff f v).cu = s.cu := rfl
@[simp] theorem putEff_stake (s : State) (f : Fld) (v : Nat) : (s.putEff f v).stake = s.stake := rfl
@[simp] theorem putEff_inFlight (s : State) (f : Fld) (v : Nat) : (s.putEff f v).inFlight = s.inFlight := rfl
@[simp] theorem putEff_ch (s : State) (f : Fld) (v : Nat) : (s.putEff f v).ch = s.ch := rfl
@[simp] theorem putEff_devQ (s : State) (f : Fld) (v : Nat) : (s.putEff f v).devQ = s.devQ := rfl
@[simp] theorem putEff_epoch (s : State) (f : Fld) (v : Nat) : (s.putEff f v).epoch = s.epoch := rfl
@[simp] theorem putEff_pix (s : State) (f : Fld) (v : Nat) : (s.putEff f v).pix = s.pix := rfl
@[simp] theorem putEff_verdictLog (s : State) (f : Fld) (v : Nat) : (s.putEff f v).verdictLog = s.verdictLog := rfl
@[simp] theorem putEff_th (s : State) (f : Fld) (v : Nat) : (s.putEff f v).th = s.th := rfl
@[simp] theorem putEff_dma (s : State) (f : Fld) (v : Nat) : (s.putEff f v).dma = s.dma := rfl
@[simp] theorem putEff_granting (s : State) (f : Fld) (v : Nat) : (s.putEff f v).granting = s.granting := rfl
@[simp] theorem putEff_sp (s : State) (f : Fld) (v : Nat) : (s.putEff f v).sp = s.sp := rfl
@[simp] theorem putEff_parBad (s : State) (f : Fld) (v : Nat) : (s.putEff f v).parBad = s.parBad := rfl
@[simp] theorem putEff_bist (s : State) (f : Fld) (v : Nat) : (s.putEff f v).bist = s.bist := rfl
@[simp] theorem putEff_otp (s : State) (f : Fld) (v : Nat) : (s.putEff f v).otp = s.otp := rfl
@[simp] theorem putEff_datum (s : State) (f : Fld) (v : Nat) : (s.putEff f v).datum = s.datum := rfl
@[simp] theorem putEff_flash (s : State) (f : Fld) (v : Nat) : (s.putEff f v).flash = s.flash := rfl
@[simp] theorem putEff_can (s : State) (f : Fld) (v : Nat) : (s.putEff f v).can = s.can := rfl
@[simp] theorem putEff_pcie (s : State) (f : Fld) (v : Nat) : (s.putEff f v).pcie = s.pcie := rfl
@[simp] theorem putEff_deferred (s : State) (f : Fld) (v : Nat) : (s.putEff f v).deferred = s.deferred := rfl
@[simp] theorem putEff_fresh (s : State) (f : Fld) (v : Nat) : (s.putEff f v).fresh = s.fresh := rfl
@[simp] theorem putEff_dev (s : State) (f : Fld) (v : Nat) : (s.putEff f v).dev = s.dev := rfl
@[simp] theorem putEff_out (s : State) (f : Fld) (v : Nat) : (s.putEff f v).out = s.out := rfl
@[simp] theorem at_pending (s : State) (t : Tick) : (s.at t).pending = s.pending := rfl
@[simp] theorem at_ctr (s : State) (t : Tick) : (s.at t).ctr = s.ctr := rfl
@[simp] theorem at_regs (s : State) (t : Tick) : (s.at t).regs = s.regs := rfl
@[simp] theorem at_cu (s : State) (t : Tick) : (s.at t).cu = s.cu := rfl
@[simp] theorem at_stake (s : State) (t : Tick) : (s.at t).stake = s.stake := rfl
@[simp] theorem at_inFlight (s : State) (t : Tick) : (s.at t).inFlight = s.inFlight := rfl
@[simp] theorem at_ch (s : State) (t : Tick) : (s.at t).ch = s.ch := rfl
@[simp] theorem at_devQ (s : State) (t : Tick) : (s.at t).devQ = s.devQ := rfl
@[simp] theorem at_epoch (s : State) (t : Tick) : (s.at t).epoch = s.epoch := rfl
@[simp] theorem at_pix (s : State) (t : Tick) : (s.at t).pix = s.pix := rfl
@[simp] theorem at_verdictLog (s : State) (t : Tick) : (s.at t).verdictLog = s.verdictLog := rfl
@[simp] theorem at_th (s : State) (t : Tick) : (s.at t).th = s.th := rfl
@[simp] theorem at_dma (s : State) (t : Tick) : (s.at t).dma = s.dma := rfl
@[simp] theorem at_granting (s : State) (t : Tick) : (s.at t).granting = s.granting := rfl
@[simp] theorem at_sp (s : State) (t : Tick) : (s.at t).sp = s.sp := rfl
@[simp] theorem at_parBad (s : State) (t : Tick) : (s.at t).parBad = s.parBad := rfl
@[simp] theorem at_bist (s : State) (t : Tick) : (s.at t).bist = s.bist := rfl
@[simp] theorem at_otp (s : State) (t : Tick) : (s.at t).otp = s.otp := rfl
@[simp] theorem at_datum (s : State) (t : Tick) : (s.at t).datum = s.datum := rfl
@[simp] theorem at_flash (s : State) (t : Tick) : (s.at t).flash = s.flash := rfl
@[simp] theorem at_can (s : State) (t : Tick) : (s.at t).can = s.can := rfl
@[simp] theorem at_pcie (s : State) (t : Tick) : (s.at t).pcie = s.pcie := rfl
@[simp] theorem at_deferred (s : State) (t : Tick) : (s.at t).deferred = s.deferred := rfl
@[simp] theorem at_fresh (s : State) (t : Tick) : (s.at t).fresh = s.fresh := rfl
@[simp] theorem at_dev (s : State) (t : Tick) : (s.at t).dev = s.dev := rfl
@[simp] theorem at_out (s : State) (t : Tick) : (s.at t).out = s.out := rfl
@[simp] theorem emit_pending (s : State) (o : Out) : (s.emit o).pending = s.pending := rfl
@[simp] theorem emit_tb (s : State) (o : Out) : (s.emit o).tb = s.tb := rfl
@[simp] theorem emit_ctr (s : State) (o : Out) : (s.emit o).ctr = s.ctr := rfl
@[simp] theorem emit_regs (s : State) (o : Out) : (s.emit o).regs = s.regs := rfl
@[simp] theorem emit_cu (s : State) (o : Out) : (s.emit o).cu = s.cu := rfl
@[simp] theorem emit_stake (s : State) (o : Out) : (s.emit o).stake = s.stake := rfl
@[simp] theorem emit_inFlight (s : State) (o : Out) : (s.emit o).inFlight = s.inFlight := rfl
@[simp] theorem emit_ch (s : State) (o : Out) : (s.emit o).ch = s.ch := rfl
@[simp] theorem emit_devQ (s : State) (o : Out) : (s.emit o).devQ = s.devQ := rfl
@[simp] theorem emit_epoch (s : State) (o : Out) : (s.emit o).epoch = s.epoch := rfl
@[simp] theorem emit_pix (s : State) (o : Out) : (s.emit o).pix = s.pix := rfl
@[simp] theorem emit_verdictLog (s : State) (o : Out) : (s.emit o).verdictLog = s.verdictLog := rfl
@[simp] theorem emit_th (s : State) (o : Out) : (s.emit o).th = s.th := rfl
@[simp] theorem emit_dma (s : State) (o : Out) : (s.emit o).dma = s.dma := rfl
@[simp] theorem emit_granting (s : State) (o : Out) : (s.emit o).granting = s.granting := rfl
@[simp] theorem emit_sp (s : State) (o : Out) : (s.emit o).sp = s.sp := rfl
@[simp] theorem emit_parBad (s : State) (o : Out) : (s.emit o).parBad = s.parBad := rfl
@[simp] theorem emit_bist (s : State) (o : Out) : (s.emit o).bist = s.bist := rfl
@[simp] theorem emit_otp (s : State) (o : Out) : (s.emit o).otp = s.otp := rfl
@[simp] theorem emit_datum (s : State) (o : Out) : (s.emit o).datum = s.datum := rfl
@[simp] theorem emit_flash (s : State) (o : Out) : (s.emit o).flash = s.flash := rfl
@[simp] theorem emit_can (s : State) (o : Out) : (s.emit o).can = s.can := rfl
@[simp] theorem emit_pcie (s : State) (o : Out) : (s.emit o).pcie = s.pcie := rfl
@[simp] theorem emit_deferred (s : State) (o : Out) : (s.emit o).deferred = s.deferred := rfl
@[simp] theorem emit_fresh (s : State) (o : Out) : (s.emit o).fresh = s.fresh := rfl
@[simp] theorem emit_dev (s : State) (o : Out) : (s.emit o).dev = s.dev := rfl
@[simp] theorem freed_pending (s : State) : (s.freed).pending = s.pending := rfl
@[simp] theorem freed_tb (s : State) : (s.freed).tb = s.tb := rfl
@[simp] theorem freed_regs (s : State) : (s.freed).regs = s.regs := rfl
@[simp] theorem freed_cu (s : State) : (s.freed).cu = s.cu := rfl
@[simp] theorem freed_stake (s : State) : (s.freed).stake = s.stake := rfl
@[simp] theorem freed_inFlight (s : State) : (s.freed).inFlight = s.inFlight := rfl
@[simp] theorem freed_ch (s : State) : (s.freed).ch = s.ch := rfl
@[simp] theorem freed_devQ (s : State) : (s.freed).devQ = s.devQ := rfl
@[simp] theorem freed_epoch (s : State) : (s.freed).epoch = s.epoch := rfl
@[simp] theorem freed_pix (s : State) : (s.freed).pix = s.pix := rfl
@[simp] theorem freed_verdictLog (s : State) : (s.freed).verdictLog = s.verdictLog := rfl
@[simp] theorem freed_th (s : State) : (s.freed).th = s.th := rfl
@[simp] theorem freed_dma (s : State) : (s.freed).dma = s.dma := rfl
@[simp] theorem freed_granting (s : State) : (s.freed).granting = s.granting := rfl
@[simp] theorem freed_sp (s : State) : (s.freed).sp = s.sp := rfl
@[simp] theorem freed_parBad (s : State) : (s.freed).parBad = s.parBad := rfl
@[simp] theorem freed_bist (s : State) : (s.freed).bist = s.bist := rfl
@[simp] theorem freed_otp (s : State) : (s.freed).otp = s.otp := rfl
@[simp] theorem freed_datum (s : State) : (s.freed).datum = s.datum := rfl
@[simp] theorem freed_flash (s : State) : (s.freed).flash = s.flash := rfl
@[simp] theorem freed_can (s : State) : (s.freed).can = s.can := rfl
@[simp] theorem freed_pcie (s : State) : (s.freed).pcie = s.pcie := rfl
@[simp] theorem freed_deferred (s : State) : (s.freed).deferred = s.deferred := rfl
@[simp] theorem freed_fresh (s : State) : (s.freed).fresh = s.fresh := rfl
@[simp] theorem freed_dev (s : State) : (s.freed).dev = s.dev := rfl
@[simp] theorem freed_out (s : State) : (s.freed).out = s.out := rfl
@[simp] theorem modCh_pending (s : State) (n : Ch) (f : Chan → Chan) : (s.modCh n f).pending = s.pending := rfl
@[simp] theorem modCh_tb (s : State) (n : Ch) (f : Chan → Chan) : (s.modCh n f).tb = s.tb := rfl
@[simp] theorem modCh_ctr (s : State) (n : Ch) (f : Chan → Chan) : (s.modCh n f).ctr = s.ctr := rfl
@[simp] theorem modCh_regs (s : State) (n : Ch) (f : Chan → Chan) : (s.modCh n f).regs = s.regs := rfl
@[simp] theorem modCh_cu (s : State) (n : Ch) (f : Chan → Chan) : (s.modCh n f).cu = s.cu := rfl
@[simp] theorem modCh_stake (s : State) (n : Ch) (f : Chan → Chan) : (s.modCh n f).stake = s.stake := rfl
@[simp] theorem modCh_inFlight (s : State) (n : Ch) (f : Chan → Chan) : (s.modCh n f).inFlight = s.inFlight := rfl
@[simp] theorem modCh_devQ (s : State) (n : Ch) (f : Chan → Chan) : (s.modCh n f).devQ = s.devQ := rfl
@[simp] theorem modCh_epoch (s : State) (n : Ch) (f : Chan → Chan) : (s.modCh n f).epoch = s.epoch := rfl
@[simp] theorem modCh_pix (s : State) (n : Ch) (f : Chan → Chan) : (s.modCh n f).pix = s.pix := rfl
@[simp] theorem modCh_verdictLog (s : State) (n : Ch) (f : Chan → Chan) : (s.modCh n f).verdictLog = s.verdictLog := rfl
@[simp] theorem modCh_th (s : State) (n : Ch) (f : Chan → Chan) : (s.modCh n f).th = s.th := rfl
@[simp] theorem modCh_dma (s : State) (n : Ch) (f : Chan → Chan) : (s.modCh n f).dma = s.dma := rfl
@[simp] theorem modCh_granting (s : State) (n : Ch) (f : Chan → Chan) : (s.modCh n f).granting = s.granting := rfl
@[simp] theorem modCh_sp (s : State) (n : Ch) (f : Chan → Chan) : (s.modCh n f).sp = s.sp := rfl
@[simp] theorem modCh_parBad (s : State) (n : Ch) (f : Chan → Chan) : (s.modCh n f).parBad = s.parBad := rfl
@[simp] theorem modCh_bist (s : State) (n : Ch) (f : Chan → Chan) : (s.modCh n f).bist = s.bist := rfl
@[simp] theorem modCh_otp (s : State) (n : Ch) (f : Chan → Chan) : (s.modCh n f).otp = s.otp := rfl
@[simp] theorem modCh_datum (s : State) (n : Ch) (f : Chan → Chan) : (s.modCh n f).datum = s.datum := rfl
@[simp] theorem modCh_flash (s : State) (n : Ch) (f : Chan → Chan) : (s.modCh n f).flash = s.flash := rfl
@[simp] theorem modCh_can (s : State) (n : Ch) (f : Chan → Chan) : (s.modCh n f).can = s.can := rfl
@[simp] theorem modCh_pcie (s : State) (n : Ch) (f : Chan → Chan) : (s.modCh n f).pcie = s.pcie := rfl
@[simp] theorem modCh_deferred (s : State) (n : Ch) (f : Chan → Chan) : (s.modCh n f).deferred = s.deferred := rfl
@[simp] theorem modCh_fresh (s : State) (n : Ch) (f : Chan → Chan) : (s.modCh n f).fresh = s.fresh := rfl
@[simp] theorem modCh_dev (s : State) (n : Ch) (f : Chan → Chan) : (s.modCh n f).dev = s.dev := rfl
@[simp] theorem modCh_out (s : State) (n : Ch) (f : Chan → Chan) : (s.modCh n f).out = s.out := rfl
@[simp] theorem modCu_pending (s : State) (n : Cun) (f : Cu → Cu) : (s.modCu n f).pending = s.pending := rfl
@[simp] theorem modCu_tb (s : State) (n : Cun) (f : Cu → Cu) : (s.modCu n f).tb = s.tb := rfl
@[simp] theorem modCu_ctr (s : State) (n : Cun) (f : Cu → Cu) : (s.modCu n f).ctr = s.ctr := rfl
@[simp] theorem modCu_regs (s : State) (n : Cun) (f : Cu → Cu) : (s.modCu n f).regs = s.regs := rfl
@[simp] theorem modCu_stake (s : State) (n : Cun) (f : Cu → Cu) : (s.modCu n f).stake = s.stake := rfl
@[simp] theorem modCu_inFlight (s : State) (n : Cun) (f : Cu → Cu) : (s.modCu n f).inFlight = s.inFlight := rfl
@[simp] theorem modCu_ch (s : State) (n : Cun) (f : Cu → Cu) : (s.modCu n f).ch = s.ch := rfl
@[simp] theorem modCu_devQ (s : State) (n : Cun) (f : Cu → Cu) : (s.modCu n f).devQ = s.devQ := rfl
@[simp] theorem modCu_epoch (s : State) (n : Cun) (f : Cu → Cu) : (s.modCu n f).epoch = s.epoch := rfl
@[simp] theorem modCu_pix (s : State) (n : Cun) (f : Cu → Cu) : (s.modCu n f).pix = s.pix := rfl
@[simp] theorem modCu_verdictLog (s : State) (n : Cun) (f : Cu → Cu) : (s.modCu n f).verdictLog = s.verdictLog := rfl
@[simp] theorem modCu_th (s : State) (n : Cun) (f : Cu → Cu) : (s.modCu n f).th = s.th := rfl
@[simp] theorem modCu_dma (s : State) (n : Cun) (f : Cu → Cu) : (s.modCu n f).dma = s.dma := rfl
@[simp] theorem modCu_granting (s : State) (n : Cun) (f : Cu → Cu) : (s.modCu n f).granting = s.granting := rfl
@[simp] theorem modCu_sp (s : State) (n : Cun) (f : Cu → Cu) : (s.modCu n f).sp = s.sp := rfl
@[simp] theorem modCu_parBad (s : State) (n : Cun) (f : Cu → Cu) : (s.modCu n f).parBad = s.parBad := rfl
@[simp] theorem modCu_bist (s : State) (n : Cun) (f : Cu → Cu) : (s.modCu n f).bist = s.bist := rfl
@[simp] theorem modCu_otp (s : State) (n : Cun) (f : Cu → Cu) : (s.modCu n f).otp = s.otp := rfl
@[simp] theorem modCu_datum (s : State) (n : Cun) (f : Cu → Cu) : (s.modCu n f).datum = s.datum := rfl
@[simp] theorem modCu_flash (s : State) (n : Cun) (f : Cu → Cu) : (s.modCu n f).flash = s.flash := rfl
@[simp] theorem modCu_can (s : State) (n : Cun) (f : Cu → Cu) : (s.modCu n f).can = s.can := rfl
@[simp] theorem modCu_pcie (s : State) (n : Cun) (f : Cu → Cu) : (s.modCu n f).pcie = s.pcie := rfl
@[simp] theorem modCu_deferred (s : State) (n : Cun) (f : Cu → Cu) : (s.modCu n f).deferred = s.deferred := rfl
@[simp] theorem modCu_fresh (s : State) (n : Cun) (f : Cu → Cu) : (s.modCu n f).fresh = s.fresh := rfl
@[simp] theorem modCu_dev (s : State) (n : Cun) (f : Cu → Cu) : (s.modCu n f).dev = s.dev := rfl
@[simp] theorem modCu_out (s : State) (n : Cun) (f : Cu → Cu) : (s.modCu n f).out = s.out := rfl
@[simp] theorem modStk_pending (s : State) (i : Stk) (f : Stake → Stake) : (s.modStk i f).pending = s.pending := rfl
@[simp] theorem modStk_tb (s : State) (i : Stk) (f : Stake → Stake) : (s.modStk i f).tb = s.tb := rfl
@[simp] theorem modStk_ctr (s : State) (i : Stk) (f : Stake → Stake) : (s.modStk i f).ctr = s.ctr := rfl
@[simp] theorem modStk_regs (s : State) (i : Stk) (f : Stake → Stake) : (s.modStk i f).regs = s.regs := rfl
@[simp] theorem modStk_cu (s : State) (i : Stk) (f : Stake → Stake) : (s.modStk i f).cu = s.cu := rfl
@[simp] theorem modStk_inFlight (s : State) (i : Stk) (f : Stake → Stake) : (s.modStk i f).inFlight = s.inFlight := rfl
@[simp] theorem modStk_ch (s : State) (i : Stk) (f : Stake → Stake) : (s.modStk i f).ch = s.ch := rfl
@[simp] theorem modStk_devQ (s : State) (i : Stk) (f : Stake → Stake) : (s.modStk i f).devQ = s.devQ := rfl
@[simp] theorem modStk_epoch (s : State) (i : Stk) (f : Stake → Stake) : (s.modStk i f).epoch = s.epoch := rfl
@[simp] theorem modStk_pix (s : State) (i : Stk) (f : Stake → Stake) : (s.modStk i f).pix = s.pix := rfl
@[simp] theorem modStk_verdictLog (s : State) (i : Stk) (f : Stake → Stake) : (s.modStk i f).verdictLog = s.verdictLog := rfl
@[simp] theorem modStk_th (s : State) (i : Stk) (f : Stake → Stake) : (s.modStk i f).th = s.th := rfl
@[simp] theorem modStk_dma (s : State) (i : Stk) (f : Stake → Stake) : (s.modStk i f).dma = s.dma := rfl
@[simp] theorem modStk_granting (s : State) (i : Stk) (f : Stake → Stake) : (s.modStk i f).granting = s.granting := rfl
@[simp] theorem modStk_sp (s : State) (i : Stk) (f : Stake → Stake) : (s.modStk i f).sp = s.sp := rfl
@[simp] theorem modStk_parBad (s : State) (i : Stk) (f : Stake → Stake) : (s.modStk i f).parBad = s.parBad := rfl
@[simp] theorem modStk_bist (s : State) (i : Stk) (f : Stake → Stake) : (s.modStk i f).bist = s.bist := rfl
@[simp] theorem modStk_otp (s : State) (i : Stk) (f : Stake → Stake) : (s.modStk i f).otp = s.otp := rfl
@[simp] theorem modStk_datum (s : State) (i : Stk) (f : Stake → Stake) : (s.modStk i f).datum = s.datum := rfl
@[simp] theorem modStk_flash (s : State) (i : Stk) (f : Stake → Stake) : (s.modStk i f).flash = s.flash := rfl
@[simp] theorem modStk_can (s : State) (i : Stk) (f : Stake → Stake) : (s.modStk i f).can = s.can := rfl
@[simp] theorem modStk_pcie (s : State) (i : Stk) (f : Stake → Stake) : (s.modStk i f).pcie = s.pcie := rfl
@[simp] theorem modStk_deferred (s : State) (i : Stk) (f : Stake → Stake) : (s.modStk i f).deferred = s.deferred := rfl
@[simp] theorem modStk_fresh (s : State) (i : Stk) (f : Stake → Stake) : (s.modStk i f).fresh = s.fresh := rfl
@[simp] theorem modStk_dev (s : State) (i : Stk) (f : Stake → Stake) : (s.modStk i f).dev = s.dev := rfl
@[simp] theorem modStk_out (s : State) (i : Stk) (f : Stake → Stake) : (s.modStk i f).out = s.out := rfl
@[simp] theorem modTh_pending (s : State) (m : Thi) (f : Thermal → Thermal) : (s.modTh m f).pending = s.pending := rfl
@[simp] theorem modTh_tb (s : State) (m : Thi) (f : Thermal → Thermal) : (s.modTh m f).tb = s.tb := rfl
@[simp] theorem modTh_ctr (s : State) (m : Thi) (f : Thermal → Thermal) : (s.modTh m f).ctr = s.ctr := rfl
@[simp] theorem modTh_regs (s : State) (m : Thi) (f : Thermal → Thermal) : (s.modTh m f).regs = s.regs := rfl
@[simp] theorem modTh_cu (s : State) (m : Thi) (f : Thermal → Thermal) : (s.modTh m f).cu = s.cu := rfl
@[simp] theorem modTh_stake (s : State) (m : Thi) (f : Thermal → Thermal) : (s.modTh m f).stake = s.stake := rfl
@[simp] theorem modTh_inFlight (s : State) (m : Thi) (f : Thermal → Thermal) : (s.modTh m f).inFlight = s.inFlight := rfl
@[simp] theorem modTh_ch (s : State) (m : Thi) (f : Thermal → Thermal) : (s.modTh m f).ch = s.ch := rfl
@[simp] theorem modTh_devQ (s : State) (m : Thi) (f : Thermal → Thermal) : (s.modTh m f).devQ = s.devQ := rfl
@[simp] theorem modTh_epoch (s : State) (m : Thi) (f : Thermal → Thermal) : (s.modTh m f).epoch = s.epoch := rfl
@[simp] theorem modTh_pix (s : State) (m : Thi) (f : Thermal → Thermal) : (s.modTh m f).pix = s.pix := rfl
@[simp] theorem modTh_verdictLog (s : State) (m : Thi) (f : Thermal → Thermal) : (s.modTh m f).verdictLog = s.verdictLog := rfl
@[simp] theorem modTh_dma (s : State) (m : Thi) (f : Thermal → Thermal) : (s.modTh m f).dma = s.dma := rfl
@[simp] theorem modTh_granting (s : State) (m : Thi) (f : Thermal → Thermal) : (s.modTh m f).granting = s.granting := rfl
@[simp] theorem modTh_sp (s : State) (m : Thi) (f : Thermal → Thermal) : (s.modTh m f).sp = s.sp := rfl
@[simp] theorem modTh_parBad (s : State) (m : Thi) (f : Thermal → Thermal) : (s.modTh m f).parBad = s.parBad := rfl
@[simp] theorem modTh_bist (s : State) (m : Thi) (f : Thermal → Thermal) : (s.modTh m f).bist = s.bist := rfl
@[simp] theorem modTh_otp (s : State) (m : Thi) (f : Thermal → Thermal) : (s.modTh m f).otp = s.otp := rfl
@[simp] theorem modTh_datum (s : State) (m : Thi) (f : Thermal → Thermal) : (s.modTh m f).datum = s.datum := rfl
@[simp] theorem modTh_flash (s : State) (m : Thi) (f : Thermal → Thermal) : (s.modTh m f).flash = s.flash := rfl
@[simp] theorem modTh_can (s : State) (m : Thi) (f : Thermal → Thermal) : (s.modTh m f).can = s.can := rfl
@[simp] theorem modTh_pcie (s : State) (m : Thi) (f : Thermal → Thermal) : (s.modTh m f).pcie = s.pcie := rfl
@[simp] theorem modTh_deferred (s : State) (m : Thi) (f : Thermal → Thermal) : (s.modTh m f).deferred = s.deferred := rfl
@[simp] theorem modTh_fresh (s : State) (m : Thi) (f : Thermal → Thermal) : (s.modTh m f).fresh = s.fresh := rfl
@[simp] theorem modTh_dev (s : State) (m : Thi) (f : Thermal → Thermal) : (s.modTh m f).dev = s.dev := rfl
@[simp] theorem modTh_out (s : State) (m : Thi) (f : Thermal → Thermal) : (s.modTh m f).out = s.out := rfl
@[simp] theorem modDma_pending (s : State) (d : Dch) (f : Dma → Dma) : (s.modDma d f).pending = s.pending := rfl
@[simp] theorem modDma_tb (s : State) (d : Dch) (f : Dma → Dma) : (s.modDma d f).tb = s.tb := rfl
@[simp] theorem modDma_ctr (s : State) (d : Dch) (f : Dma → Dma) : (s.modDma d f).ctr = s.ctr := rfl
@[simp] theorem modDma_regs (s : State) (d : Dch) (f : Dma → Dma) : (s.modDma d f).regs = s.regs := rfl
@[simp] theorem modDma_cu (s : State) (d : Dch) (f : Dma → Dma) : (s.modDma d f).cu = s.cu := rfl
@[simp] theorem modDma_stake (s : State) (d : Dch) (f : Dma → Dma) : (s.modDma d f).stake = s.stake := rfl
@[simp] theorem modDma_inFlight (s : State) (d : Dch) (f : Dma → Dma) : (s.modDma d f).inFlight = s.inFlight := rfl
@[simp] theorem modDma_ch (s : State) (d : Dch) (f : Dma → Dma) : (s.modDma d f).ch = s.ch := rfl
@[simp] theorem modDma_devQ (s : State) (d : Dch) (f : Dma → Dma) : (s.modDma d f).devQ = s.devQ := rfl
@[simp] theorem modDma_epoch (s : State) (d : Dch) (f : Dma → Dma) : (s.modDma d f).epoch = s.epoch := rfl
@[simp] theorem modDma_pix (s : State) (d : Dch) (f : Dma → Dma) : (s.modDma d f).pix = s.pix := rfl
@[simp] theorem modDma_verdictLog (s : State) (d : Dch) (f : Dma → Dma) : (s.modDma d f).verdictLog = s.verdictLog := rfl
@[simp] theorem modDma_th (s : State) (d : Dch) (f : Dma → Dma) : (s.modDma d f).th = s.th := rfl
@[simp] theorem modDma_granting (s : State) (d : Dch) (f : Dma → Dma) : (s.modDma d f).granting = s.granting := rfl
@[simp] theorem modDma_sp (s : State) (d : Dch) (f : Dma → Dma) : (s.modDma d f).sp = s.sp := rfl
@[simp] theorem modDma_parBad (s : State) (d : Dch) (f : Dma → Dma) : (s.modDma d f).parBad = s.parBad := rfl
@[simp] theorem modDma_bist (s : State) (d : Dch) (f : Dma → Dma) : (s.modDma d f).bist = s.bist := rfl
@[simp] theorem modDma_otp (s : State) (d : Dch) (f : Dma → Dma) : (s.modDma d f).otp = s.otp := rfl
@[simp] theorem modDma_datum (s : State) (d : Dch) (f : Dma → Dma) : (s.modDma d f).datum = s.datum := rfl
@[simp] theorem modDma_flash (s : State) (d : Dch) (f : Dma → Dma) : (s.modDma d f).flash = s.flash := rfl
@[simp] theorem modDma_can (s : State) (d : Dch) (f : Dma → Dma) : (s.modDma d f).can = s.can := rfl
@[simp] theorem modDma_pcie (s : State) (d : Dch) (f : Dma → Dma) : (s.modDma d f).pcie = s.pcie := rfl
@[simp] theorem modDma_deferred (s : State) (d : Dch) (f : Dma → Dma) : (s.modDma d f).deferred = s.deferred := rfl
@[simp] theorem modDma_fresh (s : State) (d : Dch) (f : Dma → Dma) : (s.modDma d f).fresh = s.fresh := rfl
@[simp] theorem modDma_dev (s : State) (d : Dch) (f : Dma → Dma) : (s.modDma d f).dev = s.dev := rfl
@[simp] theorem modDma_out (s : State) (d : Dch) (f : Dma → Dma) : (s.modDma d f).out = s.out := rfl
@[simp] theorem modDev_pending (s : State) (f : Dev → Dev) : (s.modDev f).pending = s.pending := rfl
@[simp] theorem modDev_tb (s : State) (f : Dev → Dev) : (s.modDev f).tb = s.tb := rfl
@[simp] theorem modDev_ctr (s : State) (f : Dev → Dev) : (s.modDev f).ctr = s.ctr := rfl
@[simp] theorem modDev_regs (s : State) (f : Dev → Dev) : (s.modDev f).regs = s.regs := rfl
@[simp] theorem modDev_cu (s : State) (f : Dev → Dev) : (s.modDev f).cu = s.cu := rfl
@[simp] theorem modDev_stake (s : State) (f : Dev → Dev) : (s.modDev f).stake = s.stake := rfl
@[simp] theorem modDev_inFlight (s : State) (f : Dev → Dev) : (s.modDev f).inFlight = s.inFlight := rfl
@[simp] theorem modDev_ch (s : State) (f : Dev → Dev) : (s.modDev f).ch = s.ch := rfl
@[simp] theorem modDev_devQ (s : State) (f : Dev → Dev) : (s.modDev f).devQ = s.devQ := rfl
@[simp] theorem modDev_epoch (s : State) (f : Dev → Dev) : (s.modDev f).epoch = s.epoch := rfl
@[simp] theorem modDev_pix (s : State) (f : Dev → Dev) : (s.modDev f).pix = s.pix := rfl
@[simp] theorem modDev_verdictLog (s : State) (f : Dev → Dev) : (s.modDev f).verdictLog = s.verdictLog := rfl
@[simp] theorem modDev_th (s : State) (f : Dev → Dev) : (s.modDev f).th = s.th := rfl
@[simp] theorem modDev_dma (s : State) (f : Dev → Dev) : (s.modDev f).dma = s.dma := rfl
@[simp] theorem modDev_granting (s : State) (f : Dev → Dev) : (s.modDev f).granting = s.granting := rfl
@[simp] theorem modDev_sp (s : State) (f : Dev → Dev) : (s.modDev f).sp = s.sp := rfl
@[simp] theorem modDev_parBad (s : State) (f : Dev → Dev) : (s.modDev f).parBad = s.parBad := rfl
@[simp] theorem modDev_bist (s : State) (f : Dev → Dev) : (s.modDev f).bist = s.bist := rfl
@[simp] theorem modDev_otp (s : State) (f : Dev → Dev) : (s.modDev f).otp = s.otp := rfl
@[simp] theorem modDev_datum (s : State) (f : Dev → Dev) : (s.modDev f).datum = s.datum := rfl
@[simp] theorem modDev_flash (s : State) (f : Dev → Dev) : (s.modDev f).flash = s.flash := rfl
@[simp] theorem modDev_can (s : State) (f : Dev → Dev) : (s.modDev f).can = s.can := rfl
@[simp] theorem modDev_pcie (s : State) (f : Dev → Dev) : (s.modDev f).pcie = s.pcie := rfl
@[simp] theorem modDev_deferred (s : State) (f : Dev → Dev) : (s.modDev f).deferred = s.deferred := rfl
@[simp] theorem modDev_fresh (s : State) (f : Dev → Dev) : (s.modDev f).fresh = s.fresh := rfl
@[simp] theorem modDev_out (s : State) (f : Dev → Dev) : (s.modDev f).out = s.out := rfl
@[simp] theorem modCan_pending (s : State) (f : Can → Can) : (s.modCan f).pending = s.pending := rfl
@[simp] theorem modCan_tb (s : State) (f : Can → Can) : (s.modCan f).tb = s.tb := rfl
@[simp] theorem modCan_ctr (s : State) (f : Can → Can) : (s.modCan f).ctr = s.ctr := rfl
@[simp] theorem modCan_regs (s : State) (f : Can → Can) : (s.modCan f).regs = s.regs := rfl
@[simp] theorem modCan_cu (s : State) (f : Can → Can) : (s.modCan f).cu = s.cu := rfl
@[simp] theorem modCan_stake (s : State) (f : Can → Can) : (s.modCan f).stake = s.stake := rfl
@[simp] theorem modCan_inFlight (s : State) (f : Can → Can) : (s.modCan f).inFlight = s.inFlight := rfl
@[simp] theorem modCan_ch (s : State) (f : Can → Can) : (s.modCan f).ch = s.ch := rfl
@[simp] theorem modCan_devQ (s : State) (f : Can → Can) : (s.modCan f).devQ = s.devQ := rfl
@[simp] theorem modCan_epoch (s : State) (f : Can → Can) : (s.modCan f).epoch = s.epoch := rfl
@[simp] theorem modCan_pix (s : State) (f : Can → Can) : (s.modCan f).pix = s.pix := rfl
@[simp] theorem modCan_verdictLog (s : State) (f : Can → Can) : (s.modCan f).verdictLog = s.verdictLog := rfl
@[simp] theorem modCan_th (s : State) (f : Can → Can) : (s.modCan f).th = s.th := rfl
@[simp] theorem modCan_dma (s : State) (f : Can → Can) : (s.modCan f).dma = s.dma := rfl
@[simp] theorem modCan_granting (s : State) (f : Can → Can) : (s.modCan f).granting = s.granting := rfl
@[simp] theorem modCan_sp (s : State) (f : Can → Can) : (s.modCan f).sp = s.sp := rfl
@[simp] theorem modCan_parBad (s : State) (f : Can → Can) : (s.modCan f).parBad = s.parBad := rfl
@[simp] theorem modCan_bist (s : State) (f : Can → Can) : (s.modCan f).bist = s.bist := rfl
@[simp] theorem modCan_otp (s : State) (f : Can → Can) : (s.modCan f).otp = s.otp := rfl
@[simp] theorem modCan_datum (s : State) (f : Can → Can) : (s.modCan f).datum = s.datum := rfl
@[simp] theorem modCan_flash (s : State) (f : Can → Can) : (s.modCan f).flash = s.flash := rfl
@[simp] theorem modCan_pcie (s : State) (f : Can → Can) : (s.modCan f).pcie = s.pcie := rfl
@[simp] theorem modCan_deferred (s : State) (f : Can → Can) : (s.modCan f).deferred = s.deferred := rfl
@[simp] theorem modCan_fresh (s : State) (f : Can → Can) : (s.modCan f).fresh = s.fresh := rfl
@[simp] theorem modCan_dev (s : State) (f : Can → Can) : (s.modCan f).dev = s.dev := rfl
@[simp] theorem modCan_out (s : State) (f : Can → Can) : (s.modCan f).out = s.out := rfl
@[simp] theorem modCam_pending (s : State) (c : Nat) (f : Context → Context) : (s.modCam c f).pending = s.pending := rfl
@[simp] theorem modCam_tb (s : State) (c : Nat) (f : Context → Context) : (s.modCam c f).tb = s.tb := rfl
@[simp] theorem modCam_ctr (s : State) (c : Nat) (f : Context → Context) : (s.modCam c f).ctr = s.ctr := rfl
@[simp] theorem modCam_regs (s : State) (c : Nat) (f : Context → Context) : (s.modCam c f).regs = s.regs := rfl
@[simp] theorem modCam_cu (s : State) (c : Nat) (f : Context → Context) : (s.modCam c f).cu = s.cu := rfl
@[simp] theorem modCam_stake (s : State) (c : Nat) (f : Context → Context) : (s.modCam c f).stake = s.stake := rfl
@[simp] theorem modCam_inFlight (s : State) (c : Nat) (f : Context → Context) : (s.modCam c f).inFlight = s.inFlight := rfl
@[simp] theorem modCam_ch (s : State) (c : Nat) (f : Context → Context) : (s.modCam c f).ch = s.ch := rfl
@[simp] theorem modCam_devQ (s : State) (c : Nat) (f : Context → Context) : (s.modCam c f).devQ = s.devQ := rfl
@[simp] theorem modCam_epoch (s : State) (c : Nat) (f : Context → Context) : (s.modCam c f).epoch = s.epoch := rfl
@[simp] theorem modCam_verdictLog (s : State) (c : Nat) (f : Context → Context) : (s.modCam c f).verdictLog = s.verdictLog := rfl
@[simp] theorem modCam_th (s : State) (c : Nat) (f : Context → Context) : (s.modCam c f).th = s.th := rfl
@[simp] theorem modCam_dma (s : State) (c : Nat) (f : Context → Context) : (s.modCam c f).dma = s.dma := rfl
@[simp] theorem modCam_granting (s : State) (c : Nat) (f : Context → Context) : (s.modCam c f).granting = s.granting := rfl
@[simp] theorem modCam_sp (s : State) (c : Nat) (f : Context → Context) : (s.modCam c f).sp = s.sp := rfl
@[simp] theorem modCam_parBad (s : State) (c : Nat) (f : Context → Context) : (s.modCam c f).parBad = s.parBad := rfl
@[simp] theorem modCam_bist (s : State) (c : Nat) (f : Context → Context) : (s.modCam c f).bist = s.bist := rfl
@[simp] theorem modCam_otp (s : State) (c : Nat) (f : Context → Context) : (s.modCam c f).otp = s.otp := rfl
@[simp] theorem modCam_datum (s : State) (c : Nat) (f : Context → Context) : (s.modCam c f).datum = s.datum := rfl
@[simp] theorem modCam_flash (s : State) (c : Nat) (f : Context → Context) : (s.modCam c f).flash = s.flash := rfl
@[simp] theorem modCam_can (s : State) (c : Nat) (f : Context → Context) : (s.modCam c f).can = s.can := rfl
@[simp] theorem modCam_pcie (s : State) (c : Nat) (f : Context → Context) : (s.modCam c f).pcie = s.pcie := rfl
@[simp] theorem modCam_deferred (s : State) (c : Nat) (f : Context → Context) : (s.modCam c f).deferred = s.deferred := rfl
@[simp] theorem modCam_fresh (s : State) (c : Nat) (f : Context → Context) : (s.modCam c f).fresh = s.fresh := rfl
@[simp] theorem modCam_dev (s : State) (c : Nat) (f : Context → Context) : (s.modCam c f).dev = s.dev := rfl
@[simp] theorem modCam_out (s : State) (c : Nat) (f : Context → Context) : (s.modCam c f).out = s.out := rfl

/-! ### What they set -/

@[simp] theorem at_tb (s : State) (t : Tick) : (s.at t).tb = max s.tb t := rfl
@[simp] theorem emit_out (s : State) (x : Out) : (s.emit x).out = x :: s.out := rfl
@[simp] theorem freed_ctr (s : State) : s.freed.ctr = s.ctr + 1 := rfl
@[simp] theorem modDev_dev (s : State) (f : Dev → Dev) : (s.modDev f).dev = f s.dev := rfl
@[simp] theorem modCan_can (s : State) (f : Can → Can) : (s.modCan f).can = f s.can := rfl
@[simp] theorem modCh_same (s : State) (n : Ch) (f : Chan → Chan) : ((s.modCh n f).ch)[n] = f (s.ch[n]) := by
  simp [State.modCh]
theorem modCh_other (s : State) (f : Chan → Chan) {n m : Ch} (h : n ≠ m) : ((s.modCh n f).ch)[m] = s.ch[m] := by
  have h' : n.val ≠ m.val := fun e => h (Fin.ext e)
  simp [State.modCh, h']
@[simp] theorem modCu_same (s : State) (n : Cun) (f : Cu → Cu) : ((s.modCu n f).cu)[n] = f (s.cu[n]) := by
  simp [State.modCu]
theorem modCu_other (s : State) (f : Cu → Cu) {n m : Cun} (h : n ≠ m) : ((s.modCu n f).cu)[m] = s.cu[m] := by
  have h' : n.val ≠ m.val := fun e => h (Fin.ext e)
  simp [State.modCu, h']
@[simp] theorem modStk_same (s : State) (n : Stk) (f : Stake → Stake) : ((s.modStk n f).stake)[n] = f (s.stake[n]) := by
  simp [State.modStk]
theorem modStk_other (s : State) (f : Stake → Stake) {n m : Stk} (h : n ≠ m) : ((s.modStk n f).stake)[m] = s.stake[m] := by
  have h' : n.val ≠ m.val := fun e => h (Fin.ext e)
  simp [State.modStk, h']
@[simp] theorem modTh_same (s : State) (n : Thi) (f : Thermal → Thermal) : ((s.modTh n f).th)[n] = f (s.th[n]) := by
  simp [State.modTh]
theorem modTh_other (s : State) (f : Thermal → Thermal) {n m : Thi} (h : n ≠ m) : ((s.modTh n f).th)[m] = s.th[m] := by
  have h' : n.val ≠ m.val := fun e => h (Fin.ext e)
  simp [State.modTh, h']
@[simp] theorem modDma_same (s : State) (n : Dch) (f : Dma → Dma) : ((s.modDma n f).dma)[n] = f (s.dma[n]) := by
  simp [State.modDma]
theorem modDma_other (s : State) (f : Dma → Dma) {n m : Dch} (h : n ≠ m) : ((s.modDma n f).dma)[m] = s.dma[m] := by
  have h' : n.val ≠ m.val := fun e => h (Fin.ext e)
  simp [State.modDma, h']

/-! ### The register file -/

/-- A field reads what was put, cut to its width. -/
@[simp] theorem get_put_same (s : State) (f : Fld) (v : Nat) : (s.put f v).get f = v % f.card := sparseGet_put_same _ _ _ _
/-- Every field with another key reads what it read. -/
theorem get_put_other (s : State) (v : Nat) {f g : Fld} (h : f.key ≠ g.key) : (s.put f v).get g = s.get g :=
  sparseGet_put_ne _ _ _ _ h
theorem get_putEff_other (s : State) (v : Nat) {f g : Fld} (h : f.effKey ≠ g.key) : (s.putEff f v).get g = s.get g :=
  sparseGet_put_ne _ _ _ _ h
@[simp] theorem eff_putEff_same (s : State) (f : Fld) (v : Nat) : (s.putEff f v).eff f = v % f.card := sparseGet_put_same _ _ _ _
theorem eff_put_other (s : State) (v : Nat) {f g : Fld} (h : f.key ≠ g.effKey) : (s.put f v).eff g = s.eff g :=
  sparseGet_put_ne _ _ _ _ h
/-- A field's value depends on the register list alone. -/
theorem get_congr {s t : State} (h : t.regs = s.regs) (f : Fld) : t.get f = s.get f := by unfold State.get; rw [h]
theorem eff_congr {s t : State} (h : t.regs = s.regs) (f : Fld) : t.eff f = s.eff f := by unfold State.eff; rw [h]
@[simp] theorem get_at (s : State) (t : Tick) (g : Fld) : (s.at t).get g = s.get g := rfl
@[simp] theorem eff_at (s : State) (t : Tick) (g : Fld) : (s.at t).eff g = s.eff g := rfl
@[simp] theorem get_emit (s : State) (o : Out) (g : Fld) : (s.emit o).get g = s.get g := rfl
@[simp] theorem eff_emit (s : State) (o : Out) (g : Fld) : (s.emit o).eff g = s.eff g := rfl
@[simp] theorem get_freed (s : State) (g : Fld) : (s.freed).get g = s.get g := rfl
@[simp] theorem eff_freed (s : State) (g : Fld) : (s.freed).eff g = s.eff g := rfl
@[simp] theorem get_modCh (s : State) (n : Ch) (f₁ : Chan → Chan) (g : Fld) : (s.modCh n f₁).get g = s.get g := rfl
@[simp] theorem eff_modCh (s : State) (n : Ch) (f₁ : Chan → Chan) (g : Fld) : (s.modCh n f₁).eff g = s.eff g := rfl
@[simp] theorem get_modCu (s : State) (n : Cun) (f₁ : Cu → Cu) (g : Fld) : (s.modCu n f₁).get g = s.get g := rfl
@[simp] theorem eff_modCu (s : State) (n : Cun) (f₁ : Cu → Cu) (g : Fld) : (s.modCu n f₁).eff g = s.eff g := rfl
@[simp] theorem get_modStk (s : State) (i : Stk) (f₁ : Stake → Stake) (g : Fld) : (s.modStk i f₁).get g = s.get g := rfl
@[simp] theorem eff_modStk (s : State) (i : Stk) (f₁ : Stake → Stake) (g : Fld) : (s.modStk i f₁).eff g = s.eff g := rfl
@[simp] theorem get_modTh (s : State) (m : Thi) (f₁ : Thermal → Thermal) (g : Fld) : (s.modTh m f₁).get g = s.get g := rfl
@[simp] theorem eff_modTh (s : State) (m : Thi) (f₁ : Thermal → Thermal) (g : Fld) : (s.modTh m f₁).eff g = s.eff g := rfl
@[simp] theorem get_modDma (s : State) (d : Dch) (f₁ : Dma → Dma) (g : Fld) : (s.modDma d f₁).get g = s.get g := rfl
@[simp] theorem eff_modDma (s : State) (d : Dch) (f₁ : Dma → Dma) (g : Fld) : (s.modDma d f₁).eff g = s.eff g := rfl
@[simp] theorem get_modDev (s : State) (f₁ : Dev → Dev) (g : Fld) : (s.modDev f₁).get g = s.get g := rfl
@[simp] theorem eff_modDev (s : State) (f₁ : Dev → Dev) (g : Fld) : (s.modDev f₁).eff g = s.eff g := rfl
@[simp] theorem get_modCan (s : State) (f₁ : Can → Can) (g : Fld) : (s.modCan f₁).get g = s.get g := rfl
@[simp] theorem eff_modCan (s : State) (f₁ : Can → Can) (g : Fld) : (s.modCan f₁).eff g = s.eff g := rfl
@[simp] theorem get_modCam (s : State) (c : Nat) (f₁ : Context → Context) (g : Fld) : (s.modCam c f₁).get g = s.get g := rfl
@[simp] theorem eff_modCam (s : State) (c : Nat) (f₁ : Context → Context) (g : Fld) : (s.modCam c f₁).eff g = s.eff g := rfl

/-! ### The derived updates in terms of the basic ones -/

@[simp] theorem putBoth_eq (s : State) (f : Fld) (v : Nat) : s.putBoth f v = (s.put f v).putEff f v := rfl
@[simp] theorem flag_eq (s : State) (f : Fld) : s.flag f = s.put f 1 := rfl
@[simp] theorem unflag_eq (s : State) (f : Fld) : s.unflag f = s.put f 0 := rfl
@[simp] theorem putB_eq (s : State) (f : Fld) (b : Bool) : s.putB f b = s.put f (if b then 1 else 0) := rfl
@[simp] theorem bumpBy_eq (s : State) (f : Fld) (n : Nat) : s.bumpBy f n = s.put f (min (s.get f + n) (f.card - 1)) := rfl
@[simp] theorem bump_eq (s : State) (f : Fld) : s.bump f = s.bumpBy f 1 := rfl
@[simp] theorem incrBy_eq (s : State) (f : Fld) (n : Nat) : s.incrBy f n = s.put f (s.get f + n) := rfl
@[simp] theorem incr_eq (s : State) (f : Fld) : s.incr f = s.incrBy f 1 := rfl
@[simp] theorem flagBump_eq (s : State) (fl cnt : Fld) : s.flagBump fl cnt = (s.flag fl).bump cnt := rfl
@[simp] theorem putPair_eq (s : State) (lo hi : Fld) (v : Nat) : s.putPair lo hi v = (s.put lo v).put hi (v / 2 ^ 32) := rfl
@[simp] theorem modTrav_eq (s : State) (n : Ch) (f : Trav → Trav) : s.modTrav n f = s.modCh n (fun c => { c with trav := f c.trav }) := rfl
@[simp] theorem modLink_eq (s : State) (n : Ch) (f : Link → Link) : s.modLink n f = s.modCh n (fun c => { c with link := f c.link }) := rfl
@[simp] theorem modDrive_eq (s : State) (n : Ch) (f : Drive → Drive) : s.modDrive n f = s.modCh n (fun c => { c with drive := f c.drive }) := rfl
@[simp] theorem modHealth_eq (s : State) (n : Ch) (f : Health → Health) : s.modHealth n f = s.modCh n (fun c => { c with health := f c.health }) := rfl


/-! ### Causes, messages, records, the token -/

/-! A cause changes the register file and what leaves the block (R421). -/
@[simp] theorem cause_pending (s : State) (v : Nat) : (s.cause v).pending = s.pending := by unfold State.cause; repeat' (first | rfl | split)
@[simp] theorem cause_tb (s : State) (v : Nat) : (s.cause v).tb = s.tb := by unfold State.cause; repeat' (first | rfl | split)
@[simp] theorem cause_ctr (s : State) (v : Nat) : (s.cause v).ctr = s.ctr := by unfold State.cause; repeat' (first | rfl | split)
@[simp] theorem cause_cu (s : State) (v : Nat) : (s.cause v).cu = s.cu := by unfold State.cause; repeat' (first | rfl | split)
@[simp] theorem cause_stake (s : State) (v : Nat) : (s.cause v).stake = s.stake := by unfold State.cause; repeat' (first | rfl | split)
@[simp] theorem cause_inFlight (s : State) (v : Nat) : (s.cause v).inFlight = s.inFlight := by unfold State.cause; repeat' (first | rfl | split)
@[simp] theorem cause_ch (s : State) (v : Nat) : (s.cause v).ch = s.ch := by unfold State.cause; repeat' (first | rfl | split)
@[simp] theorem cause_devQ (s : State) (v : Nat) : (s.cause v).devQ = s.devQ := by unfold State.cause; repeat' (first | rfl | split)
@[simp] theorem cause_epoch (s : State) (v : Nat) : (s.cause v).epoch = s.epoch := by unfold State.cause; repeat' (first | rfl | split)
@[simp] theorem cause_pix (s : State) (v : Nat) : (s.cause v).pix = s.pix := by unfold State.cause; repeat' (first | rfl | split)
@[simp] theorem cause_verdictLog (s : State) (v : Nat) : (s.cause v).verdictLog = s.verdictLog := by unfold State.cause; repeat' (first | rfl | split)
@[simp] theorem cause_th (s : State) (v : Nat) : (s.cause v).th = s.th := by unfold State.cause; repeat' (first | rfl | split)
@[simp] theorem cause_dma (s : State) (v : Nat) : (s.cause v).dma = s.dma := by unfold State.cause; repeat' (first | rfl | split)
@[simp] theorem cause_granting (s : State) (v : Nat) : (s.cause v).granting = s.granting := by unfold State.cause; repeat' (first | rfl | split)
@[simp] theorem cause_sp (s : State) (v : Nat) : (s.cause v).sp = s.sp := by unfold State.cause; repeat' (first | rfl | split)
@[simp] theorem cause_parBad (s : State) (v : Nat) : (s.cause v).parBad = s.parBad := by unfold State.cause; repeat' (first | rfl | split)
@[simp] theorem cause_bist (s : State) (v : Nat) : (s.cause v).bist = s.bist := by unfold State.cause; repeat' (first | rfl | split)
@[simp] theorem cause_otp (s : State) (v : Nat) : (s.cause v).otp = s.otp := by unfold State.cause; repeat' (first | rfl | split)
@[simp] theorem cause_datum (s : State) (v : Nat) : (s.cause v).datum = s.datum := by unfold State.cause; repeat' (first | rfl | split)
@[simp] theorem cause_flash (s : State) (v : Nat) : (s.cause v).flash = s.flash := by unfold State.cause; repeat' (first | rfl | split)
@[simp] theorem cause_can (s : State) (v : Nat) : (s.cause v).can = s.can := by unfold State.cause; repeat' (first | rfl | split)
@[simp] theorem cause_pcie (s : State) (v : Nat) : (s.cause v).pcie = s.pcie := by unfold State.cause; repeat' (first | rfl | split)
@[simp] theorem cause_deferred (s : State) (v : Nat) : (s.cause v).deferred = s.deferred := by unfold State.cause; repeat' (first | rfl | split)
@[simp] theorem cause_fresh (s : State) (v : Nat) : (s.cause v).fresh = s.fresh := by unfold State.cause; repeat' (first | rfl | split)
@[simp] theorem cause_dev (s : State) (v : Nat) : (s.cause v).dev = s.dev := by unfold State.cause; repeat' (first | rfl | split)
/-! A pulse changes what is in flight (R36). -/
@[simp] theorem pulse_pending (s : State) (src : Nat) : (s.pulse src).pending = s.pending := by unfold State.pulse; split <;> rfl
@[simp] theorem pulse_tb (s : State) (src : Nat) : (s.pulse src).tb = s.tb := by unfold State.pulse; split <;> rfl
@[simp] theorem pulse_ctr (s : State) (src : Nat) : (s.pulse src).ctr = s.ctr := by unfold State.pulse; split <;> rfl
@[simp] theorem pulse_regs (s : State) (src : Nat) : (s.pulse src).regs = s.regs := by unfold State.pulse; split <;> rfl
@[simp] theorem pulse_cu (s : State) (src : Nat) : (s.pulse src).cu = s.cu := by unfold State.pulse; split <;> rfl
@[simp] theorem pulse_stake (s : State) (src : Nat) : (s.pulse src).stake = s.stake := by unfold State.pulse; split <;> rfl
@[simp] theorem pulse_ch (s : State) (src : Nat) : (s.pulse src).ch = s.ch := by unfold State.pulse; split <;> rfl
@[simp] theorem pulse_devQ (s : State) (src : Nat) : (s.pulse src).devQ = s.devQ := by unfold State.pulse; split <;> rfl
@[simp] theorem pulse_epoch (s : State) (src : Nat) : (s.pulse src).epoch = s.epoch := by unfold State.pulse; split <;> rfl
@[simp] theorem pulse_pix (s : State) (src : Nat) : (s.pulse src).pix = s.pix := by unfold State.pulse; split <;> rfl
@[simp] theorem pulse_verdictLog (s : State) (src : Nat) : (s.pulse src).verdictLog = s.verdictLog := by unfold State.pulse; split <;> rfl
@[simp] theorem pulse_th (s : State) (src : Nat) : (s.pulse src).th = s.th := by unfold State.pulse; split <;> rfl
@[simp] theorem pulse_dma (s : State) (src : Nat) : (s.pulse src).dma = s.dma := by unfold State.pulse; split <;> rfl
@[simp] theorem pulse_granting (s : State) (src : Nat) : (s.pulse src).granting = s.granting := by unfold State.pulse; split <;> rfl
@[simp] theorem pulse_sp (s : State) (src : Nat) : (s.pulse src).sp = s.sp := by unfold State.pulse; split <;> rfl
@[simp] theorem pulse_parBad (s : State) (src : Nat) : (s.pulse src).parBad = s.parBad := by unfold State.pulse; split <;> rfl
@[simp] theorem pulse_bist (s : State) (src : Nat) : (s.pulse src).bist = s.bist := by unfold State.pulse; split <;> rfl
@[simp] theorem pulse_otp (s : State) (src : Nat) : (s.pulse src).otp = s.otp := by unfold State.pulse; split <;> rfl
@[simp] theorem pulse_datum (s : State) (src : Nat) : (s.pulse src).datum = s.datum := by unfold State.pulse; split <;> rfl
@[simp] theorem pulse_flash (s : State) (src : Nat) : (s.pulse src).flash = s.flash := by unfold State.pulse; split <;> rfl
@[simp] theorem pulse_can (s : State) (src : Nat) : (s.pulse src).can = s.can := by unfold State.pulse; split <;> rfl
@[simp] theorem pulse_pcie (s : State) (src : Nat) : (s.pulse src).pcie = s.pcie := by unfold State.pulse; split <;> rfl
@[simp] theorem pulse_deferred (s : State) (src : Nat) : (s.pulse src).deferred = s.deferred := by unfold State.pulse; split <;> rfl
@[simp] theorem pulse_fresh (s : State) (src : Nat) : (s.pulse src).fresh = s.fresh := by unfold State.pulse; split <;> rfl
@[simp] theorem pulse_dev (s : State) (src : Nat) : (s.pulse src).dev = s.dev := by unfold State.pulse; split <;> rfl
@[simp] theorem pulse_out (s : State) (src : Nat) : (s.pulse src).out = s.out := by unfold State.pulse; split <;> rfl
/-! A message changes the register file, what leaves the block and the CAN state (R341 to R343). -/
@[simp] theorem emcyInfo_pending (s : State) (code src line : Nat) (info : List Byte) : (s.emcyInfo code src line info).pending = s.pending := by unfold State.emcyInfo; dsimp only; repeat' (first | exact cause_pending _ _ | split)
@[simp] theorem emcyInfo_tb (s : State) (code src line : Nat) (info : List Byte) : (s.emcyInfo code src line info).tb = s.tb := by unfold State.emcyInfo; dsimp only; repeat' (first | exact cause_tb _ _ | split)
@[simp] theorem emcyInfo_ctr (s : State) (code src line : Nat) (info : List Byte) : (s.emcyInfo code src line info).ctr = s.ctr := by unfold State.emcyInfo; dsimp only; repeat' (first | exact cause_ctr _ _ | split)
@[simp] theorem emcyInfo_cu (s : State) (code src line : Nat) (info : List Byte) : (s.emcyInfo code src line info).cu = s.cu := by unfold State.emcyInfo; dsimp only; repeat' (first | exact cause_cu _ _ | split)
@[simp] theorem emcyInfo_stake (s : State) (code src line : Nat) (info : List Byte) : (s.emcyInfo code src line info).stake = s.stake := by unfold State.emcyInfo; dsimp only; repeat' (first | exact cause_stake _ _ | split)
@[simp] theorem emcyInfo_inFlight (s : State) (code src line : Nat) (info : List Byte) : (s.emcyInfo code src line info).inFlight = s.inFlight := by unfold State.emcyInfo; dsimp only; repeat' (first | exact cause_inFlight _ _ | split)
@[simp] theorem emcyInfo_ch (s : State) (code src line : Nat) (info : List Byte) : (s.emcyInfo code src line info).ch = s.ch := by unfold State.emcyInfo; dsimp only; repeat' (first | exact cause_ch _ _ | split)
@[simp] theorem emcyInfo_devQ (s : State) (code src line : Nat) (info : List Byte) : (s.emcyInfo code src line info).devQ = s.devQ := by unfold State.emcyInfo; dsimp only; repeat' (first | exact cause_devQ _ _ | split)
@[simp] theorem emcyInfo_epoch (s : State) (code src line : Nat) (info : List Byte) : (s.emcyInfo code src line info).epoch = s.epoch := by unfold State.emcyInfo; dsimp only; repeat' (first | exact cause_epoch _ _ | split)
@[simp] theorem emcyInfo_pix (s : State) (code src line : Nat) (info : List Byte) : (s.emcyInfo code src line info).pix = s.pix := by unfold State.emcyInfo; dsimp only; repeat' (first | exact cause_pix _ _ | split)
@[simp] theorem emcyInfo_verdictLog (s : State) (code src line : Nat) (info : List Byte) : (s.emcyInfo code src line info).verdictLog = s.verdictLog := by unfold State.emcyInfo; dsimp only; repeat' (first | exact cause_verdictLog _ _ | split)
@[simp] theorem emcyInfo_th (s : State) (code src line : Nat) (info : List Byte) : (s.emcyInfo code src line info).th = s.th := by unfold State.emcyInfo; dsimp only; repeat' (first | exact cause_th _ _ | split)
@[simp] theorem emcyInfo_dma (s : State) (code src line : Nat) (info : List Byte) : (s.emcyInfo code src line info).dma = s.dma := by unfold State.emcyInfo; dsimp only; repeat' (first | exact cause_dma _ _ | split)
@[simp] theorem emcyInfo_granting (s : State) (code src line : Nat) (info : List Byte) : (s.emcyInfo code src line info).granting = s.granting := by unfold State.emcyInfo; dsimp only; repeat' (first | exact cause_granting _ _ | split)
@[simp] theorem emcyInfo_sp (s : State) (code src line : Nat) (info : List Byte) : (s.emcyInfo code src line info).sp = s.sp := by unfold State.emcyInfo; dsimp only; repeat' (first | exact cause_sp _ _ | split)
@[simp] theorem emcyInfo_parBad (s : State) (code src line : Nat) (info : List Byte) : (s.emcyInfo code src line info).parBad = s.parBad := by unfold State.emcyInfo; dsimp only; repeat' (first | exact cause_parBad _ _ | split)
@[simp] theorem emcyInfo_bist (s : State) (code src line : Nat) (info : List Byte) : (s.emcyInfo code src line info).bist = s.bist := by unfold State.emcyInfo; dsimp only; repeat' (first | exact cause_bist _ _ | split)
@[simp] theorem emcyInfo_otp (s : State) (code src line : Nat) (info : List Byte) : (s.emcyInfo code src line info).otp = s.otp := by unfold State.emcyInfo; dsimp only; repeat' (first | exact cause_otp _ _ | split)
@[simp] theorem emcyInfo_datum (s : State) (code src line : Nat) (info : List Byte) : (s.emcyInfo code src line info).datum = s.datum := by unfold State.emcyInfo; dsimp only; repeat' (first | exact cause_datum _ _ | split)
@[simp] theorem emcyInfo_flash (s : State) (code src line : Nat) (info : List Byte) : (s.emcyInfo code src line info).flash = s.flash := by unfold State.emcyInfo; dsimp only; repeat' (first | exact cause_flash _ _ | split)
@[simp] theorem emcyInfo_pcie (s : State) (code src line : Nat) (info : List Byte) : (s.emcyInfo code src line info).pcie = s.pcie := by unfold State.emcyInfo; dsimp only; repeat' (first | exact cause_pcie _ _ | split)
@[simp] theorem emcyInfo_deferred (s : State) (code src line : Nat) (info : List Byte) : (s.emcyInfo code src line info).deferred = s.deferred := by unfold State.emcyInfo; dsimp only; repeat' (first | exact cause_deferred _ _ | split)
@[simp] theorem emcyInfo_fresh (s : State) (code src line : Nat) (info : List Byte) : (s.emcyInfo code src line info).fresh = s.fresh := by unfold State.emcyInfo; dsimp only; repeat' (first | exact cause_fresh _ _ | split)
@[simp] theorem emcyInfo_dev (s : State) (code src line : Nat) (info : List Byte) : (s.emcyInfo code src line info).dev = s.dev := by unfold State.emcyInfo; dsimp only; repeat' (first | exact cause_dev _ _ | split)
/-! So does one with its line. -/
@[simp] theorem emcyMsg_pending (s : State) (code src line : Nat) : (s.emcyMsg code src line).pending = s.pending := emcyInfo_pending _ _ _ _ _
@[simp] theorem emcyMsg_tb (s : State) (code src line : Nat) : (s.emcyMsg code src line).tb = s.tb := emcyInfo_tb _ _ _ _ _
@[simp] theorem emcyMsg_ctr (s : State) (code src line : Nat) : (s.emcyMsg code src line).ctr = s.ctr := emcyInfo_ctr _ _ _ _ _
@[simp] theorem emcyMsg_cu (s : State) (code src line : Nat) : (s.emcyMsg code src line).cu = s.cu := emcyInfo_cu _ _ _ _ _
@[simp] theorem emcyMsg_stake (s : State) (code src line : Nat) : (s.emcyMsg code src line).stake = s.stake := emcyInfo_stake _ _ _ _ _
@[simp] theorem emcyMsg_inFlight (s : State) (code src line : Nat) : (s.emcyMsg code src line).inFlight = s.inFlight := emcyInfo_inFlight _ _ _ _ _
@[simp] theorem emcyMsg_ch (s : State) (code src line : Nat) : (s.emcyMsg code src line).ch = s.ch := emcyInfo_ch _ _ _ _ _
@[simp] theorem emcyMsg_devQ (s : State) (code src line : Nat) : (s.emcyMsg code src line).devQ = s.devQ := emcyInfo_devQ _ _ _ _ _
@[simp] theorem emcyMsg_epoch (s : State) (code src line : Nat) : (s.emcyMsg code src line).epoch = s.epoch := emcyInfo_epoch _ _ _ _ _
@[simp] theorem emcyMsg_pix (s : State) (code src line : Nat) : (s.emcyMsg code src line).pix = s.pix := emcyInfo_pix _ _ _ _ _
@[simp] theorem emcyMsg_verdictLog (s : State) (code src line : Nat) : (s.emcyMsg code src line).verdictLog = s.verdictLog := emcyInfo_verdictLog _ _ _ _ _
@[simp] theorem emcyMsg_th (s : State) (code src line : Nat) : (s.emcyMsg code src line).th = s.th := emcyInfo_th _ _ _ _ _
@[simp] theorem emcyMsg_dma (s : State) (code src line : Nat) : (s.emcyMsg code src line).dma = s.dma := emcyInfo_dma _ _ _ _ _
@[simp] theorem emcyMsg_granting (s : State) (code src line : Nat) : (s.emcyMsg code src line).granting = s.granting := emcyInfo_granting _ _ _ _ _
@[simp] theorem emcyMsg_sp (s : State) (code src line : Nat) : (s.emcyMsg code src line).sp = s.sp := emcyInfo_sp _ _ _ _ _
@[simp] theorem emcyMsg_parBad (s : State) (code src line : Nat) : (s.emcyMsg code src line).parBad = s.parBad := emcyInfo_parBad _ _ _ _ _
@[simp] theorem emcyMsg_bist (s : State) (code src line : Nat) : (s.emcyMsg code src line).bist = s.bist := emcyInfo_bist _ _ _ _ _
@[simp] theorem emcyMsg_otp (s : State) (code src line : Nat) : (s.emcyMsg code src line).otp = s.otp := emcyInfo_otp _ _ _ _ _
@[simp] theorem emcyMsg_datum (s : State) (code src line : Nat) : (s.emcyMsg code src line).datum = s.datum := emcyInfo_datum _ _ _ _ _
@[simp] theorem emcyMsg_flash (s : State) (code src line : Nat) : (s.emcyMsg code src line).flash = s.flash := emcyInfo_flash _ _ _ _ _
@[simp] theorem emcyMsg_pcie (s : State) (code src line : Nat) : (s.emcyMsg code src line).pcie = s.pcie := emcyInfo_pcie _ _ _ _ _
@[simp] theorem emcyMsg_deferred (s : State) (code src line : Nat) : (s.emcyMsg code src line).deferred = s.deferred := emcyInfo_deferred _ _ _ _ _
@[simp] theorem emcyMsg_fresh (s : State) (code src line : Nat) : (s.emcyMsg code src line).fresh = s.fresh := emcyInfo_fresh _ _ _ _ _
@[simp] theorem emcyMsg_dev (s : State) (code src line : Nat) : (s.emcyMsg code src line).dev = s.dev := emcyInfo_dev _ _ _ _ _
/-! A condition changes the CAN state (R342). -/
@[simp] theorem condOn_pending (s : State) (code src : Nat) : (s.condOn code src).pending = s.pending := by unfold State.condOn; split <;> rfl
@[simp] theorem condOn_tb (s : State) (code src : Nat) : (s.condOn code src).tb = s.tb := by unfold State.condOn; split <;> rfl
@[simp] theorem condOn_ctr (s : State) (code src : Nat) : (s.condOn code src).ctr = s.ctr := by unfold State.condOn; split <;> rfl
@[simp] theorem condOn_regs (s : State) (code src : Nat) : (s.condOn code src).regs = s.regs := by unfold State.condOn; split <;> rfl
@[simp] theorem condOn_cu (s : State) (code src : Nat) : (s.condOn code src).cu = s.cu := by unfold State.condOn; split <;> rfl
@[simp] theorem condOn_stake (s : State) (code src : Nat) : (s.condOn code src).stake = s.stake := by unfold State.condOn; split <;> rfl
@[simp] theorem condOn_inFlight (s : State) (code src : Nat) : (s.condOn code src).inFlight = s.inFlight := by unfold State.condOn; split <;> rfl
@[simp] theorem condOn_ch (s : State) (code src : Nat) : (s.condOn code src).ch = s.ch := by unfold State.condOn; split <;> rfl
@[simp] theorem condOn_devQ (s : State) (code src : Nat) : (s.condOn code src).devQ = s.devQ := by unfold State.condOn; split <;> rfl
@[simp] theorem condOn_epoch (s : State) (code src : Nat) : (s.condOn code src).epoch = s.epoch := by unfold State.condOn; split <;> rfl
@[simp] theorem condOn_pix (s : State) (code src : Nat) : (s.condOn code src).pix = s.pix := by unfold State.condOn; split <;> rfl
@[simp] theorem condOn_verdictLog (s : State) (code src : Nat) : (s.condOn code src).verdictLog = s.verdictLog := by unfold State.condOn; split <;> rfl
@[simp] theorem condOn_th (s : State) (code src : Nat) : (s.condOn code src).th = s.th := by unfold State.condOn; split <;> rfl
@[simp] theorem condOn_dma (s : State) (code src : Nat) : (s.condOn code src).dma = s.dma := by unfold State.condOn; split <;> rfl
@[simp] theorem condOn_granting (s : State) (code src : Nat) : (s.condOn code src).granting = s.granting := by unfold State.condOn; split <;> rfl
@[simp] theorem condOn_sp (s : State) (code src : Nat) : (s.condOn code src).sp = s.sp := by unfold State.condOn; split <;> rfl
@[simp] theorem condOn_parBad (s : State) (code src : Nat) : (s.condOn code src).parBad = s.parBad := by unfold State.condOn; split <;> rfl
@[simp] theorem condOn_bist (s : State) (code src : Nat) : (s.condOn code src).bist = s.bist := by unfold State.condOn; split <;> rfl
@[simp] theorem condOn_otp (s : State) (code src : Nat) : (s.condOn code src).otp = s.otp := by unfold State.condOn; split <;> rfl
@[simp] theorem condOn_datum (s : State) (code src : Nat) : (s.condOn code src).datum = s.datum := by unfold State.condOn; split <;> rfl
@[simp] theorem condOn_flash (s : State) (code src : Nat) : (s.condOn code src).flash = s.flash := by unfold State.condOn; split <;> rfl
@[simp] theorem condOn_pcie (s : State) (code src : Nat) : (s.condOn code src).pcie = s.pcie := by unfold State.condOn; split <;> rfl
@[simp] theorem condOn_deferred (s : State) (code src : Nat) : (s.condOn code src).deferred = s.deferred := by unfold State.condOn; split <;> rfl
@[simp] theorem condOn_fresh (s : State) (code src : Nat) : (s.condOn code src).fresh = s.fresh := by unfold State.condOn; split <;> rfl
@[simp] theorem condOn_dev (s : State) (code src : Nat) : (s.condOn code src).dev = s.dev := by unfold State.condOn; split <;> rfl
@[simp] theorem condOn_out (s : State) (code src : Nat) : (s.condOn code src).out = s.out := by unfold State.condOn; split <;> rfl
/-! Its end may also be told (R342). -/
@[simp] theorem condOff_pending (s : State) (code src : Nat) : (s.condOff code src).pending = s.pending := by unfold State.condOff; dsimp only; split; split; exact emcyMsg_pending _ _ _ _; rfl; rfl
@[simp] theorem condOff_tb (s : State) (code src : Nat) : (s.condOff code src).tb = s.tb := by unfold State.condOff; dsimp only; split; split; exact emcyMsg_tb _ _ _ _; rfl; rfl
@[simp] theorem condOff_ctr (s : State) (code src : Nat) : (s.condOff code src).ctr = s.ctr := by unfold State.condOff; dsimp only; split; split; exact emcyMsg_ctr _ _ _ _; rfl; rfl
@[simp] theorem condOff_cu (s : State) (code src : Nat) : (s.condOff code src).cu = s.cu := by unfold State.condOff; dsimp only; split; split; exact emcyMsg_cu _ _ _ _; rfl; rfl
@[simp] theorem condOff_stake (s : State) (code src : Nat) : (s.condOff code src).stake = s.stake := by unfold State.condOff; dsimp only; split; split; exact emcyMsg_stake _ _ _ _; rfl; rfl
@[simp] theorem condOff_inFlight (s : State) (code src : Nat) : (s.condOff code src).inFlight = s.inFlight := by unfold State.condOff; dsimp only; split; split; exact emcyMsg_inFlight _ _ _ _; rfl; rfl
@[simp] theorem condOff_ch (s : State) (code src : Nat) : (s.condOff code src).ch = s.ch := by unfold State.condOff; dsimp only; split; split; exact emcyMsg_ch _ _ _ _; rfl; rfl
@[simp] theorem condOff_devQ (s : State) (code src : Nat) : (s.condOff code src).devQ = s.devQ := by unfold State.condOff; dsimp only; split; split; exact emcyMsg_devQ _ _ _ _; rfl; rfl
@[simp] theorem condOff_epoch (s : State) (code src : Nat) : (s.condOff code src).epoch = s.epoch := by unfold State.condOff; dsimp only; split; split; exact emcyMsg_epoch _ _ _ _; rfl; rfl
@[simp] theorem condOff_pix (s : State) (code src : Nat) : (s.condOff code src).pix = s.pix := by unfold State.condOff; dsimp only; split; split; exact emcyMsg_pix _ _ _ _; rfl; rfl
@[simp] theorem condOff_verdictLog (s : State) (code src : Nat) : (s.condOff code src).verdictLog = s.verdictLog := by unfold State.condOff; dsimp only; split; split; exact emcyMsg_verdictLog _ _ _ _; rfl; rfl
@[simp] theorem condOff_th (s : State) (code src : Nat) : (s.condOff code src).th = s.th := by unfold State.condOff; dsimp only; split; split; exact emcyMsg_th _ _ _ _; rfl; rfl
@[simp] theorem condOff_dma (s : State) (code src : Nat) : (s.condOff code src).dma = s.dma := by unfold State.condOff; dsimp only; split; split; exact emcyMsg_dma _ _ _ _; rfl; rfl
@[simp] theorem condOff_granting (s : State) (code src : Nat) : (s.condOff code src).granting = s.granting := by unfold State.condOff; dsimp only; split; split; exact emcyMsg_granting _ _ _ _; rfl; rfl
@[simp] theorem condOff_sp (s : State) (code src : Nat) : (s.condOff code src).sp = s.sp := by unfold State.condOff; dsimp only; split; split; exact emcyMsg_sp _ _ _ _; rfl; rfl
@[simp] theorem condOff_parBad (s : State) (code src : Nat) : (s.condOff code src).parBad = s.parBad := by unfold State.condOff; dsimp only; split; split; exact emcyMsg_parBad _ _ _ _; rfl; rfl
@[simp] theorem condOff_bist (s : State) (code src : Nat) : (s.condOff code src).bist = s.bist := by unfold State.condOff; dsimp only; split; split; exact emcyMsg_bist _ _ _ _; rfl; rfl
@[simp] theorem condOff_otp (s : State) (code src : Nat) : (s.condOff code src).otp = s.otp := by unfold State.condOff; dsimp only; split; split; exact emcyMsg_otp _ _ _ _; rfl; rfl
@[simp] theorem condOff_datum (s : State) (code src : Nat) : (s.condOff code src).datum = s.datum := by unfold State.condOff; dsimp only; split; split; exact emcyMsg_datum _ _ _ _; rfl; rfl
@[simp] theorem condOff_flash (s : State) (code src : Nat) : (s.condOff code src).flash = s.flash := by unfold State.condOff; dsimp only; split; split; exact emcyMsg_flash _ _ _ _; rfl; rfl
@[simp] theorem condOff_pcie (s : State) (code src : Nat) : (s.condOff code src).pcie = s.pcie := by unfold State.condOff; dsimp only; split; split; exact emcyMsg_pcie _ _ _ _; rfl; rfl
@[simp] theorem condOff_deferred (s : State) (code src : Nat) : (s.condOff code src).deferred = s.deferred := by unfold State.condOff; dsimp only; split; split; exact emcyMsg_deferred _ _ _ _; rfl; rfl
@[simp] theorem condOff_fresh (s : State) (code src : Nat) : (s.condOff code src).fresh = s.fresh := by unfold State.condOff; dsimp only; split; split; exact emcyMsg_fresh _ _ _ _; rfl; rfl
@[simp] theorem condOff_dev (s : State) (code src : Nat) : (s.condOff code src).dev = s.dev := by unfold State.condOff; dsimp only; split; split; exact emcyMsg_dev _ _ _ _; rfl; rfl
/-! A record changes the message queue or its count (R460). -/
@[simp] theorem record_pending (s : State) (n : Ch) (ev line : Nat) (mapped : Bool) : (s.record n ev line mapped).pending = s.pending := by unfold State.record; repeat' (first | rfl | split)
@[simp] theorem record_tb (s : State) (n : Ch) (ev line : Nat) (mapped : Bool) : (s.record n ev line mapped).tb = s.tb := by unfold State.record; repeat' (first | rfl | split)
@[simp] theorem record_ctr (s : State) (n : Ch) (ev line : Nat) (mapped : Bool) : (s.record n ev line mapped).ctr = s.ctr := by unfold State.record; repeat' (first | rfl | split)
@[simp] theorem record_cu (s : State) (n : Ch) (ev line : Nat) (mapped : Bool) : (s.record n ev line mapped).cu = s.cu := by unfold State.record; repeat' (first | rfl | split)
@[simp] theorem record_stake (s : State) (n : Ch) (ev line : Nat) (mapped : Bool) : (s.record n ev line mapped).stake = s.stake := by unfold State.record; repeat' (first | rfl | split)
@[simp] theorem record_inFlight (s : State) (n : Ch) (ev line : Nat) (mapped : Bool) : (s.record n ev line mapped).inFlight = s.inFlight := by unfold State.record; repeat' (first | rfl | split)
@[simp] theorem record_ch (s : State) (n : Ch) (ev line : Nat) (mapped : Bool) : (s.record n ev line mapped).ch = s.ch := by unfold State.record; repeat' (first | rfl | split)
@[simp] theorem record_devQ (s : State) (n : Ch) (ev line : Nat) (mapped : Bool) : (s.record n ev line mapped).devQ = s.devQ := by unfold State.record; repeat' (first | rfl | split)
@[simp] theorem record_epoch (s : State) (n : Ch) (ev line : Nat) (mapped : Bool) : (s.record n ev line mapped).epoch = s.epoch := by unfold State.record; repeat' (first | rfl | split)
@[simp] theorem record_pix (s : State) (n : Ch) (ev line : Nat) (mapped : Bool) : (s.record n ev line mapped).pix = s.pix := by unfold State.record; repeat' (first | rfl | split)
@[simp] theorem record_verdictLog (s : State) (n : Ch) (ev line : Nat) (mapped : Bool) : (s.record n ev line mapped).verdictLog = s.verdictLog := by unfold State.record; repeat' (first | rfl | split)
@[simp] theorem record_th (s : State) (n : Ch) (ev line : Nat) (mapped : Bool) : (s.record n ev line mapped).th = s.th := by unfold State.record; repeat' (first | rfl | split)
@[simp] theorem record_dma (s : State) (n : Ch) (ev line : Nat) (mapped : Bool) : (s.record n ev line mapped).dma = s.dma := by unfold State.record; repeat' (first | rfl | split)
@[simp] theorem record_granting (s : State) (n : Ch) (ev line : Nat) (mapped : Bool) : (s.record n ev line mapped).granting = s.granting := by unfold State.record; repeat' (first | rfl | split)
@[simp] theorem record_sp (s : State) (n : Ch) (ev line : Nat) (mapped : Bool) : (s.record n ev line mapped).sp = s.sp := by unfold State.record; repeat' (first | rfl | split)
@[simp] theorem record_parBad (s : State) (n : Ch) (ev line : Nat) (mapped : Bool) : (s.record n ev line mapped).parBad = s.parBad := by unfold State.record; repeat' (first | rfl | split)
@[simp] theorem record_bist (s : State) (n : Ch) (ev line : Nat) (mapped : Bool) : (s.record n ev line mapped).bist = s.bist := by unfold State.record; repeat' (first | rfl | split)
@[simp] theorem record_otp (s : State) (n : Ch) (ev line : Nat) (mapped : Bool) : (s.record n ev line mapped).otp = s.otp := by unfold State.record; repeat' (first | rfl | split)
@[simp] theorem record_datum (s : State) (n : Ch) (ev line : Nat) (mapped : Bool) : (s.record n ev line mapped).datum = s.datum := by unfold State.record; repeat' (first | rfl | split)
@[simp] theorem record_flash (s : State) (n : Ch) (ev line : Nat) (mapped : Bool) : (s.record n ev line mapped).flash = s.flash := by unfold State.record; repeat' (first | rfl | split)
@[simp] theorem record_pcie (s : State) (n : Ch) (ev line : Nat) (mapped : Bool) : (s.record n ev line mapped).pcie = s.pcie := by unfold State.record; repeat' (first | rfl | split)
@[simp] theorem record_deferred (s : State) (n : Ch) (ev line : Nat) (mapped : Bool) : (s.record n ev line mapped).deferred = s.deferred := by unfold State.record; repeat' (first | rfl | split)
@[simp] theorem record_fresh (s : State) (n : Ch) (ev line : Nat) (mapped : Bool) : (s.record n ev line mapped).fresh = s.fresh := by unfold State.record; repeat' (first | rfl | split)
@[simp] theorem record_dev (s : State) (n : Ch) (ev line : Nat) (mapped : Bool) : (s.record n ev line mapped).dev = s.dev := by unfold State.record; repeat' (first | rfl | split)
@[simp] theorem record_out (s : State) (n : Ch) (ev line : Nat) (mapped : Bool) : (s.record n ev line mapped).out = s.out := by unfold State.record; repeat' (first | rfl | split)
/-! A change of CH_STATE changes the channel, its cause and its record (R319). -/
@[simp] theorem setCh_pending (s : State) (n : Ch) (x : ChState) : (s.setCh n x).pending = s.pending := by unfold State.setCh; split; rfl; refine (record_pending _ _ _ _ _).trans ((cause_pending _ _).trans ?_); split; rfl; exact cause_pending _ _
@[simp] theorem setCh_tb (s : State) (n : Ch) (x : ChState) : (s.setCh n x).tb = s.tb := by unfold State.setCh; split; rfl; refine (record_tb _ _ _ _ _).trans ((cause_tb _ _).trans ?_); split; rfl; exact cause_tb _ _
@[simp] theorem setCh_ctr (s : State) (n : Ch) (x : ChState) : (s.setCh n x).ctr = s.ctr := by unfold State.setCh; split; rfl; refine (record_ctr _ _ _ _ _).trans ((cause_ctr _ _).trans ?_); split; rfl; exact cause_ctr _ _
@[simp] theorem setCh_cu (s : State) (n : Ch) (x : ChState) : (s.setCh n x).cu = s.cu := by unfold State.setCh; split; rfl; refine (record_cu _ _ _ _ _).trans ((cause_cu _ _).trans ?_); split; rfl; exact cause_cu _ _
@[simp] theorem setCh_stake (s : State) (n : Ch) (x : ChState) : (s.setCh n x).stake = s.stake := by unfold State.setCh; split; rfl; refine (record_stake _ _ _ _ _).trans ((cause_stake _ _).trans ?_); split; rfl; exact cause_stake _ _
@[simp] theorem setCh_inFlight (s : State) (n : Ch) (x : ChState) : (s.setCh n x).inFlight = s.inFlight := by unfold State.setCh; split; rfl; refine (record_inFlight _ _ _ _ _).trans ((cause_inFlight _ _).trans ?_); split; rfl; exact cause_inFlight _ _
@[simp] theorem setCh_devQ (s : State) (n : Ch) (x : ChState) : (s.setCh n x).devQ = s.devQ := by unfold State.setCh; split; rfl; refine (record_devQ _ _ _ _ _).trans ((cause_devQ _ _).trans ?_); split; rfl; exact cause_devQ _ _
@[simp] theorem setCh_epoch (s : State) (n : Ch) (x : ChState) : (s.setCh n x).epoch = s.epoch := by unfold State.setCh; split; rfl; refine (record_epoch _ _ _ _ _).trans ((cause_epoch _ _).trans ?_); split; rfl; exact cause_epoch _ _
@[simp] theorem setCh_pix (s : State) (n : Ch) (x : ChState) : (s.setCh n x).pix = s.pix := by unfold State.setCh; split; rfl; refine (record_pix _ _ _ _ _).trans ((cause_pix _ _).trans ?_); split; rfl; exact cause_pix _ _
@[simp] theorem setCh_verdictLog (s : State) (n : Ch) (x : ChState) : (s.setCh n x).verdictLog = s.verdictLog := by unfold State.setCh; split; rfl; refine (record_verdictLog _ _ _ _ _).trans ((cause_verdictLog _ _).trans ?_); split; rfl; exact cause_verdictLog _ _
@[simp] theorem setCh_th (s : State) (n : Ch) (x : ChState) : (s.setCh n x).th = s.th := by unfold State.setCh; split; rfl; refine (record_th _ _ _ _ _).trans ((cause_th _ _).trans ?_); split; rfl; exact cause_th _ _
@[simp] theorem setCh_dma (s : State) (n : Ch) (x : ChState) : (s.setCh n x).dma = s.dma := by unfold State.setCh; split; rfl; refine (record_dma _ _ _ _ _).trans ((cause_dma _ _).trans ?_); split; rfl; exact cause_dma _ _
@[simp] theorem setCh_granting (s : State) (n : Ch) (x : ChState) : (s.setCh n x).granting = s.granting := by unfold State.setCh; split; rfl; refine (record_granting _ _ _ _ _).trans ((cause_granting _ _).trans ?_); split; rfl; exact cause_granting _ _
@[simp] theorem setCh_sp (s : State) (n : Ch) (x : ChState) : (s.setCh n x).sp = s.sp := by unfold State.setCh; split; rfl; refine (record_sp _ _ _ _ _).trans ((cause_sp _ _).trans ?_); split; rfl; exact cause_sp _ _
@[simp] theorem setCh_parBad (s : State) (n : Ch) (x : ChState) : (s.setCh n x).parBad = s.parBad := by unfold State.setCh; split; rfl; refine (record_parBad _ _ _ _ _).trans ((cause_parBad _ _).trans ?_); split; rfl; exact cause_parBad _ _
@[simp] theorem setCh_bist (s : State) (n : Ch) (x : ChState) : (s.setCh n x).bist = s.bist := by unfold State.setCh; split; rfl; refine (record_bist _ _ _ _ _).trans ((cause_bist _ _).trans ?_); split; rfl; exact cause_bist _ _
@[simp] theorem setCh_otp (s : State) (n : Ch) (x : ChState) : (s.setCh n x).otp = s.otp := by unfold State.setCh; split; rfl; refine (record_otp _ _ _ _ _).trans ((cause_otp _ _).trans ?_); split; rfl; exact cause_otp _ _
@[simp] theorem setCh_datum (s : State) (n : Ch) (x : ChState) : (s.setCh n x).datum = s.datum := by unfold State.setCh; split; rfl; refine (record_datum _ _ _ _ _).trans ((cause_datum _ _).trans ?_); split; rfl; exact cause_datum _ _
@[simp] theorem setCh_flash (s : State) (n : Ch) (x : ChState) : (s.setCh n x).flash = s.flash := by unfold State.setCh; split; rfl; refine (record_flash _ _ _ _ _).trans ((cause_flash _ _).trans ?_); split; rfl; exact cause_flash _ _
@[simp] theorem setCh_pcie (s : State) (n : Ch) (x : ChState) : (s.setCh n x).pcie = s.pcie := by unfold State.setCh; split; rfl; refine (record_pcie _ _ _ _ _).trans ((cause_pcie _ _).trans ?_); split; rfl; exact cause_pcie _ _
@[simp] theorem setCh_deferred (s : State) (n : Ch) (x : ChState) : (s.setCh n x).deferred = s.deferred := by unfold State.setCh; split; rfl; refine (record_deferred _ _ _ _ _).trans ((cause_deferred _ _).trans ?_); split; rfl; exact cause_deferred _ _
@[simp] theorem setCh_fresh (s : State) (n : Ch) (x : ChState) : (s.setCh n x).fresh = s.fresh := by unfold State.setCh; split; rfl; refine (record_fresh _ _ _ _ _).trans ((cause_fresh _ _).trans ?_); split; rfl; exact cause_fresh _ _
@[simp] theorem setCh_dev (s : State) (n : Ch) (x : ChState) : (s.setCh n x).dev = s.dev := by unfold State.setCh; split; rfl; refine (record_dev _ _ _ _ _).trans ((cause_dev _ _).trans ?_); split; rfl; exact cause_dev _ _
/-! A move changes the token, its flag, count and cause (R434). -/
@[simp] theorem moveToken_pending (s : State) (p : Port) : (s.moveToken p).pending = s.pending := by unfold State.moveToken; split; rfl; exact cause_pending _ _
@[simp] theorem moveToken_tb (s : State) (p : Port) : (s.moveToken p).tb = s.tb := by unfold State.moveToken; split; rfl; exact cause_tb _ _
@[simp] theorem moveToken_ctr (s : State) (p : Port) : (s.moveToken p).ctr = s.ctr := by unfold State.moveToken; split; rfl; exact cause_ctr _ _
@[simp] theorem moveToken_cu (s : State) (p : Port) : (s.moveToken p).cu = s.cu := by unfold State.moveToken; split; rfl; exact cause_cu _ _
@[simp] theorem moveToken_stake (s : State) (p : Port) : (s.moveToken p).stake = s.stake := by unfold State.moveToken; split; rfl; exact cause_stake _ _
@[simp] theorem moveToken_inFlight (s : State) (p : Port) : (s.moveToken p).inFlight = s.inFlight := by unfold State.moveToken; split; rfl; exact cause_inFlight _ _
@[simp] theorem moveToken_ch (s : State) (p : Port) : (s.moveToken p).ch = s.ch := by unfold State.moveToken; split; rfl; exact cause_ch _ _
@[simp] theorem moveToken_devQ (s : State) (p : Port) : (s.moveToken p).devQ = s.devQ := by unfold State.moveToken; split; rfl; exact cause_devQ _ _
@[simp] theorem moveToken_epoch (s : State) (p : Port) : (s.moveToken p).epoch = s.epoch := by unfold State.moveToken; split; rfl; exact cause_epoch _ _
@[simp] theorem moveToken_pix (s : State) (p : Port) : (s.moveToken p).pix = s.pix := by unfold State.moveToken; split; rfl; exact cause_pix _ _
@[simp] theorem moveToken_verdictLog (s : State) (p : Port) : (s.moveToken p).verdictLog = s.verdictLog := by unfold State.moveToken; split; rfl; exact cause_verdictLog _ _
@[simp] theorem moveToken_th (s : State) (p : Port) : (s.moveToken p).th = s.th := by unfold State.moveToken; split; rfl; exact cause_th _ _
@[simp] theorem moveToken_dma (s : State) (p : Port) : (s.moveToken p).dma = s.dma := by unfold State.moveToken; split; rfl; exact cause_dma _ _
@[simp] theorem moveToken_granting (s : State) (p : Port) : (s.moveToken p).granting = s.granting := by unfold State.moveToken; split; rfl; exact cause_granting _ _
@[simp] theorem moveToken_sp (s : State) (p : Port) : (s.moveToken p).sp = s.sp := by unfold State.moveToken; split; rfl; exact cause_sp _ _
@[simp] theorem moveToken_parBad (s : State) (p : Port) : (s.moveToken p).parBad = s.parBad := by unfold State.moveToken; split; rfl; exact cause_parBad _ _
@[simp] theorem moveToken_bist (s : State) (p : Port) : (s.moveToken p).bist = s.bist := by unfold State.moveToken; split; rfl; exact cause_bist _ _
@[simp] theorem moveToken_otp (s : State) (p : Port) : (s.moveToken p).otp = s.otp := by unfold State.moveToken; split; rfl; exact cause_otp _ _
@[simp] theorem moveToken_datum (s : State) (p : Port) : (s.moveToken p).datum = s.datum := by unfold State.moveToken; split; rfl; exact cause_datum _ _
@[simp] theorem moveToken_flash (s : State) (p : Port) : (s.moveToken p).flash = s.flash := by unfold State.moveToken; split; rfl; exact cause_flash _ _
@[simp] theorem moveToken_can (s : State) (p : Port) : (s.moveToken p).can = s.can := by unfold State.moveToken; split; rfl; exact cause_can _ _
@[simp] theorem moveToken_pcie (s : State) (p : Port) : (s.moveToken p).pcie = s.pcie := by unfold State.moveToken; split; rfl; exact cause_pcie _ _
@[simp] theorem moveToken_deferred (s : State) (p : Port) : (s.moveToken p).deferred = s.deferred := by unfold State.moveToken; split; rfl; exact cause_deferred _ _
@[simp] theorem moveToken_fresh (s : State) (p : Port) : (s.moveToken p).fresh = s.fresh := by unfold State.moveToken; split; rfl; exact cause_fresh _ _
/-! So does the check (R435). -/
@[simp] theorem tokenCheck_pending (s : State) : (s.tokenCheck).pending = s.pending := by unfold State.tokenCheck; split; exact moveToken_pending _ _; rfl
@[simp] theorem tokenCheck_tb (s : State) : (s.tokenCheck).tb = s.tb := by unfold State.tokenCheck; split; exact moveToken_tb _ _; rfl
@[simp] theorem tokenCheck_ctr (s : State) : (s.tokenCheck).ctr = s.ctr := by unfold State.tokenCheck; split; exact moveToken_ctr _ _; rfl
@[simp] theorem tokenCheck_cu (s : State) : (s.tokenCheck).cu = s.cu := by unfold State.tokenCheck; split; exact moveToken_cu _ _; rfl
@[simp] theorem tokenCheck_stake (s : State) : (s.tokenCheck).stake = s.stake := by unfold State.tokenCheck; split; exact moveToken_stake _ _; rfl
@[simp] theorem tokenCheck_inFlight (s : State) : (s.tokenCheck).inFlight = s.inFlight := by unfold State.tokenCheck; split; exact moveToken_inFlight _ _; rfl
@[simp] theorem tokenCheck_ch (s : State) : (s.tokenCheck).ch = s.ch := by unfold State.tokenCheck; split; exact moveToken_ch _ _; rfl
@[simp] theorem tokenCheck_devQ (s : State) : (s.tokenCheck).devQ = s.devQ := by unfold State.tokenCheck; split; exact moveToken_devQ _ _; rfl
@[simp] theorem tokenCheck_epoch (s : State) : (s.tokenCheck).epoch = s.epoch := by unfold State.tokenCheck; split; exact moveToken_epoch _ _; rfl
@[simp] theorem tokenCheck_pix (s : State) : (s.tokenCheck).pix = s.pix := by unfold State.tokenCheck; split; exact moveToken_pix _ _; rfl
@[simp] theorem tokenCheck_verdictLog (s : State) : (s.tokenCheck).verdictLog = s.verdictLog := by unfold State.tokenCheck; split; exact moveToken_verdictLog _ _; rfl
@[simp] theorem tokenCheck_th (s : State) : (s.tokenCheck).th = s.th := by unfold State.tokenCheck; split; exact moveToken_th _ _; rfl
@[simp] theorem tokenCheck_dma (s : State) : (s.tokenCheck).dma = s.dma := by unfold State.tokenCheck; split; exact moveToken_dma _ _; rfl
@[simp] theorem tokenCheck_granting (s : State) : (s.tokenCheck).granting = s.granting := by unfold State.tokenCheck; split; exact moveToken_granting _ _; rfl
@[simp] theorem tokenCheck_sp (s : State) : (s.tokenCheck).sp = s.sp := by unfold State.tokenCheck; split; exact moveToken_sp _ _; rfl
@[simp] theorem tokenCheck_parBad (s : State) : (s.tokenCheck).parBad = s.parBad := by unfold State.tokenCheck; split; exact moveToken_parBad _ _; rfl
@[simp] theorem tokenCheck_bist (s : State) : (s.tokenCheck).bist = s.bist := by unfold State.tokenCheck; split; exact moveToken_bist _ _; rfl
@[simp] theorem tokenCheck_otp (s : State) : (s.tokenCheck).otp = s.otp := by unfold State.tokenCheck; split; exact moveToken_otp _ _; rfl
@[simp] theorem tokenCheck_datum (s : State) : (s.tokenCheck).datum = s.datum := by unfold State.tokenCheck; split; exact moveToken_datum _ _; rfl
@[simp] theorem tokenCheck_flash (s : State) : (s.tokenCheck).flash = s.flash := by unfold State.tokenCheck; split; exact moveToken_flash _ _; rfl
@[simp] theorem tokenCheck_can (s : State) : (s.tokenCheck).can = s.can := by unfold State.tokenCheck; split; exact moveToken_can _ _; rfl
@[simp] theorem tokenCheck_pcie (s : State) : (s.tokenCheck).pcie = s.pcie := by unfold State.tokenCheck; split; exact moveToken_pcie _ _; rfl
@[simp] theorem tokenCheck_deferred (s : State) : (s.tokenCheck).deferred = s.deferred := by unfold State.tokenCheck; split; exact moveToken_deferred _ _; rfl
@[simp] theorem tokenCheck_fresh (s : State) : (s.tokenCheck).fresh = s.fresh := by unfold State.tokenCheck; split; exact moveToken_fresh _ _; rfl

/-- An interrupt cause reaches no register but INT_STAT and the Pending Bit Array (R421). -/
theorem get_cause_other (s : State) (v : Nat) {g : Fld} (h : Ho.INT_STAT.key ≠ g.key) (k : (Mx.PBA v).key ≠ g.key) :
    (s.cause v).get g = s.get g := by
  unfold State.cause; dsimp only
  repeat' (first | rfl | split)
  · exact get_put_other _ _ h
  · rw [flag_eq, get_put_other _ _ k, get_put_other _ _ h]
  · exact get_put_other _ _ h
  · rw [get_emit, get_put_other _ _ h]
/-- A pulse of a source that exists is in flight for 2 CORE_CLK cycles (R36, R40). -/
theorem pulse_inFlight (s : State) {src : Nat} (h : 0 < src ∧ src < 0x48) : (s.pulse src).inFlight = s.inFlight ++ [(src, s.tb + 32)] := by
  unfold State.pulse; rw [if_pos h]
/-- The token is where it was moved to (R434). -/
theorem moveToken_token (s : State) (p : Port) : (s.moveToken p).dev.token = p := by
  unfold State.moveToken; split
  · assumption
  · exact congrArg Dev.token (cause_dev _ _)

end Sys2Proof.Machine
end

