-- ==== Sys2Proof/Laws/Settle.lean ====
section
/-! SUPPORT. When a command leaves the device with nothing to do of itself, and what the ways to a command and the field write
rules come to. -/
namespace Sys2Proof.Machine

/-- A device at rest stays as the command left it. -/
theorem settle_of_rests {s : State} (h : s.rests = true) : s.settle = s := by
  unfold State.settle; rw [if_pos h]
/-- Whether the device rests depends on the time, its registers, channels, domains, ports, flash and epoch alone. -/
theorem rests_congr {s t : State} (ht : t.tb = s.tb) (hr : t.regs = s.regs) (hc : t.ch = s.ch) (hd : t.dev = s.dev) (hp : t.pcie = s.pcie)
    (hx : t.pix = s.pix) (hf : t.flash = s.flash) (he : t.epoch = s.epoch) : t.rests = s.rests := by
  obtain ⟨⟩ := s; obtain ⟨⟩ := t
  simp only at ht hr hc hd hp hx hf he
  subst ht hr hc hd hp hx hf he
  rfl
/-- Nothing reached through a register gives an object answer (R419, R431). -/
@[simp] theorem answered_reg (s : State) (idx sub abort : Nat) : s.answered .reg idx sub abort = s := rfl
@[simp] theorem answered_obj (s : State) (p : Port) (idx sub abort : Nat) : s.answered (.obj p) idx sub abort = s.answer p idx sub abort := rfl
@[simp] theorem expertVia_reg (s : State) : s.expertVia .reg = true := rfl
@[simp] theorem expertVia_obj (s : State) (p : Port) : s.expertVia (.obj p) = s.expertOn p := rfl
/-- What is reached is open (R434). -/
theorem opens_of_reached {s : State} {via : Via} (h : s.reached via = true) : s.opens via = true := by
  unfold State.reached at h; exact (Bool.and_eq_true_iff.mp h).1
theorem reached_of_reachedCh {s : State} {n : Ch} {via : Via} (h : s.reachedCh n via = true) : s.reached via = true := by
  unfold State.reachedCh at h; exact (Bool.and_eq_true_iff.mp (Bool.and_eq_true_iff.mp h).1).1
/-- A write to a read-only field keeps nothing (R7). -/
theorem writeFld_ro (s : State) {f : Fld} (data : Nat) (inRun : Bool) (h : f.acc = .ro) : s.writeFld f data inRun = s := by
  unfold State.writeFld; rw [h]
/-- Nor does one to a write-only field. -/
theorem writeFld_wo (s : State) {f : Fld} (data : Nat) (inRun : Bool) (h : f.acc = .wo) : s.writeFld f data inRun = s := by
  unfold State.writeFld; rw [h]
/-- A read-write field takes the bits (R7). -/
theorem writeFld_rw (s : State) {f : Fld} (data : Nat) (inRun : Bool) (h : f.acc = .rw) :
    s.writeFld f data inRun = s.put f (bits data f.msb f.lsb) := by
  unfold State.writeFld; rw [h]
/-- A shadowed field takes its shadow, and outside RUN the value in effect with it (R7, R11); what stood before the cycle is kept for the boundary of that cycle (R143). -/
theorem writeFld_rws (s : State) {f : Fld} (data : Nat) (inRun : Bool) (h : f.acc = .rws) :
    s.writeFld f data inRun = if inRun then (s.noteShadow f).put f (bits data f.msb f.lsb) else s.putBoth f (bits data f.msb f.lsb) := by
  unfold State.writeFld; rw [h]
/-- A flag written 1 clears, and written 0 stays (R39). -/
theorem writeFld_w1c (s : State) {f : Fld} (data : Nat) (inRun : Bool) (h : f.acc = .w1c) (hi : f ≠ Ho.INT_STAT) :
    s.writeFld f data inRun = if bits data f.msb f.lsb = 0 then s else s.put f 0 := by
  unfold State.writeFld; rw [h]; simp only [if_neg hi]
/-- A field written at or above another address is not touched: a word of no field changes nothing. -/
theorem writeWord_none (s : State) {fs : List Fld} {addr : Nat} (data : Nat) (inRun : Bool) (h : ∀ f ∈ fs, f.addr ≠ addr) :
    s.writeWord fs addr data inRun = s := by
  unfold State.writeWord
  rw [List.filter_eq_nil_iff.mpr (fun f m => by simpa using h f m)]; rfl
/-- The lowest bound that holds: a refusal is the first listed whose condition holds (R550). -/
theorem firstBad_cons (c : Bool) (a : Nat) (r : List (Bool × Nat)) : firstBad ((c, a) :: r) = if c then some a else firstBad r := rfl

end Sys2Proof.Machine
end

