-- ==== Sys2Proof/Tests/Slice0.lean ====
section
/-! SUPPORT. The model's own tests: ill-formed operands are refused, values of the spec's worked examples, single commands on a small
state, and for every obligation with hypotheses a state and operands that meet them all. -/
namespace Sys2Proof.Tests

open Sys2Proof Sys2Proof.Machine

set_option maxRecDepth 100000
-- one proof at a time: each `decide` in the kernel waits on a thread of its own otherwise
set_option Elab.async false

/-- A device that is up: the token at PCI Express, the node OPERATIONAL, channel 0 IDLE with its link up, every other channel OFF. -/
def up : State :=
  let r := State.reset
  let t : State := { r with
    dev := { r.dev with boot := .up, token := .pcie, expCan := true, expPcie := true }
    pcie := { r.pcie with on := true, linkUp := true, perst := false, conf := true }
    can := { r.can with nmt := .operational, nodeId := 1 }
    otp := { r.otp with windowOk := true } }
  (((t.modCh 0 (fun c => { c with
    st := .idle, store := { c.store with rows := [(8, 0)] }, link := { c.link with st := .up } })).flag
    (Lv.HV_ON 0)).flag (Lv.PRECHG 0)).put (Ld.NOZZLES 0) 8

/-! ### Ill-formed operands -/

theorem test_wf_register_outside : wellFormed (.registerWrite 0x1000000 0xF 0 none) = false := by decide
theorem test_wf_register_upper : wellFormed (.registerWrite 0xFFFFFC 0xF 0 (some (0xF, 0))) = false := by decide
theorem test_wf_register_good : wellFormed (.registerWrite 0x4 0xF 0 none) = true := by decide
theorem test_wf_object_index : wellFormed (.sdoUpload .can 0x10000 0) = false := by decide
theorem test_wf_object_sub : wellFormed (.sdoUpload .can 0x1000 0x100) = false := by decide
theorem test_wf_object_empty : wellFormed (.sdoDownload .can 0x1000 0 []) = false := by decide
theorem test_wf_mailbox_seq : wellFormed (.mailboxRead 0x1000 0 0x100) = false := by decide
theorem test_wf_mailbox_data : wellFormed (.mailboxWrite 0x1000 0 1 65 (List.replicate 65 0)) = false := by decide
theorem test_wf_mailbox_cmd : wellFormed (.mailboxInvalidCmd 4 0x1000 0 1) = false := by decide
theorem test_wf_read_outside : wellFormed (.hiLatchRead 0xFFFFFC 8 [] none) = false := by decide
theorem test_wf_read_empty : wellFormed (.hiLatchRead 4 0 [] none) = false := by decide
theorem test_wf_read_bad : wellFormed (.hiLatchRead 4 4 [4] none) = false := by decide
theorem test_wf_read_sport : wellFormed (.hiLatchRead 4 4 [] (some ⟨none, 6, [none, none, none]⟩)) = false := by decide
theorem test_wf_completion : wellFormed (.dmaReadCompletion 0 (List.replicate 513 0) none) = false := by decide +kernel
theorem test_wf_slice_single : wellFormed (.bistSlice [1024] []) = false := by decide
theorem test_wf_slice_bad : wellFormed (.bistSlice [] [1024]) = false := by decide
theorem test_wf_load_parity : wellFormed (.protectedLoadDone 0 (some 0x10000)) = false := by decide
theorem test_wf_lineWord : wellFormed (.lineBoundary 0 0 [.line 0x30000 [0] []]) = false := by decide
theorem test_wf_lineFlips : wellFormed (.lineBoundary 0 0 [.line 0 [72] []]) = false := by decide
theorem test_wf_tableEntry : wellFormed (.lineBoundary 0 0 [.tableUe 5120]) = false := by decide
theorem test_wf_ssi : wellFormed (.ssiFrame 0 false (2 ^ 32) false 0) = false := by decide
theorem test_wf_table_window : wellFormed (.tableWrite 0xFFFFFC [0, 0, 0, 0, 0, 0, 0, 0]) = false := by decide
theorem test_wf_slot_word : wellFormed (.slotWordWrite 0 0 32 0 .reg) = false := by decide
theorem test_wf_protectedLoad : wellFormed (.protectedLoad 0 (2 ^ 32) .pcie) = false := by decide
theorem test_wf_balancer : wellFormed (.balancerCheck 0 []) = false := by decide
theorem test_wf_capture : wellFormed (.captureEnd 0 [2048]) = false := by decide
theorem test_wf_strip : wellFormed (.stripAnalysis 0 (some 0x100000)) = false := by decide
theorem test_wf_conv_diode : wellFormed (.thermalSample 0 (.diode (2 ^ 24) 0) 0) = false := by decide
theorem test_wf_conv_ntc : wellFormed (.thermalSample 0 (.ntc 0x10000) 0) = false := by decide
theorem test_wf_die : wellFormed (.dieSample false 32768) = false := by decide
theorem test_wf_fetch : wellFormed (.listEntryFetch 0 (.entry (2 ^ 64) 0 0)) = false := by decide
theorem test_wf_lanes : wellFormed (.scratchpadWrite 0x80000 [some 1] none) = false := by decide
theorem test_wf_lanes_empty : wellFormed (.setAliasWrite 0 [] none) = false := by decide
theorem test_wf_sport : wellFormed (.clearAliasWrite 0 [some 1] (some ⟨some .plain, 0x80000, [some 1]⟩)) = false := by decide
theorem test_wf_bank : wellFormed (.frameStart 0 0 false (some 0x2000) 0) = false := by decide
theorem test_wf_bands : wellFormed (.pipelineLine (some 0x42000)) = false := by decide
theorem test_wf_packet (b : List Byte) (h : 0x10000 ≤ b.length) : wellFormed (.longPacket 0 0 0 b false true) = false := by
  simp [wellFormed, h]
theorem test_wf_rpdo : wellFormed (.rpdo 0 (List.replicate 65 0)) = false := by decide
theorem test_wf_fuses : wellFormed (.otpWriteLockBlow .can ⟨20481, .window, [], []⟩) = false := by decide
theorem test_wf_debugger : wellFormed (.tapDbg (.read 0x7FFFF 2)) = false := by decide
theorem test_wf_debugger_slot : wellFormed (.tapDbg (.slotRead 0 2 0)) = false := by decide
theorem test_wf_signature : wellFormed (.debugResponse [] .can) = false := by decide
theorem test_wf_bench : wellFormed (.safeExit ⟨true, true, true, true, []⟩ (.obj .can)) = false := by decide

/-! ### Values of the spec -/

/-- R224: the check value of the CRC over the digits 1 to 9. -/
theorem test_crc16 : crc16 [0x31, 0x32, 0x33, 0x34, 0x35, 0x36, 0x37, 0x38, 0x39] = 0x29B1 := by decide +kernel
/-- Chapter 11, a head that overheats: BAND 10. -/
theorem test_throttle_slow : throttle 10 8172 = 906 := by decide
theorem test_throttle_fast : throttle 10 8198 = 900 := by decide
theorem test_throttle_floor : throttle 10 8963 = 717 := by decide
theorem test_throttle_below : throttle 10 8955 = 719 := by decide
/-- Chapter 3, four staggered heads: line 1,000 of CH2 lies at edge 77,969 and 7,835/65,536. -/
theorem test_line_1000 : State.lineX ((((((((up.put (Tr.PITCH 2) 0x00087777).put (Tr.OFS_INT 2) 0x9A4E).put (Tr.OFS_FRAC 2) 0x75C3).put
    (Tr.LINE0_LO 2) 0).put (Tr.LINE0_HI 2) 0).put (Tr.MODE 2) 0).put (Tr.ANCHOR_LO 2) 30000)) 2 1000 = 77969 * 65536 + 7835 := by
  decide +kernel
/-- R62: the difference of two positions across the wrap of 48 bits. -/
theorem test_position_wrap : posDiff 1 0xFFFFFFFFFFFF = 2 := by decide
/-- R402: the host's set, then port S in the same cycle. -/
theorem test_set_alias : spOn .set 0x0F 0x30 = 0x3F := by decide
theorem test_clear_alias : spOn .clear 0x3F 0x30 = 0x0F := by decide
/-- R3: a bit range of a word. -/
theorem test_bits : bits 0x14804000 31 24 = 0x14 := by decide
theorem test_sext_negative : sext 16 0xFF80 = -128 := by decide
/-- R467, R472: the fixed code is a SECDED code, and a word of zeros has check bits of zeros. -/
theorem test_secded_code : secded plainColumns = true := by decide +kernel
theorem test_secded_blank : otpChk 0 = 0 := by decide +kernel
/-- Of shifts that answer alike the smallest is taken, the negative one first (log entry 64). -/
theorem test_best_shift : bestMove 3 (fun d => if d = -2 ∨ d = 2 then 5 else 0) = -2 := by decide
/-- No word of the table spells a command. -/
theorem test_decode_none : decodeTableWord 32 0 = none := by decide

/-! ### Single commands -/

/-- What a command leads to, and the same state if it stops. -/
def after (c : Instr) (s : State) : State := match exec c s with | .next t => t | _ => s
/-- R399: the bytes enabled are written, the others stay. -/
theorem test_scratchpad_write : (after (.scratchpadWrite 4 [some 0x11, none, some 0x22] none) up).spBytes 4 3 = [0x11, 0, 0x22] := by
  decide +kernel
/-- R403: the host does not reach the secure part. -/
theorem test_scratchpad_secure : (after (.scratchpadWrite 0x70000 [some 0x11] none) up).sp = up.sp := by decide +kernel
/-- A byte written 0 leaves the list as it was: equal memories are equal data. -/
theorem test_scratchpad_canonical :
    (after (.scratchpadWrite 4 [some 0] none) (after (.scratchpadWrite 4 [some 0x11] none) up)).sp = up.sp := by decide +kernel
/-- The command at the front of the queue runs with the rest. -/
theorem test_queue : step (up.withFront (.swPulse 1)) = exec (.swPulse 1) up := rfl
/-- R36: a software pulse is in flight for 32 ticks. -/
theorem test_swPulse : (after (.swPulse 1) up).inFlight = [(0x40, 32)] := by decide +kernel
/-- The invariant holds after reset. -/
theorem test_reset_inv : Sys2Proof.Inv State.reset := by unfold Sys2Proof.Inv; decide +kernel

/-- What the check bits of a word are does not matter here: a word with an odd value has its fuse 0 blown. -/
theorem test_ones_low (w : Nat) (h : w % 2 = 1) : 0 ∈ onesOf w 39 := List.mem_filter.mpr ⟨by decide, by simp [bit, h]⟩
theorem test_ones_most (w : Nat) : (onesOf w 39).length ≤ 40 := Nat.le_trans (List.length_filter_le _ _) (by decide)
theorem test_odd_word (v : Word) (x : Nat) (h : v.toNat % 2 = 1) : (v.toNat + x * 2 ^ 32) % 2 = 1 := by omega
theorem test_fuse_fails (r : FuseRun) (h : r.blown = 40) (hd : 0 ∈ r.weak) (v : Word) (hv : v.toNat % 2 = 1) :
    (let w := v.toNat + otpChk v.toNat * 2 ^ 32; ((onesOf w 39).length ≤ r.blown) ∧ ((∃ i ∈ onesOf w 39, i ∈ r.dud ∨ i ∈ r.weak))) :=
  ⟨h ▸ test_ones_most _, 0, test_ones_low _ (test_odd_word v _ hv), Or.inr hd⟩
theorem test_fuse_stops (r : FuseRun) (h : r = ⟨0, .window, [], []⟩) (v : Word) (hv : v.toNat % 2 = 1) :
    (let w := v.toNat + otpChk v.toNat * 2 ^ 32; (r.blown < (onesOf w 39).length) ∧ (r.dud = []) ∧ (r.weak = [])) :=
  ⟨h ▸ List.length_pos_of_mem (test_ones_low _ (test_odd_word v _ hv)), h ▸ rfl, h ▸ rfl⟩

/-! ### A state and operands for the hypotheses of every obligation -/

theorem witness_StepRunsTheFrontCommand :
  (∃ (c : Instr) (rest : List Instr) (s : State), (s.pending = c :: rest)) ∧
  (∃ (s : State), (s.pending = [])) :=
  ⟨
  ⟨Instr.tapBypass, [], ((fun (s : State) => { s with pending := [.tapBypass] }) (up)), by decide +kernel⟩,
  ⟨up, by decide +kernel⟩⟩

theorem witness_StepKeepsInv :
  (∃ s t : State, Sys2Proof.Inv s ∧ step s = .next t) :=
  ⟨up.withFront (.swPulse 1), _, by unfold Sys2Proof.Inv; decide +kernel, rfl⟩

theorem witness_EventsAndWatchdog :
  (∃ (src : Nat), (0 < src) ∧ (src < 0x48)) ∧
  (∃ (s : State), (s.rests = true) ∧ (s.reached .reg = true)) ∧
  (∃ (s : State) (src : Nat) (due : Nat) (rest : List (Nat × Nat)), (s.inFlight = (src, due) :: rest)) ∧
  (∃ (s : State) (p : Nat × Nat) (rest : List (Nat × Nat)), ((s.at p.2).rests = true) ∧ (s.inFlight = p :: rest) ∧ ((∀ k : Fin
    45, ¬(s.has (Ev.EN k) = true ∧ s.get (Ev.SOURCE k) = p.1)))) ∧
  (∃ (s : State) (k : Fin 45), (s.has (Ev.PENDING k) = true)) ∧
  (∃ (s : State), (s.rests = true) ∧ (s.reached .reg = true) ∧ (s.inFlight = [])) ∧
  (∃ (s : State) (k : Fin 45) (src : Nat) (due : Nat), ((s.at due).rests = true) ∧ (s.reached .reg = true) ∧ (s.inFlight =
    [(src, due)]) ∧ (cycleOf due ≤ cycleOf s.tb) ∧ (s.has (Ev.PENDING k) = true) ∧ ((∀ j : Fin 45, j ≠ k → ¬(s.has (Ev.EN j) =
    true ∧ s.get (Ev.SOURCE j) = src)))) ∧
  (∃ (s : State) (tick : Tick), ((s.at tick).rests = true) ∧ (s.canTimed = true) ∧ (s.dev.dbgHalt = false) ∧ (s.dev.wdAt.all
    (fun t0 => decide (t0 + 10 * 9600000000 < max s.tb tick)) = true)) ∧
  (∃ (s : State) (tick : Tick), ((s.at tick).rests = true) ∧ (s.canTimed = true) ∧ (s.dev.dbgHalt = true)) ∧
  (∃ (s : State) (tick : Tick) (k : Fin 2), ((s.at tick).rests = true) ∧ (s.dev.supFails = k) ∧ (s.dev.supCmd = none)) ∧
  (∃ (s : State) (tick : Tick) (n : Ch) (c : SwitchCmd), ((s.at tick).rests = true) ∧ (s.dev.supFails < 2) ∧ (s.dev.supCmd =
    some c) ∧ (c.ch = (n : Nat)) ∧ (c.held = false) ∧ (max s.tb tick ≤ c.at0 + 9600)) ∧
  (∃ (s : State) (tick : Tick) (n : Ch), ((s.at tick).rests = true) ∧ (s.chSt n = .idle)) ∧
  (∃ (s : State) (tick : Tick) (n : Ch), ((s.at tick).rests = true) ∧ (s.chSt n = .run) ∧ (thirdWithin
    (s.ch[n]).drive.d2dLines ((s.at tick).lineInProgress n) = false)) ∧
  (∃ (s : State), (s.rests = true) ∧ (s.dev.restarting = true) ∧ (s.dev.romStop = false) ∧ (s.dev.dbgHalt = false) ∧
    (s.deferred = [])) ∧
  (∃ (s : State) (p : Port) (idx : Nat) (sub : Nat), (s.rests = true) ∧ (s.dev.restarting = true) ∧ (s.dev.romStop = false) ∧
    (s.dev.dbgHalt = false) ∧ (s.deferred = [.sdoUpload p idx sub])) ∧
  (∃ (s : State) (p : Port), (s.rests = true) ∧ (s.serves p = true) ∧ (s.spDown = true)) ∧
  (∃ (s : State), (s.rests = true) ∧ (s.dev.supResend = true) ∧ (s.dev.supCmd.all (fun c => !c.held) = true)) ∧
  (∃ (s : State) (n : Ch) (c : SwitchCmd), (s.rests = true) ∧ (s.dev.supResend = true) ∧ (s.dev.supCmd = some c) ∧ (c.ch = (n
    : Nat)) ∧ (c.held = true) ∧ (c.close = false)) :=
  ⟨
  ⟨5, by decide +kernel⟩,
  ⟨up, by decide +kernel⟩,
  ⟨((fun (s : State) => { s with inFlight := [(0x40, 100)] }) (up)), 64, 100, [], by decide +kernel⟩,
  ⟨((fun (s : State) => { s with inFlight := [(0x40, 100)] }) (up)), (64, 100), [], by decide +kernel⟩,
  ⟨(up.put (Ev.PENDING 3) 1), 3, by decide +kernel⟩,
  ⟨up, by decide +kernel⟩,
  ⟨((up.put (Ev.PENDING 3) 1) |> fun (u : State) => { u with inFlight := [(5, 0)] }), 3, 5, 0, by decide +kernel⟩,
  ⟨up, 5, by decide +kernel⟩,
  ⟨(up.modDev (fun d => { d with dbgHalt := true })), 5, by decide +kernel⟩,
  ⟨up, 5, 0, by decide +kernel⟩,
  ⟨(up.modDev (fun d => { d with supCmd := some ⟨0, true, 0, false⟩ })), 5, 0,
    { ch := 0, close := true, at0 := 0, held := false }, by decide +kernel⟩,
  ⟨up, 5, 0, by decide +kernel⟩,
  ⟨(up.modCh 0 (fun c => { c with st := .run })), 5, 0, by decide +kernel⟩,
  ⟨(up.modDev (fun d => { d with restarting := true })), by decide +kernel⟩,
  ⟨((fun (s : State) => { s with deferred := [.sdoUpload .can 0x1018 3] }) (up.modDev (fun d =>
    { d with restarting := true }))), .can, 4120, 3, by decide +kernel⟩,
  ⟨(up.modDev (fun d => { d with restarting := true })), .can, by decide +kernel⟩,
  ⟨(up.modDev (fun d => { d with supResend := true })), by decide +kernel⟩,
  ⟨(up.modDev (fun d => { d with supResend := true, supCmd := some ⟨0, false, 0, true⟩ })), 0,
    { ch := 0, close := false, at0 := 0, held := true }, by decide +kernel⟩⟩

theorem witness_DeviceFaultsEnterSafe :
  (∃ (s : State), (s.alive = true) ∧ (s.canTimed = true)) ∧
  (∃ (s : State) (n : Ch), (s.alive = true) ∧ (s.has (Lv.HV_ON n) = true)) ∧
  (∃ (s : State) (tick : Tick) (t0 : Tick), (s.alive = true) ∧ (s.canTimed = true) ∧ (s.dev.dbgHalt = false) ∧
    (s.datum.bootSrc ≠ 0) ∧ (s.dev.wdAt = some t0) ∧ (max s.tb tick ≤ t0 + 10 * 9600000000)) ∧
  (∃ (s : State), (s.alive = true) ∧ (s.dev.supFails = 2) ∧ (s.dev.supCmd = none)) ∧
  (∃ (s : State), (s.rests = true) ∧ (s.alive = false)) ∧
  (∃ (s : State) (code : Nat) (n : Ch), (code < 2 ^ 16) ∧ (s.dev.safe = false) ∧ (s.dev.safeEntry = none) ∧ (s.benchOn =
    false) ∧ (s.dev.retires = []) ∧ ((s.chSt n = .idle ∨ s.chSt n = .run ∨ s.chSt n = .readmitting)) ∧
    ((s.ch[n]).drive.bleeding = false)) ∧
  (∃ (s : State) (code : Nat) (n : Ch), (code < 2 ^ 16) ∧ (s.dev.safe = false) ∧ (s.dev.safeEntry = none) ∧ (s.benchOn =
    false) ∧ (s.dev.retires = []) ∧ ((s.chSt n = .retiring ∨ s.chSt n = .retired))) ∧
  (∃ (s : State) (code : Nat), (code < 2 ^ 16) ∧ (s.dev.safe = false) ∧ (s.dev.safeEntry = none) ∧ (s.benchOn = false) ∧
    (s.dev.retires = []) ∧ ((∃ n : Ch, s.chSt n = .idle ∨ s.chSt n = .run ∨ s.chSt n = .readmitting))) ∧
  (∃ (s : State) (code : Nat), (code < 2 ^ 16) ∧ (s.dev.safe = false) ∧ (s.dev.safeEntry = none) ∧ (s.benchOn = false) ∧
    (s.dev.retires = []) ∧ ((∀ n : Ch, s.chSt n = .off ∧ s.has (Lv.HV_ON n) = false)) ∧ (s.get Su.SAFE_CAUSE = 0)) :=
  ⟨
  ⟨up, by decide +kernel⟩,
  ⟨up, 0, by decide +kernel⟩,
  ⟨((fun (s : State) => (fun (u : State) => { u with datum := { u.datum with bootSrc := 1 } }) (s.modDev (fun d =>
    { d with wdAt := some 0 }))) (up)), 5, 0, by decide +kernel⟩,
  ⟨(up.modDev (fun d => { d with supFails := 2 })), by decide +kernel⟩,
  ⟨(up.modDev (fun d => { d with boot := .held })), by decide +kernel⟩,
  ⟨up, 5, 0, by decide +kernel⟩,
  ⟨(up.modCh 0 (fun c => { c with st := .retiring })), 5, 0, by decide +kernel⟩,
  ⟨up, 5, by decide +kernel⟩,
  ⟨State.reset, 5, by decide +kernel⟩⟩

theorem witness_StartUpInOrder :
  (∃ (s : State), (s.rests = true) ∧ (s.dev.boot = .held)) ∧
  (∃ (s : State), (s.rests = true) ∧ (s.dev.boot ≠ .held)) ∧
  (∃ (s : State), (s.rests = true) ∧ (s.dev.boot = .released)) ∧
  (∃ (s : State), (s.rests = true) ∧ (s.dev.boot = .up)) ∧
  (∃ (s : State), (s.rests = true) ∧ (s.dev.boot ≠ .locked)) ∧
  (∃ (s : State), (s.rests = true) ∧ (s.benchOn = false)) ∧
  (∃ (s : State), (s.rests = true) ∧ (s.dev.boot = .locked)) ∧
  (∃ (s : State), (s.rests = true) ∧ (s.dev.boot = .benchmark) ∧ (s.dev.safeRun = none) ∧ ((∀ n : Ch, s.chSt n = .off → s.has
    (Lv.PRECHG n) = true ∧ s.linkUp n = true ∧ (s.ch[n]).kept = []))) :=
  ⟨
  ⟨(up.modDev (fun d => { d with boot := .held })), by decide +kernel⟩,
  ⟨up, by decide +kernel⟩,
  ⟨(up.modDev (fun d => { d with boot := .released })), by decide +kernel⟩,
  ⟨up, by decide +kernel⟩,
  ⟨up, by decide +kernel⟩,
  ⟨up, by decide +kernel⟩,
  ⟨(up.modDev (fun d => { d with boot := .locked })), by decide +kernel⟩,
  ⟨((fun (s : State) => (List.range 8).foldl (fun (t : State) (i : Nat) => t.modCh (Fin.ofNat 8 i) (fun c =>
    { c with st := .idle })) s) (up.modDev (fun d => { d with boot := .benchmark }))), by decide +kernel⟩⟩

theorem witness_DeviceResetsKeepOtpAndFlash :
  (∃ (s : State) (c : Instr) (src : Nat) (b : BootStage), ((c, src, b) ∈ [(Instr.resetNLow, 2, BootStage.held),
    (Instr.brownOut, 3, .held), (Instr.nmtResetNode, 4, .released)]) ∧ ((c = .nmtResetNode → s.anyBusy = false ∧ s.canUp =
    true ∧ s.can.nmt ≠ .init)) ∧ ((s.dev.boot = .held → s.get Su.RESET_SRC ≠ 0))) ∧
  (∃ (s : State), (s.dev.boot = .held) ∧ (s.get Su.RESET_SRC = 0)) ∧
  (∃ (s : State), (s.rests = true) ∧ ((s.dev.boot = .held ∨ s.dev.boot = .released ∨ s.dev.boot = .locked))) :=
  ⟨
  ⟨up, Instr.nmtResetNode, 4, .released, by decide +kernel⟩,
  ⟨(up.modDev (fun d => { d with boot := .held })), by decide +kernel⟩,
  ⟨(up.modDev (fun d => { d with boot := .held })), by decide +kernel⟩⟩

theorem witness_SafeLeavesByItsExit :
  (∃ (s : State) (i : Fin 9), (s.rests = true) ∧ (1 ≤ (i : Nat)) ∧ ((i : Nat) ≤ 3) ∧ (bit (s.get Su.SAFE_COND) i = true)) ∧
  (∃ (s : State) (i : Fin 9), (s.rests = true) ∧ (bit (s.get Su.SAFE_COND) i = false)) ∧
  (∃ (s : State), (s.barOpen = true) ∧ (s.holds .pcie = true) ∧ (s.safeExitRefused = none)) ∧
  (∃ (s : State) (p : Port), (s.serves p = true) ∧ (s.spDown = false) ∧ (s.holds p = true) ∧ (s.safeExitRefused = none)) ∧
  (∃ (s : State) (p : Port), (s.rests = true) ∧ (s.reached (.obj p) = true) ∧ (s.safeExitRefused ≠ none)) ∧
  (∃ (s : State), (s.rests = true) ∧ (s.barOpen = true) ∧ (s.holds .pcie = true) ∧ (s.safeExitRefused ≠ none)) ∧
  (∃ (s : State) (o : Option Port), (s.rests = true) ∧ (s.dev.safeRun = some o) ∧ (s.dev.safe = true) ∧ ((∀ n : Ch, s.chSt n =
    .off → s.has (Lv.PRECHG n) = true ∧ s.linkUp n = true ∧ (s.ch[n]).kept = [] ∧ (s.dev.tests[(n : Nat)]?).all (fun x =>
    x.leakOk) = true))) ∧
  (∃ (s : State) (n : Ch), (s.rests = true) ∧ (s.dev.safeRun.isSome = true) ∧ (s.chSt n = .off) ∧ ((s.has (Lv.PRECHG n) =
    false ∨ s.linkUp n = false))) :=
  ⟨
  ⟨(up.put (Su.SAFE_COND) 2), 1, by decide +kernel⟩,
  ⟨up, 0, by decide +kernel⟩,
  ⟨(up.modDev (fun d => { d with safe := true })), by decide +kernel⟩,
  ⟨((up.modDev (fun d => { d with token := .can })).modDev (fun d => { d with safe := true })), .can, by decide +kernel⟩,
  ⟨(up.modDev (fun d => { d with token := .can })), .can, by decide +kernel⟩,
  ⟨up, by decide +kernel⟩,
  ⟨((fun (s : State) => (List.range 8).foldl (fun (t : State) (i : Nat) => t.modCh (Fin.ofNat 8 i) (fun c =>
    { c with st := .idle })) s) ((up.modDev (fun d => { d with safeRun := some none })).modDev (fun d =>
    { d with safe := true }))), none, by decide +kernel⟩,
  ⟨(up.modDev (fun d => { d with safeRun := some none })), 1, by decide +kernel⟩⟩

theorem witness_StandbyAndWakeComplete :
  (∃ (s : State) (p : Port), (s.rests = true) ∧ (s.reached (.obj p) = true) ∧ (s.standbyRefused = none) ∧ (s.dev.standby =
    false)) ∧
  (∃ (s : State), (s.rests = true) ∧ (s.dev.hostParkDue = true)) ∧
  (∃ (s : State), (s.rests = true) ∧ (s.dev.hostParkDue = false)) ∧
  (∃ (s : State) (p : Port), (s.rests = true) ∧ (s.reached (.obj p) = true) ∧ (s.inBenchmark = false) ∧ (s.dev.safe = false) ∧
    (s.dev.safeEntry = none) ∧ (s.dev.standby = false)) ∧
  (∃ (s : State), (s.rests = true) ∧ (s.dev.standby = true)) ∧
  (∃ (s : State), (s.dev.waking = some none) ∧ ((s.modDev (fun d => { d with waking := none })).rests = true) ∧
    (s.dev.standbyWait = none) ∧ ((∀ n : Ch, s.chSt n ≠ .off))) :=
  ⟨
  ⟨(up.modDev (fun d => { d with token := .can })), .can, by decide +kernel⟩,
  ⟨(up.modDev (fun d => { d with hostParkDue := true })), by decide +kernel⟩,
  ⟨up, by decide +kernel⟩,
  ⟨(up.modDev (fun d => { d with token := .can })), .can, by decide +kernel⟩,
  ⟨(up.modDev (fun d => { d with standby := true })), by decide +kernel⟩,
  ⟨((fun (s : State) => (List.range 8).foldl (fun (t : State) (i : Nat) => t.modCh (Fin.ofNat 8 i) (fun c =>
    { c with st := .idle })) s) (up.modDev (fun d => { d with waking := some none }))), by decide +kernel⟩⟩

theorem witness_HomingComplete :
  (∃ (s : State) (n : Cun), (s.rests = true) ∧ (s.barOpen = true) ∧ (s.holds .pcie = true) ∧ (s.cuInRun n = false) ∧ ((s.has
    (Cu.Z_EN n) = true ∨ s.get (Cu.HOME_MODE n) % 2 = 1))) ∧
  (∃ (s : State) (n : Cun) (p : Port), (s.rests = true) ∧ (s.serves p = true) ∧ (s.spDown = false) ∧ (s.holds p = true) ∧
    (s.cuInRun n = false) ∧ ((s.has (Cu.Z_EN n) = true ∨ s.get (Cu.HOME_MODE n) % 2 = 1))) ∧
  (∃ (n : Cun) (m : Cun), (m ≠ n)) ∧
  (∃ (s : State) (n : Cun) (src : BitVec 2), (s.rests = true) ∧ (s.cuInRun n = false) ∧ (src ≠ 3) ∧ (s.barOpen = true) ∧
    (s.holds .pcie = true)) ∧
  (∃ (s : State) (n : Cun) (src : BitVec 2) (p : Port), (s.rests = true) ∧ (s.cuInRun n = false) ∧ (src ≠ 3) ∧ (s.serves p =
    true) ∧ (s.spDown = false) ∧ (s.holds p = true)) :=
  ⟨
  ⟨(up.put (Cu.HOME_MODE 0) 1), 0, by decide +kernel⟩,
  ⟨((up.modDev (fun d => { d with token := .can })).put (Cu.HOME_MODE 0) 1), 0, .can, by decide +kernel⟩,
  ⟨0, 1, by decide +kernel⟩,
  ⟨up, 0, 0, by decide +kernel⟩,
  ⟨(up.modDev (fun d => { d with token := .can })), 0, 0, .can, by decide +kernel⟩⟩

theorem witness_StakeCommandsComplete :
  (∃ (s : State) (i : Stk) (dir : BitVec 2), (s.rests = true) ∧ (s.barOpen = true) ∧ (s.holds .pcie = true) ∧ (dir ≠ 3) ∧
    (¬(dir = 2 ∧ s.get (St.REPEAT i) ≠ 0))) ∧
  (∃ (s : State) (i : Stk) (p : Port) (dir : BitVec 2), (s.rests = true) ∧ (s.serves p = true) ∧ (s.spDown = false) ∧ (s.holds
    p = true) ∧ (dir ≠ 3) ∧ (¬(dir = 2 ∧ s.get (St.REPEAT i) ≠ 0))) :=
  ⟨
  ⟨up, 0, 0, by decide +kernel⟩,
  ⟨(up.modDev (fun d => { d with token := .can })), 0, .can, 0, by decide +kernel⟩⟩

theorem witness_StakeJudgedAndHitOnce :
  (∃ (s : State) (i : Stk), (s.hitHolds i none = false)) ∧
  (∃ (s : State) (i : Stk), (s.hitHolds i none = true) ∧ (s.has (St.LATE_POL i) = true)) ∧
  (∃ (s : State) (i : Stk), (s.hitHolds i none = true) ∧ (s.has (St.LATE_POL i) = false)) ∧
  (∃ (i : Stk) (j : Stk), (j ≠ i)) ∧
  (∃ (s : State) (i : Stk), (s.get (St.REPEAT i) = 0)) ∧
  (∃ (s : State) (i : Stk) (j : Stk), (s.get (St.REPEAT i) ≠ 0) ∧ (j ≠ i)) ∧
  (∃ (s : State) (n : Cun) (a : Bool) (b : Bool) (tick : Tick) (i : Stk), ((s.at tick).rests = true) ∧ (s.get (Cu.SRC n) = 0)
    ∧ ((a ≠ (s.cu[n]).a ↔ b = (s.cu[n]).b)) ∧ ((s.stake[i]).armed = true) ∧ ((s.stake[i]).lateDue = false) ∧ (s.stkCu i = n) ∧
    (s.get (St.REPEAT i) = 0) ∧ ((∀ j, (s.stake[j]).armed = true → s.stkCu j = n → j = i)) ∧ ((∀ m : Ch, s.chCu m = n →
    (s.ch[m]).trav.st = .stopped)) ∧
    (let fwd := (if a ≠ (s.cu[n]).a then decide (a ≠ b) else decide (a = b)) != s.has (Cu.INV_DIR n);
    (let p := if fwd then (s.cu[n]).pos + 1 else (s.cu[n]).pos - 1; (let u := s.modCu n (fun c => { c with pos := p });
    (u.hitHolds i (some (s.cu[n]).pos) = true))))) ∧
  (∃ (s : State) (n : Cun) (a : Bool) (b : Bool) (tick : Tick) (i : Stk), ((s.at tick).rests = true) ∧ (s.get (Cu.SRC n) = 0)
    ∧ ((a ≠ (s.cu[n]).a ↔ b = (s.cu[n]).b)) ∧ ((s.stake[i]).armed = true) ∧ ((s.stake[i]).lateDue = false) ∧ (s.stkCu i = n) ∧
    (s.get (St.REPEAT i) = 0) ∧ ((∀ j, (s.stake[j]).armed = true → s.stkCu j = n → j = i)) ∧ ((∀ m : Ch, s.chCu m = n →
    (s.ch[m]).trav.st = .stopped)) ∧
    (let fwd := (if a ≠ (s.cu[n]).a then decide (a ≠ b) else decide (a = b)) != s.has (Cu.INV_DIR n);
    (let p := if fwd then (s.cu[n]).pos + 1 else (s.cu[n]).pos - 1; (let u := s.modCu n (fun c => { c with pos := p });
    (u.hitHolds i (some (s.cu[n]).pos) = false))))) ∧
  (∃ (s : State) (i : Stk), ((s.stake[i]).lateDue = true)) :=
  ⟨
  ⟨(up.modStk 0 (fun k => { k with tgt := 100 })), 0, by decide +kernel⟩,
  ⟨(up.put (St.LATE_POL 0) 1), 0, by decide +kernel⟩,
  ⟨up, 0, by decide +kernel⟩,
  ⟨0, 1, by decide +kernel⟩,
  ⟨up, 0, by decide +kernel⟩,
  ⟨(up.put (St.REPEAT 0) 5), 0, 1, by decide +kernel⟩,
  ⟨((up.put (Cu.SRC 0) 0).modStk 0 (fun k => { k with armed := true, tgt := 1 })), 0, true, false, 5, 0, by decide +kernel⟩,
  ⟨((up.put (Cu.SRC 0) 0).modStk 0 (fun k => { k with armed := true, tgt := 1 })), 0, false, true, 5, 0, by decide +kernel⟩,
  ⟨(up.modStk 0 (fun k => { k with lateDue := true })), 0, by decide +kernel⟩⟩

theorem witness_EdgesAndFramesMove :
  (∃ (s : State) (n : Cun) (a : Bool) (b : Bool) (tick : Tick), ((s.at tick).rests = true) ∧ (s.get (Cu.SRC n) = 0) ∧
    (s.quietUnit n = true) ∧ (a ≠ (s.cu[n]).a) ∧ (b ≠ (s.cu[n]).b)) ∧
  (∃ (s : State) (n : Cun) (a : Bool) (b : Bool) (tick : Tick), ((s.at tick).rests = true) ∧ (s.get (Cu.SRC n) = 0) ∧
    (s.quietUnit n = true) ∧ ((a ≠ (s.cu[n]).a ↔ b = (s.cu[n]).b))) ∧
  (∃ (s : State) (n : Cun) (tick : Tick) (low : Bool) (chk : Bool), ((s.at tick).rests = true) ∧ (s.get (Cu.SRC n) = 1) ∧
    ((low || chk) = true) ∧ ((s.cu[n]).ssiBad < 2)) ∧
  (∃ (s : State) (n : Cun) (tick : Tick) (low : Bool) (chk : Bool), ((s.at tick).rests = true) ∧ (s.get (Cu.SRC n) = 1) ∧
    ((low || chk) = true) ∧ (2 ≤ (s.cu[n]).ssiBad) ∧ ((s.cu[n]).ssiLost = false)) ∧
  (∃ (s : State) (n : Cun) (tick : Tick), ((s.at tick).rests = true) ∧ (s.get (Cu.SRC n) = 1) ∧ ((s.cu[n]).ssiRaw = none) ∧
    (s.quietUnit n = true)) ∧
  (∃ (s : State) (n : Cun) (tick : Tick) (raw : Nat) (v0 : Nat), ((s.at tick).rests = true) ∧ (s.get (Cu.SRC n) = 1) ∧
    ((s.cu[n]).ssiRaw = some v0) ∧ ((s.cu[n]).ssiAnew = false) ∧ ((s.cu[n]).ssiLost = false) ∧ (s.quietUnit n = true) ∧
    (let w := s.get (Cu.SSI_BITS n); (let v := if s.has (Cu.GRAY n) then grayDecode w (raw % 2 ^ w) else raw % 2 ^ w;
    (let d := sext w (wrap w ((v : Int) - v0)); (d.natAbs ≤ s.get (Cu.MAX_JUMP n)))))) ∧
  (∃ (s : State) (n : Cun) (tick : Tick) (raw : Nat) (v0 : Nat), ((s.at tick).rests = true) ∧ (s.get (Cu.SRC n) = 1) ∧
    ((s.cu[n]).ssiRaw = some v0) ∧ ((s.cu[n]).ssiAnew = false) ∧ ((s.cu[n]).ssiLost = false) ∧ (s.quietUnit n = true) ∧
    (let w := s.get (Cu.SSI_BITS n); (let v := if s.has (Cu.GRAY n) then grayDecode w (raw % 2 ^ w) else raw % 2 ^ w;
    (let d := sext w (wrap w ((v : Int) - v0)); (s.get (Cu.MAX_JUMP n) < d.natAbs))))) :=
  ⟨
  ⟨(up.put (Cu.SRC 0) 0), 0, true, true, 5, by decide +kernel⟩,
  ⟨(up.put (Cu.SRC 0) 0), 0, true, false, 5, by decide +kernel⟩,
  ⟨(up.put (Cu.SRC 0) 1), 0, 5, true, true, by decide +kernel⟩,
  ⟨((up.put (Cu.SRC 0) 1).modCu 0 (fun c => { c with ssiBad := 2, ssiLost := false })), 0, 5, true, true, by decide +kernel⟩,
  ⟨(up.put (Cu.SRC 0) 1), 0, 5, by decide +kernel⟩,
  ⟨(((up.put (Cu.SRC 0) 1).put (Cu.SSI_BITS 0) 16).modCu 0 (fun c =>
    { c with ssiRaw := some 5, ssiAnew := false, ssiLost := false })), 0, 5, 5, 5, by decide +kernel⟩,
  ⟨(((up.put (Cu.SRC 0) 1).put (Cu.SSI_BITS 0) 16).modCu 0 (fun c =>
    { c with ssiRaw := some 5, ssiAnew := false, ssiLost := false })), 0, 5, 4120, 5, by decide +kernel⟩⟩

theorem witness_UnitWindowsAndSwitches :
  (∃ (s : State) (n : Cun) (tick : Tick), (s.rests = true) ∧ ((s.at tick).rests = true) ∧ (s.cuStill n = false) ∧
    ((s.cu[n]).lastAcc + (s.get (Cu.STILL_T n) + 1) * usTicks 10 ≤ tick)) ∧
  (∃ (s : State) (n : Cun) (tick : Tick), (s.rests = true) ∧ ((s.at tick).rests = true) ∧ (s.cuStill n = true ∨ tick <
    (s.cu[n]).lastAcc + (s.get (Cu.STILL_T n) + 1) * usTicks 10)) ∧
  (∃ (s : State) (n : Cun), (s.rests = true) ∧ (s.swActive n .limP = false)) ∧
  (∃ (s : State) (n : Cun), (s.rests = true) ∧ (s.swActive n .limN = false)) ∧
  (∃ (s : State) (n : Cun), (s.rests = true) ∧ (s.swActive n .home = false) ∧ (s.homingMode n 1 = true) ∧ (s.homeDirOk n =
    true)) ∧
  (∃ (s : State) (n : Cun) (tick : Tick), (s.rests = true) ∧ ((s.at tick).rests = true) ∧ (s.has (Cu.Z_EN n) = true) ∧ (s.get
    (Cu.SRC n) ≠ 2) ∧ (s.get (Cu.ZPITCH n) = 0) ∧ (s.homingMode n 0 = true) ∧ (s.homeDirOk n = true)) ∧
  (∃ (s : State) (n : Cun) (tick : Tick), (s.rests = true) ∧ ((s.at tick).rests = true) ∧ (s.has (Cu.Z_EN n) = true) ∧ (s.get
    (Cu.SRC n) ≠ 2) ∧ (s.get (Cu.ZPITCH n) = 0) ∧ ((s.cu[n]).homing = none)) ∧
  (∃ (s : State), (s.rests = true) ∧ (s.barOpen = true)) ∧
  (∃ (s : State), (s.rests = true) ∧ (s.barOpen = false)) :=
  ⟨
  ⟨((up.put (Cu.SRC 0) 0).modCu 0 (fun c =>
    { c with still := false, homing := some false, dir := some false, swHome := false, lastAcc := 0 })), 0, 101253168,
    by decide +kernel⟩,
  ⟨up, 0, 5, by decide +kernel⟩,
  ⟨up, 0, by decide +kernel⟩,
  ⟨up, 0, by decide +kernel⟩,
  ⟨(((up.put (Cu.SRC 0) 0).put (Cu.HOME_MODE 0) 1).modCu 0 (fun c =>
    { c with homing := some false, dir := some false, swHome := true })), 0, by decide +kernel⟩,
  ⟨(((up.put (Cu.Z_EN 0) 1).put (Cu.SRC 0) 0).modCu 0 (fun c =>
    { c with still := false, homing := some false, dir := some false, swHome := false, lastAcc := 0 })), 0, 5,
    by decide +kernel⟩,
  ⟨((up.put (Cu.Z_EN 0) 1).put (Cu.SRC 0) 0), 0, 5, by decide +kernel⟩,
  ⟨up, by decide +kernel⟩,
  ⟨(up.modDev (fun d => { d with boot := .held })), by decide +kernel⟩⟩

theorem witness_StartAndStopSequence :
  (∃ (s : State) (n : Ch), (s.rests = true) ∧ ((s.rebaseDrop n).startRefused n = none) ∧ (s.barOpen = true) ∧ (s.holds .pcie =
    true)) ∧
  (∃ (s : State) (n : Ch) (p : Port), (s.rests = true) ∧ ((s.rebaseDrop n).startRefused n = none) ∧ (s.serves p = true) ∧
    (s.spDown = false) ∧ (s.holds p = true)) ∧
  (∃ (s : State) (n : Ch), (s.barOpen = true) ∧ (s.holds .pcie = true) ∧ (s.rests = true) ∧ (s.chSt n = .run)) ∧
  (∃ (s : State) (n : Ch), (s.barOpen = true) ∧ (s.holds .pcie = true) ∧ (s.rests = true) ∧ (s.chSt n = .idle)) ∧
  (∃ (s : State) (n : Ch), (s.barOpen = true) ∧ (s.holds .pcie = true) ∧ (s.chSt n = .readmitting)) ∧
  (∃ (s : State) (n : Ch) (p : Port), (s.serves p = true) ∧ (s.spDown = false) ∧ (s.holds p = true) ∧ ((s.chSt n = .idle ∨
    (s.ch[n]).applyQ = [])) ∧ (s.rests = true) ∧ (s.chSt n = .run)) ∧
  (∃ (s : State) (n : Ch) (p : Port), (s.serves p = true) ∧ (s.spDown = false) ∧ (s.holds p = true) ∧ ((s.chSt n = .idle ∨
    (s.ch[n]).applyQ = [])) ∧ (s.rests = true) ∧ (s.chSt n = .idle)) ∧
  (∃ (s : State) (n : Ch) (p : Port), (s.serves p = true) ∧ (s.spDown = false) ∧ (s.holds p = true) ∧ ((s.chSt n = .idle ∨
    (s.ch[n]).applyQ = [])) ∧ (s.chSt n = .readmitting)) ∧
  (∃ (s : State) (n : Ch), (s.chSt n = .stopping) ∧ (s.dev.safeEntry = none) ∧ ((s.ch[n]).drive.railsRest = true) ∧
    ((s.ch[n]).drive.wipeStop = none)) ∧
  (∃ (s : State) (n : Ch), (s.rests = true) ∧ (s.chSt n ≠ .stopping)) :=
  ⟨
  ⟨(((((up.put (Th.TYPE (thOf 0)) 1).put (Lv.VALID 0 0) 1).put (Lk.FE_NOZ 0) 8).put (Ld.NROWS 0) 1)), 0, by decide +kernel⟩,
  ⟨((((((up.put (Th.TYPE (thOf 0)) 1).put (Lv.VALID 0 0) 1).put (Lk.FE_NOZ 0) 8).put (Ld.NROWS 0) 1)).modDev (fun d =>
    { d with token := .can })), 0, .can, by decide +kernel⟩,
  ⟨(up.modCh 0 (fun c => { c with st := .run })), 0, by decide +kernel⟩,
  ⟨up, 0, by decide +kernel⟩,
  ⟨(up.modCh 0 (fun c => { c with st := .readmitting })), 0, by decide +kernel⟩,
  ⟨((up.modDev (fun d => { d with token := .can })).modCh 0 (fun c => { c with st := .run })), 0, .can, by decide +kernel⟩,
  ⟨(up.modDev (fun d => { d with token := .can })), 0, .can, by decide +kernel⟩,
  ⟨((up.modDev (fun d => { d with token := .can })).modCh 0 (fun c => { c with st := .readmitting })), 0, .can,
    by decide +kernel⟩,
  ⟨(up.modCh 0 (fun c => { c with st := .stopping })), 0, by decide +kernel⟩,
  ⟨up, 0, by decide +kernel⟩⟩

theorem witness_RetirementAndReadmission :
  (∃ (s : State) (n : Ch), (s.barOpen = true) ∧ (s.holds .pcie = true) ∧ (s.inBenchmark = false) ∧ ((s.chSt n = .idle ∨ s.chSt
    n = .run ∨ s.chSt n = .stopping ∨ s.chSt n = .readmitting))) ∧
  (∃ (s : State) (n : Ch), (s.barOpen = true) ∧ (s.holds .pcie = true) ∧ (s.rests = true) ∧ ((s.chSt n = .off ∨ s.chSt n =
    .retired))) ∧
  (∃ (s : State) (n : Ch), (s.barOpen = true) ∧ (s.holds .pcie = true) ∧ (s.readmitRefused n = none)) ∧
  (∃ (s : State) (n : Ch) (p : Port), (s.serves p = true) ∧ (s.spDown = false) ∧ (s.holds p = true) ∧ (s.inBenchmark = false)
    ∧ ((s.chSt n = .idle ∨ s.chSt n = .run ∨ s.chSt n = .stopping ∨ s.chSt n = .readmitting))) ∧
  (∃ (s : State) (n : Ch) (p : Port), (s.serves p = true) ∧ (s.spDown = false) ∧ (s.holds p = true) ∧ (s.rests = true) ∧
    ((s.chSt n = .off ∨ s.chSt n = .retired))) ∧
  (∃ (s : State) (n : Ch) (p : Port), (s.serves p = true) ∧ (s.spDown = false) ∧ (s.holds p = true) ∧ (s.readmitRefused n =
    none)) ∧
  (∃ (s : State) (n : Ch) (k : Nat), (s.rests = true) ∧ (s.chSt n = .readmitting) ∧ ((s.ch[n]).readmitK = some k) ∧ (s.has
    (Lv.PRECHG n) = true) ∧ (s.linkUp n = true) ∧ (s.startAhead n k = true)) ∧
  (∃ (s : State) (cause : Nat), (cause < 16) ∧ (s.safeNow = true) ∧ (cause ≠ 10)) ∧
  (∃ (s : State) (n : Ch) (cause : Nat) (x : Nat), (cause < 16) ∧ ((s.safeNow = false ∨ cause = 10)) ∧ (s.dev.commit.all (fun
    m => m.cyc != cycleOf s.tb) = true) ∧ ((s.chSt n = .idle ∨ s.chSt n = .run ∨ s.chSt n = .stopping ∨ s.chSt n =
    .readmitting)) ∧ (let t := s.retire n cause; ((s.ch[n]).drive.bleeding = false) ∧ ((t.ch[n]).drive.openAt = some x))) ∧
  (∃ (s : State) (n : Ch) (cause : Nat), (cause < 16) ∧ ((s.safeNow = false ∨ cause = 10)) ∧ (s.dev.commit.all (fun m => m.cyc
    != cycleOf s.tb) = true) ∧ ((s.chSt n = .idle ∨ s.chSt n = .run ∨ s.chSt n = .stopping ∨ s.chSt n = .readmitting)) ∧
    (let t := s.retire n cause; ((s.ch[n]).drive.bleeding = false) ∧ ((t.ch[n]).drive.openAt = none))) ∧
  (∃ (s : State) (n : Ch) (cause : Nat) (m : Ch), (cause < 16) ∧ ((s.safeNow = false ∨ cause = 10)) ∧ (s.dev.commit.all (fun m
    => m.cyc != cycleOf s.tb) = true) ∧ ((s.chSt n = .idle ∨ s.chSt n = .run ∨ s.chSt n = .stopping ∨ s.chSt n =
    .readmitting)) ∧ (m ≠ n)) ∧
  (∃ (s : State) (n : Ch) (cause : Nat), (cause < 16) ∧ ((s.chSt n = .retiring ∨ s.chSt n = .retired))) :=
  ⟨
  ⟨up, 0, by decide +kernel⟩,
  ⟨up, 1, by decide +kernel⟩,
  ⟨(up.put (Th.TYPE 0) 1), 0, by decide +kernel⟩,
  ⟨(up.modDev (fun d => { d with token := .can })), 0, .can, by decide +kernel⟩,
  ⟨(up.modDev (fun d => { d with token := .can })), 1, .can, by decide +kernel⟩,
  ⟨((up.modDev (fun d => { d with token := .can })).put (Th.TYPE 0) 1), 0, .can, by decide +kernel⟩,
  ⟨((up.modCh 0 (fun c => { c with st := .readmitting })).modCh 0 (fun c => { c with readmitK := some 5 })), 0, 5,
    by decide +kernel⟩,
  ⟨(up.modDev (fun d => { d with safe := true, safeAt := some 0 })), 5, by decide +kernel⟩,
  ⟨(up.modCh 0 (fun c => { c with drive := { c.drive with railF := ⟨1, none, []⟩ } })), 0, 0, 1920, by decide +kernel⟩,
  ⟨up, 0, 5, by decide +kernel⟩,
  ⟨up, 0, 5, 1, by decide +kernel⟩,
  ⟨(up.modCh 0 (fun c => { c with st := .retiring })), 0, 5, by decide +kernel⟩⟩

theorem witness_EpochCommandsComplete :
  (∃ (s : State) (via : Via), (s.rests = true) ∧ (s.reached via = true) ∧ (s.epoch ≠ .armed) ∧ (s.epMask.all (fun n =>
    s.epochCheck n == 0) = true)) ∧
  (∃ (s : State) (via : Via) (n : Ch), (s.rests = true) ∧ (s.reached via = true) ∧ (s.epoch ≠ .armed) ∧ (s.epMask.find? (fun m
    => s.epochCheck m ≠ 0) = some n)) ∧
  (∃ (s : State) (via : Via), (s.rests = true) ∧ (s.reached via = true) ∧ (s.epoch = .armed)) ∧
  (∃ (s : State) (via : Via), (s.rests = true) ∧ (s.reached via = true) ∧ (s.epoch ≠ .prepared)) ∧
  (∃ (s : State) (via : Via), (s.rests = true) ∧ (s.reached via = true) ∧ (s.epoch = .prepared) ∧ (s.get Ep.EP_TRIG = 1)) ∧
  (∃ (s : State) (via : Via) (n : Ch), (s.rests = true) ∧ (s.reached via = true) ∧ (s.epoch = .prepared) ∧ (s.get Ep.EP_TRIG ≠
    1) ∧ (s.epMask.find? (fun m => s.chSt m = .run && s.admitted m (s.commitLine m s.epPos)) = some n)) ∧
  (∃ (s : State) (via : Via), (s.rests = true) ∧ (s.reached via = true) ∧ (s.epoch = .prepared) ∧ (s.get Ep.EP_TRIG ≠ 1) ∧ ((∀
    n ∈ s.epMask, s.chSt n = .idle ∨ s.admitted n (s.commitLine n s.epPos) = false ∧ (s.ch[n]).trav.gapFrom = [] ∧
    (s.ch[n]).trav.next < s.commitLine n s.epPos))) ∧
  (∃ (s : State) (tick : Tick), ((s.at tick).rests = true) ∧ ((∀ m : Cun, s.homingMode m 3 = false)) ∧ (s.epoch ≠ .armed)) ∧
  (∃ (s : State) (tick : Tick), ((s.at tick).rests = true) ∧ ((∀ m : Cun, s.homingMode m 3 = false)) ∧ (s.epoch = .armed)) :=
  ⟨
  ⟨(up.modDev (fun d => { d with token := .can })), (.obj .can), by decide +kernel⟩,
  ⟨((up.modDev (fun d => { d with token := .can })).put (Ep.EP_MASK) 1), (.obj .can), 0, by decide +kernel⟩,
  ⟨((fun (s : State) => { s with epoch := .armed }) (up.modDev (fun d => { d with token := .can }))), (.obj .can),
    by decide +kernel⟩,
  ⟨(up.modDev (fun d => { d with token := .can })), (.obj .can), by decide +kernel⟩,
  ⟨(((fun (s : State) => { s with epoch := .prepared }) (up.modDev (fun d => { d with token := .can }))).put (Ep.EP_TRIG) 1),
    (.obj .can), by decide +kernel⟩,
  ⟨((fun (s : State) => (fun (u : State) => { u with epoch := .prepared }) ((((((s.put (Th.TYPE (thOf 0)) 1).put (Lv.VALID 0
    0) 1).put (Lk.FE_NOZ 0) 8).put (Ld.NROWS 0) 1).put Ep.EP_MASK 1).put Ep.EP_TRIG 0 |>.modCh 0 (fun c =>
    { c with st := .run, trav := { c.trav with st := .running, next := 5, first := 5 }, store := { c.store with bNext := some 6, entered := some 5 } })))
    (up)), .reg, 0, by decide +kernel⟩,
  ⟨((fun (s : State) => { s with epoch := .prepared }) (up.modDev (fun d => { d with token := .can }))), (.obj .can),
    by decide +kernel⟩,
  ⟨up, 5, by decide +kernel⟩,
  ⟨((fun (s : State) => { s with epoch := .armed }) (up)), 5, by decide +kernel⟩⟩

theorem witness_LineBoundaryTakesItsLine :
  (∃ (s : State) (n : Ch) (tick : Tick) (k : Nat), ((s.at tick).rests = true) ∧ (s.boundaryDue n = some k) ∧ (s.decidedEarly n
    k = false) ∧ ((s.ch[n]).badEntries = []) ∧ ((s.ch[n]).lines.all (fun l => l.no != k) = true) ∧ ((s.ch[n]).applyQ.all (fun
    e => match e.body with | .entry _ _ _ => true | .closure _ _ _ _ _ => true | _ => false) = true)) ∧
  (∃ (s : State) (n : Ch) (tick : Tick) (k : Nat) (a : Edit) (e : Edit) (v : Nat) (p : Port), ((s.at tick).rests = true) ∧
    (s.boundaryDue n = some k) ∧ (s.decidedEarly n k = false) ∧ ((s.ch[n]).badEntries = []) ∧ ((s.ch[n]).lines.all (fun l =>
    l.no != k) = true) ∧ (let now := cycleOf (max s.tb tick); (let old : Edit → Bool := fun e => decide (cycleOf e.at0 < now);
    ((s.ch[n]).applyQ = [a, e]) ∧ (a.body.isTable = true) ∧ (e.cls = .imm) ∧ (e.owed = some p) ∧ (e.body = .obj (0x3041 +
    0x100 * n) 1 [BitVec.ofNat 8 v]) ∧ (v < 2) ∧ (old a = true) ∧ (old e = true)))) ∧
  (∃ (s : State) (n : Ch) (tick : Tick), ((s.at tick).rests = true) ∧ (s.boundaryDue n = none)) ∧
  (∃ (s : State) (n : Ch) (k : Nat), (s.rests = true) ∧ ((s.ch[n]).store.busy = some k)) ∧
  (∃ (s : State) (n : Ch), (s.rests = true) ∧ ((s.ch[n]).store.busy = none)) :=
  ⟨
  ⟨(up.modCh 0 (fun c =>
    { c with st := .run, trav := { c.trav with st := .running, next := 5, first := 5, sched := [⟨5, 1000, .pred⟩] }, store := { c.store with bNext := some 6, entered := some 5 }, lines := [{ Line.stub 5 with encoded := true }] })),
    0, 5, 6, by decide +kernel⟩,
  ⟨(up.modCh 0 (fun c =>
    { c with st := .run, trav := { c.trav with st := .running, next := 5, first := 5 }, store := { c.store with bNext := some 5 }, applyQ := [⟨.tile 0 7, .line, none, 0⟩, ⟨.obj 0x3041 1 [1], .imm, some .can, 0⟩] })),
    0, 4120, 5, { body := EditBody.tile 0 7, cls := Cls.line, owed := none, at0 := 0 },
    { body := EditBody.obj 12353 1 [0x01#8], cls := Cls.imm, owed := some (Port.can), at0 := 0 }, 1, .can, by decide +kernel⟩,
  ⟨up, 0, 5, by decide +kernel⟩,
  ⟨(up.modCh 0 (fun c => { c with store := { c.store with busy := some 5 } })), 0, 5, by decide +kernel⟩,
  ⟨up, 0, by decide +kernel⟩⟩

theorem witness_LinesAreDecidedOnce :
  (∃ (s : State) (n : Ch), (s.rests = true) ∧ (s.decisionDue n = none)) ∧
  (∃ (s : State) (n : Ch) (e : Sched), (s.rests = true) ∧ (s.decisionDue n = some e) ∧ ((s.at (max (s.schedTick n e)
    (s.ch[n]).trav.decAt)).rests = true)) ∧
  (∃ (s : State) (n : Ch) (r : EdgeRec) (k : Nat) (per : Nat), ((s.ch[n]).trav.st = .running) ∧ ((s.ch[n]).trav.gapFrom = [])
    ∧ ((s.ch[n]).trav.next = k) ∧ (s.get (Tr.MODE n) ≠ 2) ∧ (r.regained = false) ∧ (s.passBack n k = r.back) ∧
    ((s.ch[n]).trav.sched = []) ∧ (r.ssi = none) ∧ (r.period = some per) ∧ (131072 ≤ s.lineAhead n k r.p)) ∧
  (∃ (s : State) (n : Ch) (r : EdgeRec) (k : Nat) (per : Nat), ((s.ch[n]).trav.st = .running) ∧ ((s.ch[n]).trav.gapFrom = [])
    ∧ ((s.ch[n]).trav.next = k) ∧ (s.get (Tr.MODE n) ≠ 2) ∧ (r.regained = false) ∧ (s.passBack n k = r.back) ∧
    ((s.ch[n]).trav.sched = []) ∧ (r.ssi = none) ∧ (r.period = some per) ∧ (0 ≤ s.lineAhead n k r.p) ∧ (s.lineAhead n k r.p <
    131072) ∧ (131072 ≤ s.lineAhead n (k + 1) r.p)) ∧
  (∃ (s : State) (n : Ch) (r : EdgeRec) (k : Nat), ((s.ch[n]).trav.st = .running) ∧ ((s.ch[n]).trav.gapFrom = []) ∧
    ((s.ch[n]).trav.next = k) ∧ (s.get (Tr.MODE n) ≠ 2) ∧ (r.regained = false) ∧ (s.passBack n k = r.back) ∧
    ((s.ch[n]).trav.sched = []) ∧ (r.period = none) ∧ (s.lineAhead n k r.p ≤ 0) ∧ (0 < s.lineAhead n (k + 1) r.p)) ∧
  (∃ (s : State) (n : Ch) (r : EdgeRec) (k : Nat), ((s.ch[n]).trav.st = .running) ∧ ((s.ch[n]).trav.gapFrom = []) ∧
    ((s.ch[n]).trav.next = k) ∧ (s.get (Tr.MODE n) ≠ 2) ∧ (r.regained = false) ∧ (s.passBack n k ≠ r.back)) ∧
  (∃ (s : State) (m : Ch) (n : Cun) (a : Bool) (b : Bool) (tick : Tick) (k : Nat) (t0 : Nat), ((s.at tick).rests = true) ∧
    (s.get (Cu.SRC n) = 0) ∧ ((a ≠ (s.cu[n]).a ↔ b = (s.cu[n]).b)) ∧ ((∀ j, s.stkCu j = n → (s.stake[j]).armed = false)) ∧
    (s.chCu m = n) ∧ ((s.ch[m]).trav.st = .running) ∧ ((s.ch[m]).trav.next = k) ∧ ((s.ch[m]).trav.sched = []) ∧
    ((s.ch[m]).trav.gapFrom = []) ∧ (s.get (Tr.MODE m) ≠ 2) ∧ (s.get (Cu.PER_N n) = 0) ∧
    (let fwd := (if a ≠ (s.cu[n]).a then decide (a ≠ b) else decide (a = b)) != s.has (Cu.INV_DIR n);
    (let p := if fwd then (s.cu[n]).pos + 1 else (s.cu[n]).pos - 1; (let f := s.lineAhead m k p; (s.passBack m k = (!fwd)) ∧
    ((s.cu[n]).dir = some (!fwd)) ∧ ((s.cu[n]).lastT = some t0) ∧ (0 ≤ f) ∧ (f < 131072) ∧ (131072 ≤ s.lineAhead m (k + 1)
    p))))) ∧
  (∃ (s : State) (m : Ch) (n : Cun) (a : Bool) (b : Bool) (tick : Tick) (k : Nat), ((s.at tick).rests = true) ∧ (s.get (Cu.SRC
    n) = 0) ∧ ((a ≠ (s.cu[n]).a ↔ b = (s.cu[n]).b)) ∧ ((∀ j, s.stkCu j = n → (s.stake[j]).armed = false)) ∧ (s.chCu m = n) ∧
    ((s.ch[m]).trav.st = .running) ∧ ((s.ch[m]).trav.next = k) ∧ ((s.ch[m]).trav.sched = []) ∧ ((s.ch[m]).trav.gapFrom = []) ∧
    (s.get (Tr.MODE m) ≠ 2) ∧ (s.get (Cu.PER_N n) = 0) ∧
    (let fwd := (if a ≠ (s.cu[n]).a then decide (a ≠ b) else decide (a = b)) != s.has (Cu.INV_DIR n);
    (let p := if fwd then (s.cu[n]).pos + 1 else (s.cu[n]).pos - 1; (let f := s.lineAhead m k p; (s.passBack m k = (!fwd)) ∧
    ((s.cu[n]).dir ≠ some (!fwd)) ∧ (f ≤ 0) ∧ (0 < s.lineAhead m (k + 1) p))))) ∧
  (∃ (s : State) (n : Ch) (h : Hit), ((s.ch[n]).trav.st = .waitStart) ∧ (s.get (Tr.START_ST n) = h.stk) ∧ (s.stkCu h.stk =
    s.chCu n) ∧ (let u := s.putPair (Tr.ANCHOR_LO n) (Tr.ANCHOR_HI n) h.tgt.toNat; (gridDiff (u.lineX n (s.ch[n]).trav.next -
    h.tgt.toInt * 65536) = 0))) ∧
  (∃ (s : State) (n : Ch) (h : Hit), ((s.ch[n]).trav.st = .waitStart) ∧ (s.get (Tr.START_ST n) = h.stk) ∧ (s.stkCu h.stk =
    s.chCu n) ∧ (let u := s.putPair (Tr.ANCHOR_LO n) (Tr.ANCHOR_HI n) h.tgt.toNat; (gridDiff (u.lineX n (s.ch[n]).trav.next -
    h.tgt.toInt * 65536) ≠ 0) ∧ (u.startAhead n (s.ch[n]).trav.next = true))) ∧
  (∃ (s : State) (n : Ch) (h : Hit), ((s.ch[n]).trav.st = .waitStart) ∧ (s.get (Tr.START_ST n) = h.stk) ∧ (s.stkCu h.stk =
    s.chCu n) ∧ (let u := s.putPair (Tr.ANCHOR_LO n) (Tr.ANCHOR_HI n) h.tgt.toNat; (gridDiff (u.lineX n (s.ch[n]).trav.next -
    h.tgt.toInt * 65536) ≠ 0) ∧ (u.startAhead n (s.ch[n]).trav.next = false))) :=
  ⟨
  ⟨up, 0, by decide +kernel⟩,
  ⟨(up.modCh 0 (fun c =>
    { c with st := .run, trav := { c.trav with st := .running, next := 5, first := 5, sched := [⟨5, 1000, .pred⟩] }, store := { c.store with bNext := some 6, entered := some 5 }, lines := [{ Line.stub 5 with encoded := true }] })),
    0, { line := 5, tick := 1000, kind := SchedKind.pred }, by decide +kernel⟩,
  ⟨(up.modCh 0 (fun c => { c with trav := { c.trav with st := .running, next := 5, first := 5 } })), 0, ⟨0, false, 100, (some
    5), 200, none, false⟩, 5, 5, by decide +kernel⟩,
  ⟨((((up.put (Tr.PITCH 0) 0x30000).put (Tr.MODE 0) 0).modTrav 0 (fun t =>
    { t with st := .running, next := 5, first := 5 }))), 0, ⟨15, false, 100, (some 5), 200, none, false⟩, 5, 5,
    by decide +kernel⟩,
  ⟨((((up.put (Tr.PITCH 0) 0x30000).put (Tr.MODE 0) 0).modTrav 0 (fun t =>
    { t with st := .running, next := 5, first := 5 }))), 0, ⟨15, false, 100, none, 200, none, false⟩, 5, by decide +kernel⟩,
  ⟨(up.modCh 0 (fun c => { c with trav := { c.trav with st := .running, next := 5, first := 5 } })), 0, ⟨0, true, 100, (some
    500), 200, none, false⟩, 5, by decide +kernel⟩,
  ⟨((fun (s : State) => (s.modCu 0 (fun c => { c with pos := 14, dir := some false, lastT := some 0 })) |> fun (u : State) =>
    ((u.put (Tr.PITCH 0) 0x30000).put (Tr.MODE 0) 0).modTrav 0 (fun t => { t with st := .running, next := 5, first := 5 })
    |>.put (Cu.SRC 0) 0 |>.put (Cu.PER_N 0) 0) (up)), 0, 0, true, false, 100, 5, 0, by decide +kernel⟩,
  ⟨((fun (s : State) => (s.modCu 0 (fun c => { c with pos := 14, dir := some true, lastT := some 0 })) |> fun (u : State) =>
    ((u.put (Tr.PITCH 0) 0x30000).put (Tr.MODE 0) 0).modTrav 0 (fun t => { t with st := .running, next := 5, first := 5 })
    |>.put (Cu.SRC 0) 0 |>.put (Cu.PER_N 0) 0) (up)), 0, 0, true, false, 100, 5, by decide +kernel⟩,
  ⟨((((up.put (Tr.PITCH 0) 0x30000).put (Tr.MODE 0) 0).modTrav 0 (fun t => { t with st := .waitStart, next := 0 }))), 0, ⟨0,
    5, 100⟩, by decide +kernel⟩,
  ⟨(up.modCh 0 (fun c => { c with trav := { c.trav with st := .waitStart, next := 5 } })), 0, ⟨0, 5, 100⟩, by decide +kernel⟩,
  ⟨((((up.put (Tr.PITCH 0) 0x30000).put (Tr.MODE 0) 0).modTrav 0 (fun t => { t with st := .waitStart, next := 5 })).modCu 0
    (fun c => { c with pos := 1000 })), 0, ⟨0, 5, 100⟩, by decide +kernel⟩⟩

theorem witness_LineDataCommandsComplete :
  (∃ (s : State) (n : Ch), (s.rests = true) ∧ (s.chParked n = false) ∧ (s.inRun n = false) ∧ (s.barOpen = true) ∧ (s.holds
    .pcie = true) ∧ (geomErr (s.get (Tr.MODE n)) (s.get (Tr.PASS_LINES n)) (s.rowsHeld n) = 0)) ∧
  (∃ (s : State) (n : Ch), (s.rests = true) ∧ (s.chParked n = false) ∧ (s.inRun n = false) ∧ (s.barOpen = true) ∧ (s.holds
    .pcie = true) ∧ (geomErr (s.get (Tr.MODE n)) (s.get (Tr.PASS_LINES n)) (s.rowsHeld n) ≠ 0)) ∧
  (∃ (s : State) (n : Ch), (s.rests = true) ∧ (s.chParked n = false) ∧ (s.inRun n = false) ∧ (s.barOpen = true) ∧ (s.holds
    .pcie = true) ∧ (s.dmaInto n = false)) ∧
  (∃ (s : State) (n : Ch), (s.rests = true) ∧ (s.chParked n = false) ∧ (s.inRun n = false) ∧ (s.barOpen = true) ∧ (s.holds
    .pcie = true) ∧ (s.queueEmpty n = true)) ∧
  (∃ (s : State) (n : Ch) (p : Port), (s.rests = true) ∧ (s.chParked n = false) ∧ (s.inRun n = false) ∧ (s.serves p = true) ∧
    (s.spDown = false) ∧ (s.holds p = true) ∧ (geomErr (s.get (Tr.MODE n)) (s.get (Tr.PASS_LINES n)) (s.rowsHeld n) = 0)) ∧
  (∃ (s : State) (n : Ch) (p : Port), (s.rests = true) ∧ (s.chParked n = false) ∧ (s.inRun n = false) ∧ (s.serves p = true) ∧
    (s.spDown = false) ∧ (s.holds p = true) ∧ (geomErr (s.get (Tr.MODE n)) (s.get (Tr.PASS_LINES n)) (s.rowsHeld n) ≠ 0)) ∧
  (∃ (s : State) (n : Ch) (p : Port), (s.rests = true) ∧ (s.chParked n = false) ∧ (s.inRun n = false) ∧ (s.serves p = true) ∧
    (s.spDown = false) ∧ (s.holds p = true) ∧ (s.dmaInto n = false)) ∧
  (∃ (s : State) (n : Ch) (p : Port), (s.rests = true) ∧ (s.chParked n = false) ∧ (s.inRun n = false) ∧ (s.serves p = true) ∧
    (s.spDown = false) ∧ (s.holds p = true) ∧ (s.queueEmpty n = true)) :=
  ⟨
  ⟨(up.put (Ld.COUNT 0 0) 8), 0, by decide +kernel⟩,
  ⟨up, 0, by decide +kernel⟩,
  ⟨up, 0, by decide +kernel⟩,
  ⟨up, 0, by decide +kernel⟩,
  ⟨((up.modDev (fun d => { d with token := .can })).put (Ld.COUNT 0 0) 8), 0, .can, by decide +kernel⟩,
  ⟨(up.modDev (fun d => { d with token := .can })), 0, .can, by decide +kernel⟩,
  ⟨(up.modDev (fun d => { d with token := .can })), 0, .can, by decide +kernel⟩,
  ⟨(up.modDev (fun d => { d with token := .can })), 0, .can, by decide +kernel⟩⟩

theorem witness_LinkSendsAndIsAnswered :
  (∃ (s : State) (n : Ch), (s.rests = true) ∧ ((s.ch[n]).lines = []) ∧ ((s.ch[n]).link.ctl = [])) ∧
  (∃ (s : State) (n : Ch) (l : Line) (f : Frame), (s.rests = true) ∧ (s.linkUp n = true) ∧ ((s.ch[n]).lines = [l]) ∧
    ((s.ch[n]).link.tx = []) ∧ ((s.ch[n]).link.ctl = []) ∧ ((s.ch[n]).link.kept = []) ∧ (l.frames = [f]) ∧ (f.sent = 0) ∧
    (f.waiting = false) ∧ (l.encoded = true) ∧ (l.undel = false) ∧ (l.decided = false) ∧ (l.sending = false) ∧
    (let x : Link := { (s.ch[n]).link with seen := max (s.ch[n]).link.seen s.tb }; (x.nextAt ≤ s.tb))) ∧
  (∃ (s : State) (n : Ch) (l : Line) (f : Frame), (s.rests = true) ∧ (s.linkUp n = true) ∧ ((s.ch[n]).lines = [l]) ∧
    ((s.ch[n]).link.tx = []) ∧ ((s.ch[n]).link.ctl = []) ∧ ((s.ch[n]).link.kept = []) ∧ (l.frames = [f]) ∧ (f.sent = 0) ∧
    (f.waiting = false) ∧ (l.encoded = true) ∧ (l.undel = false) ∧ (l.decided = false) ∧ (l.sending = false) ∧
    (let x : Link := { (s.ch[n]).link with seen := max (s.ch[n]).link.seen s.tb }; (s.tb < x.nextAt))) ∧
  (∃ (s : State) (n : Ch) (q : BitVec 4), (s.rests = true) ∧ (((s.linkTick n).ch[n]).link.tx.all (fun t => t.fseq != q.toNat)
    = true)) ∧
  (∃ (s : State) (n : Ch) (l : Line) (f : Frame) (q : BitVec 4) (eof : Nat), (s.linkUp n = true) ∧ ((s.ch[n]).lines = [l]) ∧
    (l.frames = [f]) ∧ (f.waiting = false) ∧ (0 < f.sent) ∧ (f.acked = false) ∧ ((s.ch[n]).link.tx = [⟨q.toNat, some l.no, 0,
    eof⟩]) ∧ ((s.ch[n]).link.ctl = []) ∧ ((s.ch[n]).link.fe = none) ∧ ((s.at eof).rests = true)) ∧
  (∃ (s : State) (n : Ch) (l : Line) (f : Frame) (q : BitVec 4) (eof : Nat) (cmd : Instr) (u : State) (cto : Nat), (s.linkUp n
    = true) ∧ ((s.ch[n]).lines = [l]) ∧ (l.frames = [f]) ∧ (f.waiting = false) ∧ (0 < f.sent) ∧ (f.acked = false) ∧
    ((s.ch[n]).link.tx = [⟨q.toNat, some l.no, 0, eof⟩]) ∧ ((s.ch[n]).link.ctl = []) ∧ ((s.ch[n]).link.fe = none) ∧ (u.rests =
    true) ∧ ((cmd = .nak n q ∧ u = s.at eof ∧ cto = 0 ∨ cmd = .frameTimeout n q ∧ u = (s.at (eof + 19200)).bump (Lk.TMO_CNT n)
    ∧ cto = (s.ch[n]).link.cto + 1 ∧ cto < 4)) ∧
    (let x : Link := { (s.ch[n]).link with tx := [], cto := cto, seen := max (s.ch[n]).link.seen u.tb }; (f.sent < 4) ∧
    (l.reps < 6) ∧ (l.undel = false) ∧ (x.nextAt ≤ u.tb))) ∧
  (∃ (s : State) (n : Ch) (l : Line) (f : Frame) (q : BitVec 4) (eof : Nat) (cmd : Instr) (u : State) (cto : Nat), (s.linkUp n
    = true) ∧ ((s.ch[n]).lines = [l]) ∧ (l.frames = [f]) ∧ (f.waiting = false) ∧ (0 < f.sent) ∧ (f.acked = false) ∧
    ((s.ch[n]).link.tx = [⟨q.toNat, some l.no, 0, eof⟩]) ∧ ((s.ch[n]).link.ctl = []) ∧ ((s.ch[n]).link.fe = none) ∧ (u.rests =
    true) ∧ ((cmd = .nak n q ∧ u = s.at eof ∧ cto = 0 ∨ cmd = .frameTimeout n q ∧ u = (s.at (eof + 19200)).bump (Lk.TMO_CNT n)
    ∧ cto = (s.ch[n]).link.cto + 1 ∧ cto < 4)) ∧
    (let x : Link := { (s.ch[n]).link with tx := [], cto := cto, seen := max (s.ch[n]).link.seen u.tb }; (f.sent < 4) ∧
    (l.reps < 6) ∧ (l.undel = false) ∧ (u.tb < x.nextAt))) ∧
  (∃ (s : State) (n : Ch) (l : Line) (f : Frame) (q : BitVec 4) (eof : Nat) (cmd : Instr) (u : State) (cto : Nat), (s.linkUp n
    = true) ∧ ((s.ch[n]).lines = [l]) ∧ (l.frames = [f]) ∧ (f.waiting = false) ∧ (0 < f.sent) ∧ (f.acked = false) ∧
    ((s.ch[n]).link.tx = [⟨q.toNat, some l.no, 0, eof⟩]) ∧ ((s.ch[n]).link.ctl = []) ∧ ((s.ch[n]).link.fe = none) ∧ (u.rests =
    true) ∧ ((cmd = .nak n q ∧ u = s.at eof ∧ cto = 0 ∨ cmd = .frameTimeout n q ∧ u = (s.at (eof + 19200)).bump (Lk.TMO_CNT n)
    ∧ cto = (s.ch[n]).link.cto + 1 ∧ cto < 4)) ∧ ((4 ≤ f.sent ∨ 6 ≤ l.reps)) ∧ (l.undel = false)) :=
  ⟨
  ⟨up, 0, by decide +kernel⟩,
  ⟨(up.modCh 0 (fun c =>
    { c with lines := [{ Line.stub 5 with encoded := true, frames := [⟨0, 0, true, [1], 0, false, false⟩] }] })), 0,
    { no := 5, codes := [], null := false, held := false, slot := 0, desc := { rest := 0, fin := 0, quiet := 0, en := 0, rails := [], masks := [], sps := [] }, theta := 1024, wscale := 1024, trim := 0, lineTime := 0, sense := none, snsEn := false, encoded := true, msgs := [], frames := [{ type := 0, index := 0, last := true, payload := [1], sent := 0, acked := false, waiting := false }], reps := 0, undel := false, latched := none, lack := none, lackAt := 0, decided := false, runs := false, cut := false, sending := false, spxSent := [] },
    { type := 0, index := 0, last := true, payload := [1], sent := 0, acked := false, waiting := false }, by decide +kernel⟩,
  ⟨(up.modCh 0 (fun c =>
    { c with lines := [{ Line.stub 5 with encoded := true, frames := [⟨1, 0, true, [1], 0, false, false⟩] }], link := { c.link with free := 100000 } })),
    0,
    { no := 5, codes := [], null := false, held := false, slot := 0, desc := { rest := 0, fin := 0, quiet := 0, en := 0, rails := [], masks := [], sps := [] }, theta := 1024, wscale := 1024, trim := 0, lineTime := 0, sense := none, snsEn := false, encoded := true, msgs := [], frames := [{ type := 1, index := 0, last := true, payload := [1], sent := 0, acked := false, waiting := false }], reps := 0, undel := false, latched := none, lack := none, lackAt := 0, decided := false, runs := false, cut := false, sending := false, spxSent := [] },
    { type := 1, index := 0, last := true, payload := [1], sent := 0, acked := false, waiting := false }, by decide +kernel⟩,
  ⟨up, 0, 0, by decide +kernel⟩,
  ⟨(up.modCh 0 (fun c =>
    { c with link := { c.link with tx := [⟨2, some 5, 0, 2000⟩] }, lines := [{ Line.stub 5 with encoded := true, frames := [⟨0, 0, true, [1], 1, false, false⟩] }] })),
    0,
    { no := 5, codes := [], null := false, held := false, slot := 0, desc := { rest := 0, fin := 0, quiet := 0, en := 0, rails := [], masks := [], sps := [] }, theta := 1024, wscale := 1024, trim := 0, lineTime := 0, sense := none, snsEn := false, encoded := true, msgs := [], frames := [{ type := 0, index := 0, last := true, payload := [1], sent := 1, acked := false, waiting := false }], reps := 0, undel := false, latched := none, lack := none, lackAt := 0, decided := false, runs := false, cut := false, sending := false, spxSent := [] },
    { type := 0, index := 0, last := true, payload := [1], sent := 1, acked := false, waiting := false }, 2, 2000,
    by decide +kernel⟩,
  ⟨(up.modCh 0 (fun c =>
    { c with lines := [{ Line.stub 5 with encoded := true, frames := [⟨1, 0, true, [1], 1, false, false⟩] }], link := { c.link with tx := [⟨2, some 5, 0, 2000⟩] } })
    |> fun (u : State) => { u with tb := 3000 }), 0,
    { no := 5, codes := [], null := false, held := false, slot := 0, desc := { rest := 0, fin := 0, quiet := 0, en := 0, rails := [], masks := [], sps := [] }, theta := 1024, wscale := 1024, trim := 0, lineTime := 0, sense := none, snsEn := false, encoded := true, msgs := [], frames := [{ type := 1, index := 0, last := true, payload := [1], sent := 1, acked := false, waiting := false }], reps := 0, undel := false, latched := none, lack := none, lackAt := 0, decided := false, runs := false, cut := false, sending := false, spxSent := [] },
    { type := 1, index := 0, last := true, payload := [1], sent := 1, acked := false, waiting := false }, 2, 2000, Instr.nak 0
    0x2#4, (up.modCh 0 (fun c =>
    { c with lines := [{ Line.stub 5 with encoded := true, frames := [⟨1, 0, true, [1], 1, false, false⟩] }], link := { c.link with tx := [⟨2, some 5, 0, 2000⟩] } })
    |> fun (u : State) => { u with tb := 3000 }), 0,
    by and_intros <;> first | decide +kernel | rfl | exact Or.inl ⟨rfl, rfl, rfl⟩⟩,
  ⟨(up.modCh 0 (fun c =>
    { c with lines := [{ Line.stub 5 with encoded := true, frames := [⟨1, 0, true, [1], 1, false, false⟩] }], link := { c.link with free := 1000000, tx := [⟨2, some 5, 0, 2000⟩] } })
    |> fun (u : State) => { u with tb := 3000 }), 0,
    { no := 5, codes := [], null := false, held := false, slot := 0, desc := { rest := 0, fin := 0, quiet := 0, en := 0, rails := [], masks := [], sps := [] }, theta := 1024, wscale := 1024, trim := 0, lineTime := 0, sense := none, snsEn := false, encoded := true, msgs := [], frames := [{ type := 1, index := 0, last := true, payload := [1], sent := 1, acked := false, waiting := false }], reps := 0, undel := false, latched := none, lack := none, lackAt := 0, decided := false, runs := false, cut := false, sending := false, spxSent := [] },
    { type := 1, index := 0, last := true, payload := [1], sent := 1, acked := false, waiting := false }, 2, 2000, Instr.nak 0
    0x2#4, (up.modCh 0 (fun c =>
    { c with lines := [{ Line.stub 5 with encoded := true, frames := [⟨1, 0, true, [1], 1, false, false⟩] }], link := { c.link with free := 1000000, tx := [⟨2, some 5, 0, 2000⟩] } })
    |> fun (u : State) => { u with tb := 3000 }), 0,
    by and_intros <;> first | decide +kernel | rfl | exact Or.inl ⟨rfl, rfl, rfl⟩⟩,
  ⟨(up.modCh 0 (fun c =>
    { c with lines := [{ Line.stub 5 with encoded := true, frames := [⟨1, 0, true, [1], 4, false, false⟩] }], link := { c.link with tx := [⟨2, some 5, 0, 2000⟩] } })
    |> fun (u : State) => { u with tb := 3000 }), 0,
    { no := 5, codes := [], null := false, held := false, slot := 0, desc := { rest := 0, fin := 0, quiet := 0, en := 0, rails := [], masks := [], sps := [] }, theta := 1024, wscale := 1024, trim := 0, lineTime := 0, sense := none, snsEn := false, encoded := true, msgs := [], frames := [{ type := 1, index := 0, last := true, payload := [1], sent := 4, acked := false, waiting := false }], reps := 0, undel := false, latched := none, lack := none, lackAt := 0, decided := false, runs := false, cut := false, sending := false, spxSent := [] },
    { type := 1, index := 0, last := true, payload := [1], sent := 4, acked := false, waiting := false }, 2, 2000, Instr.nak 0
    0x2#4, (up.modCh 0 (fun c =>
    { c with lines := [{ Line.stub 5 with encoded := true, frames := [⟨1, 0, true, [1], 4, false, false⟩] }], link := { c.link with tx := [⟨2, some 5, 0, 2000⟩] } })
    |> fun (u : State) => { u with tb := 3000 }), 0,
    by and_intros <;> first | decide +kernel | rfl | exact Or.inl ⟨rfl, rfl, rfl⟩⟩⟩

theorem witness_LinesAreLatched :
  (∃ (s : State) (n : Ch) (tick : Tick) (l : Line), ((s.at tick).rests = true) ∧ (s.linkUp n = true) ∧ (s.findLine n
    (s.ch[n]).trav.next = some l) ∧ ((s.at tick).latchDue n l tick = true) ∧ ((s.ch[n]).drive.wiped = []) ∧ (l.undel = true ∨
    l.delivered = true)) ∧
  (∃ (s : State) (n : Ch) (tick : Tick) (l : Line), ((s.at tick).rests = true) ∧ (s.linkUp n = true) ∧ (s.findLine n
    (s.ch[n]).trav.next = some l) ∧ ((s.at tick).latchDue n l tick = true) ∧ ((s.ch[n]).drive.wiped = []) ∧ (l.undel = false)
    ∧ (l.delivered = false)) ∧
  (∃ (s : State) (n : Ch) (tick : Tick) (l : Line), ((s.at tick).rests = true) ∧ (s.findLine n (s.ch[n]).trav.next = some l) ∧
    ((s.at tick).latchDue n l tick = false)) ∧
  (∃ (s : State) (n : Ch) (tick : Tick), ((s.at tick).rests = true) ∧ ((s.findLine n (s.ch[n]).trav.next = none ∨ s.linkUp n =
    false))) ∧
  (∃ (s : State) (n : Ch) (l : Line) (j : Fin 4), (s.rests = true) ∧ (s.liveLine n = some l) ∧ (s.linkUp n = true) ∧ (1 ≤ (j :
    Nat)) ∧ ((j : Nat) ∈ l.desc.defined) ∧ ((j : Nat) ∉ l.spxSent)) ∧
  (∃ (s : State) (n : Ch) (l : Line) (j : Fin 4), (s.rests = true) ∧ (s.liveLine n = some l) ∧ ((s.linkUp n = false ∨ (j :
    Nat) = 0 ∨ (j : Nat) ∉ l.desc.defined ∨ (j : Nat) ∈ l.spxSent))) ∧
  (∃ (s : State) (n : Ch) (l : Line) (i : Nat), (s.rests = true) ∧ (s.liveLine n = some l) ∧ (l.sense = some i) ∧ (l.runs =
    true) ∧ (l.snsEn = true) ∧ (s.canRoute n = true) ∧ (s.linkUp n = true) ∧ (let j := l.snsShare i; (1 ≤ j) ∧ (j ∈
    l.desc.defined) ∧ (j ∉ l.spxSent))) ∧
  (∃ (s : State) (n : Ch) (l : Line) (i : Nat), (s.rests = true) ∧ (s.liveLine n = some l) ∧ (l.sense = some i) ∧ (l.runs =
    true) ∧ (l.snsEn = true) ∧ (s.canRoute n = true) ∧ (s.linkUp n = true) ∧ (let j := l.snsShare i; ((j = 0 ∨ j ∉
    l.desc.defined ∨ j ∈ l.spxSent)))) ∧
  (∃ (s : State) (n : Ch) (l : Line), (s.rests = true) ∧ (s.liveLine n = some l) ∧ ((l.sense = none ∨ l.runs = false ∨ l.snsEn
    = false ∨ s.canRoute n = false ∨ s.linkUp n = false))) ∧
  (∃ (s : State) (n : Ch), (s.rests = true) ∧ (s.liveLine n = none)) :=
  ⟨
  ⟨(up.modCh 0 (fun c =>
    { c with st := .run, trav := { c.trav with st := .running, next := 5, first := 5, sched := [⟨5, 1000, .pred⟩] }, store := { c.store with bNext := some 6, entered := some 5 }, lines := [{ Line.stub 5 with encoded := true }] })),
    0, 5,
    { no := 5, codes := [], null := false, held := false, slot := 0, desc := { rest := 0, fin := 0, quiet := 0, en := 0, rails := [], masks := [], sps := [] }, theta := 1024, wscale := 1024, trim := 0, lineTime := 0, sense := none, snsEn := false, encoded := true, msgs := [], frames := [], reps := 0, undel := false, latched := none, lack := none, lackAt := 0, decided := false, runs := false, cut := false, sending := false, spxSent := [] },
    by decide +kernel⟩,
  ⟨((up.modCh 0 (fun c =>
    { c with st := .run, trav := { c.trav with st := .running, next := 5, first := 5, sched := [⟨5, 1000, .pred⟩] }, store := { c.store with bNext := some 6, entered := some 5 }, lines := [{ Line.stub 5 with encoded := true }] })).modCh
    0 (fun c => { c with lines := [{ Line.stub 5 with encoded := true, frames := [⟨0, 0, true, [1], 0, false, false⟩] }] })),
    0, 5,
    { no := 5, codes := [], null := false, held := false, slot := 0, desc := { rest := 0, fin := 0, quiet := 0, en := 0, rails := [], masks := [], sps := [] }, theta := 1024, wscale := 1024, trim := 0, lineTime := 0, sense := none, snsEn := false, encoded := true, msgs := [], frames := [{ type := 0, index := 0, last := true, payload := [1], sent := 0, acked := false, waiting := false }], reps := 0, undel := false, latched := none, lack := none, lackAt := 0, decided := false, runs := false, cut := false, sending := false, spxSent := [] },
    by decide +kernel⟩,
  ⟨((up.modCh 0 (fun c =>
    { c with st := .run, trav := { c.trav with st := .running, next := 5, first := 5, sched := [⟨5, 1000, .pred⟩] }, store := { c.store with bNext := some 6, entered := some 5 }, lines := [{ Line.stub 5 with encoded := true }] })).modCh
    0 (fun c => { c with drive := { c.drive with railsRest := false } })), 0, 5,
    { no := 5, codes := [], null := false, held := false, slot := 0, desc := { rest := 0, fin := 0, quiet := 0, en := 0, rails := [], masks := [], sps := [] }, theta := 1024, wscale := 1024, trim := 0, lineTime := 0, sense := none, snsEn := false, encoded := true, msgs := [], frames := [], reps := 0, undel := false, latched := none, lack := none, lackAt := 0, decided := false, runs := false, cut := false, sending := false, spxSent := [] },
    by decide +kernel⟩,
  ⟨up, 0, 5, by decide +kernel⟩,
  ⟨((up.put (Lk.FE_CAP 0) 1).modCh 0 (fun c =>
    { c with lines := [{ Line.stub 5 with encoded := true, decided := true, runs := true, sense := some 0, snsEn := true, codes := [1, 1], desc := ⟨0, 5, 1, 3, [false, false], [1, 1, 1, 1], []⟩ }] })),
    0,
    { no := 5, codes := [1, 1], null := false, held := false, slot := 0, desc := { rest := 0, fin := 5, quiet := 1, en := 3, rails := [false, false], masks := [1, 1, 1, 1], sps := [] }, theta := 1024, wscale := 1024, trim := 0, lineTime := 0, sense := some 0, snsEn := true, encoded := true, msgs := [], frames := [], reps := 0, undel := false, latched := none, lack := none, lackAt := 0, decided := true, runs := true, cut := false, sending := false, spxSent := [] },
    1, by decide +kernel⟩,
  ⟨(up.modCh 0 (fun c =>
    { c with lines := [{ Line.stub 5 with encoded := true, decided := true, runs := true, sense := some 1, snsEn := true }] })),
    0,
    { no := 5, codes := [], null := false, held := false, slot := 0, desc := { rest := 0, fin := 0, quiet := 0, en := 0, rails := [], masks := [], sps := [] }, theta := 1024, wscale := 1024, trim := 0, lineTime := 0, sense := some 1, snsEn := true, encoded := true, msgs := [], frames := [], reps := 0, undel := false, latched := none, lack := none, lackAt := 0, decided := true, runs := true, cut := false, sending := false, spxSent := [] },
    0, by decide +kernel⟩,
  ⟨((up.put (Lk.FE_CAP 0) 1).modCh 0 (fun c =>
    { c with lines := [{ Line.stub 5 with encoded := true, decided := true, runs := true, sense := some 0, snsEn := true, codes := [1, 1], desc := ⟨0, 5, 1, 3, [false, false], [1, 1, 1, 1], []⟩ }] })),
    0,
    { no := 5, codes := [1, 1], null := false, held := false, slot := 0, desc := { rest := 0, fin := 5, quiet := 1, en := 3, rails := [false, false], masks := [1, 1, 1, 1], sps := [] }, theta := 1024, wscale := 1024, trim := 0, lineTime := 0, sense := some 0, snsEn := true, encoded := true, msgs := [], frames := [], reps := 0, undel := false, latched := none, lack := none, lackAt := 0, decided := true, runs := true, cut := false, sending := false, spxSent := [] },
    0, by decide +kernel⟩,
  ⟨((up.modCh 0 (fun c =>
    { c with lines := [{ Line.stub 5 with encoded := true, decided := true, runs := true, sense := some 1, snsEn := true }] })).put
    (Lk.FE_CAP 0) 1), 0,
    { no := 5, codes := [], null := false, held := false, slot := 0, desc := { rest := 0, fin := 0, quiet := 0, en := 0, rails := [], masks := [], sps := [] }, theta := 1024, wscale := 1024, trim := 0, lineTime := 0, sense := some 1, snsEn := true, encoded := true, msgs := [], frames := [], reps := 0, undel := false, latched := none, lack := none, lackAt := 0, decided := true, runs := true, cut := false, sending := false, spxSent := [] },
    1, by decide +kernel⟩,
  ⟨(up.modCh 0 (fun c =>
    { c with lines := [{ Line.stub 5 with encoded := true, decided := true, runs := true, sense := some 1, snsEn := true }] })),
    0,
    { no := 5, codes := [], null := false, held := false, slot := 0, desc := { rest := 0, fin := 0, quiet := 0, en := 0, rails := [], masks := [], sps := [] }, theta := 1024, wscale := 1024, trim := 0, lineTime := 0, sense := some 1, snsEn := true, encoded := true, msgs := [], frames := [], reps := 0, undel := false, latched := none, lack := none, lackAt := 0, decided := true, runs := true, cut := false, sending := false, spxSent := [] },
    by decide +kernel⟩,
  ⟨up, 0, by decide +kernel⟩⟩

theorem witness_FarEndReports :
  (∃ (s : State) (n : Ch), (s.rests = true) ∧ (s.can.tpdo.all (fun p => p.wait.isNone) = true) ∧ ((s.ch[n]).link.fe = none) ∧
    (s.linkSt n ≠ .down)) ∧
  (∃ (s : State) (n : Ch) (a : FeAcc) (addr : Byte), (s.rests = true) ∧ (s.can.tpdo.all (fun p => p.wait.isNone) = true) ∧
    ((s.ch[n]).link.fe = some a) ∧ (a.write = false) ∧ (a.addr = addr.toNat) ∧ ((s.ch[n]).link.feQ = [])) ∧
  (∃ (s : State) (n : Ch) (a : FeAcc) (addr : Byte) (b : FeAcc) (rest : List FeAcc), (s.rests = true) ∧ (s.can.tpdo.all (fun p
    => p.wait.isNone) = true) ∧ ((s.ch[n]).link.fe = some a) ∧ (a.write = false) ∧ (a.addr = addr.toNat) ∧ ((s.ch[n]).link.feQ
    = b :: rest)) ∧
  (∃ (s : State) (n : Ch), (s.rests = true) ∧ (s.can.tpdo.all (fun p => p.wait.isNone) = true) ∧ (s.linkSt n ≠ .down)) ∧
  (∃ (s : State) (n : Ch) (ver : Byte), (s.rests = true) ∧ (s.can.tpdo.all (fun p => p.wait.isNone) = true) ∧ (s.linkSt n =
    .training) ∧ ((s.ch[n]).link.tsrSeen = false) ∧ (ver ≠ 1) ∧ (s.chSt n = .idle) ∧ ((s.ch[n]).readmitK = none)) ∧
  (∃ (s : State) (n : Ch), (s.rests = true) ∧ (s.can.tpdo.all (fun p => p.wait.isNone) = true) ∧ (s.linkSt n ≠ .down)) ∧
  (∃ (s : State) (n : Ch), (s.rests = true) ∧ (s.can.tpdo.all (fun p => p.wait.isNone) = true) ∧ (s.linkSt n = .down) ∧
    ((s.ch[n]).link.fe = none)) :=
  ⟨
  ⟨up, 0, by decide +kernel⟩,
  ⟨(up.modCh 0 (fun c => { c with link := { c.link with fe := some ⟨3, 4, false, .reg⟩ } })), 0,
    { addr := 3, val := 4, write := false, use := FeFor.reg }, 3, by decide +kernel⟩,
  ⟨(up.modCh 0 (fun c => { c with link := { c.link with fe := some ⟨0, 4, false, .reg⟩, feQ := [⟨1, 4, false, .reg⟩] } })), 0,
    { addr := 0, val := 4, write := false, use := FeFor.reg }, 0, { addr := 1, val := 4, write := false, use := FeFor.reg },
    [], by decide +kernel⟩,
  ⟨up, 0, by decide +kernel⟩,
  ⟨(up.modCh 0 (fun c => { c with link := { c.link with st := .training } })), 0, 0, by decide +kernel⟩,
  ⟨up, 0, by decide +kernel⟩,
  ⟨up, 1, by decide +kernel⟩⟩

theorem witness_LinkTrainsAndIsLost :
  (∃ (s : State) (n : Ch), (s.rests = true) ∧ (s.linkSt n = .training) ∧ (s.chSt n = .idle) ∧ ((s.ch[n]).readmitK = none)) ∧
  (∃ (s : State) (n : Ch), (s.rests = true) ∧ (s.linkSt n ≠ .training)) ∧
  (∃ (s : State) (n : Ch) (tick : Tick), ((s.at tick).rests = true) ∧ (s.linkUp n = true) ∧ ((s.ch[n]).link.retrains = [])) ∧
  (∃ (s : State) (n : Ch) (tick : Tick), ((s.at tick).rests = true) ∧ (s.linkUp n = false)) ∧
  (∃ (s : State) (n : Ch) (tick : Tick), ((s.at tick).rests = true) ∧ (s.linkSt n = .retrain) ∧
    ((s.ch[n]).link.retrains.length < 2)) ∧
  (∃ (s : State) (n : Ch) (tick : Tick) (t0 : Tick) (t1 : Tick), (s.linkSt n = .retrain) ∧ ((s.ch[n]).link.retrains = [t1,
    t0]) ∧ (max s.tb tick < t0 + 9600000)) ∧
  (∃ (s : State) (n : Ch), (s.rests = true) ∧ (s.chParked n = false) ∧ (s.inRun n = false) ∧ (s.inBenchmark = false) ∧
    (s.dev.safe = false) ∧ ((s.epoch = .openE ∨ bit (s.get Ep.EP_MASK) n = false)) ∧ (s.barOpen = true) ∧ (s.holds .pcie =
    true)) ∧
  (∃ (s : State) (n : Ch) (p : Port), (s.rests = true) ∧ (s.chParked n = false) ∧ (s.inRun n = false) ∧ (s.inBenchmark =
    false) ∧ (s.dev.safe = false) ∧ ((s.epoch = .openE ∨ bit (s.get Ep.EP_MASK) n = false)) ∧ (s.serves p = true) ∧ (s.spDown
    = false) ∧ (s.holds p = true)) :=
  ⟨
  ⟨(up.modCh 0 (fun c => { c with link := { c.link with st := .training } })), 0, by decide +kernel⟩,
  ⟨up, 0, by decide +kernel⟩,
  ⟨up, 0, 5, by decide +kernel⟩,
  ⟨up, 1, 5, by decide +kernel⟩,
  ⟨(up.modCh 0 (fun c => { c with link := { c.link with st := .retrain } })), 0, 5, by decide +kernel⟩,
  ⟨((up.modCh 0 (fun c => { c with link := { c.link with st := .retrain } })).modCh 0 (fun c =>
    { c with link := { c.link with retrains := [5, 4] } })), 0, 5, 4, 5, by decide +kernel⟩,
  ⟨up, 0, by decide +kernel⟩,
  ⟨(up.modDev (fun d => { d with token := .can })), 0, .can, by decide +kernel⟩⟩

theorem witness_FarEndAccesses :
  (∃ (s : State) (n : Ch), (s.barOpen = true) ∧ (s.holds .pcie = true) ∧ (s.chParked n = false) ∧ (s.linkUp n = true) ∧ (s.has
    (Lk.WR n) = false)) ∧
  (∃ (s : State) (n : Ch), (s.barOpen = true) ∧ (s.holds .pcie = true) ∧ (s.chParked n = false) ∧ (s.linkUp n = true) ∧ (s.has
    (Lk.WR n) = true) ∧ (s.inRun n = false) ∧ (0x80 ≤ s.get (Lk.ADDR n))) ∧
  (∃ (s : State) (n : Ch) (p : Port), (s.rests = true) ∧ (s.serves p = true) ∧ (s.spDown = false) ∧ (s.expertOn p = true) ∧
    (s.chParked n = true)) ∧
  (∃ (s : State) (n : Ch) (p : Port), (s.rests = true) ∧ (s.serves p = true) ∧ (s.spDown = false) ∧ (s.expertOn p = true) ∧
    (s.chParked n = false) ∧ (s.linkUp n = false)) ∧
  (∃ (s : State) (n : Ch) (p : Port), (s.rests = true) ∧ (s.serves p = true) ∧ (s.spDown = false) ∧ (s.expertOn p = true) ∧
    (s.chParked n = false) ∧ (s.linkUp n = true) ∧ (s.has (Lk.WR n) = false)) ∧
  (∃ (s : State) (n : Ch) (p : Port), (s.rests = true) ∧ (s.serves p = true) ∧ (s.spDown = false) ∧ (s.expertOn p = true) ∧
    (s.chParked n = false) ∧ (s.linkUp n = true) ∧ (s.has (Lk.WR n) = true) ∧ (s.holds p = true) ∧ (s.inRun n = false) ∧ (0x80
    ≤ s.get (Lk.ADDR n))) ∧
  (∃ (s : State) (n : Ch) (a : FeAcc), (s.rests = true) ∧ (s.can.tpdo.all (fun p => p.wait.isNone) = true) ∧
    ((s.ch[n]).link.fe = some a) ∧ ((s.ch[n]).link.feQ = [])) ∧
  (∃ (s : State) (n : Ch), (s.rests = true) ∧ (s.can.tpdo.all (fun p => p.wait.isNone) = true) ∧ ((s.ch[n]).link.fe = none)) ∧
  (∃ (s : State) (n : Ch), ((s.ch[n]).link.fe ≠ none)) ∧
  (∃ (s : State) (n : Ch), ((s.ch[n]).link.fe = none)) :=
  ⟨
  ⟨up, 0, by decide +kernel⟩,
  ⟨(up.put (Lk.WR 0) 1), 0, by decide +kernel⟩,
  ⟨up, 1, .can, by decide +kernel⟩,
  ⟨(up.modDev (fun d => { d with boot := .benchmark })), 1, .can, by decide +kernel⟩,
  ⟨up, 0, .can, by decide +kernel⟩,
  ⟨((up.put (Lk.WR 0) 1).modDev (fun d => { d with token := .can })), 0, .can, by decide +kernel⟩,
  ⟨(up.modCh 0 (fun c => { c with link := { c.link with fe := some ⟨3, 4, false, .reg⟩ } })), 0,
    { addr := 3, val := 4, write := false, use := FeFor.reg }, by decide +kernel⟩,
  ⟨up, 0, by decide +kernel⟩,
  ⟨(up.modCh 0 (fun c => { c with link := { c.link with fe := some ⟨3, 4, false, .reg⟩ } })), 0, by decide +kernel⟩,
  ⟨up, 0, by decide +kernel⟩⟩

theorem witness_TableWritesReachTheTable :
  (∃ (s : State) (n : Ch), (s.rests = true) ∧ (s.barOpen = true) ∧ (s.chParked n = true)) ∧
  (∃ (s : State) (n : Ch), (s.rests = true) ∧ (s.barOpen = true) ∧ (s.chParked n = false) ∧ (s.holds .pcie = false)) ∧
  (∃ (s : State) (n : Ch) (i : Fin 5120) (v : BitVec 64), (s.rests = true) ∧ (s.barOpen = true) ∧ (s.chParked n = false) ∧
    (s.holds .pcie = true) ∧ (Ent.STATUS v.toNat < 6) ∧ (s.inRun n = false) ∧ (s.entry n i < 2 ^ 64)) ∧
  (∃ (s : State) (n : Ch) (v : BitVec 64), (s.rests = true) ∧ (s.barOpen = true) ∧ (s.chParked n = false) ∧ (s.holds .pcie =
    true) ∧ (Ent.STATUS v.toNat < 6) ∧ (s.inRun n = true) ∧ ((s.ch[n]).applyQ.length < 32)) ∧
  (∃ (s : State) (n : Ch) (v : BitVec 64), (s.rests = true) ∧ (s.barOpen = true) ∧ (s.chParked n = false) ∧ (s.holds .pcie =
    true) ∧ (Ent.STATUS v.toNat < 6) ∧ (s.inRun n = true) ∧ (32 ≤ (s.ch[n]).applyQ.length)) ∧
  (∃ (s : State) (n : Ch) (v : BitVec 64), (s.rests = true) ∧ (s.barOpen = true) ∧ (s.chParked n = false) ∧ (s.holds .pcie =
    true) ∧ (6 ≤ Ent.STATUS v.toNat)) ∧
  (∃ (s : State) (n : Ch) (i : Fin 5120) (h : Fin 2) (x : Word), (s.rests = true) ∧ (s.barOpen = true) ∧ (s.chParked n =
    false) ∧ (s.holds .pcie = true) ∧ (s.inRun n = false) ∧ (s.entry n i < 2 ^ 64) ∧ ((i : Nat) ∉ (s.ch[n]).badEntries) ∧ (((h
    : Nat) = 1 → x.toNat / 2 ^ 29 < 6))) ∧
  (∃ (s : State) (e : Edit) (pre : List Edit) (rest : List Edit) (idx : Nat) (sub : Nat) (data : List Byte) (p : Port) (tick :
    Tick) (n : Ch), ((s.at tick).rests = true) ∧ (e.cls = .imm) ∧ (e.body = .obj idx sub data) ∧ (e.owed = some p) ∧ (e.at0 +
    9600000000 ≤ max s.tb tick) ∧ (pre.all (fun x => decide (x.cls ≠ .imm ∨ max s.tb tick < x.at0 + 9600000000)) = true) ∧
    ((s.ch[n]).applyQ = pre ++ e :: rest)) ∧
  (∃ (s : State) (e : Edit) (pre : List Edit) (rest : List Edit) (idx : Nat) (sub : Nat) (data : List Byte) (p : Port) (tick :
    Tick), ((s.at tick).rests = true) ∧ (e.cls = .imm) ∧ (e.body = .obj idx sub data) ∧ (e.owed = some p) ∧ (e.at0 +
    9600000000 ≤ max s.tb tick) ∧ (pre.all (fun x => decide (x.cls ≠ .imm ∨ max s.tb tick < x.at0 + 9600000000)) = true) ∧
    (s.devQ = pre ++ e :: rest)) ∧
  (∃ (s : State) (tick : Tick) (n : Ch), ((s.at tick).rests = true) ∧ ((s.ch[n]).applyQ.all (fun x => decide (x.cls ≠ .imm ∨
    max s.tb tick < x.at0 + 9600000000)) = true)) ∧
  (∃ (s : State) (tick : Tick), ((s.at tick).rests = true) ∧ (s.devQ.all (fun x => decide (x.cls ≠ .imm ∨ max s.tb tick <
    x.at0 + 9600000000)) = true)) :=
  ⟨
  ⟨up, 1, by decide +kernel⟩,
  ⟨(up.modDev (fun d => { d with token := .can })), 0, by decide +kernel⟩,
  ⟨up, 0, 0, 0, by decide +kernel⟩,
  ⟨(up.modCh 0 (fun c => { c with st := .run })), 0, 0, by decide +kernel⟩,
  ⟨((up.modCh 0 (fun c => { c with st := .run })).modCh 0 (fun c =>
    { c with applyQ := List.replicate 32 ⟨.tile 0 0, .line, none, 0⟩ })), 0, 0, by decide +kernel⟩,
  ⟨up, 0, 17293822569102704640, by decide +kernel⟩,
  ⟨up, 0, 0, 0, 0, by decide +kernel⟩,
  ⟨(up.modCh 0 (fun c => { c with st := .run, applyQ := [⟨.obj 0x3020 9 [1], .imm, some .can, 0⟩] })),
    { body := EditBody.obj 12320 9 [0x01#8], cls := Cls.imm, owed := some (Port.can), at0 := 0 }, [], [], 0x3020, 9, [1],
    .can, 9600000000, 0, by decide +kernel⟩,
  ⟨((fun (s : State) => { s with devQ := [⟨.obj 0x1018 3 [1], .imm, some .can, 0⟩] }) (up)), ⟨.obj 0x1018 3 [1], .imm, some
    .can, 0⟩, [], [], 0x1018, 3, [1], .can, 9600000000, by decide +kernel⟩,
  ⟨up, 5, 0, by decide +kernel⟩,
  ⟨up, 5, by decide +kernel⟩⟩

theorem witness_SlotsAndProtectedLoads :
  (∃ (s : State) (n : Ch) (sl : Fin 2), (s.rests = true) ∧ (s.chParked n = false) ∧ (s.barOpen = true) ∧ (s.holds .pcie =
    true) ∧ (s.slotLocked n sl = false)) ∧
  (∃ (s : State) (n : Ch) (sl : Fin 2), (s.rests = true) ∧ (s.chParked n = false) ∧ (s.barOpen = true) ∧ (s.holds .pcie =
    true) ∧ (s.slotLocked n sl = true)) ∧
  (∃ (s : State) (n : Ch) (sl : Fin 2), (s.rests = true) ∧ (s.chParked n = false) ∧ (s.barOpen = true) ∧ (s.holds .pcie =
    true) ∧ (s.slotLocked n sl = false)) ∧
  (∃ (s : State) (n : Ch) (sl : Fin 2) (p : Port), (s.rests = true) ∧ (s.chParked n = false) ∧ (s.serves p = true) ∧ (s.spDown
    = false) ∧ (s.holds p = true) ∧ ((s.inRun n = false ∨ (s.ch[n]).applyQ = [])) ∧ (s.slotLocked n sl = false)) ∧
  (∃ (s : State) (n : Ch) (sl : Fin 2) (p : Port), (s.rests = true) ∧ (s.chParked n = false) ∧ (s.serves p = true) ∧ (s.spDown
    = false) ∧ (s.holds p = true) ∧ ((s.inRun n = false ∨ (s.ch[n]).applyQ = [])) ∧ (s.slotLocked n sl = true)) ∧
  (∃ (s : State) (n : Ch) (sl : Fin 2) (p : Port), (s.rests = true) ∧ (s.chParked n = false) ∧ (s.serves p = true) ∧ (s.spDown
    = false) ∧ (s.holds p = true) ∧ ((s.inRun n = false ∨ (s.ch[n]).applyQ = [])) ∧ (s.slotLocked n sl = false)) ∧
  (∃ (s : State) (n : Ch) (sl : Fin 2), (s.rests = true) ∧ (s.chParked n = false) ∧ (s.barOpen = true) ∧ (s.holds .pcie =
    true) ∧ (s.slotLocked n sl = true)) ∧
  (∃ (s : State) (n : Ch) (p : Port) (ofs : Nat), (s.rests = true) ∧ (s.reachedCh n (.obj p) = true) ∧ (s.inBenchmark = false)
    ∧ (s.dev.safe = false) ∧ (ofs % 16 = 0) ∧ (ofs < 2 ^ 32) ∧ (s.loadRefused n (s.get (slotIx n)) = none) ∧ (ofs + 128 ≤
    spVisible)) ∧
  (∃ (s : State) (n : Ch) (p : Port) (ofs : Nat), (s.rests = true) ∧ (s.reachedCh n (.obj p) = true) ∧ (s.inBenchmark = false)
    ∧ (s.dev.safe = false) ∧ (ofs % 16 = 0) ∧ (ofs < 2 ^ 32) ∧ (s.loadRefused n (s.get (slotIx n)) = none) ∧ (spVisible < ofs
    + 128)) ∧
  (∃ (s : State) (n : Ch) (l : Load), (s.rests = true) ∧ ((s.ch[n]).drive.load = some l) ∧ (s.loadErr n l ≠ 0)) ∧
  (∃ (s : State) (n : Ch) (l : Load), (s.rests = true) ∧ ((s.ch[n]).drive.load = some l) ∧ (s.loadErr n l = 0)) ∧
  (∃ (s : State) (n : Ch), (s.rests = true) ∧ ((s.ch[n]).drive.load = none)) :=
  ⟨
  ⟨up, 0, 0, by decide +kernel⟩,
  ⟨(up.modCh 0 (fun c => { c with st := .run })), 0, 0, by decide +kernel⟩,
  ⟨up, 0, 0, by decide +kernel⟩,
  ⟨(up.modDev (fun d => { d with token := .can })), 0, 0, .can, by decide +kernel⟩,
  ⟨((up.modDev (fun d => { d with token := .can })).modCh 0 (fun c => { c with st := .run })), 0, 0, .can, by decide +kernel⟩,
  ⟨(up.modDev (fun d => { d with token := .can })), 0, 0, .can, by decide +kernel⟩,
  ⟨(up.modCh 0 (fun c => { c with st := .run })), 0, 0, by decide +kernel⟩,
  ⟨(up.modDev (fun d => { d with token := .can })), 0, .can, 0, by decide +kernel⟩,
  ⟨(up.modDev (fun d => { d with token := .can })), 0, .can, 101253168, by decide +kernel⟩,
  ⟨(up.modCh 0 (fun c => { c with drive := { c.drive with load := some ⟨0, 0, [], false, none⟩ } })), 0,
    { slot := 0, ofs := 0, pkg := [], par := false, port := none }, by decide +kernel⟩,
  ⟨((fun (s : State) => (fun (u : State) => { u with datum := { u.datum with key := true } }) (s.modCh 0 (fun c =>
    { c with drive := { c.drive with load := some ⟨0, 0, [0x4F, 0x58, 0x57, 0x50, 1, 0, 0, 0, 0, 0, 0, 0, 80, 0, 0, 0] ++ List.replicate 112 0, false, none⟩ } })))
    (up)), 0,
    { slot := 0, ofs := 0, pkg := [0x4f#8, 0x58#8, 0x57#8, 0x50#8, 0x01#8, 0x00#8, 0x00#8, 0x00#8, 0x00#8, 0x00#8, 0x00#8, 0x00#8, 0x50#8, 0x00#8, 0x00#8, 0x00#8, 0x00#8, 0x00#8, 0x00#8, 0x00#8, 0x00#8, 0x00#8, 0x00#8, 0x00#8, 0x00#8, 0x00#8, 0x00#8, 0x00#8, 0x00#8, 0x00#8, 0x00#8, 0x00#8, 0x00#8, 0x00#8, 0x00#8, 0x00#8, 0x00#8, 0x00#8, 0x00#8, 0x00#8, 0x00#8, 0x00#8, 0x00#8, 0x00#8, 0x00#8, 0x00#8, 0x00#8, 0x00#8, 0x00#8, 0x00#8, 0x00#8, 0x00#8, 0x00#8, 0x00#8, 0x00#8, 0x00#8, 0x00#8, 0x00#8, 0x00#8, 0x00#8, 0x00#8, 0x00#8, 0x00#8, 0x00#8, 0x00#8, 0x00#8, 0x00#8, 0x00#8, 0x00#8, 0x00#8, 0x00#8, 0x00#8, 0x00#8, 0x00#8, 0x00#8, 0x00#8, 0x00#8, 0x00#8, 0x00#8, 0x00#8, 0x00#8, 0x00#8, 0x00#8, 0x00#8, 0x00#8, 0x00#8, 0x00#8, 0x00#8, 0x00#8, 0x00#8, 0x00#8, 0x00#8, 0x00#8, 0x00#8, 0x00#8, 0x00#8, 0x00#8, 0x00#8, 0x00#8, 0x00#8, 0x00#8, 0x00#8, 0x00#8, 0x00#8, 0x00#8, 0x00#8, 0x00#8, 0x00#8, 0x00#8, 0x00#8, 0x00#8, 0x00#8, 0x00#8, 0x00#8, 0x00#8, 0x00#8, 0x00#8, 0x00#8, 0x00#8, 0x00#8, 0x00#8, 0x00#8, 0x00#8, 0x00#8, 0x00#8, 0x00#8, 0x00#8, 0x00#8], par := false, port := none },
    by decide +kernel⟩,
  ⟨up, 0, by decide +kernel⟩⟩

theorem witness_PrechargeAndReservoirs :
  (∃ (s : State) (n : Ch), (s.rests = true) ∧ ((s.ch[n]).drive.precharging = false) ∧ ((s.ch[n]).drive.vhvAt = none)) ∧
  (∃ (s : State) (n : Ch), (((s.switchPass n).ch[n]).drive.precharging = true) ∧ (s.chSt n = .readmitting)) ∧
  (∃ (s : State) (n : Ch), (s.rests = true) ∧ (s.has (Lv.HV_ON n) = true) ∧ ((s.ch[n]).drive.vhvAt = none) ∧ (s.chSt n ≠
    .off)) ∧
  (∃ (s : State) (n : Ch), (s.has (Lv.HV_ON n) = true) ∧ (s.has (Lv.PRECHG n) = true) ∧ (s.chSt n ≠ .off)) ∧
  (∃ (s : State) (n : Ch), ((s.ch[n]).drive.railsRest = false) ∧ (s.has (Lv.HV_ON n) = true) ∧ ((s.chSt n = .idle ∨ s.chSt n =
    .run)) ∧ (s.safeNow = false)) ∧
  (∃ (s : State) (n : Ch), (((s.ch[n]).drive.railsRest = true ∨ s.has (Lv.HV_ON n) = false)) ∧ (s.rests = true)) ∧
  (∃ (s : State) (n : Ch), ((s.ch[n]).drive.bleeding = true) ∧ (s.rests = true) ∧ (s.dev.safeEntry = none) ∧ (s.chSt n =
    .retiring)) ∧
  (∃ (s : State) (n : Ch), ((s.ch[n]).drive.bleeding = true) ∧ (s.rests = true) ∧ (s.dev.safeEntry = none) ∧ (s.chSt n =
    .stopping)) :=
  ⟨
  ⟨up, 0, by decide +kernel⟩,
  ⟨((up.modCh 0 (fun c => { c with drive := { c.drive with precharging := true } })).modCh 0 (fun c =>
    { c with st := .readmitting })), 0, by decide +kernel⟩,
  ⟨up, 0, by decide +kernel⟩,
  ⟨up, 0, by decide +kernel⟩,
  ⟨(up.modCh 0 (fun c => { c with drive := { c.drive with railsRest := false } })), 0, by decide +kernel⟩,
  ⟨up, 0, by decide +kernel⟩,
  ⟨((up.modCh 0 (fun c => { c with drive := { c.drive with bleeding := true } })).modCh 0 (fun c =>
    { c with st := .retiring })), 0, by decide +kernel⟩,
  ⟨((up.modCh 0 (fun c => { c with drive := { c.drive with bleeding := true } })).modCh 0 (fun c =>
    { c with st := .stopping })), 0, by decide +kernel⟩⟩

theorem witness_OvercurrentsAndRails :
  (∃ (s : State) (n : Ch) (tick : Tick), ((s.at tick).rests = true) ∧ (s.has (Lv.HV_ON n) = true) ∧ ((s.ch[n]).drive.wiped =
    []) ∧ ((s.inRun n = true → thirdWithin (s.ch[n]).drive.ocLines ((s.at tick).lineInProgress n) = false))) ∧
  (∃ (s : State) (n : Ch) (tick : Tick), (s.has (Lv.HV_ON n) = true) ∧ (s.inRun n = true) ∧ ((s.at tick).safeNow = false) ∧
    (thirdWithin (s.ch[n]).drive.ocLines ((s.at tick).lineInProgress n) = true)) ∧
  (∃ (s : State) (n : Ch) (tick : Tick), ((s.at tick).rests = true) ∧ (s.has (Lv.HV_ON n) = false)) ∧
  (∃ (s : State) (n : Ch) (tick : Tick), ((s.at tick).rests = true) ∧ (s.has (Lv.HV_ON n) = true) ∧ ((s.ch[n]).drive.bleeding
    = false)) ∧
  (∃ (s : State) (n : Ch) (tick : Tick), ((s.at tick).rests = true) ∧ ((s.has (Lv.HV_ON n) = false ∨ (s.ch[n]).drive.bleeding
    = true))) ∧
  (∃ (s : State) (n : Ch), (s.rests = true) ∧ ((s.ch[n]).drive.wipeStop.isSome = true) ∧ (s.chSt n = .run) ∧
    ((s.ch[n]).lines.all (fun l => l.decided) = true)) ∧
  (∃ (s : State) (n : Ch), (s.rests = true) ∧ ((s.ch[n]).drive.wipeStop = none)) :=
  ⟨
  ⟨up, 0, 5, by decide +kernel⟩,
  ⟨(up.modCh 0 (fun c =>
    { c with st := .run, drive := { c.drive with ocLines := [1, 0] }, lastLine := some 2, trav := { c.trav with lastFiredLine := some 2 } })),
    0, 5, by decide +kernel⟩,
  ⟨up, 1, 5, by decide +kernel⟩,
  ⟨up, 0, 5, by decide +kernel⟩,
  ⟨up, 1, 5, by decide +kernel⟩,
  ⟨((up.modCh 0 (fun c => { c with drive := { c.drive with wipeStop := some 5 } })).modCh 0 (fun c => { c with st := .run })),
    0, by decide +kernel⟩,
  ⟨up, 0, by decide +kernel⟩⟩

theorem witness_WipesClearSecrets :
  (∃ (s : State), (s.rests = true) ∧ (s.dev.wiping = false)) ∧
  (∃ (s : State), (s.rests = true) ∧ (s.dev.wiping = true)) ∧
  (∃ (s : State), (s.rests = true) ∧ (s.dev.wiping = true)) ∧
  (∃ (s : State), (s.rests = true) ∧ (s.dev.wiping = false)) ∧
  (∃ (s : State), (s.rests = true) ∧ (s.dev.wiping = false)) ∧
  (∃ (s : State), (s.rests = true) ∧ (s.dev.tamperLow = false) ∧ (s.datum.tamperEn = true) ∧ (s.dev.wiping = false)) ∧
  (∃ (s : State), (s.rests = true) ∧ (s.dev.tamperLow = false) ∧ (s.datum.tamperEn = false)) ∧
  (∃ (s : State), (s.rests = true) ∧ (s.dev.tamperLow = true)) :=
  ⟨
  ⟨up, by decide +kernel⟩,
  ⟨(up.modDev (fun d => { d with wiping := true })), by decide +kernel⟩,
  ⟨(up.modDev (fun d => { d with wiping := true })), by decide +kernel⟩,
  ⟨up, by decide +kernel⟩,
  ⟨up, by decide +kernel⟩,
  ⟨((fun (s : State) => { s with datum := { s.datum with tamperEn := true } }) (up)), by decide +kernel⟩,
  ⟨up, by decide +kernel⟩,
  ⟨(up.modDev (fun d => { d with tamperLow := true })), by decide +kernel⟩⟩

theorem witness_OtpCommandsComplete :
  (∃ (s : State) (p : Port), (s.rests = true) ∧ (s.reached (.obj p) = true) ∧ (s.expertOn p = true) ∧ (s.otp.rows.length = 16)
    ∧ (s.otp.arm = none) ∧ (s.writeLocked (s.get otpIx / 512) = false) ∧ (s.datum.lc ≠ 3) ∧ (s.otpMay = true) ∧ (s.spareOf
    (s.get otpIx / 512) (s.get otpIx % 512) = none) ∧ ((s.otpCell (s.get otpIx)).blank = true) ∧ (s.get otpIx % 512 < 504)) ∧
  (∃ (s : State) (p : Port) (v : Word) (r : FuseRun), (s.rests = true) ∧ (s.reached (.obj p) = true) ∧ (s.expertOn p = true) ∧
    (s.otp.rows.length = 16) ∧ (s.otp.arm = none) ∧ (s.writeLocked (s.get otpIx / 512) = false) ∧ (s.datum.lc ≠ 3) ∧ (s.otpMay
    = true) ∧ (s.spareOf (s.get otpIx / 512) (s.get otpIx % 512) = none) ∧ ((s.otpCell (s.get otpIx)).blank = true) ∧
    (let w := v.toNat + otpChk v.toNat * 2 ^ 32; ((onesOf w 39).length ≤ r.blown) ∧ ((∃ i ∈ onesOf w 39, i ∈ r.dud ∨ i ∈
    r.weak)))) ∧
  (∃ (s : State) (p : Port) (v : Word) (r : FuseRun), (s.rests = true) ∧ (s.reached (.obj p) = true) ∧ (s.expertOn p = true) ∧
    (s.otp.rows.length = 16) ∧ (s.otp.arm = none) ∧ (s.writeLocked (s.get otpIx / 512) = false) ∧ (s.datum.lc ≠ 3) ∧ (s.otpMay
    = true) ∧ (s.spareOf (s.get otpIx / 512) (s.get otpIx % 512) = none) ∧ ((s.otpCell (s.get otpIx)).blank = true) ∧
    (let w := v.toNat + otpChk v.toNat * 2 ^ 32; (r.blown < (onesOf w 39).length) ∧ (r.dud = []) ∧ (r.weak = []))) ∧
  (∃ (s : State) (p : Port), (s.rests = true) ∧ (s.reached (.obj p) = true) ∧ (s.expertOn p = true) ∧ (s.otp.rows.length = 16)
    ∧ (s.otp.arm = none) ∧ (s.writeLocked (s.get otpIx / 512) = true)) ∧
  (∃ (s : State) (p : Port) (count : BitVec 16), (s.rests = true) ∧ (s.reached (.obj p) = true) ∧ (s.expertOn p = true) ∧
    (s.otp.rows.length = 16) ∧ (s.dev.safe = false) ∧ (s.otpCount (s.get otpReg) = count.toNat)) ∧
  (∃ (s : State) (p : Port) (count : BitVec 16), (s.rests = true) ∧ (s.reached (.obj p) = true) ∧ (s.expertOn p = true) ∧
    (s.otp.rows.length = 16) ∧ (s.dev.safe = false) ∧ (count.toNat ≤ 504) ∧ (s.otpCount (s.get otpReg) ≠ count.toNat)) ∧
  (∃ (s : State) (p : Port) (k : Nat), (s.rests = true) ∧ (s.reached (.obj p) = true) ∧ (s.expertOn p = true) ∧
    (s.otp.rows.length = 16) ∧ (s.otp.arm = some (s.get otpIx / 512, k)) ∧ (s.writeLocked (s.get otpIx / 512) = true)) ∧
  (∃ (s : State) (p : Port), (s.rests = true) ∧ (s.reached (.obj p) = true) ∧ (s.expertOn p = true) ∧ (s.otp.rows.length = 16)
    ∧ (s.get otpReg < 16) ∧ (s.writeLocked (s.get otpReg) = false) ∧ (s.otp.arm = some (s.get otpReg, s.otpCount (s.get
    otpReg))) ∧ (s.otpMay = true)) ∧
  (∃ (s : State) (p : Port), (s.rests = true) ∧ (s.reached (.obj p) = true) ∧ (s.expertOn p = true) ∧ (s.otp.rows.length = 16)
    ∧ (s.get otpReg < 16) ∧ (s.readLocked (s.get otpReg) = false) ∧ (s.writeLocked (s.get otpReg) = true) ∧ (s.otpMay = true)) :=
  ⟨
  ⟨((up.modDev (fun d => { d with token := .can })).put (otpIx) 2056), .can, by decide +kernel⟩,
  ⟨((up.modDev (fun d => { d with token := .can })).put (otpIx) 2056), .can, 1, ⟨40, .window, [0], []⟩, by decide +kernel,
    by decide +kernel, by decide +kernel, by decide +kernel, by decide +kernel, by decide +kernel, by decide +kernel,
    by decide +kernel, by decide +kernel, by decide +kernel, test_fuse_fails _ rfl (by decide) _ rfl⟩,
  ⟨((up.modDev (fun d => { d with token := .can })).put (otpIx) 2056), .can, 1, ⟨0, .window, [], []⟩, by decide +kernel,
    by decide +kernel, by decide +kernel, by decide +kernel, by decide +kernel, by decide +kernel, by decide +kernel,
    by decide +kernel, by decide +kernel, by decide +kernel, test_fuse_stops _ rfl _ rfl⟩,
  ⟨(up.modDev (fun d => { d with token := .can })), .can, by decide +kernel⟩,
  ⟨((fun (s : State) => { s with otp := { s.otp with words := [] } }) ((up.modDev (fun d => { d with token := .can })).put
    otpReg 5)), .can, 0, by decide +kernel⟩,
  ⟨((fun (s : State) => { s with otp := { s.otp with words := [] } }) ((up.modDev (fun d => { d with token := .can })).put
    otpReg 5)), .can, 1, by decide +kernel⟩,
  ⟨((fun (s : State) => { s with otp := { s.otp with arm := some (0, 0) } }) (up.modDev (fun d => { d with token := .can }))),
    .can, 0, by decide +kernel⟩,
  ⟨((fun (s : State) => { s with otp := { s.otp with words := [] } }) ((fun (s : State) => (fun (u : State) =>
    { u with otp := { u.otp with arm := some (3, 0), rows := u.otp.rows.map (fun r => { r with wl := (0, 0) }) } }) (s.put
    otpReg 3)) (up.modDev (fun d => { d with token := .can })))), .can, by decide +kernel⟩,
  ⟨(up.modDev (fun d => { d with token := .can })), .can, by decide +kernel⟩⟩

theorem witness_LifeCycleAndDebug :
  (∃ (s : State) (p : Port) (code : Word) (a : Nat), (s.rests = true) ∧ (s.reached (.obj p) = true) ∧ (s.expertOn p = true) ∧
    (s.otp.rows.length = 16) ∧ (s.lcRefused code.toNat = some a)) ∧
  (∃ (s : State) (p : Port) (c : Fin 2), (s.rests = true) ∧ (s.reached (.obj p) = true) ∧ (s.expertOn p = true) ∧
    (s.otp.rows.length = 16) ∧ (s.lcRefused (0x4C430001 + c) = none)) ∧
  (∃ (s : State) (p : Port), (s.rests = true) ∧ (s.reached (.obj p) = true) ∧ (s.expertOn p = true) ∧ (s.otp.rows.length = 16)
    ∧ (s.lcRefused 0x4C430003 = none) ∧ (s.otp.words.length ≤ 8192)) ∧
  (∃ (s : State) (p : Port) (sig : List Byte), (s.rests = true) ∧ (s.reached (.obj p) = true) ∧ (s.expertOn p = true) ∧
    (s.otp.rows.length = 16) ∧ (sig.length = 64) ∧ (s.datum.chal = none)) ∧
  (∃ (s : State) (p : Port) (sig : List Byte) (c : List Byte), (s.rests = true) ∧ (s.reached (.obj p) = true) ∧ (s.expertOn p
    = true) ∧ (s.otp.rows.length = 16) ∧ (sig.length = 64) ∧ (s.datum.chal = some c) ∧ (s.datum.lc = 2) ∧ (s.datum.dbgChal =
    true) ∧ ((List.range 16).all (fun i => s.otpValid (2560 + i)) = true) ∧ (s.loadRunning = false) ∧ (s.datum.chalFails < 3)) ∧
  (∃ (s : State) (c : Instr) (ir : TapIr), (s.rests = true) ∧ ((c = .tapExtest ∧ ir = .extest ∨ c = .tapClamp ∧ ir = .clamp ∨
    c = .tapHighz ∧ ir = .highz))) ∧
  (∃ (s : State), (s.rests = true) ∧ (s.datum.dbg = 0)) ∧
  (∃ (s : State), (s.rests = true) ∧ (s.datum.dbg ≠ 0) ∧ (s.deferred = [])) ∧
  (∃ (s : State), (s.rests = true) ∧ (s.datum.dbg ≠ 0) ∧ (s.parBad = []) ∧ (s.bist.running = none)) ∧
  (∃ (s : State) (ir : TapIr), (s.rests = true) ∧ ((ir = .extest ∨ ir = .clamp ∨ ir = .highz))) :=
  ⟨
  ⟨(up.modDev (fun d => { d with token := .can })), .can, 0, 101253168, by decide +kernel⟩,
  ⟨(up.modDev (fun d => { d with token := .can })), .can, 0, by decide +kernel⟩,
  ⟨(up.modDev (fun d => { d with token := .can })), .can, by decide +kernel⟩,
  ⟨(up.modDev (fun d => { d with token := .can })), .can, (List.replicate 64 0), by decide +kernel⟩,
  ⟨((fun (s : State) =>
    { s with otp := { s.otp with words := (List.range 16).map (fun i => ⟨2560 + i, 2 ^ 39, 2 ^ 39, false⟩) } })
    ((fun (s : State) => { s with datum := { s.datum with lc := 2 } }) ((fun (s : State) =>
    { s with datum := { s.datum with dbgChal := true, chal := some [1] } }) (up.modDev (fun d =>
    { d with token := .can }))))), .can, (List.replicate 64 0), [1], by decide +kernel⟩,
  ⟨up, Instr.tapExtest, .extest, by decide +kernel⟩,
  ⟨((fun (s : State) => { s with datum := { s.datum with dbg := 0 } }) (up)), by decide +kernel⟩,
  ⟨up, by decide +kernel⟩,
  ⟨up, by decide +kernel⟩,
  ⟨up, .extest, by decide +kernel⟩⟩

theorem witness_CapturesAreClassified :
  (∃ (s : State) (n : Ch), (s.rests = true) ∧ ((s.ch[n]).health.cap = none)) ∧
  (∃ (s : State) (n : Ch) (cap : Cap), (s.rests = true) ∧ ((s.ch[n]).health.cap = some cap)) ∧
  (∃ (s : State) (n : Ch), (s.rests = true) ∧ ((s.ch[n]).health.results = [])) ∧
  (∃ (s : State) (n : Ch) (r : SRes) (rest : List SRes), (s.rests = true) ∧ ((s.ch[n]).health.results = r :: rest) ∧
    (s.senseQueued n < 16)) ∧
  (∃ (s : State) (n : Ch) (r : SRes) (rest : List SRes), (s.rests = true) ∧ ((s.ch[n]).health.results = r :: rest) ∧ (16 ≤
    s.senseQueued n)) :=
  ⟨
  ⟨up, 0, by decide +kernel⟩,
  ⟨(up.modCh 0 (fun c => { c with health := { c.health with cap := some ⟨5, 1, 1024⟩ } })), 0,
    { line := 5, noz := 1, sigma := 1024 }, by decide +kernel⟩,
  ⟨up, 0, by decide +kernel⟩,
  ⟨(up.modCh 0 (fun c => { c with health := { c.health with results := [⟨5, 1, 0, 0, 0, 0, 0, 0, 0⟩] } })), 0,
    { line := 5, noz := 1, cls := 0, dev := 0, lag := 0, rho := 0, amp := 0, len := 0, row := 0 }, [], by decide +kernel⟩,
  ⟨((up.modCh 0 (fun c => { c with health := { c.health with results := [⟨5, 1, 0, 0, 0, 0, 0, 0, 0⟩] } })).modCh 0 (fun c =>
    { c with health := { c.health with obs := List.replicate 17 (1, false, 0, 0) } })), 0,
    { line := 5, noz := 1, cls := 0, dev := 0, lag := 0, rho := 0, amp := 0, len := 0, row := 0 }, [], by decide +kernel⟩⟩

theorem witness_ObservationsBecomeVerdicts :
  (∃ (s : State) (n : Ch), (s.rests = true) ∧ (((s.ch[n]).health.obs = [] ∨ s.pix.on = false ∨ s.spDown = true ∨ 64 <
    (s.ch[n]).health.verdicts.length))) ∧
  (∃ (s : State) (n : Ch) (i : Nat) (strip : Bool) (code : Nat) (dev : Int) (rest : List (Nat × Bool × Nat × Int)), (s.rests =
    true) ∧ ((s.ch[n]).health.obs = (i, strip, code, dev) :: rest) ∧ (s.pix.on = true) ∧ (s.spDown = false) ∧
    ((s.ch[n]).health.verdicts.length ≤ 64) ∧ (strip = false) ∧ ((3 ≤ code ∨ s.canRoute n = false))) ∧
  (∃ (s : State) (n : Ch) (i : Nat) (strip : Bool) (code : Nat) (dev : Int) (rest : List (Nat × Bool × Nat × Int)), (s.rests =
    true) ∧ ((s.ch[n]).health.obs = (i, strip, code, dev) :: rest) ∧ (s.pix.on = true) ∧ (s.spDown = false) ∧
    ((s.ch[n]).health.verdicts.length ≤ 64) ∧ (strip = true) ∧ (code = 4) ∧ (s.has Cl.ENABLE = true) ∧ (Ent.STATUS
    (s.entryView n i) ≠ 5)) ∧
  (∃ (s : State) (n : Ch) (i : Nat) (strip : Bool) (code : Nat) (dev : Int) (rest : List (Nat × Bool × Nat × Int)), (s.rests =
    true) ∧ ((s.ch[n]).health.obs = (i, strip, code, dev) :: rest) ∧ (s.pix.on = true) ∧ (s.spDown = false) ∧
    ((s.ch[n]).health.verdicts.length ≤ 64) ∧ (s.has Cl.ENABLE = false) ∧ ((strip = false → code < 3 ∧ s.canRoute n = true ∧
    s.get (Nh.DEV_UPD n) = 0)) ∧ ((strip = true → code ≠ 4))) ∧
  (∃ (s : State) (n : Ch), (s.rests = true) ∧ ((s.ch[n]).health.verdicts = [])) ∧
  (∃ (s : State) (n : Ch) (g : List VWrite) (rest : List (List VWrite)), (s.rests = true) ∧ ((s.ch[n]).health.verdicts = g ::
    rest) ∧ ((s.chParked n = true ∨ 28 < (s.ch[n]).applyQ.length))) ∧
  (∃ (s : State) (n : Ch) (g : List VWrite) (rest : List (List VWrite)), (s.rests = true) ∧ ((s.ch[n]).health.verdicts = g ::
    rest) ∧ (s.chParked n = false) ∧ ((s.ch[n]).applyQ.length ≤ 28) ∧ (s.inRun n = true)) :=
  ⟨
  ⟨up, 0, by decide +kernel⟩,
  ⟨((fun (s : State) => (fun (u : State) => { u with pix := { u.pix with on := true, ready := true } }) (s.put (Ca.PORT_EN 0)
    1)) (up.modCh 0 (fun c => { c with health := { c.health with obs := [(1, false, 3, 0)] } }))), 0, 1, false, 3, 0, [],
    by decide +kernel⟩,
  ⟨((((fun (s : State) => (fun (u : State) => { u with pix := { u.pix with on := true, ready := true } }) (s.put (Ca.PORT_EN
    0) 1)) (up.modCh 0 (fun c => { c with health := { c.health with obs := [(1, false, 3, 0)] } }))).modCh 0 (fun c =>
    { c with health := { c.health with obs := [(1, true, 4, 0)] } })).put (Cl.ENABLE) 1), 0, 1, true, 4, 0, [],
    by decide +kernel⟩,
  ⟨((fun (s : State) => (fun (u : State) => { u with pix := { u.pix with on := true, ready := true } }) ((s.put (Ca.PORT_EN 0)
    1).put Cl.ENABLE 0) |>.modCh 0 (fun c => { c with health := { c.health with obs := [(1, true, 0, 0)] } })) (up)), 0, 1,
    true, 0, 0, [], by decide +kernel⟩,
  ⟨up, 0, by decide +kernel⟩,
  ⟨((up.modCh 0 (fun c => { c with health := { c.health with verdicts := [[⟨1, 0, 0, 0⟩]] } })).modCh 0 (fun c =>
    { c with st := .off })), 0, [{ noz := 1, mask := 0, val := 0, why := 0 }], [], by decide +kernel⟩,
  ⟨((up.modCh 0 (fun c => { c with health := { c.health with verdicts := [[⟨1, 0, 0, 0⟩]] } })).modCh 0 (fun c =>
    { c with st := .run })), 0, [{ noz := 1, mask := 0, val := 0, why := 0 }], [], by decide +kernel⟩⟩

theorem witness_SignaturesAreLearnedAndRead :
  (∃ (s : State) (n : Ch) (rows : BitVec 8), (s.rests = true) ∧ (s.chParked n = false) ∧ (s.barOpen = true) ∧ (s.holds .pcie =
    true) ∧ ((∀ r : Fin 8, bit rows.toNat r = true → (r : Nat) < s.nrows n))) ∧
  (∃ (s : State) (n : Ch) (v : BitVec 16), (s.rests = true) ∧ (s.chParked n = false) ∧ (s.barOpen = true) ∧ (s.holds .pcie =
    true) ∧ (s.get (Nh.SIG_IDX n) = 150) ∧ (v.toNat ≤ 150) ∧ (s.get (Nh.SIG_ROW n) < s.nrows n)) ∧
  (∃ (s : State) (n : Ch) (v : BitVec 16), (s.rests = true) ∧ (s.chParked n = false) ∧ (s.barOpen = true) ∧ (s.holds .pcie =
    true) ∧ (s.get (Nh.SIG_IDX n) < 150) ∧ (-2048 ≤ v.toInt) ∧ (v.toInt ≤ 2047) ∧ (s.get (Nh.SIG_ROW n) < s.nrows n)) ∧
  (∃ (s : State) (n : Ch) (p : Port) (rows : BitVec 8), (s.rests = true) ∧ (s.chParked n = false) ∧ (s.serves p = true) ∧
    (s.spDown = false) ∧ (s.holds p = true) ∧ ((s.inRun n = false ∨ (s.ch[n]).applyQ = [])) ∧ ((∀ r : Fin 8, bit rows.toNat r
    = true → (r : Nat) < s.nrows n))) ∧
  (∃ (s : State) (n : Ch) (p : Port) (v : BitVec 16), (s.rests = true) ∧ (s.chParked n = false) ∧ (s.serves p = true) ∧
    (s.spDown = false) ∧ (s.holds p = true) ∧ ((s.inRun n = false ∨ (s.ch[n]).applyQ = [])) ∧ (s.expertOn p = true) ∧ (s.get
    (Nh.SIG_IDX n) = 150) ∧ (v.toNat ≤ 150) ∧ (s.get (Nh.SIG_ROW n) < s.nrows n)) ∧
  (∃ (s : State) (n : Ch) (p : Port) (v : BitVec 16), (s.rests = true) ∧ (s.chParked n = false) ∧ (s.serves p = true) ∧
    (s.spDown = false) ∧ (s.holds p = true) ∧ ((s.inRun n = false ∨ (s.ch[n]).applyQ = [])) ∧ (s.expertOn p = true) ∧ (s.get
    (Nh.SIG_IDX n) < 150) ∧ (-2048 ≤ v.toInt) ∧ (v.toInt ≤ 2047) ∧ (s.get (Nh.SIG_ROW n) < s.nrows n)) ∧
  (∃ (s : State) (n : Ch) (rows : BitVec 8) (r : Fin 8), (s.rests = true) ∧ (s.chParked n = false) ∧ (bit rows.toNat r = true)
    ∧ (s.nrows n ≤ r) ∧ (s.barOpen = true) ∧ (s.holds .pcie = true)) ∧
  (∃ (s : State) (n : Ch) (rows : BitVec 8) (r : Fin 8) (p : Port), (s.rests = true) ∧ (s.chParked n = false) ∧ (bit
    rows.toNat r = true) ∧ (s.nrows n ≤ r) ∧ (s.serves p = true) ∧ (s.spDown = false) ∧ (s.holds p = true)) ∧
  (∃ (s : State) (n : Ch) (p : Port), (s.rests = true) ∧ (s.chParked n = false) ∧ (s.serves p = true) ∧ (s.spDown = false) ∧
    (s.expertOn p = true) ∧ (s.get (Nh.SIG_IDX n) < 150)) ∧
  (∃ (s : State) (n : Ch), (s.rests = true) ∧ (s.chParked n = false) ∧ (s.get (Nh.SIG_ROW n) < 8) ∧ (s.get (Nh.SIG_IDX n) <
    150)) :=
  ⟨
  ⟨up, 0, 0, by decide +kernel⟩,
  ⟨((up.put (Nh.SIG_IDX 0) 150).put (Ld.NROWS 0) 1), 0, 0, by decide +kernel⟩,
  ⟨(up.put (Ld.NROWS 0) 1), 0, 0, by decide +kernel⟩,
  ⟨(up.modDev (fun d => { d with token := .can })), 0, .can, 0, by decide +kernel⟩,
  ⟨(((up.modDev (fun d => { d with token := .can })).put (Nh.SIG_IDX 0) 150).put (Ld.NROWS 0) 1), 0, .can, 0,
    by decide +kernel⟩,
  ⟨((up.modDev (fun d => { d with token := .can })).put (Ld.NROWS 0) 1), 0, .can, 0, by decide +kernel⟩,
  ⟨up, 0, 1, 0, by decide +kernel⟩,
  ⟨(up.modDev (fun d => { d with token := .can })), 0, 1, 0, .can, by decide +kernel⟩,
  ⟨up, 0, .can, by decide +kernel⟩,
  ⟨up, 0, by decide +kernel⟩⟩

theorem witness_StripsAreEnabledAndAnalysed :
  (∃ (s : State) (n : Ch), (s.rests = true) ∧ (s.chParked n = false) ∧ (s.inRun n = false) ∧ (0 < s.get (Nh.STRIP_P n)) ∧ (0 <
    s.get (Nh.STRIP_LEVEL n)) ∧ (s.barOpen = true) ∧ (s.holds .pcie = true) ∧ (s.get (Tr.MODE n) ≠ 2) ∧ (s.get (St.CU (s.get
    (Nh.STRIP_ST n))) = s.get (Tr.CU n))) ∧
  (∃ (s : State) (n : Ch) (p : Port), (s.rests = true) ∧ (s.chParked n = false) ∧ (s.inRun n = false) ∧ (0 < s.get (Nh.STRIP_P
    n)) ∧ (0 < s.get (Nh.STRIP_LEVEL n)) ∧ (s.serves p = true) ∧ (s.spDown = false) ∧ (s.holds p = true) ∧ (s.get (Tr.MODE n)
    ≠ 2) ∧ (s.get (St.CU (s.get (Nh.STRIP_ST n))) = s.get (Tr.CU n))) ∧
  (∃ (s : State) (n : Ch), (s.rests = true) ∧ (s.inRun n = false) ∧ (s.chParked n = false) ∧ (s.get (Tr.MODE n) = 2) ∧ (s.has
    (Nh.STRIP_EN n) = false) ∧ (0 < s.get (Nh.STRIP_P n)) ∧ (0 < s.get (Nh.STRIP_LEVEL n)) ∧ (s.barOpen = true) ∧ (s.holds
    .pcie = true)) ∧
  (∃ (s : State) (n : Ch) (p : Port), (s.rests = true) ∧ (s.inRun n = false) ∧ (s.chParked n = false) ∧ (s.get (Tr.MODE n) =
    2) ∧ (s.has (Nh.STRIP_EN n) = false) ∧ (0 < s.get (Nh.STRIP_P n)) ∧ (0 < s.get (Nh.STRIP_LEVEL n)) ∧ (s.serves p = true) ∧
    (s.spDown = false) ∧ (s.holds p = true)) ∧
  (∃ (s : State) (n : Ch), (s.rests = true) ∧ (s.pix.jobs.all (fun j => j.ch != (n : Nat)) = true)) ∧
  (∃ (s : State) (n : Ch) (j : StripJob), (s.rests = true) ∧ (s.pix.jobs = [j]) ∧ (j.ch = (n : Nat)) ∧ (s.bist.running =
    none)) :=
  ⟨
  ⟨up, 0, by decide +kernel⟩,
  ⟨(up.modDev (fun d => { d with token := .can })), 0, .can, by decide +kernel⟩,
  ⟨(up.put (Tr.MODE 0) 2), 0, by decide +kernel⟩,
  ⟨((up.put (Tr.MODE 0) 2).modDev (fun d => { d with token := .can })), 0, .can, by decide +kernel⟩,
  ⟨up, 0, by decide +kernel⟩,
  ⟨((fun (s : State) => { s with pix := { s.pix with jobs := [⟨0, 3, 0, 0, 0, [], []⟩] } }) (up)), 0,
    { ch := 0, s0 := 3, pos := 0x000000000000#48, ctx := 0, frame := 0, xs := [], lines := [] }, by decide +kernel⟩⟩

theorem witness_FramesOpenFillAndClose :
  (∃ (s : State) (tick : Tick), (s.rests = true) ∧ (s.inFlight = []) ∧ (s.bist.running = none) ∧ (s.pixLive = false) ∧ ((s.at
    tick).rests = true)) ∧
  (∃ (s : State) (p : Cam), (s.rests = true) ∧ (s.inFlight = []) ∧ (s.bist.running = none) ∧ (s.pixLive = true) ∧ (s.has
    (Ca.PORT_EN p) = true) ∧ (p.val < s.pix.ports.length)) ∧
  (∃ (s : State) (p : Cam) (vc : BitVec 2), (s.rests = true) ∧ (s.inFlight = []) ∧ (s.bist.running = none) ∧ (s.pixLive =
    true) ∧ (s.has (Ca.PORT_EN p) = true) ∧ (s.claim p vc.toNat = none)) ∧
  (∃ (s : State) (p : Cam) (vc : BitVec 2) (c : Ctx) (tick : Tick), (s.rests = true) ∧ (s.inFlight = []) ∧ (s.bist.running =
    none) ∧ (s.pixLive = true) ∧ (s.claim p vc.toNat = some c.val) ∧ ((s.at tick).rests = true) ∧ (s.openFrame c = none) ∧
    (s.get (Ca.MODE c) = 0)) ∧
  (∃ (s : State) (p : Cam) (vc : BitVec 2) (c : Ctx) (tick : Tick), (s.rests = true) ∧ (s.inFlight = []) ∧ (s.bist.running =
    none) ∧ (s.pixLive = true) ∧ (s.claim p vc.toNat = some c.val) ∧ ((s.at tick).rests = true) ∧ (s.openFrame c = none) ∧
    (s.get (Ca.MODE c) = 1) ∧ ((s.cam c).armed = false)) ∧
  (∃ (s : State) (p : Cam) (vc : BitVec 2) (c : Ctx), (s.rests = true) ∧ (s.inFlight = []) ∧ (s.bist.running = none) ∧
    (s.pixLive = true) ∧ (s.claim p vc.toNat = some c.val) ∧ (s.openFrame c = none)) ∧
  (∃ (s : State) (p : Cam) (vc : BitVec 2) (c : Ctx) (f : CamFrame) (tick : Tick), (s.rests = true) ∧ (s.inFlight = []) ∧
    (s.bist.running = none) ∧ (s.pixLive = true) ∧ (s.claim p vc.toNat = some c.val) ∧ ((s.cam c).frames = [f]) ∧ (f.isOpen =
    true) ∧ ((s.at tick).rests = true) ∧ (s.get (Ca.MODE c) = 0)) ∧
  (∃ (s : State) (p : Cam) (vc : BitVec 2) (c : Ctx) (f : CamFrame) (dt : BitVec 6) (b : List Byte), (s.rests = true) ∧
    (s.inFlight = []) ∧ (s.bist.running = none) ∧ (s.pixLive = true) ∧ (s.claim p vc.toNat = some c.val) ∧ ((s.cam c).frames =
    [f]) ∧ (f.isOpen = true) ∧ (dt.toNat = s.get (Ca.DT c)) ∧ (dt.toNat ∈ longTypes) ∧ (f.recv < s.get (Ca.LINES c)) ∧
    (b.length = wordCount dt.toNat (s.get (Ca.WIDTH c))) ∧ (fifoFill (s.camPort p).fifo + b.length ≤ fifoBytes)) ∧
  (∃ (s : State) (p : Cam) (vc : BitVec 2) (c : Ctx) (f : CamFrame) (dt : BitVec 6), (s.rests = true) ∧ (s.inFlight = []) ∧
    (s.bist.running = none) ∧ (s.pixLive = true) ∧ (s.claim p vc.toNat = some c.val) ∧ ((s.cam c).frames = [f]) ∧ (f.isOpen =
    true) ∧ (dt.toNat = s.get (Ca.DT c)) ∧ (dt.toNat ∈ longTypes) ∧ (s.get (Ca.LINES c) ≤ f.recv)) ∧
  (∃ (s : State) (p : Cam) (vc : BitVec 2) (c : Ctx) (f : CamFrame) (dt : BitVec 6), (s.rests = true) ∧ (s.inFlight = []) ∧
    (s.bist.running = none) ∧ (s.pixLive = true) ∧ (s.claim p vc.toNat = some c.val) ∧ ((s.cam c).frames = [f]) ∧ (f.isOpen =
    true) ∧ (dt.toNat ≠ s.get (Ca.DT c)) ∧ (dt.toNat ∈ longTypes) ∧ (f.recv < s.get (Ca.LINES c))) ∧
  (∃ (s : State) (p : Cam) (vc : BitVec 2) (c : Ctx) (f : CamFrame) (dt : BitVec 6), (s.rests = true) ∧ (s.inFlight = []) ∧
    (s.bist.running = none) ∧ (s.pixLive = true) ∧ (s.claim p vc.toNat = some c.val) ∧ ((s.cam c).frames = [f]) ∧ (f.isOpen =
    true) ∧ (¬(dt.toNat ∈ longTypes))) :=
  ⟨
  ⟨up, 5, by decide +kernel⟩,
  ⟨((fun (s : State) => (fun (u : State) => { u with pix := { u.pix with on := true, ready := true } }) (s.put (Ca.PORT_EN 0)
    1)) (up)), 0, by decide +kernel⟩,
  ⟨((fun (s : State) => (fun (u : State) => { u with pix := { u.pix with on := true, ready := true } }) (s.put (Ca.PORT_EN 0)
    1)) (up)), 0, 0, by decide +kernel⟩,
  ⟨(((fun (s : State) => (fun (u : State) => { u with pix := { u.pix with on := true, ready := true } }) (((((s.put
    (Ca.PORT_EN 0) 1).put (Ca.EN 0) 1).put (Ca.LINES 0) 10).put (Ca.DT 0) 0x24).modCam 0 (fun c =>
    { c with frames := [⟨0, 0, 0, 0, 0, 0, ⟨[0, 0, 0], [0x1000, 0x1000, 0x1000], [0x1000, 0, 0, 0, 0x1000, 0, 0, 0, 0x1000], 0⟩, true, false, false⟩] })))
    (up)).modCam 0 (fun c =>
    { c with frames := [⟨0, 0, 0, 0, 0, 0, ⟨[0, 0, 0], [0x1000, 0x1000, 0x1000], [0x1000, 0, 0, 0, 0x1000, 0, 0, 0, 0x1000], 0⟩, false, false, false⟩] })),
    0, 0, 0, 5, by decide +kernel⟩,
  ⟨((((fun (s : State) => (fun (u : State) => { u with pix := { u.pix with on := true, ready := true } }) (((((s.put
    (Ca.PORT_EN 0) 1).put (Ca.EN 0) 1).put (Ca.LINES 0) 10).put (Ca.DT 0) 0x24).modCam 0 (fun c =>
    { c with frames := [⟨0, 0, 0, 0, 0, 0, ⟨[0, 0, 0], [0x1000, 0x1000, 0x1000], [0x1000, 0, 0, 0, 0x1000, 0, 0, 0, 0x1000], 0⟩, true, false, false⟩] })))
    (up)).modCam 0 (fun c =>
    { c with frames := [⟨0, 0, 0, 0, 0, 0, ⟨[0, 0, 0], [0x1000, 0x1000, 0x1000], [0x1000, 0, 0, 0, 0x1000, 0, 0, 0, 0x1000], 0⟩, false, false, false⟩] })).put
    (Ca.MODE 0) 1), 0, 0, 0, 5, by decide +kernel⟩,
  ⟨(((fun (s : State) => (fun (u : State) => { u with pix := { u.pix with on := true, ready := true } }) (((((s.put
    (Ca.PORT_EN 0) 1).put (Ca.EN 0) 1).put (Ca.LINES 0) 10).put (Ca.DT 0) 0x24).modCam 0 (fun c =>
    { c with frames := [⟨0, 0, 0, 0, 0, 0, ⟨[0, 0, 0], [0x1000, 0x1000, 0x1000], [0x1000, 0, 0, 0, 0x1000, 0, 0, 0, 0x1000], 0⟩, true, false, false⟩] })))
    (up)).modCam 0 (fun c =>
    { c with frames := [⟨0, 0, 0, 0, 0, 0, ⟨[0, 0, 0], [0x1000, 0x1000, 0x1000], [0x1000, 0, 0, 0, 0x1000, 0, 0, 0, 0x1000], 0⟩, false, false, false⟩] })),
    0, 0, 0, by decide +kernel⟩,
  ⟨((fun (s : State) => (fun (u : State) => { u with pix := { u.pix with on := true, ready := true } }) (((((s.put (Ca.PORT_EN
    0) 1).put (Ca.EN 0) 1).put (Ca.LINES 0) 10).put (Ca.DT 0) 0x24).modCam 0 (fun c =>
    { c with frames := [⟨0, 0, 0, 0, 0, 0, ⟨[0, 0, 0], [0x1000, 0x1000, 0x1000], [0x1000, 0, 0, 0, 0x1000, 0, 0, 0, 0x1000], 0⟩, true, false, false⟩] })))
    (up)), 0, 0, 0,
    { id := 0, flags := 0, recv := 0, inPipe := 0, pos := 0x000000000000#48, tb := 0, bank := { bl := [0, 0, 0], gain := [4096, 4096, 4096], mtx := [4096, 0, 0, 0, 4096, 0, 0, 0, 4096], en := 0 }, isOpen := true, badBank := false, void := false },
    5, by decide +kernel⟩,
  ⟨((((fun (s : State) => (fun (u : State) => { u with pix := { u.pix with on := true, ready := true } }) (((((s.put
    (Ca.PORT_EN 0) 1).put (Ca.EN 0) 1).put (Ca.LINES 0) 10).put (Ca.DT 0) 0x24).modCam 0 (fun c =>
    { c with frames := [⟨0, 0, 0, 0, 0, 0, ⟨[0, 0, 0], [0x1000, 0x1000, 0x1000], [0x1000, 0, 0, 0, 0x1000, 0, 0, 0, 0x1000], 0⟩, true, false, false⟩] })))
    (up)).put (Ca.DT 0) (0x2A)).put (Ca.WIDTH 0) 8), 0, 0, 0,
    { id := 0, flags := 0, recv := 0, inPipe := 0, pos := 0x000000000000#48, tb := 0, bank := { bl := [0, 0, 0], gain := [4096, 4096, 4096], mtx := [4096, 0, 0, 0, 4096, 0, 0, 0, 4096], en := 0 }, isOpen := true, badBank := false, void := false },
    42, (List.replicate 8 0), by decide +kernel⟩,
  ⟨((((fun (s : State) => (fun (u : State) => { u with pix := { u.pix with on := true, ready := true } }) (((((s.put
    (Ca.PORT_EN 0) 1).put (Ca.EN 0) 1).put (Ca.LINES 0) 10).put (Ca.DT 0) 0x24).modCam 0 (fun c =>
    { c with frames := [⟨0, 0, 0, 0, 0, 0, ⟨[0, 0, 0], [0x1000, 0x1000, 0x1000], [0x1000, 0, 0, 0, 0x1000, 0, 0, 0, 0x1000], 0⟩, true, false, false⟩] })))
    (up)).put (Ca.DT 0) (0x2A)).put (Ca.LINES 0) 0), 0, 0, 0,
    { id := 0, flags := 0, recv := 0, inPipe := 0, pos := 0x000000000000#48, tb := 0, bank := { bl := [0, 0, 0], gain := [4096, 4096, 4096], mtx := [4096, 0, 0, 0, 4096, 0, 0, 0, 4096], en := 0 }, isOpen := true, badBank := false, void := false },
    42, by decide +kernel⟩,
  ⟨((fun (s : State) => (fun (u : State) => { u with pix := { u.pix with on := true, ready := true } }) (((((s.put (Ca.PORT_EN
    0) 1).put (Ca.EN 0) 1).put (Ca.LINES 0) 10).put (Ca.DT 0) 0x24).modCam 0 (fun c =>
    { c with frames := [⟨0, 0, 0, 0, 0, 0, ⟨[0, 0, 0], [0x1000, 0x1000, 0x1000], [0x1000, 0, 0, 0, 0x1000, 0, 0, 0, 0x1000], 0⟩, true, false, false⟩] })))
    (up)), 0, 0, 0,
    { id := 0, flags := 0, recv := 0, inPipe := 0, pos := 0x000000000000#48, tb := 0, bank := { bl := [0, 0, 0], gain := [4096, 4096, 4096], mtx := [4096, 0, 0, 0, 4096, 0, 0, 0, 4096], en := 0 }, isOpen := true, badBank := false, void := false },
    42, by decide +kernel⟩,
  ⟨((fun (s : State) => (fun (u : State) => { u with pix := { u.pix with on := true, ready := true } }) (((((s.put (Ca.PORT_EN
    0) 1).put (Ca.EN 0) 1).put (Ca.LINES 0) 10).put (Ca.DT 0) 0x24).modCam 0 (fun c =>
    { c with frames := [⟨0, 0, 0, 0, 0, 0, ⟨[0, 0, 0], [0x1000, 0x1000, 0x1000], [0x1000, 0, 0, 0, 0x1000, 0, 0, 0, 0x1000], 0⟩, true, false, false⟩] })))
    (up)), 0, 0, 0,
    { id := 0, flags := 0, recv := 0, inPipe := 0, pos := 0x000000000000#48, tb := 0, bank := { bl := [0, 0, 0], gain := [4096, 4096, 4096], mtx := [4096, 0, 0, 0, 4096, 0, 0, 0, 4096], en := 0 }, isOpen := true, badBank := false, void := false },
    0, by decide +kernel⟩⟩

theorem witness_LinesLeaveThePipeline :
  (∃ (s : State), (s.rests = true) ∧ (s.bist.running = none) ∧ (s.pipePort = none)) ∧
  (∃ (s : State), (s.rests = true) ∧ (s.bist.running = none) ∧ (s.pixLive = false)) ∧
  (∃ (s : State) (p : Cam) (l : CamLine) (rest : List CamLine) (ofs : Nat), (s.rests = true) ∧ (s.bist.running = none) ∧
    (s.pixLive = true) ∧ (s.pipePort = some p.val) ∧ ((s.camPort p).fifo = l :: rest) ∧ (l.ctx < 4) ∧ (ofs < 0x40000)) ∧
  (∃ (s : State) (p : Cam) (l : CamLine) (rest : List CamLine) (f : CamFrame) (ofs : Nat), (s.rests = true) ∧ (s.bist.running
    = none) ∧ (s.pixLive = true) ∧ (s.pipePort = some p.val) ∧ ((s.camPort p).fifo = l :: rest) ∧ (l.ctx < 4) ∧ ((s.cam
    l.ctx).frames = [f]) ∧ (f.id = l.frame) ∧ (f.void = false) ∧ (0x40000 ≤ ofs)) ∧
  (∃ (s : State) (c : Ctx), (s.rests = true) ∧ (s.bist.running = none) ∧ ((s.cam c).frames = [])) ∧
  (∃ (s : State) (c : Ctx) (f : CamFrame) (rest : List CamFrame), (s.rests = true) ∧ (s.bist.running = none) ∧ ((s.cam
    c).frames = f :: rest) ∧ ((f.isOpen = true ∨ f.inPipe ≠ 0))) ∧
  (∃ (s : State) (c : Ctx) (f : CamFrame) (rest : List CamFrame), (s.rests = true) ∧ (s.bist.running = none) ∧ ((s.cam
    c).frames = f :: rest) ∧ (f.isOpen = false) ∧ (f.inPipe = 0) ∧ (s.pixLive = true) ∧ (s.has (Ca.TO_CL c) = false)) ∧
  (∃ (bk : Bank) (a : Nat) (b : Nat) (c : Nat), (bk.bl = [0, 0, 0]) ∧ (bk.gain = [0x1000, 0x1000, 0x1000]) ∧ (bk.mtx =
    [0x1000, 0, 0, 0, 0x1000, 0, 0, 0, 0x1000]) ∧ (bk.en = 0) ∧ (a ≤ 4095) ∧ (b ≤ 4095) ∧ (c ≤ 4095)) ∧
  (∃ (bk : Bank), (bk.en = 0)) ∧
  (∃ (t : List Nat), (t.all (fun x => x ≤ 4095) = true)) ∧
  (∃ (v : Nat), (v % 4 = 0) ∧ (v / 4 ≤ 1023)) :=
  ⟨
  ⟨up, by decide +kernel⟩,
  ⟨up, by decide +kernel⟩,
  ⟨((fun (s : State) => (fun (u : State) =>
    { u with pix := { u.pix with ports := [⟨[⟨0, 0, 0, 0x2A, []⟩], true, 500, true, false⟩, ⟨[], false, 0, false, false⟩] } })
    ((fun (u : State) => { u with pix := { u.pix with on := true, ready := true } }) (s.put (Ca.PORT_EN 0) 1))) (up)), 0,
    { ctx := 0, frame := 0, no := 0, dt := 42, bytes := [] }, [], 5, by decide +kernel⟩,
  ⟨(((fun (s : State) => (fun (u : State) =>
    { u with pix := { u.pix with ports := [⟨[⟨0, 0, 0, 0x2A, []⟩], true, 500, true, false⟩, ⟨[], false, 0, false, false⟩] } })
    ((fun (u : State) => { u with pix := { u.pix with on := true, ready := true } }) (s.put (Ca.PORT_EN 0) 1))) (up)).modCam 0
    (fun c =>
    { c with frames := [⟨0, 0, 0, 0, 0, 0, ⟨[0, 0, 0], [0x1000, 0x1000, 0x1000], [0x1000, 0, 0, 0, 0x1000, 0, 0, 0, 0x1000], 0⟩, true, false, false⟩] })),
    0, { ctx := 0, frame := 0, no := 0, dt := 42, bytes := [] }, [],
    { id := 0, flags := 0, recv := 0, inPipe := 0, pos := 0x000000000000#48, tb := 0, bank := { bl := [0, 0, 0], gain := [4096, 4096, 4096], mtx := [4096, 0, 0, 0, 4096, 0, 0, 0, 4096], en := 0 }, isOpen := true, badBank := false, void := false },
    101253168, by decide +kernel⟩,
  ⟨up, 0, by decide +kernel⟩,
  ⟨(up.modCam 0 (fun c =>
    { c with frames := [⟨0, 0, 0, 0, 0, 0, ⟨[0, 0, 0], [0x1000, 0x1000, 0x1000], [0x1000, 0, 0, 0, 0x1000, 0, 0, 0, 0x1000], 0⟩, true, false, false⟩] })),
    0,
    { id := 0, flags := 0, recv := 0, inPipe := 0, pos := 0x000000000000#48, tb := 0, bank := { bl := [0, 0, 0], gain := [4096, 4096, 4096], mtx := [4096, 0, 0, 0, 4096, 0, 0, 0, 4096], en := 0 }, isOpen := true, badBank := false, void := false },
    [], by decide +kernel⟩,
  ⟨(((fun (s : State) => (fun (u : State) => { u with pix := { u.pix with on := true, ready := true } }) (s.put (Ca.PORT_EN 0)
    1)) (up.modCam 0 (fun c =>
    { c with frames := [⟨0, 0, 0, 0, 0, 0, ⟨[0, 0, 0], [0x1000, 0x1000, 0x1000], [0x1000, 0, 0, 0, 0x1000, 0, 0, 0, 0x1000], 0⟩, false, false, false⟩] }))).put
    (Ca.TO_CL 0) 0), 0,
    { id := 0, flags := 0, recv := 0, inPipe := 0, pos := 0x000000000000#48, tb := 0, bank := { bl := [0, 0, 0], gain := [4096, 4096, 4096], mtx := [4096, 0, 0, 0, 4096, 0, 0, 0, 4096], en := 0 }, isOpen := false, badBank := false, void := false },
    [], by decide +kernel⟩,
  ⟨⟨[0, 0, 0], [0x1000, 0x1000, 0x1000], [0x1000, 0, 0, 0, 0x1000, 0, 0, 0, 0x1000], 0⟩, 5, 5, 5, by decide +kernel⟩,
  ⟨⟨[0, 0, 0], [0x1000, 0x1000, 0x1000], [0x1000, 0, 0, 0, 0x1000, 0, 0, 0, 0x1000], 0⟩, by decide +kernel⟩,
  ⟨[1, 2], by decide +kernel⟩,
  ⟨0, by decide +kernel⟩⟩

theorem witness_CameraControlsComplete :
  (∃ (s : State) (c : Ctx), (s.rests = true) ∧ (s.bist.running = none) ∧ (s.get (Ca.TIMEOUT c) = 0)) ∧
  (∃ (s : State) (c : Ctx), (s.rests = true) ∧ (s.bist.running = none) ∧ (s.get (Ca.TIMEOUT c) ≠ 0)) ∧
  (∃ (s : State) (c : Ctx) (p : Port), (s.rests = true) ∧ (s.bist.running = none) ∧ (s.serves p = true) ∧ (s.spDown = false) ∧
    (s.holds p = true) ∧ (s.has (Ca.EN c) = true)) ∧
  (∃ (s : State) (c : Ctx) (p : Port), (s.rests = true) ∧ (s.bist.running = none) ∧ (s.serves p = true) ∧ (s.spDown = false) ∧
    (s.holds p = true) ∧ (s.has (Ca.EN c) = false)) ∧
  (∃ (s : State) (c : Ctx) (p : Port) (v : BitVec 16), (s.rests = true) ∧ (s.bist.running = none) ∧ (s.serves p = true) ∧
    (s.spDown = false) ∧ (s.holds p = true) ∧ (v.toNat ≤ 4095) ∧ (s.has (Ca.EN c) = false)) ∧
  (∃ (s : State) (c : Ctx) (p : Port) (v : BitVec 16), (s.rests = true) ∧ (s.bist.running = none) ∧ (s.serves p = true) ∧
    (s.spDown = false) ∧ (s.holds p = true) ∧ (v.toNat ≤ 4095) ∧ (s.has (Ca.EN c) = true)) ∧
  (∃ (s : State) (p : Port) (v : BitVec 16), (s.rests = true) ∧ (s.bist.running = none) ∧ (s.serves p = true) ∧ (s.spDown =
    false) ∧ (s.holds p = true) ∧ (4095 < v.toNat)) ∧
  (∃ (s : State) (p : Cam) (tick : Tick), (s.rests = true) ∧ (s.bist.running = none) ∧ ((s.at tick).rests = true) ∧
    ((s.camPort p).trig = true) ∧ ((s.camPort p).till ≤ max s.tb tick)) ∧
  (∃ (s : State) (p : Cam) (tick : Tick), (s.rests = true) ∧ (s.bist.running = none) ∧ ((s.at tick).rests = true) ∧
    ((s.camPort p).trig = false ∨ max s.tb tick < (s.camPort p).till)) ∧
  (∃ (s : State) (p : Cam), (s.rests = true) ∧ (s.bist.running = none) ∧ (s.pixLive = true) ∧ (s.has (Ca.PORT_EN p) = true) ∧
    ((∀ c : Ctx, (s.cam c).frames = []))) ∧
  (∃ (s : State) (p : Cam), (s.rests = true) ∧ (s.bist.running = none) ∧ (s.has (Ca.PORT_EN p) = false)) ∧
  (∃ (s : State) (p : Port), (s.rests = true) ∧ (s.bist.running = none) ∧ (s.serves p = true) ∧ (s.spDown = false) ∧ (s.holds
    p = true) ∧ (s.snapSize ≤ 262144)) ∧
  (∃ (s : State) (p : Port), (s.rests = true) ∧ (s.bist.running = none) ∧ (s.serves p = true) ∧ (s.spDown = false) ∧ (s.holds
    p = true) ∧ (262144 < s.snapSize)) ∧
  (∃ (s : State) (p : Port), (s.rests = true) ∧ (s.bist.running = none) ∧ (s.serves p = true) ∧ (s.spDown = false) ∧ (s.holds
    p = true) ∧ (s.pix.snap.armed = false)) ∧
  (∃ (s : State) (p : Port), (s.rests = true) ∧ (s.bist.running = none) ∧ (s.serves p = true) ∧ (s.spDown = false) ∧ (s.holds
    p = true) ∧ (s.pix.snap.armed = true)) ∧
  (∃ (s : State) (p : Port) (v : Byte), (s.rests = true) ∧ (s.bist.running = none) ∧ (s.serves p = true) ∧ (s.spDown = false)
    ∧ (s.holds p = true) ∧ (1 < v.toNat)) ∧
  (∃ (s : State), (s.rests = true) ∧ (s.bist.running = none) ∧ (s.pix.on = true)) ∧
  (∃ (s : State), (s.rests = true) ∧ (s.bist.running = none) ∧ (s.pix.on = false)) :=
  ⟨
  ⟨(up.put (Ca.TIMEOUT 0) 0), 0, by decide +kernel⟩,
  ⟨up, 0, by decide +kernel⟩,
  ⟨((up.modDev (fun d => { d with token := .can })).put (Ca.EN 0) 1), 0, .can, by decide +kernel⟩,
  ⟨(up.modDev (fun d => { d with token := .can })), 0, .can, by decide +kernel⟩,
  ⟨(up.modDev (fun d => { d with token := .can })), 0, .can, 0, by decide +kernel⟩,
  ⟨((up.modDev (fun d => { d with token := .can })).put (Ca.EN 0) 1), 0, .can, 0, by decide +kernel⟩,
  ⟨(up.modDev (fun d => { d with token := .can })), .can, 4096, by decide +kernel⟩,
  ⟨((fun (s : State) =>
    { s with pix := { s.pix with ports := [⟨[⟨0, 0, 0, 0x2A, []⟩], true, 500, true, false⟩, ⟨[], false, 0, false, false⟩] } })
    (up)), 0, 4120, by decide +kernel⟩,
  ⟨up, 0, 5, by decide +kernel⟩,
  ⟨((fun (s : State) => (fun (u : State) => { u with pix := { u.pix with on := true, ready := true } }) (s.put (Ca.PORT_EN 0)
    1)) (up)), 0, by decide +kernel⟩,
  ⟨up, 0, by decide +kernel⟩,
  ⟨(up.modDev (fun d => { d with token := .can })), .can, by decide +kernel⟩,
  ⟨(((up.modDev (fun d => { d with token := .can })).put Ca.SN_LINES 2000).put (Ca.WIDTH 0) 1000), .can, by decide +kernel⟩,
  ⟨(up.modDev (fun d => { d with token := .can })), .can, by decide +kernel⟩,
  ⟨((fun (s : State) => { s with pix := { s.pix with snap := { s.pix.snap with armed := true } } }) (up.modDev (fun d =>
    { d with token := .can }))), .can, by decide +kernel⟩,
  ⟨(up.modDev (fun d => { d with token := .can })), .can, 2, by decide +kernel⟩,
  ⟨((fun (s : State) => (fun (u : State) => { u with pix := { u.pix with on := true, ready := true } }) (s.put (Ca.PORT_EN 0)
    1)) (up)), by decide +kernel⟩,
  ⟨up, by decide +kernel⟩⟩

theorem witness_SamplesAreTaken :
  (∃ (s : State) (m : Thi) (c : Conv) (tick : Tick), ((s.at tick).rests = true) ∧ (s.sampleOf m c = none)) ∧
  (∃ (s : State) (m : Thi) (c : Conv) (tick : Tick) (code : Int), ((s.at tick).rests = true) ∧ ((s.at tick).sampleOf m c =
    some (.good code)) ∧ (s.has (Th.BROKEN m) = false) ∧ (s.has (Th.FAST m) = false) ∧ (code < 8192) ∧ (-5120 ≤ code)) ∧
  (∃ (s : State) (m : Thi) (c : Conv) (tick : Tick) (d : Nat), ((s.at tick).rests = true) ∧ ((s.at tick).sampleOf m c = some
    (.bad d)) ∧ (d < 4) ∧ (s.has (Th.BROKEN m) = false) ∧ ((s.th[m]).oor < 7)) ∧
  (∃ (s : State) (m : Thi) (c : Conv) (tick : Tick) (d : Nat), ((s.at tick).rests = true) ∧ ((s.at tick).sampleOf m c = some
    (.bad d)) ∧ (d < 4) ∧ (s.has (Th.BROKEN m) = false) ∧ ((s.th[m]).oor = 7) ∧ (isHead m = false)) ∧
  (∃ (s : State), (s.rests = true)) :=
  ⟨
  ⟨up, 0, (.ntc 30000), 5, by decide +kernel⟩,
  ⟨(up.put (Th.TYPE 0) 1), 0, (.diode 600000 659150), 0, (3198), by decide +kernel⟩,
  ⟨(up.put (Th.TYPE 0) 1), 0, (.diode 0 0), 0, 2, by decide +kernel⟩,
  ⟨((up.put (Th.TYPE 8) 1).modTh 8 (fun c => { c with oor := 7 })), 8, (.diode 0 0), 0, 2, by decide +kernel⟩,
  ⟨up, by decide +kernel⟩⟩

theorem witness_TripHoldsAndReleases :
  (∃ (s : State) (m : Thi), (isHead m = true) ∧ (s.has (Cc.HELD (headCh m)) = true)) ∧
  (∃ (s : State) (m : Thi), (isHead m = true) ∧ (s.safeNow = true) ∧ (bit (s.get Su.SAFE_COND) 0 = true)) ∧
  (∃ (s : State) (m : Thi), (isHead m = true) ∧ (s.has (Cc.HELD (headCh m)) = false) ∧ ((s.safeNow && bit (s.get Su.SAFE_COND)
    0) = false) ∧ (s.pcie.on = true) ∧ (s.pcie.perst = false)) ∧
  (∃ (s : State) (m : Thi), (isHead m = true) ∧ (s.has (Cc.HELD (headCh m)) = false) ∧ ((s.safeNow && bit (s.get Su.SAFE_COND)
    0) = false) ∧ (let earlier := ((s.th[m]).trips.filter (fun x => s.tb ≤ x + 5760000000000)).length; (earlier < 2))) ∧
  (∃ (s : State) (m : Thi), (isHead m = true) ∧ (s.has (Cc.HELD (headCh m)) = false) ∧ ((s.safeNow && bit (s.get Su.SAFE_COND)
    0) = false) ∧ (let earlier := ((s.th[m]).trips.filter (fun x => s.tb ≤ x + 5760000000000)).length; (2 ≤ earlier) ∧
    (s.safeNow = false) ∧ ((s.dev.commit.all (fun x => x.cyc != cycleOf s.tb)) = true) ∧ ((s.chSt (headCh m) = .idle ∨ s.chSt
    (headCh m) = .run ∨ s.chSt (headCh m) = .stopping ∨ s.chSt (headCh m) = .readmitting)))) ∧
  (∃ (s : State) (n : Ch) (m : Thi) (tick : Tick) (k : Nat) (c : Nat), ((s.at tick).rests = true) ∧ ((m : Nat) = n) ∧
    (s.boundaryDue n = some k) ∧ (s.has (Cc.HELD n) = true) ∧ ((s.th[m]).restart = some c) ∧ (c < cycleOf (max s.tb tick))) ∧
  (∃ (s : State) (n : Ch) (m : Thi) (tick : Tick) (k : Nat), ((s.at tick).rests = true) ∧ ((m : Nat) = n) ∧ (s.boundaryDue n =
    some k) ∧ (s.has (Cc.HELD n) = true) ∧ ((∀ c : Nat, (s.th[m]).restart = some c → cycleOf (max s.tb tick) ≤ c))) ∧
  (∃ (code : Int), (7680 ≤ code)) ∧
  (∃ (s : State) (m : Thi) (code : Int), (code < 7680) ∧ ((s.th[m]).dwell0 = none)) ∧
  (∃ (s : State) (m : Thi) (code : Int) (t0 : Nat), (code < 7680) ∧ ((s.th[m]).dwell0 = some t0) ∧ (isHead m = true) ∧ (s.has
    (Cc.HELD (headCh m)) = true) ∧ ((s.th[m]).restart = none)) ∧
  (∃ (band : Nat) (code : Int), (band ≤ 15) ∧ (code ≤ 8960 - 128 * band)) ∧
  (∃ (band : Nat) (code : Int), (band ≤ 15) ∧ (0 < band) ∧ (8960 ≤ code)) ∧
  (∃ (band : Nat) (code : Int) (code' : Int), (band ≤ 15) ∧ (code ≤ code')) ∧
  (∃ (s : State) (drive : Bool), (s.rests = true) ∧ (s.dev.dieHot = (!drive, drive))) ∧
  (∃ (s : State), (s.rests = true) ∧ (s.dev.dieHot = (true, true))) ∧
  (∃ (s : State) (m : Thi) (type : BitVec 2), (s.rests = true) ∧ ((isHead m = true → s.inRun (headCh m) = false)) ∧ (s.barOpen
    = true) ∧ (s.holds .pcie = true) ∧ (type = 3)) ∧
  (∃ (s : State) (m : Thi) (type : BitVec 2), (s.rests = true) ∧ ((isHead m = true → s.inRun (headCh m) = false)) ∧ (s.barOpen
    = true) ∧ (s.holds .pcie = true) ∧ (type ≠ 3) ∧ (s.get (Th.TYPE m) ≠ type.toNat)) ∧
  (∃ (s : State) (m : Thi) (type : BitVec 2), (s.rests = true) ∧ ((isHead m = true → s.inRun (headCh m) = false)) ∧ (s.barOpen
    = true) ∧ (s.holds .pcie = true) ∧ (type ≠ 3) ∧ (s.get (Th.TYPE m) = type.toNat)) ∧
  (∃ (s : State) (m : Thi) (type : BitVec 2) (p : Port), (s.rests = true) ∧ ((isHead m = true → s.inRun (headCh m) = false)) ∧
    (s.serves p = true) ∧ (s.spDown = false) ∧ (s.holds p = true) ∧ (type = 3)) ∧
  (∃ (s : State) (m : Thi) (type : BitVec 2) (p : Port), (s.rests = true) ∧ ((isHead m = true → s.inRun (headCh m) = false)) ∧
    (s.serves p = true) ∧ (s.spDown = false) ∧ (s.holds p = true) ∧ (type ≠ 3) ∧ (s.get (Th.TYPE m) ≠ type.toNat)) ∧
  (∃ (s : State) (m : Thi) (type : BitVec 2) (p : Port), (s.rests = true) ∧ ((isHead m = true → s.inRun (headCh m) = false)) ∧
    (s.serves p = true) ∧ (s.spDown = false) ∧ (s.holds p = true) ∧ (type ≠ 3) ∧ (s.get (Th.TYPE m) = type.toNat)) :=
  ⟨
  ⟨(up.put (Cc.HELD 0) 1), 0, by decide +kernel⟩,
  ⟨(up.modDev (fun d => { d with safe := true, safeAt := some 0 }) |>.put Su.SAFE_COND 1), 0, by decide +kernel⟩,
  ⟨up, 0, by decide +kernel⟩,
  ⟨up, 0, by decide +kernel⟩,
  ⟨(up.modTh 0 (fun c => { c with trips := [0, 0] })), 0, by decide +kernel⟩,
  ⟨(((up.put (Cc.HELD 0) 1).modTh 0 (fun c => { c with restart := some 0 })).modCh 0 (fun c =>
    { c with st := .run, trav := { c.trav with st := .running, next := 5, first := 5 }, store := { c.store with bNext := some 5 } })),
    0, 0, 1920, 5, 0, by decide +kernel⟩,
  ⟨((up.modCh 0 (fun c =>
    { c with st := .run, trav := { c.trav with st := .running, next := 5, first := 5, sched := [⟨5, 1000, .pred⟩] }, store := { c.store with bNext := some 6, entered := some 5 }, lines := [{ Line.stub 5 with encoded := true }] })).put
    (Cc.HELD 0) 1), 0, 0, 5, 6, by decide +kernel⟩,
  ⟨9000, by decide +kernel⟩,
  ⟨up, 0, 0, by decide +kernel⟩,
  ⟨((up.put (Cc.HELD (headCh 0)) 1).modTh 0 (fun c => { c with dwell0 := some 0 })), 0, 0, 0, by decide +kernel⟩,
  ⟨5, 0, by decide +kernel⟩,
  ⟨5, 9000, by decide +kernel⟩,
  ⟨5, 0, 0, by decide +kernel⟩,
  ⟨(up.modDev (fun d => { d with dieHot := (true, false) })), false, by decide +kernel⟩,
  ⟨(up.modDev (fun d => { d with dieHot := (true, true) })), by decide +kernel⟩,
  ⟨up, 0, 3, by decide +kernel⟩,
  ⟨up, 0, 1, by decide +kernel⟩,
  ⟨up, 0, 0, by decide +kernel⟩,
  ⟨(up.modDev (fun d => { d with token := .can })), 0, 3, .can, by decide +kernel⟩,
  ⟨(up.modDev (fun d => { d with token := .can })), 0, 1, .can, by decide +kernel⟩,
  ⟨(up.modDev (fun d => { d with token := .can })), 0, 0, .can, by decide +kernel⟩⟩

theorem witness_DmaSetsAndGrants :
  (∃ (s : State) (d : Dch), (s.rests = true) ∧ (s.granting = none) ∧ ((s.dma[d]).owed = []) ∧ (s.barOpen = true) ∧ (s.holds
    .pcie = true) ∧ (s.has (Dm.SHADOW_ARM d) = false) ∧ (s.armErr d = 0)) ∧
  (∃ (s : State) (d : Dch), (s.rests = true) ∧ (s.granting = none) ∧ ((s.dma[d]).owed = []) ∧ (s.barOpen = true) ∧ (s.holds
    .pcie = true) ∧ (s.has (Dm.SHADOW_ARM d) = false) ∧ (s.armErr d ≠ 0)) ∧
  (∃ (s : State) (d : Dch), (s.rests = true) ∧ (s.granting = none) ∧ ((s.dma[d]).owed = []) ∧ (s.has (Dm.SHADOW_ARM d) = true)
    ∧ ((s.dma[d]).act = false) ∧ ((s.dma[d]).xf = []) ∧ (¬(s.get (Dm.MODE d) = 0 ∧ s.has (Dm.ENDEN d) = true ∧ s.get
    (Dm.RD_CNT d) = s.get (Dm.SH_END d)))) ∧
  (∃ (s : State) (d : Dch), (s.rests = true) ∧ (s.granting = none) ∧ ((s.dma[d]).owed = []) ∧ (s.has (Dm.SHADOW_ARM d) = false
    ∨ (s.dma[d]).act = true)) ∧
  (∃ (s : State), (s.rests = true) ∧ (s.granting = none) ∧ (s.dmaHost = false)) ∧
  (∃ (s : State), (s.rests = true) ∧ (s.granting = none) ∧ ((∀ d : Dch, s.dmaWants d = false))) ∧
  (∃ (s : State) (d : Dch) (l : Nat) (src : Nat) (ea : Nat) (last : Bool), (s.rests = true) ∧ (s.granting = none) ∧ (s.dmaHost
    = true) ∧ (((List.range 16).map (fun i => (Fin.ofNat 16 (s.get Hid.DMA_LAST + 1 + i) : Dch))).find? (fun e => s.dmaWants
    e) = some d) ∧ (s.dmaOpenXfer d = none) ∧ (s.dmaReady d = some (l, src, ea, last)) ∧ ((s.dmaDst d = 8 → s.dmaDofs d + l ≤
    spVisible))) :=
  ⟨
  ⟨up, 0, by decide +kernel⟩,
  ⟨(up.modDma 0 (fun c => { c with act := true })), 1, by decide +kernel⟩,
  ⟨(up.put (Dm.SHADOW_ARM 0) 1), 0, by decide +kernel⟩,
  ⟨up, 0, by decide +kernel⟩,
  ⟨State.reset, by decide +kernel⟩,
  ⟨up, by decide +kernel⟩,
  ⟨(((((up.put (Dm.EN 0) 1).put (Dm.ACT_CFG 0) (12 * 2 ^ 15 + 16)).put (Dm.OPEN 0) 1).put (Dm.WR_CNT 0) 64).modDma 0 (fun c =>
    { c with act := true })), 0, 16, 0, 0, false, by decide +kernel⟩⟩

theorem witness_DmaTransfersComplete :
  (∃ (s : State) (d : Dch) (x : Xfer) (a : Nat) (n : Nat) (t0 : Nat) (data : List Byte), (s.rests = true) ∧ (s.granting =
    none) ∧ ((s.dma[d]).owed = []) ∧ (s.dmaLink = true) ∧ ((s.dma[d]).junk = []) ∧ ((s.dma[d]).xf = [x]) ∧ (x.out = [(a, n,
    t0)]) ∧ (x.rem = 0) ∧ (x.fin = false) ∧ (data.length = n) ∧ (x.dst < 8) ∧ (x.swap = 0)) ∧
  (∃ (s : State) (d : Dch) (c : Instr) (x : Xfer) (rest : List Xfer), (s.rests = true) ∧ (s.granting = none) ∧
    ((s.dma[d]).owed = []) ∧ c ∈ [Instr.dmaReadError d, .dmaReadTimeout d] ∧ (s.dmaLink = true) ∧ ((s.dma[d]).junk = []) ∧
    ((s.dma[d]).xf = x :: rest) ∧ (x.out ≠ []) ∧ ((c = .dmaReadTimeout d → (s.at ((x.out.headD (x.src, 0, 0)).2.2 +
    s.ctoTicks)).rests = true))) ∧
  (∃ (s : State) (d : Dch) (r : Nat × Nat × Nat) (rest : List (Nat × Nat × Nat)) (data : List Byte), (s.rests = true) ∧
    (s.granting = none) ∧ ((s.dma[d]).owed = []) ∧ (s.dmaLink = true) ∧ ((s.dma[d]).junk = r :: rest) ∧ (data.length = r.2.1)) ∧
  (∃ (s : State) (d : Dch) (x : Xfer) (rest : List Xfer), (s.rests = true) ∧ (s.granting = none) ∧ ((s.dma[d]).owed = []) ∧
    ((s.dma[d]).xf = x :: rest) ∧ (x.fin = true) ∧ ((s.dma[d]).failing = 0)) ∧
  (∃ (s : State) (d : Dch) (addr : Nat) (len : Nat) (flags : Nat), (s.rests = true) ∧ (s.granting = none) ∧ ((s.dma[d]).owed =
    []) ∧ (s.dmaHost = true) ∧ ((s.dma[d]).act = true) ∧ (s.dmaMode d = 1) ∧ ((s.dma[d]).ent = none) ∧ ((s.dma[d]).ended =
    false) ∧ ((s.dma[d]).failing = 0) ∧ (s.get (Dm.ERR d) = 0) ∧ (addr % 8 = 0) ∧ (len % 8 = 0) ∧ (8 ≤ len) ∧ (len ≤ 16384) ∧
    (flags ≤ 1)) ∧
  (∃ (s : State) (d : Dch), (s.rests = true) ∧ (s.granting = none) ∧ ((s.dma[d]).owed = []) ∧ (s.dmaHost = true) ∧
    ((s.dma[d]).act = true) ∧ (s.dmaMode d = 1) ∧ ((s.dma[d]).ent = none) ∧ ((s.dma[d]).ended = false) ∧ ((s.dma[d]).failing =
    0) ∧ (s.get (Dm.ERR d) = 0) ∧ ((s.dma[d]).links < 3)) ∧
  (∃ (s : State) (d : Dch), (s.rests = true) ∧ (s.granting = none) ∧ ((s.dma[d]).owed = []) ∧ (s.dmaHost = true) ∧
    ((s.dma[d]).act = true) ∧ (s.dmaMode d = 1) ∧ ((s.dma[d]).ent = none) ∧ ((s.dma[d]).ended = false) ∧ ((s.dma[d]).failing =
    0) ∧ (s.get (Dm.ERR d) = 0) ∧ ((s.dma[d]).xf = [])) ∧
  (∃ (s : State) (d : Dch), (s.rests = true) ∧ (s.granting = none) ∧ ((s.dma[d]).owed = []) ∧ (s.dmaHost = true) ∧
    ((s.dma[d]).act = true) ∧ (s.dmaMode d = 1) ∧ ((s.dma[d]).ent = none) ∧ ((s.dma[d]).ended = false) ∧ ((s.dma[d]).failing =
    0) ∧ (s.get (Dm.ERR d) = 0) ∧ ((s.dma[d]).xf = [])) :=
  ⟨
  ⟨(up.modDma 0 (fun c => { c with xf := [⟨16, 8, 0, 0x1008, 0, [(0x1000, 8, 100)], false, 0, false, 0, 0, 0, false⟩] })), 0,
    { len := 16, got := 8, cred := 0, src := 4104, rem := 0, out := [(4096, 8, 100)], fin := false, ent := 0, last := false, dst := 0, swap := 0, dofs := 0, old := false },
    4096, 8, 100, (List.replicate 8 7), by decide +kernel⟩,
  ⟨(up.modDma 0 (fun c => { c with xf := [⟨16, 8, 0, 0x1008, 0, [(0x1000, 8, 100)], false, 0, false, 0, 0, 0, false⟩] })), 0,
    Instr.dmaReadError 0,
    { len := 16, got := 8, cred := 0, src := 4104, rem := 0, out := [(4096, 8, 100)], fin := false, ent := 0, last := false, dst := 0, swap := 0, dofs := 0, old := false },
    [], by decide +kernel⟩,
  ⟨(up.modDma 0 (fun c => { c with junk := [(0x1000, 8, 0)] })), 0, (4096, (8, 0)), [], (List.replicate 8 7),
    by decide +kernel⟩,
  ⟨(up.modDma 0 (fun c => { c with xf := [⟨16, 16, 0, 0x1010, 0, [], true, 0, false, 0, 0, 0, false⟩] })), 0,
    { len := 16, got := 16, cred := 0, src := 4112, rem := 0, out := [], fin := true, ent := 0, last := false, dst := 0, swap := 0, dofs := 0, old := false },
    [], by decide +kernel⟩,
  ⟨((up.modDma 0 (fun c => { c with act := true })).put (Dm.ACT_CFG 0) (2 ^ 30)), 0, 0, 8, 0, by decide +kernel⟩,
  ⟨((up.modDma 0 (fun c => { c with act := true })).put (Dm.ACT_CFG 0) (2 ^ 30)), 0, by decide +kernel⟩,
  ⟨((up.modDma 0 (fun c => { c with act := true })).put (Dm.ACT_CFG 0) (2 ^ 30)), 0, by decide +kernel⟩,
  ⟨((up.modDma 0 (fun c => { c with act := true })).put (Dm.ACT_CFG 0) (2 ^ 30)), 0, by decide +kernel⟩⟩

theorem witness_DmaControlsComplete :
  (∃ (s : State) (d : Dch), (s.rests = true) ∧ (s.granting = none) ∧ ((s.dma[d]).owed = []) ∧ (s.barOpen = true) ∧ (s.holds
    .pcie = true) ∧ (s.has (Dm.EN d) = false)) ∧
  (∃ (s : State) (d : Dch) (p : Port), (s.rests = true) ∧ (s.granting = none) ∧ ((s.dma[d]).owed = []) ∧ (s.serves p = true) ∧
    (s.spDown = false) ∧ (s.holds p = true) ∧ (s.has (Dm.EN d) = false)) ∧
  (∃ (s : State) (d : Dch) (v : Word), (s.rests = true) ∧ (s.granting = none) ∧ ((s.dma[d]).owed = []) ∧ (s.barOpen = true) ∧
    (s.holds .pcie = true) ∧ (v.toNat % 8 = 0) ∧ ((v.toNat + 2 ^ 32 - s.get (Dm.RD_CNT d)) % 2 ^ 32 ≤ s.wrBound d)) ∧
  (∃ (s : State) (d : Dch) (v : Word), (s.rests = true) ∧ (s.granting = none) ∧ ((s.dma[d]).owed = []) ∧ (s.barOpen = true) ∧
    (s.holds .pcie = true) ∧ (v.toNat % 8 ≠ 0)) ∧
  (∃ (s : State) (d : Dch), (s.rests = true) ∧ (s.granting = none) ∧ ((s.dma[d]).owed = []) ∧ (s.barOpen = true) ∧ (s.holds
    .pcie = true) ∧ (s.dmaState d = .idle ∨ s.dmaState d = .stopped ∨ s.dmaState d = .error)) ∧
  (∃ (s : State) (d : Dch) (v : Word), (s.rests = true) ∧ (s.granting = none) ∧ ((s.dma[d]).owed = []) ∧ (s.barOpen = true) ∧
    (s.holds .pcie = true) ∧ (s.dmaState d = .running) ∧ (v.toNat ≠ s.get (Dm.RD_CNT d))) ∧
  (∃ (s : State) (d : Dch) (v : Word), (s.rests = true) ∧ (s.granting = none) ∧ ((s.dma[d]).owed = []) ∧ (s.barOpen = true) ∧
    (s.holds .pcie = true) ∧ (s.dmaState d = .running) ∧ (v.toNat = s.get (Dm.RD_CNT d))) :=
  ⟨
  ⟨up, 0, by decide +kernel⟩,
  ⟨(up.modDev (fun d => { d with token := .can })), 0, .can, by decide +kernel⟩,
  ⟨up, 0, 0, by decide +kernel⟩,
  ⟨up, 0, 1, by decide +kernel⟩,
  ⟨up, 0, by decide +kernel⟩,
  ⟨((up.put (Dm.EN 0) 1).modDma 0 (fun c =>
    { c with xf := [⟨16, 8, 0, 0x1008, 0, [(0x1000, 8, 100)], false, 0, false, 0, 0, 0, false⟩] })), 0, 1, by decide +kernel⟩,
  ⟨((up.put (Dm.EN 0) 1).modDma 0 (fun c =>
    { c with xf := [⟨16, 8, 0, 0x1008, 0, [(0x1000, 8, 100)], false, 0, false, 0, 0, 0, false⟩] })), 0, 0, by decide +kernel⟩⟩

theorem witness_ScratchpadAndBackgroundTest :
  (∃ (s : State) (ofs : Nat) (lanes : List (Option Byte)) (c : Instr), (s.rests = true) ∧ (s.barOpen = false) ∧ c ∈
    [Instr.scratchpadWrite ofs lanes none, .setAliasWrite ofs lanes none, .clearAliasWrite ofs lanes none]) ∧
  (∃ (s : State) (ofs : Nat) (lanes : List (Option Byte)) (c : Instr), (s.rests = true) ∧ (s.barOpen = true) ∧ (reqFits ofs
    lanes.length = false) ∧ c ∈ [Instr.scratchpadWrite ofs lanes none, .setAliasWrite ofs lanes none, .clearAliasWrite ofs
    lanes none]) ∧
  (∃ (s : State) (ofs : Nat) (n : Nat), (s.rests = true) ∧ (s.barOpen = true) ∧ (ofs < spSize) ∧ (1 ≤ n) ∧ (reqFits ofs n =
    true) ∧ (s.parBad = []) ∧ (s.bist.running = none)) ∧
  (∃ (s : State) (ofs : Nat) (lanes : List (Option Byte)), (s.rests = true) ∧ (s.barOpen = true) ∧ (reqFits ofs lanes.length =
    true)) ∧
  (∃ (s : State) (a : Nat) (b : Nat), (s.rests = true) ∧ (s.barOpen = true) ∧ (a < spVisible) ∧ (b < spVisible) ∧
    (s.bist.running = none)) ∧
  (∃ (s : State), (s.rests = true) ∧ (s.has Me.BIST_EN = false)) ∧
  (∃ (s : State) (r : Nat × Nat) (i : Nat), (s.rests = true) ∧ (s.has Me.BIST_EN = true) ∧ (s.bist.running = none) ∧
    (s.dev.boot = .up) ∧ (s.bist.again = []) ∧ (s.parBad = []) ∧ (s.bistFrom 11 s.bist.mem s.bist.slice = some r) ∧ (i <
    1024)) ∧
  (∃ (s : State) (r : Nat × Nat), (s.rests = true) ∧ (s.bist.running = some r)) ∧
  (∃ (s : State), (s.rests = true) ∧ (s.bist.running = none)) :=
  ⟨
  ⟨(up.modDev (fun d => { d with boot := .held })), 5, [some 1, none], Instr.scratchpadWrite 5 [some 0x01#8, none] none,
    by decide +kernel⟩,
  ⟨up, 5, [], Instr.scratchpadWrite 5 [] none, by decide +kernel⟩,
  ⟨up, 5, 5, by decide +kernel⟩,
  ⟨up, 5, [some 1, none], by decide +kernel⟩,
  ⟨up, 5, 5, by decide +kernel⟩,
  ⟨(up.put (Me.BIST_EN) 0), by decide +kernel⟩,
  ⟨up, (0, 0), 5, by decide +kernel⟩,
  ⟨((fun (s : State) => { s with bist := { s.bist with running := some (0, 2) } }) (up)), (0, 2), by decide +kernel⟩,
  ⟨up, by decide +kernel⟩⟩

theorem witness_RegisterWritesTakeEffect :
  (∃ (s : State), (s.rests = true) ∧ (s.barOpen = false)) ∧
  (∃ (s : State) (addr : Nat) (be : BitVec 4), (s.rests = true) ∧ (s.barOpen = true) ∧ (addr % 4 = 0) ∧ (addr < 0x100000) ∧
    (be ≠ 15)) ∧
  (∃ (s : State) (addr : Nat), (s.rests = true) ∧ (s.barOpen = true) ∧ (addr % 4 ≠ 0) ∧ (addr < 0x100000)) ∧
  (∃ (s : State), (s.rests = true) ∧ (s.barOpen = true)) ∧
  (∃ (s : State), (s.rests = true) ∧ (s.barOpen = true)) ∧
  (∃ (s : State), (s.rests = true) ∧ (s.barOpen = true) ∧ (s.holds .pcie = false)) ∧
  (∃ (s : State), (s.rests = true) ∧ (s.barOpen = true) ∧ (s.holds .pcie = true)) ∧
  (∃ (s : State) (n : Ch), (s.rests = true) ∧ (s.barOpen = true) ∧ (s.chParked n = true)) :=
  ⟨
  ⟨(up.modDev (fun d => { d with boot := .held })), by decide +kernel⟩,
  ⟨up, 0, 0, by decide +kernel⟩,
  ⟨up, 5, by decide +kernel⟩,
  ⟨up, by decide +kernel⟩,
  ⟨up, by decide +kernel⟩,
  ⟨(up.modDev (fun d => { d with token := .can })), by decide +kernel⟩,
  ⟨up, by decide +kernel⟩,
  ⟨up, 1, by decide +kernel⟩⟩

theorem witness_SdoAnswersInOrder :
  (∃ (s : State) (p : Port) (idx : Nat) (sub : Nat) (a : Nat), (s.rests = true) ∧ (s.serves p = true) ∧ (s.spDown = false) ∧
    (objFind s.can.nodeId idx sub = .bad a)) ∧
  (∃ (s : State) (p : Port) (idx : Nat) (k : Nat), (s.rests = true) ∧ (s.serves p = true) ∧ (s.spDown = false) ∧ (objFind
    s.can.nodeId idx 0 = .top k)) ∧
  (∃ (s : State) (p : Port) (data : List Byte), (s.rests = true) ∧ (s.serves p = true) ∧ (s.spDown = false) ∧ (data.length ≠
    2)) ∧
  (∃ (s : State) (p : Port) (data : List Byte), (s.rests = true) ∧ (s.serves p = true) ∧ (s.spDown = false) ∧ (data.length =
    2) ∧ (s.holds p = false)) ∧
  (∃ (s : State) (p : Port) (data : List Byte), (s.rests = true) ∧ (s.serves p = true) ∧ (s.spDown = false) ∧ (data.length =
    2) ∧ (s.holds p = true) ∧ (1023 < leNat data)) ∧
  (∃ (s : State) (p : Port) (data : List Byte), (s.rests = true) ∧ (s.serves p = true) ∧ (s.spDown = false) ∧ (data.length =
    2) ∧ (s.holds p = true) ∧ (leNat data ≤ 1023)) ∧
  (∃ (s : State) (p : Port) (idx : Nat) (sub : Nat) (o : Obj) (data : List Byte) (f : Fld), (s.rests = true) ∧ (s.serves p =
    true) ∧ (s.spDown = false) ∧ (objFind s.can.nodeId idx sub = .row o) ∧ (s.objBad p idx o data = none) ∧ (s.objCheck p idx
    o data = none) ∧ (idx ≠ 0x4C00) ∧ (idx ≠ 0x4E00) ∧ ((∀ n : Ch, objOfChan idx = some n → s.chParked n = false ∧ s.inRun n =
    false)) ∧ (o.kind = .own f) ∧ (o.cls ≠ .boot) ∧ (¬(0x4100 ≤ idx ∧ idx < 0x4114))) ∧
  (∃ (s : State) (p : Port) (idx : Nat) (sub : Nat) (o : Obj) (data : List Byte) (f : Fld), (s.rests = true) ∧ (s.serves p =
    true) ∧ (s.spDown = false) ∧ (objFind s.can.nodeId idx sub = .row o) ∧ (s.objBad p idx o data = none) ∧ (s.objCheck p idx
    o data = none) ∧ (idx ≠ 0x4C00) ∧ (idx ≠ 0x4E00) ∧ ((∀ n : Ch, objOfChan idx = some n → s.chParked n = false ∧ s.inRun n =
    false)) ∧ (o.kind = .prep f)) ∧
  (∃ (s : State) (p : Port) (idx : Nat) (sub : Nat) (o : Obj) (data : List Byte) (a : Nat) (m : Nat) (l : Nat), (s.rests =
    true) ∧ (s.serves p = true) ∧ (s.spDown = false) ∧ (objFind s.can.nodeId idx sub = .row o) ∧ (s.objBad p idx o data =
    none) ∧ (s.objCheck p idx o data = none) ∧ (idx ≠ 0x4C00) ∧ (idx ≠ 0x4E00) ∧ ((∀ n : Ch, objOfChan idx = some n →
    s.chParked n = false ∧ s.inRun n = false)) ∧ (o.kind = .word a m l)) ∧
  (∃ (s : State) (p : Port) (idx : Nat) (sub : Nat) (o : Obj) (data : List Byte) (a : Nat) (cs : List (Nat × Nat)), (s.rests =
    true) ∧ (s.serves p = true) ∧ (s.spDown = false) ∧ (objFind s.can.nodeId idx sub = .row o) ∧ (s.objBad p idx o data =
    none) ∧ (s.objCheck p idx o data = none) ∧ (idx ≠ 0x4C00) ∧ (idx ≠ 0x4E00) ∧ ((∀ n : Ch, objOfChan idx = some n →
    s.chParked n = false ∧ s.inRun n = false)) ∧ (o.kind = .cmd a cs)) ∧
  (∃ (s : State) (p : Port) (idx : Nat) (sub : Nat) (o : Obj) (data : List Byte) (fs : List Fld), (s.rests = true) ∧ (s.serves
    p = true) ∧ (s.spDown = false) ∧ (objFind s.can.nodeId idx sub = .row o) ∧ (s.objBad p idx o data = none) ∧ (s.objCheck p
    idx o data = none) ∧ (idx ≠ 0x4C00) ∧ (idx ≠ 0x4E00) ∧ ((∀ n : Ch, objOfChan idx = some n → s.chParked n = false ∧ s.inRun
    n = false)) ∧ (o.kind = .clr fs)) ∧
  (∃ (s : State) (p : Port) (idx : Nat) (sub : Nat) (o : Obj) (data : List Byte) (lo : Nat) (hi : Nat), (s.rests = true) ∧
    (s.serves p = true) ∧ (s.spDown = false) ∧ (objFind s.can.nodeId idx sub = .row o) ∧ (s.objBad p idx o data = none) ∧
    (s.objCheck p idx o data = none) ∧ (idx ≠ 0x4C00) ∧ (idx ≠ 0x4E00) ∧ ((∀ n : Ch, objOfChan idx = some n → s.chParked n =
    false ∧ s.inRun n = false)) ∧ (o.kind = .two lo hi)) ∧
  (∃ (s : State) (p : Port) (n : Ch) (idx : Nat) (sub : Nat) (o : Obj) (data : List Byte), (s.rests = true) ∧ (s.serves p =
    true) ∧ (s.spDown = false) ∧ (objFind s.can.nodeId idx sub = .row o) ∧ (objOfChan idx = some n) ∧ (s.chParked n = false) ∧
    (s.inRun n = true) ∧ (s.objBad p idx o data = none) ∧ (s.objCheck p idx o data = none) ∧ (o.cls = .imm) ∧
    ((s.ch[n]).applyQ ≠ []) ∧ ((s.ch[n]).applyQ.length < 32)) ∧
  (∃ (s : State) (p : Port) (n : Ch) (idx : Nat) (sub : Nat) (o : Obj) (data : List Byte), (s.rests = true) ∧ (s.serves p =
    true) ∧ (s.spDown = false) ∧ (objFind s.can.nodeId idx sub = .row o) ∧ (objOfChan idx = some n) ∧ (s.chParked n = false) ∧
    (s.inRun n = true) ∧ (s.objBad p idx o data = none) ∧ (s.objCheck p idx o data = none) ∧ (o.cls = .imm) ∧
    ((s.ch[n]).applyQ ≠ []) ∧ (32 ≤ (s.ch[n]).applyQ.length)) ∧
  (∃ (s : State) (p : Port) (n : Ch) (idx : Nat) (sub : Nat) (o : Obj) (data : List Byte), (s.rests = true) ∧ (s.serves p =
    true) ∧ (s.spDown = false) ∧ (objFind s.can.nodeId idx sub = .row o) ∧ (objOfChan idx = some n) ∧ (s.chParked n = false) ∧
    (s.inRun n = true) ∧ (s.objBad p idx o data = none) ∧ (s.objCheck p idx o data = none) ∧ (o.cls = .line) ∧ (32 ≤
    (s.ch[n]).applyQ.length)) ∧
  (∃ (s : State) (p : Port) (n : Ch) (idx : Nat) (sub : Nat) (o : Obj) (data : List Byte) (a : Nat) (m : Nat) (l : Nat),
    (s.rests = true) ∧ (s.serves p = true) ∧ (s.spDown = false) ∧ (objFind s.can.nodeId idx sub = .row o) ∧ (objOfChan idx =
    some n) ∧ (s.chParked n = false) ∧ (s.inRun n = true) ∧ (s.objBad p idx o data = none) ∧ (s.objCheck p idx o data = none)
    ∧ (o.cls = .line) ∧ ((s.ch[n]).applyQ.length < 32) ∧ (o.kind = .word a m l)) ∧
  (∃ (s : State) (p : Port) (n : Ch) (idx : Nat) (sub : Nat) (o : Obj) (data : List Byte) (f : Fld), (s.rests = true) ∧
    (s.serves p = true) ∧ (s.spDown = false) ∧ (objFind s.can.nodeId idx sub = .row o) ∧ (objOfChan idx = some n) ∧
    (s.chParked n = false) ∧ (s.inRun n = true) ∧ (s.objBad p idx o data = none) ∧ (s.objCheck p idx o data = none) ∧ (o.cls =
    .imm) ∧ ((s.ch[n]).applyQ = []) ∧ (o.kind = .own f)) ∧
  (∃ (s : State) (p : Port) (n : Ch) (idx : Nat) (sub : Nat) (o : Obj) (data : List Byte) (a : Nat) (m : Nat) (l : Nat),
    (s.rests = true) ∧ (s.serves p = true) ∧ (s.spDown = false) ∧ (objFind s.can.nodeId idx sub = .row o) ∧ (objOfChan idx =
    some n) ∧ (s.chParked n = false) ∧ (s.inRun n = true) ∧ (s.objBad p idx o data = none) ∧ (s.objCheck p idx o data = none)
    ∧ (o.cls = .imm) ∧ ((s.ch[n]).applyQ = []) ∧ (o.kind = .word a m l)) :=
  ⟨
  ⟨up, .can, 0x1019, 0, abNoObj, by decide +kernel⟩,
  ⟨up, .can, 4120, 4, by decide +kernel⟩,
  ⟨up, .can, [], by decide +kernel⟩,
  ⟨up, .can, [1, 0], by decide +kernel⟩,
  ⟨(up.modDev (fun d => { d with token := .can })), .can, [0, 8], by decide +kernel⟩,
  ⟨(up.modDev (fun d => { d with token := .can })), .can, [1, 0], by decide +kernel⟩,
  ⟨(up.modDev (fun d => { d with token := .can })), .can, 12338, 1,
    { sub := 1, size := 2, acc := OAcc.rw, expert := false, cls := Cls.imm, lo := 0, hi := 5119, kind := Kind.own { addr := 2150642177, msb := 15, lsb := 0, acc := Acc.rw, rst := 0 } },
    [1, 0], { addr := 2150642177, msb := 15, lsb := 0, acc := Acc.rw, rst := 0 }, by decide +kernel⟩,
  ⟨(up.modDev (fun d => { d with token := .can })), .can, 12304, 3,
    { sub := 3, size := 4, acc := OAcc.rw, expert := false, cls := Cls.epoch, lo := 65536, hi := 18446744073709551616, kind := Kind.prep { addr := 2284851203, msb := 31, lsb := 0, acc := Acc.rw, rst := 65536 } },
    [0, 0, 1, 0], { addr := 2284851203, msb := 31, lsb := 0, acc := Acc.rw, rst := 65536 }, by decide +kernel⟩,
  ⟨(up.modDev (fun d => { d with token := .can })), .can, 8448, 3,
    { sub := 3, size := 2, acc := OAcc.rw, expert := false, cls := Cls.imm, lo := 0, hi := 1023, kind := Kind.word 196624 9 0 },
    [1, 0], 196624, 9, 0, by decide +kernel⟩,
  ⟨(up.modDev (fun d => { d with token := .can })), .can, 8704, 5,
    { sub := 5, size := 1, acc := OAcc.wo, expert := false, cls := Cls.imm, lo := 0, hi := 1, kind := Kind.cmd 198672 [(0, 2), (1, 1)] },
    [1], 198672, [(0, 2), (1, 1)], by decide +kernel⟩,
  ⟨(up.modDev (fun d => { d with token := .can })), .can, 12304, 18,
    { sub := 18, size := 1, acc := OAcc.wo, expert := false, cls := Cls.imm, lo := 1, hi := 1, kind := Kind.clr [{ addr := 131400, msb := 6, lsb := 6, acc := Acc.w1c, rst := 0 }, { addr := 131400, msb := 5, lsb := 5, acc := Acc.w1c, rst := 0 }, { addr := 131400, msb := 4, lsb := 4, acc := Acc.w1c, rst := 0 }, { addr := 131400, msb := 3, lsb := 3, acc := Acc.w1c, rst := 0 }, { addr := 131400, msb := 2, lsb := 2, acc := Acc.w1c, rst := 0 }, { addr := 131400, msb := 1, lsb := 1, acc := Acc.w1c, rst := 0 }, { addr := 131400, msb := 0, lsb := 0, acc := Acc.w1c, rst := 0 }] },
    [1], [{ addr := 131400, msb := 6, lsb := 6, acc := Acc.w1c, rst := 0 },
    { addr := 131400, msb := 5, lsb := 5, acc := Acc.w1c, rst := 0 },
    { addr := 131400, msb := 4, lsb := 4, acc := Acc.w1c, rst := 0 },
    { addr := 131400, msb := 3, lsb := 3, acc := Acc.w1c, rst := 0 },
    { addr := 131400, msb := 2, lsb := 2, acc := Acc.w1c, rst := 0 },
    { addr := 131400, msb := 1, lsb := 1, acc := Acc.w1c, rst := 0 },
    { addr := 131400, msb := 0, lsb := 0, acc := Acc.w1c, rst := 0 }], by decide +kernel⟩,
  ⟨(up.modDev (fun d => { d with token := .can })), .can, 8448, 9,
    { sub := 9, size := 6, acc := OAcc.rw, expert := false, cls := Cls.idle, lo := -9223372036854775808, hi := 18446744073709551616, kind := Kind.two 196656 196660 },
    [1, 0, 0, 0, 0, 0], 196656, 196660, by decide +kernel⟩,
  ⟨(((up.modCh 0 (fun c => { c with st := .run })).modDev (fun d => { d with token := .can })).modCh 0 (fun c =>
    { c with applyQ := [⟨.obj 0x3020 9 [1], .imm, some .can, 0⟩] })), .can, 0, 12304, 18,
    { sub := 18, size := 1, acc := OAcc.wo, expert := false, cls := Cls.imm, lo := 1, hi := 1, kind := Kind.clr [{ addr := 131400, msb := 6, lsb := 6, acc := Acc.w1c, rst := 0 }, { addr := 131400, msb := 5, lsb := 5, acc := Acc.w1c, rst := 0 }, { addr := 131400, msb := 4, lsb := 4, acc := Acc.w1c, rst := 0 }, { addr := 131400, msb := 3, lsb := 3, acc := Acc.w1c, rst := 0 }, { addr := 131400, msb := 2, lsb := 2, acc := Acc.w1c, rst := 0 }, { addr := 131400, msb := 1, lsb := 1, acc := Acc.w1c, rst := 0 }, { addr := 131400, msb := 0, lsb := 0, acc := Acc.w1c, rst := 0 }] },
    [1], by decide +kernel⟩,
  ⟨(((up.modCh 0 (fun c => { c with st := .run })).modDev (fun d => { d with token := .can })).modCh 0 (fun c =>
    { c with applyQ := List.replicate 32 ⟨.tile 0 0, .line, none, 0⟩ })), .can, 0, 12304, 18,
    { sub := 18, size := 1, acc := OAcc.wo, expert := false, cls := Cls.imm, lo := 1, hi := 1, kind := Kind.clr [{ addr := 131400, msb := 6, lsb := 6, acc := Acc.w1c, rst := 0 }, { addr := 131400, msb := 5, lsb := 5, acc := Acc.w1c, rst := 0 }, { addr := 131400, msb := 4, lsb := 4, acc := Acc.w1c, rst := 0 }, { addr := 131400, msb := 3, lsb := 3, acc := Acc.w1c, rst := 0 }, { addr := 131400, msb := 2, lsb := 2, acc := Acc.w1c, rst := 0 }, { addr := 131400, msb := 1, lsb := 1, acc := Acc.w1c, rst := 0 }, { addr := 131400, msb := 0, lsb := 0, acc := Acc.w1c, rst := 0 }] },
    [1], by decide +kernel⟩,
  ⟨(((up.modCh 0 (fun c => { c with st := .run })).modDev (fun d => { d with token := .can })).modCh 0 (fun c =>
    { c with applyQ := List.replicate 32 ⟨.tile 0 0, .line, none, 0⟩ })), .can, 0, 12304, 9,
    { sub := 9, size := 2, acc := OAcc.rw, expert := true, cls := Cls.line, lo := -512, hi := 4095, kind := Kind.word 131360 15 0 },
    [1, 0], by decide +kernel⟩,
  ⟨(up.modCh 0 (fun c => { c with st := .run })), .pcie, 0, 12304, 9,
    { sub := 9, size := 2, acc := OAcc.rw, expert := true, cls := Cls.line, lo := -512, hi := 4095, kind := Kind.word 131360 15 0 },
    [1, 0], 131360, 15, 0, by decide +kernel⟩,
  ⟨((up.modCh 0 (fun c => { c with st := .run })).modDev (fun d => { d with token := .can })), .can, 0, 12338, 1,
    { sub := 1, size := 2, acc := OAcc.rw, expert := false, cls := Cls.imm, lo := 0, hi := 5119, kind := Kind.own { addr := 2150642177, msb := 15, lsb := 0, acc := Acc.rw, rst := 0 } },
    [1, 0], { addr := 2150642177, msb := 15, lsb := 0, acc := Acc.rw, rst := 0 }, by decide +kernel⟩,
  ⟨((up.modCh 0 (fun c => { c with st := .run })).modDev (fun d => { d with token := .can })), .can, 0, 12320, 1,
    { sub := 1, size := 4, acc := OAcc.rw, expert := false, cls := Cls.imm, lo := 0, hi := 18446744073709551616, kind := Kind.word 131584 31 0 },
    [1, 0, 0, 0], 131584, 31, 0, by decide +kernel⟩⟩

theorem witness_MailboxRequestsComplete :
  (∃ (s : State) (seq : Nat) (v : Nat), (s.rests = true) ∧ (s.barOpen = true) ∧ (s.spDown = false) ∧ (seq < 256) ∧ (s.has
    Mb.BUSY = false) ∧ (v ≤ 1023) ∧ (s.holds .pcie = true)) ∧
  (∃ (s : State) (seq : Nat) (o : Nat), (s.rests = true) ∧ (s.barOpen = true) ∧ (s.spDown = false) ∧ (seq < 256) ∧ (s.has
    Mb.BUSY = false) ∧ (o % 8 = 0) ∧ (o < spVisible)) ∧
  (∃ (s : State) (seq : Nat) (o : Nat), (s.rests = true) ∧ (s.barOpen = true) ∧ (s.spDown = false) ∧ (seq < 256) ∧ (s.has
    Mb.BUSY = false) ∧ (o % 8 = 0) ∧ (o < spVisible) ∧ (leNat (s.spBytes o 2) ≤ 1023) ∧ (s.holds .pcie = true) ∧ (s.parBad =
    [])) ∧
  (∃ (s : State) (seq : Nat) (cmd : BitVec 4) (idx : Nat) (sub : Nat), (s.rests = true) ∧ (s.barOpen = true) ∧ (s.spDown =
    false) ∧ (seq < 256) ∧ (s.has Mb.BUSY = false) ∧ (idx < 2 ^ 16) ∧ (sub < 2 ^ 8) ∧ ((cmd = 0 ∨ 5 ≤ cmd.toNat))) ∧
  (∃ (s : State) (seq : Nat), (s.rests = true) ∧ (s.barOpen = true) ∧ (s.spDown = false) ∧ (seq < 256) ∧ (s.has Mb.BUSY =
    true)) :=
  ⟨
  ⟨up, 5, 5, by decide +kernel⟩,
  ⟨up, 5, 0, by decide +kernel⟩,
  ⟨up, 5, 0, by decide +kernel⟩,
  ⟨up, 5, 0, 5, 5, by decide +kernel⟩,
  ⟨(up.put (Mb.BUSY) 1), 5, by decide +kernel⟩⟩

theorem witness_EpochObjectsWaitForCommit :
  (∃ (s : State) (idx : Nat) (sub : Nat) (o : Obj), (s.rests = true) ∧ (objFind s.can.nodeId idx sub = .row o) ∧ (o.cls =
    .epoch)) :=
  ⟨up, 12304, 3,
    { sub := 3, size := 4, acc := OAcc.rw, expert := false, cls := Cls.epoch, lo := 65536, hi := 18446744073709551616, kind := Kind.prep { addr := 2284851203, msb := 31, lsb := 0, acc := Acc.rw, rst := 65536 } },
    by decide +kernel⟩

theorem witness_TokenPasses :
  (∃ (s : State) (dst : Port), (s.rests = true) ∧ (s.pcie.on = true) ∧ (s.pcie.perst = false) ∧ (s.barOpen = true) ∧ (s.holds
    .pcie = true) ∧ (dst ≠ s.dev.token) ∧ ((dst = .pcie → s.pcieLost = false))) ∧
  (∃ (s : State) (dst : Port), (s.rests = true) ∧ (s.pcie.on = true) ∧ (s.pcie.perst = false) ∧ (s.barOpen = true) ∧ (s.holds
    .pcie = true) ∧ (dst = s.dev.token)) ∧
  (∃ (s : State) (dst : Port) (p : Port), (s.rests = true) ∧ (s.pcie.on = true) ∧ (s.pcie.perst = false) ∧ (s.serves p = true)
    ∧ (s.spDown = false) ∧ (s.holds p = true) ∧ (dst ≠ s.dev.token) ∧ ((dst = .pcie → s.pcieLost = false))) ∧
  (∃ (s : State) (dst : Port) (p : Port), (s.rests = true) ∧ (s.pcie.on = true) ∧ (s.pcie.perst = false) ∧ (s.serves p = true)
    ∧ (s.spDown = false) ∧ (s.holds p = true) ∧ (dst = s.dev.token)) :=
  ⟨
  ⟨up, .can, by decide +kernel⟩,
  ⟨up, .pcie, by decide +kernel⟩,
  ⟨(up.modDev (fun d => { d with token := .can })), .pcie, .can, by decide +kernel⟩,
  ⟨(up.modDev (fun d => { d with token := .can })), .can, .can, by decide +kernel⟩⟩

theorem witness_HostResetsAndInterrupts :
  (∃ (s : State), (s.rests = true) ∧ (s.pcie.on = true) ∧ (s.pcie.perst = false)) ∧
  (∃ (s : State), (s.rests = true) ∧ (s.pcie.on = true) ∧ (s.pcie.perst = true)) ∧
  (∃ (s : State), (s.rests = true) ∧ (s.pcie.on = true) ∧ (s.pcie.linkUp = true)) ∧
  (∃ (s : State) (v : Fin 32), (s.rests = true) ∧ (s.barOpen = true) ∧ (s.has (Mx.MASK v) = true) ∧ (s.has (Mx.PBA v) = true)) ∧
  (∃ (s : State) (v : Fin 32), (s.rests = true) ∧ (s.barOpen = true) ∧ (s.has (Mx.PBA v) = false)) ∧
  (∃ (s : State), ((s.pcie.on = false ∨ s.pcie.perst = true))) ∧
  (∃ (s : State) (v : Fin 32), (s.pcie.on = true) ∧ (s.pcie.perst = false) ∧ (bit (s.get Ho.INT_STAT) v = true)) ∧
  (∃ (s : State) (v : Fin 32) (w : Fin 32), (s.pcie.on = true) ∧ (s.pcie.perst = false) ∧ (bit (s.get Ho.INT_STAT) v = false)
    ∧ (s.get Ho.INT_STAT < 2 ^ 32) ∧ (w ≠ v)) ∧
  (∃ (s : State) (v : Fin 32), (s.pcie.on = true) ∧ (s.pcie.perst = false) ∧ (bit (s.get Ho.INT_STAT) v = false) ∧ (s.get
    Ho.INT_STAT < 2 ^ 32) ∧ (bit (s.get Ho.INT_EN) v = true) ∧ (s.pcie.d3 = false) ∧ (s.has (Mx.MASK v) = false)) ∧
  (∃ (s : State) (v : Fin 32), (s.pcie.on = true) ∧ (s.pcie.perst = false) ∧ (bit (s.get Ho.INT_STAT) v = false) ∧ (s.get
    Ho.INT_STAT < 2 ^ 32) ∧ (bit (s.get Ho.INT_EN) v = true) ∧ (s.pcie.d3 = false) ∧ (s.has (Mx.MASK v) = true)) ∧
  (∃ (s : State) (v : Fin 32), (s.pcie.on = true) ∧ (s.pcie.perst = false) ∧ (bit (s.get Ho.INT_STAT) v = false) ∧ (s.get
    Ho.INT_STAT < 2 ^ 32) ∧ (bit (s.get Ho.INT_EN) v = false)) :=
  ⟨
  ⟨up, by decide +kernel⟩,
  ⟨State.reset, by decide +kernel⟩,
  ⟨up, by decide +kernel⟩,
  ⟨(up.put (Mx.PBA 0) 1), 0, by decide +kernel⟩,
  ⟨up, 0, by decide +kernel⟩,
  ⟨((fun (s : State) => { s with pcie := { s.pcie with perst := true } }) (up)), by decide +kernel⟩,
  ⟨(up.put (Ho.INT_STAT) 1), 0, by decide +kernel⟩,
  ⟨up, 0, 1, by decide +kernel⟩,
  ⟨((up.put (Ho.INT_EN) (0xFFFFFFFF)).put (Mx.MASK 0) 0), 0, by decide +kernel⟩,
  ⟨(up.put (Ho.INT_EN) (0xFFFFFFFF)), 0, by decide +kernel⟩,
  ⟨up, 0, by decide +kernel⟩⟩

theorem witness_CanStatesComplete :
  (∃ (s : State) (c : Instr) (x : Nmt), (s.rests = true) ∧ ((c, x) ∈ [(Instr.nmtStart, Nmt.operational), (Instr.nmtStop,
    Nmt.stopped), (Instr.nmtEnterPreOperational, Nmt.preOp)]) ∧ (s.canUp = true) ∧ (s.can.nmt ≠ .init)) ∧
  (∃ (s : State), (s.rests = true) ∧ (s.canUp = true) ∧ (s.can.nmt ≠ .init)) ∧
  (∃ (s : State), (s.rests = true) ∧ (s.canUp = true) ∧ (s.anyBusy = true) ∧ (s.can.nmt ≠ .init)) ∧
  (∃ (s : State), (s.rests = true) ∧ (s.canUp = true) ∧ (s.get hbProducer ≠ 0) ∧ (s.can.nmt ≠ .init)) ∧
  (∃ (s : State), (s.rests = true) ∧ (s.has Ho.CAN_BUSOFF = true)) ∧
  (∃ (s : State) (p : Port) (v : BitVec 16), (s.rests = true) ∧ (s.serves p = true) ∧ (s.spDown = false) ∧ (v ≠ 0) ∧ (v ≠
    0x4558)) :=
  ⟨
  ⟨up, Instr.nmtStart, .operational, by decide +kernel⟩,
  ⟨up, by decide +kernel⟩,
  ⟨(up.modCh 0 (fun c => { c with st := .run })), by decide +kernel⟩,
  ⟨(up.put (hbProducer) 10), by decide +kernel⟩,
  ⟨(up.put (Ho.CAN_BUSOFF) 1), by decide +kernel⟩,
  ⟨up, .can, 1, by decide +kernel⟩⟩

theorem witness_PdosComplete :
  (∃ (s : State) (p : Fin 4), (s.canOper = true) ∧ (s.tEvent p = true) ∧ (s.get (Pdo.tEvt p) ≠ 0) ∧ (s.tReady p = true)) ∧
  (∃ (s : State) (p : Fin 4), (s.canOper = true) ∧ (s.tEvent p = true) ∧ (s.get (Pdo.tEvt p) ≠ 0) ∧ (s.tReady p = false) ∧
    (s.rests = true)) ∧
  (∃ (s : State) (p : Fin 4), (s.canOper = true) ∧ (s.tValid p = true) ∧ ((s.tType p = 0xFC ∨ s.tType p = 0xFD)) ∧ (s.tReady p
    = true)) ∧
  (∃ (s : State) (p : Fin 4), (s.canOper = true) ∧ ((s.tRun p).due = true) ∧ (s.tValid p = true) ∧ (s.can.queue = [])) ∧
  (∃ (s : State), (s.canOper = true) ∧ (s.rests = true) ∧ ((∀ q : Fin 4, s.tEvent q = false))) ∧
  (∃ (s : State), (s.canOper = true) ∧ (s.rests = true) ∧ (s.tEvent 0 = true) ∧ ((∀ q : Fin 4, q ≠ 0 → s.tEvent q = false)) ∧
    ((s.tTake 0).1 = s) ∧ ((s.tRun 0).last ≠ none) ∧ ((s.tRun 0).last ≠ some (s.tTake 0).2) ∧ (s.tReady 0 = true)) ∧
  (∃ (s : State), (s.canOper = true) ∧ (s.rests = true) ∧ ((∀ q : Fin 4, s.tValid q = false ∨ 240 < s.tType q)) ∧
    (s.can.rpdoWait = [])) ∧
  (∃ (s : State) (p : Fin 4) (k : Nat), (s.canOper = true) ∧ (s.can.rpdoWait = []) ∧ ((∀ q : Fin 4, q ≠ p → s.tValid q = false
    ∨ 240 < s.tType q)) ∧ (s.tValid p = true) ∧ (s.tType p ≤ 240) ∧ (s.tType p ≠ 0) ∧ ((s.tRun p).syncs = k) ∧ ((p : Nat) <
    s.can.tpdo.length) ∧ (k + 1 < s.tType p) ∧ (s.rests = true)) ∧
  (∃ (s : State) (p : Fin 4) (k : Nat), (s.canOper = true) ∧ (s.can.rpdoWait = []) ∧ ((∀ q : Fin 4, q ≠ p → s.tValid q = false
    ∨ 240 < s.tType q)) ∧ (s.tValid p = true) ∧ (s.tType p ≤ 240) ∧ (s.tType p ≠ 0) ∧ ((s.tRun p).syncs = k) ∧ ((p : Nat) <
    s.can.tpdo.length) ∧ (s.tType p ≤ k + 1) ∧ (s.tReady p = true)) ∧
  (∃ (s : State) (p : Fin 4) (k : Nat), (s.canOper = true) ∧ (s.can.rpdoWait = []) ∧ ((∀ q : Fin 4, q ≠ p → s.tValid q = false
    ∨ 240 < s.tType q)) ∧ (s.tValid p = true) ∧ (s.tType p ≤ 240) ∧ (s.tType p ≠ 0) ∧ ((s.tRun p).syncs = k) ∧ ((p : Nat) <
    s.can.tpdo.length) ∧ (s.tType p ≤ k + 1) ∧ (s.tReady p = false) ∧ (s.rests = true)) ∧
  (∃ (s : State) (p : Fin 4) (data : List Byte), (s.canOper = true) ∧ ((∀ q : Fin 4, s.tValid q = false ∨ 240 < s.tType q)) ∧
    (s.can.rpdoWait = [((p : Nat), data)])) ∧
  (∃ (s : State) (p : Fin 4) (data : List Byte), (s.canOper = true) ∧ (s.rValid p = true) ∧ (data.length < s.rBytes p) ∧
    (s.rests = true)) ∧
  (∃ (s : State) (p : Fin 4) (data : List Byte), (s.canOper = true) ∧ (s.rValid p = true) ∧ (s.rBytes p ≤ data.length) ∧
    (s.get (Pdo.rTyp p) ≤ 240) ∧ (s.rests = true)) ∧
  (∃ (s : State) (p : Fin 4) (data : List Byte), (s.canOper = true) ∧ (s.rValid p = true) ∧ (s.rBytes p ≤ data.length) ∧ (240
    < s.get (Pdo.rTyp p))) ∧
  (∃ (s : State) (p : Fin 4), (s.can.tpdo.length = 4) ∧ ((s.tTake p).2.length ≤ 64) ∧ ((s.tRun p).wait = none) ∧ (s.tFar p =
    [])) ∧
  (∃ (s : State) (p : Fin 4) (n : Ch), (s.can.tpdo.length = 4) ∧ ((s.tTake p).2.length ≤ 64) ∧ ((s.tRun p).wait = none) ∧
    (s.tFar p = [n]) ∧ ((s.ch[n]).link.fe ≠ none)) :=
  ⟨
  ⟨up, 0, by decide +kernel⟩,
  ⟨(up.modCan (fun c => { c with tpdo := List.replicate 4 ⟨none, some 0, false, 0, none⟩ })), 0, by decide +kernel⟩,
  ⟨(up.put (Pdo.tTyp 0) (0xFC)), 0, by decide +kernel⟩,
  ⟨(up.modCan (fun c => { c with tpdo := List.replicate 4 ⟨some [1], none, true, 0, none⟩ })), 0, by decide +kernel⟩,
  ⟨((fun (s : State) => [0, 1, 2, 3].foldl (fun (t : State) (i : Nat) => t.put (Pdo.tCob i 1) 0x80000181) s) (up)),
    by decide +kernel⟩,
  ⟨((fun (s : State) => (([1, 2, 3].foldl (fun (t : State) (i : Nat) => t.put (Pdo.tCob i 1) 0x80000181) ((s.put (Pdo.tCob 0
    1) 0x40000181).put (Pdo.tTyp 0) 0xFE)).put (Pdo.tCnt 0) 0).modCan (fun c =>
    { c with tpdo := List.replicate 4 ⟨some [1], none, true, 0, none⟩ })) (up)),
    by and_intros <;> first | decide +kernel | rfl⟩,
  ⟨up, by decide +kernel⟩,
  ⟨(((([1, 2, 3].foldl (fun (t : State) (i : Nat) => t.put (Pdo.tCob i 1) 0x80000181) ((up.put (Pdo.tCob 0 1) 0x40000181).put
    (Pdo.tTyp 0) 3)).put (Pdo.tCnt 0) 0).modCan (fun c =>
    { c with tpdo := List.replicate 4 ⟨some [1], none, true, 0, none⟩ }))), 0, 0, by decide +kernel⟩,
  ⟨(((([1, 2, 3].foldl (fun (t : State) (i : Nat) => t.put (Pdo.tCob i 1) 0x80000181) ((up.put (Pdo.tCob 0 1) 0x40000181).put
    (Pdo.tTyp 0) 1)).put (Pdo.tCnt 0) 0).modCan (fun c =>
    { c with tpdo := List.replicate 4 ⟨some [1], none, true, 0, none⟩ }))), 0, 0, by decide +kernel⟩,
  ⟨((((([1, 2, 3].foldl (fun (t : State) (i : Nat) => t.put (Pdo.tCob i 1) 0x80000181) ((up.put (Pdo.tCob 0 1) 0x40000181).put
    (Pdo.tTyp 0) 1)).put (Pdo.tCnt 0) 0).modCan (fun c =>
    { c with tpdo := List.replicate 4 ⟨some [1], none, true, 0, none⟩ }))).modCan (fun c =>
    { c with tpdo := List.replicate 4 ⟨none, some 0, false, 0, none⟩ })), 0, 0, by decide +kernel⟩,
  ⟨(up.modCan (fun c => { c with rpdoWait := [(0, [])] })), 0, [], by decide +kernel⟩,
  ⟨(((up.put (Pdo.rCob 0 1) 0x201).put (Pdo.rCnt 0) 1).put (Pdo.rMap 0 1) 0x20000308), 0, [], by decide +kernel⟩,
  ⟨((((up.put (Pdo.rCob 0 1) 0x201).put (Pdo.rCnt 0) 1).put (Pdo.rMap 0 1) 0x20000308).put (Pdo.rTyp 0) 1), 0, [1],
    by decide +kernel⟩,
  ⟨(up.put (Pdo.rCob 0 1) (0x201)), 0, [], by decide +kernel⟩,
  ⟨up, 0, by decide +kernel⟩,
  ⟨(((up.put (Pdo.tCnt 0) 1).put (Pdo.tMap 0 1) 0x30500D20).modCh 0 (fun c =>
    { c with link := { c.link with fe := some ⟨3, 4, false, .reg⟩ } })), 0, 0, by decide +kernel⟩⟩

theorem witness_MessagesLeave :
  (∃ (s : State) (code : Nat) (src : Nat), (code ≠ 0) ∧ (s.can.sent.all (fun e => !(e.code == code && e.src == src)) = true) ∧
    (s.roomFor src = true)) ∧
  (∃ (q : List Msg) (m : Msg), (q.all (fun x => !(x.src == m.src && decide (m.line < x.line))) = true ∨ 8 ≤ m.src ∨ m.line =
    0)) ∧
  (∃ (q : List Msg) (m : Msg), (m.src < 8) ∧ (m.line ≠ 0) ∧ (((q.filter (fun x => x.src == m.src && x.line != 0)).map (fun x
    => x.line)).Pairwise (· ≤ ·))) ∧
  (∃ (s : State) (m : Msg) (rest : List Msg), (s.rests = true) ∧ (s.can.queue = m :: rest) ∧ (s.canUp = true) ∧ (m.record =
    none) ∧ (s.msgHeld m = false) ∧ ((s.can.nmt = .preOp ∨ s.can.nmt = .operational)) ∧ (bit (s.get (cobEmcy s.can.nodeId)) 31
    = false)) ∧
  (∃ (s : State) (m : Msg) (rest : List Msg), (s.rests = true) ∧ (s.can.queue = m :: rest) ∧ (s.canUp = true) ∧ (m.record =
    none) ∧ (s.msgHeld m = false) ∧ (s.can.nmt = .stopped)) ∧
  (∃ (s : State), (s.rests = true) ∧ (s.can.queue.all s.msgHeld = true)) ∧
  (∃ (s : State), (s.dev.ioLow = true)) ∧
  (∃ (s : State) (id : Word), (s.rests = true) ∧ (s.canUp = true) ∧ (s.can.lssPos = 0) ∧ (id ≠ 0x06B1)) :=
  ⟨
  ⟨up, 0x1019, 0, by decide +kernel⟩,
  ⟨[⟨0x5030, 0, 1, [], none⟩], ⟨0x5030, 0, 2, [], none⟩, by decide +kernel⟩,
  ⟨[⟨0x5030, 2, 4, [], none⟩, ⟨0x5030, 2, 6, [], none⟩], ⟨0x5030, 2, 5, [], none⟩, by decide +kernel⟩,
  ⟨(up.modCan (fun c => { c with queue := [⟨0x5030, 2, 0, [0, 0, 0, 0], none⟩] })),
    { code := 20528, src := 2, line := 0, info := [0x00#8, 0x00#8, 0x00#8, 0x00#8], record := none }, [], by decide +kernel⟩,
  ⟨((up.modCan (fun c => { c with queue := [⟨0x5030, 2, 0, [0, 0, 0, 0], none⟩] })).modCan (fun c =>
    { c with nmt := .stopped })),
    { code := 20528, src := 2, line := 0, info := [0x00#8, 0x00#8, 0x00#8, 0x00#8], record := none }, [], by decide +kernel⟩,
  ⟨up, by decide +kernel⟩,
  ⟨(up.modDev (fun d => { d with ioLow := true })), by decide +kernel⟩,
  ⟨up, 0, by decide +kernel⟩⟩

theorem witness_StoreAndProgramComplete :
  (∃ (s : State) (p : Port), (s.rests = true) ∧ (s.reached (.obj p) = true) ∧ (s.flash.present = true) ∧ (s.flash.saving =
    none)) ∧
  (∃ (s : State) (p : Port), (s.rests = true) ∧ (s.reached (.obj p) = true) ∧ (s.flash.present = true) ∧
    (s.flash.saving.isSome = true)) ∧
  (∃ (s : State) (p : Port) (data : List Byte), (s.rests = true) ∧ (s.reached (.obj p) = true) ∧ (s.flash.present = true) ∧
    ((s.flash.prog = 1 ∨ s.flash.prog = 2)) ∧ (s.flash.image.length + data.length ≤ 1048576)) ∧
  (∃ (s : State) (p : Port), (s.rests = true) ∧ (s.reached (.obj p) = true) ∧ (s.flash.present = false)) ∧
  (∃ (s : State) (v : Saving), (s.flash.saving = some v) ∧ (v.due ≤ s.tb)) ∧
  (∃ (s : State) (v : Saving), (s.flash.saving = some v) ∧ (s.tb < v.due)) ∧
  (∃ (s : State), (s.flash.copies.length = 2) ∧ ((∀ (k : Nat) (old : ParamCopy), s.flash.newest = some (k, old) → old.seq + 1
    < 2 ^ 32))) :=
  ⟨
  ⟨up, .pcie, by decide +kernel⟩,
  ⟨((fun (s : State) => { s with flash := { s.flash with saving := some ⟨[], 100, none⟩ } }) (up)), .pcie, by decide +kernel⟩,
  ⟨((fun (s : State) => { s with flash := { s.flash with prog := 1 } }) (up)), .pcie, [], by decide +kernel⟩,
  ⟨((fun (s : State) => { s with flash := { s.flash with present := false } }) (up)), .pcie, by decide +kernel⟩,
  ⟨((fun (s : State) => { s with flash := { s.flash with saving := some ⟨[], 0, none⟩ } }) (up)),
    { vals := [], due := 0, port := none }, by decide +kernel⟩,
  ⟨((fun (s : State) => { s with flash := { s.flash with saving := some ⟨[], 100, none⟩ } }) (up)),
    { vals := [], due := 100, port := none }, by decide +kernel⟩,
  ⟨up, by and_intros <;> first | decide +kernel | rfl | exact fun k old h => nomatch h⟩⟩

theorem witness_HeartbeatConsumer :
  (∃ (s : State), (s.rests = true) ∧ (s.canTimed = true) ∧ (s.hbWatched = true) ∧ (s.has Ho.HB_LOST = false)) ∧
  (∃ (s : State), (s.rests = true) ∧ (s.has Ho.HB_LOST = true)) :=
  ⟨
  ⟨(up.put (hbConsumer) (0x50001)), by decide +kernel⟩,
  ⟨(up.put (Ho.HB_LOST) 1), by decide +kernel⟩⟩

theorem witness_ImageLinesReachRows :
  (∃ (s : State) (n : Ch), (s.chParked n = true)) ∧
  (∃ (s : State) (n : Ch), (s.chParked n = false) ∧ ((s.ch[n]).q.part.length < 1280)) ∧
  (∃ (noz : Nat) (i : Nat), (noz ≤ 5120) ∧ (i < noz)) ∧
  (∃ (s : State) (n : Ch) (k : Nat), (s.get (Tr.MODE n) ≠ 2 ∨ s.passBack n k = false)) ∧
  (∃ (s : State) (n : Ch) (k : Nat), (s.get (Tr.MODE n) = 2) ∧ (s.passBack n k = true)) ∧
  (∃ (rows : List (Nat × Nat)), (rowsUsed rows ≠ [])) :=
  ⟨
  ⟨up, 1, by decide +kernel⟩,
  ⟨up, 0, by decide +kernel⟩,
  ⟨5, 0, by decide +kernel⟩,
  ⟨up, 0, 5, by decide +kernel⟩,
  ⟨(up.put (Tr.MODE 0) 2), 0, 5, by decide +kernel⟩,
  ⟨[(8, 0)], by decide +kernel⟩⟩

theorem witness_HistoryAndRails :
  (∃ (s : State) (n : Ch) (i : Nat), (i < s.nozzles n)) ∧
  (∃ (s : State) (n : Ch), (s.eff (Ed.BS_MODE n) = 0)) ∧
  (∃ (s : State) (n : Ch), (s.eff (Ed.BS_MODE n) = 1)) ∧
  (∃ (s : State) (n : Ch) (v : Fin 8), (s.rests = true) ∧ (s.chParked n = false) ∧ (s.barOpen = true) ∧ (s.holds .pcie = true)
    ∧ (((v : Nat) = 0 ∨ (v : Nat) = 7))) ∧
  (∃ (s : State) (n : Ch) (p : Port) (v : Fin 8), (s.rests = true) ∧ (s.chParked n = false) ∧ (s.serves p = true) ∧ (s.spDown
    = false) ∧ (s.holds p = true) ∧ ((v : Nat) = 0 ∨ (v : Nat) = 7)) ∧
  (∃ (s : State) (n : Ch) (p : Port) (v : Fin 8), (s.rests = true) ∧ (s.chParked n = false) ∧ (s.serves p = true) ∧ (s.spDown
    = false) ∧ (s.holds p = true) ∧ (1 ≤ (v : Nat)) ∧ ((v : Nat) ≤ 6) ∧ (s.get (Ed.BS_MODE n) < 3) ∧ (s.inRun n = false) ∧
    ((s.ch[n]).applyQ = [])) :=
  ⟨
  ⟨up, 0, 5, by decide +kernel⟩,
  ⟨up, 0, by decide +kernel⟩,
  ⟨(up.putBoth (Ed.BS_MODE 0) 1), 0, by decide +kernel⟩,
  ⟨up, 0, 0, by decide +kernel⟩,
  ⟨(up.modDev (fun d => { d with token := .can })), 0, .can, 0, by decide +kernel⟩,
  ⟨(up.modDev (fun d => { d with token := .can })), 0, .can, 1, by decide +kernel⟩⟩

theorem witness_SubIndexZero :
  (∃ (s : State) (p : Port) (idx : Nat) (sub : Nat) (o : Obj), (s.rests = true) ∧ (s.serves p = true) ∧ (s.spDown = false) ∧
    (objFind s.can.nodeId idx sub = .row o) ∧ (0 < sub) ∧ (idx ≠ 0x1003) ∧ (idx / 4 ≠ 0x1600 / 4) ∧ (idx / 4 ≠ 0x1A00 / 4)) :=
  ⟨up, .can, 8448, 3,
    { sub := 3, size := 2, acc := OAcc.rw, expert := false, cls := Cls.imm, lo := 0, hi := 1023, kind := Kind.word 196624 9 0 },
    by decide +kernel⟩

end Sys2Proof.Tests
end

section
/-! SUPPORT. What a write over a port leaves as it was: the registers that `State.rests` reads and those of the values in effect,
and every channel but for what waits in it. -/
namespace Sys2Proof.Machine

/-! ### Registers that a rest depends on -/

/-- A field of a word of the channel blocks. -/
def chanField (f : Fld) : Prop := f.lsb < 32 ∧ 0x20000 ≤ f.addr ∧ f.addr < 0x30000
/-- The fields that `State.rests` reads beside the prepared set, those of the committed values among them: of the epoch block, of the
channel blocks, and of the objects that no register holds. -/
def restField (f : Fld) : Prop :=
  f.lsb < 32 ∧ (f.addr = 0x200 ∨ (0x20000 ≤ f.addr ∧ f.addr < 0x30000) ∨ (0x80000000 ≤ f.addr ∧ f.addr < 0x88000000))

theorem restField_of_chanField {f : Fld} (h : chanField f) : restField f := ⟨h.1, .inr (.inl h.2)⟩
theorem key_ne_of_addr_ne {f g : Fld} (hf : f.lsb < 32) (hg : g.lsb < 32) (h : f.addr ≠ g.addr) : f.key ≠ g.key := by
  unfold Fld.key; omega
theorem key_ne_effKey {f : Fld} (hf : f.lsb < 32) (ha : f.addr < 2 ^ 55) (g : Fld) : f.key ≠ g.effKey := by
  unfold Fld.effKey Fld.key; omega

theorem any_congr_of_mem {α : Type} {l : List α} {p q : α → Bool} (h : ∀ x ∈ l, p x = q x) : l.any p = l.any q := by
  rw [Bool.eq_iff_iff, List.any_eq_true, List.any_eq_true]
  exact exists_congr fun x => and_congr_right fun hx => by rw [h x hx]
theorem all_congr_of_mem {α : Type} {l : List α} {p q : α → Bool} (h : ∀ x ∈ l, p x = q x) : l.all p = l.all q := by
  rw [Bool.eq_iff_iff, List.all_eq_true, List.all_eq_true]
  exact forall₂_congr fun x hx => by rw [h x hx]

/-! ### States that differ in nothing committed -/

/-- A channel without what waits in it: the writes kept while it is parked, and the edits queued while it runs. -/
def Chan.unqueued (c : Chan) : Chan := { c with kept := [], applyQ := [] }

/-- `t` differs from `s` only in what no rest and no committed value depends on: outputs, the mailbox, registers that are no
`restField`, the writes kept for a parked channel and the edits queued in RUN; and, while no epoch is prepared, in the prepared set. -/
structure Undisturbed (s t : State) : Prop where
  get : ∀ f : Fld, restField f → t.get f = s.get f
  eff : ∀ f : Fld, t.eff f = s.eff f
  prep : s.epoch = .openE ∨ ∀ n : Ch, t.get (wavePrep n) = s.get (wavePrep n)
  tb : t.tb = s.tb
  dev : t.dev = s.dev
  epoch : t.epoch = s.epoch
  pix : t.pix = s.pix
  flash : t.flash = s.flash
  cu : t.cu = s.cu
  stake : t.stake = s.stake
  lost : t.pcieLost = s.pcieLost
  chan : ∀ n : Ch, (t.ch[n]).unqueued = (s.ch[n]).unqueued
  kept : ∀ n : Ch, s.chParked n = true ∨ (t.ch[n]).kept = (s.ch[n]).kept
  queue : ∀ n : Ch, s.inRun n = true ∨ (t.ch[n]).applyQ = (s.ch[n]).applyQ

namespace Undisturbed
variable {s t u : State}

/-! #### What it says of a channel -/

theorem chSt (h : Undisturbed s t) (n : Ch) : t.chSt n = s.chSt n := (congrArg Chan.st (h.chan n) :)
theorem trav (h : Undisturbed s t) (n : Ch) : (t.ch[n]).trav = (s.ch[n]).trav := (congrArg Chan.trav (h.chan n) :)
theorem drive (h : Undisturbed s t) (n : Ch) : (t.ch[n]).drive = (s.ch[n]).drive := (congrArg Chan.drive (h.chan n) :)
theorem lines (h : Undisturbed s t) (n : Ch) : (t.ch[n]).lines = (s.ch[n]).lines := (congrArg Chan.lines (h.chan n) :)
theorem readmitK (h : Undisturbed s t) (n : Ch) : (t.ch[n]).readmitK = (s.ch[n]).readmitK := (congrArg Chan.readmitK (h.chan n) :)
theorem linkUp (h : Undisturbed s t) (n : Ch) : t.linkUp n = s.linkUp n := by
  have hl : (t.ch[n]).link = (s.ch[n]).link := (congrArg Chan.link (h.chan n) :)
  unfold State.linkUp State.linkSt; rw [hl]
theorem inRun (h : Undisturbed s t) (n : Ch) : t.inRun n = s.inRun n := by unfold State.inRun; rw [h.chSt n]
theorem getCh (h : Undisturbed s t) {f : Fld} (hf : chanField f) : t.get f = s.get f := h.get f (restField_of_chanField hf)
theorem has (h : Undisturbed s t) {f : Fld} (hf : restField f) : t.has f = s.has f := by unfold State.has; rw [h.get f hf]
theorem hasCh (h : Undisturbed s t) {f : Fld} (hf : chanField f) : t.has f = s.has f := h.has (restField_of_chanField hf)
theorem chParked (h : Undisturbed s t) (n : Ch) : t.chParked n = s.chParked n := by
  have hv : t.has (Lv.HV_ON n) = s.has (Lv.HV_ON n) := h.hasCh (by simp only [chanField, Lv.HV_ON]; omega)
  unfold State.chParked
  rw [h.chSt n, h.dev, hv, h.drive n]
theorem wipedFree (h : Undisturbed s t) (n : Ch) : t.wipedFree n = s.wipedFree n := by
  unfold State.wipedFree; rw [h.drive n, h.lines n]

/-! #### The slots and the checks of an epoch -/

theorem subPulse (h : Undisturbed s t) (n : Ch) {sl j : Nat} (hs : sl < 256) (hj : j < 4) : t.subPulse n sl j = s.subPulse n sl j := by
  unfold State.subPulse
  simp (disch :=
    simp only [chanField, Sl.SP_START, Sl.TGT_A, Sl.STEP_A, Sl.HOLD_A, Sl.TGT_B, Sl.STEP_B, Sl.HOLD_B, Sl.STEP_R]
    omega) only [h.getCh]
/-- A slot number of 8 bits keeps a slot's words inside the channel blocks. -/
theorem slotDesc (h : Undisturbed s t) (n : Ch) {sl : Nat} (hs : sl < 256) : t.slotDesc n sl = s.slotDesc n sl := by
  have hsp : (List.range 4).map (fun j => t.subPulse n sl j) = (List.range 4).map (fun j => s.subPulse n sl j) :=
    List.map_congr_left fun j hj => h.subPulse n hs (List.mem_range.mp hj)
  unfold State.slotDesc
  simp (disch :=
    simp only [chanField, Sl.REST, Sl.FIN_T, Sl.QUIET, Sl.SP_EN, Sl.RAIL1, Sl.RAIL2, Sl.RAIL3, Sl.MASK1, Sl.MASK2, Sl.MASK3]
    omega) only [h.getCh, h.hasCh, hsp]
theorem ltc (h : Undisturbed s t) (n : Ch) {sl : Nat} (hs : sl < 256) : t.ltc n sl = s.ltc n sl := by
  have hstart : ∀ j ∈ s.spDefined n sl, t.get (Sl.SP_START n sl j) = s.get (Sl.SP_START n sl j) := fun j hj =>
    h.getCh (by
      have : j < 4 := List.mem_range.mp (List.mem_filter.mp hj).1
      simp only [chanField, Sl.SP_START]; omega)
  have hper : t.get (Tr.MIN_PER n) = s.get (Tr.MIN_PER n) := h.getCh (by simp only [chanField, Tr.MIN_PER]; omega)
  have hnoz : t.get (Lk.FE_NOZ n) = s.get (Lk.FE_NOZ n) := h.getCh (by simp only [chanField, Lk.FE_NOZ]; omega)
  have hcap : t.get (Lk.FE_CAP n) = s.get (Lk.FE_CAP n) := h.getCh (by simp only [chanField, Lk.FE_CAP]; omega)
  have hnum : t.nozzles n = s.nozzles n := h.getCh (by simp only [chanField, Ld.NOZZLES]; omega)
  have hdef : t.spDefined n sl = s.spDefined n sl := by unfold State.spDefined; rw [h.slotDesc n hs]
  have hend : t.spEnd n sl = s.spEnd n sl := by funext j; unfold State.spEnd; rw [h.slotDesc n hs]
  have hmask : t.driveMask n sl = s.driveMask n sl := by funext j; unfold State.driveMask; rw [h.slotDesc n hs]
  have hrail : t.driveRail n sl = s.driveRail n sl := by funext j; unfold State.driveRail; rw [h.slotDesc n hs]
  unfold State.ltc State.slotLineTime State.largestEnd
  rw [h.linkUp n, h.slotDesc n hs, hper, hnoz, hcap, hnum, hdef, hend, hmask, hrail]
  rw [any_congr_of_mem fun j hj => by rw [hstart j hj]]
theorem epochCheck (h : Undisturbed s t) (n : Ch) (hp : t.get (wavePrep n) = s.get (wavePrep n)) (hs : s.get (wavePrep n) < 256) :
    t.epochCheck n = s.epochCheck n := by
  have hv : t.has (Lv.VALID n (s.get (wavePrep n))) = s.has (Lv.VALID n (s.get (wavePrep n))) := h.hasCh (by
    unfold Lv.VALID; split
    · simp only [chanField, Lv.VALID0]; omega
    · simp only [chanField, Lv.VALID1]; omega)
  have hcu : t.get (Tr.CU n) = s.get (Tr.CU n) := h.getCh (by simp only [chanField, Tr.CU]; omega)
  have hec : t.get Ep.EP_CU = s.get Ep.EP_CU := h.get _ (by simp [restField, Ep.EP_CU])
  unfold State.epochCheck
  simp only [hp, hv, hcu, hec, h.chSt n, h.trav n, h.ltc n hs]
/-- Whether the epoch stands, where the slots that the prepared set selects lie in their 8 bits. -/
theorem epochStands (h : Undisturbed s t) (hw : ∀ n : Ch, s.get (wavePrep n) < 256) : t.epochStands = s.epochStands := by
  have hm : t.epMask = s.epMask := by
    unfold State.epMask; rw [h.get Ep.EP_MASK (by simp [restField, Ep.EP_MASK])]
  unfold State.epochStands
  rw [h.epoch]
  obtain ho | hp := h.prep
  · simp [ho]
  · rw [hm]; simp only [h.epochCheck _ (hp _) (hw _)]

/-! #### Rest -/

theorem shadows (h : Undisturbed s t) (n : Ch) :
    (shadowed n).all (fun f => t.eff f == t.get f) = (shadowed n).all (fun f => s.eff f == s.get f) := by
  have hg : ∀ f ∈ shadowed n, chanField f := by
    simp only [shadowed, List.forall_mem_cons, chanField, Tr.TRIM, Ld.ROW_EN, Ed.BS_MODE, Ed.BS_H, Ed.SUB_BUMP, Lv.W_SCALE,
      Nh.SNS_EN, Nh.SNS_CODES, Nh.STRIP_EN]
    refine ⟨?_, ?_, ?_, ?_, ?_, ?_, ?_, ?_, ?_, List.forall_mem_nil _⟩ <;> omega
  exact all_congr_of_mem fun f hf => by rw [h.eff f, h.getCh (hg f hf)]
theorem chRests (h : Undisturbed s t) (n : Ch) : t.chRests n = s.chRests n := by
  have hp : t.has (Lv.PRECHG n) = s.has (Lv.PRECHG n) := h.hasCh (by simp only [chanField, Lv.PRECHG]; omega)
  have hk : (s.chParked n || (t.ch[n]).kept.isEmpty) = (s.chParked n || (s.ch[n]).kept.isEmpty) := by
    obtain e | e := h.kept n
    · rw [e, Bool.true_or, Bool.true_or]
    · rw [e]
  unfold State.chRests
  rw [h.drive n, h.tb, h.chParked n, hk, h.inRun n, h.wipedFree n, h.shadows n, h.chSt n, hp, h.linkUp n, h.readmitK n]
  obtain e | e := h.queue n
  · rw [if_pos e, if_pos e]
  · rw [e]
theorem benchDue (h : Undisturbed s t) (n : Ch) : t.benchDue n = s.benchDue n := by
  have hp : t.has (Lv.PRECHG n) = s.has (Lv.PRECHG n) := h.hasCh (by simp only [chanField, Lv.PRECHG]; omega)
  unfold State.benchDue State.benchOn
  rw [h.dev, h.chSt n, hp, h.linkUp n, h.drive n, h.tb]
theorem pixAsked (h : Undisturbed s t) : t.pixAsked = s.pixAsked := by
  unfold State.pixAsked
  simp (disch := (simp only [restField, objFld]; omega)) only [h.has]
/-- A device at rest is at rest after it. -/
theorem rests (h : Undisturbed s t) (hw : ∀ n : Ch, s.get (wavePrep n) < 256) : t.rests = s.rests := by
  have hk : t.pixKept = s.pixKept := by unfold State.pixKept; rw [h.dev, h.pixAsked]
  have hn : t.pixWanted = s.pixWanted := by unfold State.pixWanted; rw [h.dev, h.pixAsked]
  have hd : t.saveDue = s.saveDue := by unfold State.saveDue; rw [h.flash, h.tb]
  unfold State.rests
  simp only [h.dev, h.lost, h.pix, hk, hn, hd, h.chRests, h.benchDue, h.epochStands hw]

/-! #### What leaves a state undisturbed -/

theorem refl (s : State) : Undisturbed s s where
  get _ _ := rfl
  eff _ := rfl
  prep := .inr fun _ => rfl
  tb := rfl
  dev := rfl
  epoch := rfl
  pix := rfl
  flash := rfl
  cu := rfl
  stake := rfl
  lost := rfl
  chan _ := rfl
  kept _ := .inr rfl
  queue _ := .inr rfl
theorem trans (h : Undisturbed s t) (k : Undisturbed t u) : Undisturbed s u where
  get f hf := (k.get f hf).trans (h.get f hf)
  eff f := (k.eff f).trans (h.eff f)
  prep := by
    obtain ho | hp := h.prep
    · exact .inl ho
    · exact k.prep.imp (fun e => h.epoch.symm.trans e) (fun q n => (q n).trans (hp n))
  tb := k.tb.trans h.tb
  dev := k.dev.trans h.dev
  epoch := k.epoch.trans h.epoch
  pix := k.pix.trans h.pix
  flash := k.flash.trans h.flash
  cu := k.cu.trans h.cu
  stake := k.stake.trans h.stake
  lost := k.lost.trans h.lost
  chan n := (k.chan n).trans (h.chan n)
  kept n := by
    obtain hp | hk := h.kept n
    · exact .inl hp
    · exact (k.kept n).imp (fun e => (h.chParked n).symm.trans e) (fun q => q.trans hk)
  queue n := by
    obtain hp | hk := h.queue n
    · exact .inl hp
    · exact (k.queue n).imp (fun e => (h.inRun n).symm.trans e) (fun q => q.trans hk)
/-- A state that differs in its outputs, its mailbox request and the requests that wait for the station processor. -/
theorem of_mailbox (s : State) (o : List Out) (m : Option MbReq) (d : List Instr) :
    Undisturbed s { s with out := o, pcie := { s.pcie with mb := m }, deferred := d } := { refl s with }
/-- A register that is no `restField`, nor of the prepared set of an epoch that is not open. -/
theorem put (s : State) {f : Fld} (v : Nat) (hl : f.lsb < 32) (hc : f.addr < 0x20000 ∨ 0x30000 ≤ f.addr) (he : f.addr ≠ 0x200)
    (ho : f.addr < 0x80000000 ∨ (s.epoch = .openE ∧ 0x88000000 ≤ f.addr ∧ f.addr < 2 ^ 55)) : Undisturbed s (s.put f v) where
  get g hg := get_put_other s v (key_ne_of_addr_ne hl hg.1 (by obtain ⟨-, hg⟩ := hg; omega))
  eff g := eff_put_other s v (key_ne_effKey hl (by omega) g)
  prep := by
    obtain ha | ⟨hs, -⟩ := ho
    · exact .inr fun n => get_put_other s v (key_ne_of_addr_ne hl (by simp [wavePrep, prepFld]) (by simp only [wavePrep, prepFld]; omega))
    · exact .inl hs
  tb := rfl
  dev := rfl
  epoch := rfl
  pix := rfl
  flash := rfl
  cu := rfl
  stake := rfl
  lost := rfl
  chan _ := rfl
  kept _ := .inr rfl
  queue _ := .inr rfl
/-- What waits in a channel, where a rest does not depend on it. -/
theorem modCh (s : State) (n : Ch) {f : Chan → Chan} (hc : (f s.ch[n]).unqueued = (s.ch[n]).unqueued)
    (hk : s.chParked n = true ∨ (f s.ch[n]).kept = (s.ch[n]).kept) (hq : s.inRun n = true ∨ (f s.ch[n]).applyQ = (s.ch[n]).applyQ) :
    Undisturbed s (s.modCh n f) :=
  { refl s with
    chan := fun m => by
      obtain rfl | hm := eq_or_ne n m
      · rw [modCh_same]; exact hc
      · rw [modCh_other s f hm]
    kept := fun m => by
      obtain rfl | hm := eq_or_ne n m
      · rw [modCh_same]; exact hk
      · rw [modCh_other s f hm]; exact .inr rfl
    queue := fun m => by
      obtain rfl | hm := eq_or_ne n m
      · rw [modCh_same]; exact hq
      · rw [modCh_other s f hm]; exact .inr rfl }

/-! #### The answer to a port -/

theorem cause (s : State) (v : Nat) (hv : v < 32) : Undisturbed s (s.cause v) := by
  have hstat : ∀ x, Undisturbed s (s.put Ho.INT_STAT x) := fun x =>
    put s x (by simp [Ho.INT_STAT]) (by simp [Ho.INT_STAT]) (by simp [Ho.INT_STAT]) (by simp [Ho.INT_STAT])
  unfold State.cause; dsimp only
  split
  · exact refl s
  split
  · exact refl s
  split
  · exact hstat _
  split
  · exact (hstat _).trans (put _ 1 (by simpa [Mx.PBA] using hv) (by simp [Mx.PBA]) (by simp [Mx.PBA]) (by simp [Mx.PBA]))
  split
  · exact hstat _
  · exact (hstat _).trans (of_mailbox _ _ _ _)
theorem mbPut (h : Undisturbed s t) {f : Fld} (v : Nat) (hf : f.lsb < 32 ∧ 0x80000 ≤ f.addr ∧ f.addr < 0x81000) :
    Undisturbed s (t.put f v) := by
  obtain ⟨hl, lo, hi⟩ := hf
  exact h.trans (put t v hl (by omega) (by omega) (by omega))
/-- The mailbox's answer to a write: its response words, BUSY and DONE, and cause bit 0 (R438). -/
theorem mbAnswer (s : State) (idx sub abort : Nat) : Undisturbed s (s.mbAnswer idx sub abort []) := by
  have hreq : Undisturbed s { s with pcie := { s.pcie with mb := none } } := of_mailbox s s.out none s.deferred
  unfold State.mbAnswer
  split
  · exact refl s
  split
  · exact refl s
  simp only [or_true, if_true]
  exact (((((hreq.mbPut (f := Mb.RSP_SEQ) _ (by decide)).mbPut (f := Mb.RSP_ABORT) _ (by decide)).mbPut (f := Mb.RSP_LEN) _
    (by decide)).mbPut (f := Mb.BUSY) 0 (by decide)).mbPut (f := Mb.DONE) 1 (by decide)).trans (cause _ 0 (by decide))
theorem answer (s : State) (p : Port) (idx sub abort : Nat) : Undisturbed s (s.answer p idx sub abort) := by
  have hout : Undisturbed s (s.emit (.sdo p idx sub abort)) := of_mailbox s _ s.pcie.mb s.deferred
  cases p with
  | can => exact hout
  | pcie => exact hout.trans (mbAnswer _ idx sub abort)

end Undisturbed

/-! ### Writes of EPOCH objects -/

/-- A row list without an EPOCH object. -/
def noEpochRow (rows : List Obj) : Bool := rows.all (fun o => decide (o.cls ≠ .epoch))

theorem objComm_noEpochRow {node idx : Nat} {rows : List Obj} (h : objComm node idx = some rows) : noEpochRow rows = true := by
  unfold objComm at h
  split at h
  · cases h; rfl
  split at h
  · cases h; rfl
  split at h
  · cases h; rfl
  split at h
  · cases h; rfl
  split at h <;> cases h <;> rfl
theorem objChan_cases {idx : Nat} {rows : List Obj} (h : objChan idx = some rows) :
    (idx % 0x100 = 0x10 ∧ rows = objTrav ((idx - 0x3000) / 0x100)) ∨ (idx % 0x100 = 0x40 ∧ rows = objLevel ((idx - 0x3000) / 0x100)) ∨
      noEpochRow rows = true := by
  unfold objChan at h
  split at h <;> cases h
  case h_2 e => exact .inl ⟨e, rfl⟩
  case h_8 e => exact .inr (.inl ⟨e, rfl⟩)
  all_goals exact .inr (.inr rfl)
/-- A range of indices whose rows hold no EPOCH object may be passed over. -/
theorem rows_of_ite {c : Prop} [Decidable c] {a rows : List Obj} {y : Option (List Obj)} {Q : Prop} (ha : noEpochRow a = true)
    (hy : y = some rows → Q ∨ noEpochRow rows = true) (h : (if c then some a else y) = some rows) : Q ∨ noEpochRow rows = true := by
  by_cases hc : c
  · rw [if_pos hc, Option.some_inj] at h; exact .inr (h ▸ ha)
  · rw [if_neg hc] at h; exact hy h
theorem objThermal_noEpochRow (m : Nat) : noEpochRow (objThermal m) = true := by unfold objThermal; split <;> rfl
/-- EPOCH objects stand in the channel objects alone. -/
theorem objRows_cases {node idx : Nat} {rows : List Obj} (h : objRows node idx = some rows) :
    (0x3000 ≤ idx ∧ idx < 0x3800 ∧ objChan idx = some rows) ∨ noEpochRow rows = true := by
  unfold objRows at h
  by_cases hcomm : idx < 0x2000
  · rw [if_pos hcomm] at h; exact .inr (objComm_noEpochRow h)
  rw [if_neg hcomm] at h
  refine rows_of_ite rfl (rows_of_ite rfl fun h => ?_) h
  by_cases hchan : 0x3000 ≤ idx ∧ idx < 0x3800
  · rw [if_pos hchan] at h; exact .inl ⟨hchan.1, hchan.2, h⟩
  rw [if_neg hchan] at h
  refine rows_of_ite (objThermal_noEpochRow _) (rows_of_ite rfl <| rows_of_ite rfl <| rows_of_ite rfl <| rows_of_ite rfl <|
    rows_of_ite rfl <| rows_of_ite rfl <| rows_of_ite rfl <| rows_of_ite rfl fun h => ?_) h
  split at h <;> cases h <;> exact .inr rfl
/-- A value of the prepared set. -/
def prepField (f : Fld) : Prop := f.lsb < 32 ∧ 0x88000000 ≤ f.addr ∧ f.addr < 2 ^ 55
theorem objTrav_epoch {n : Nat} (hn : n < 8) {o : Obj} (ho : o ∈ objTrav n) (hc : o.cls = .epoch) : ∃ f, o.kind = .prep f ∧ prepField f := by
  have hrow : ∀ o ∈ objTrav n, o.cls = .epoch → o.kind = .prep (prepPitch n) ∨ o.kind = .prep (prepOfs n) ∨ o.kind = .prep (prepRev n) := by
    simp [objTrav, oRw, oRo, oWo, Obj.x]
  obtain e | e | e := hrow o ho hc
  · exact ⟨_, e, by simp only [prepField, prepPitch, prepFld]; omega⟩
  · exact ⟨_, e, by simp only [prepField, prepOfs, prepFld]; omega⟩
  · exact ⟨_, e, by simp only [prepField, prepRev, prepFld]; omega⟩
theorem objLevel_epoch {n : Nat} (hn : n < 8) {o : Obj} (ho : o ∈ objLevel n) (hc : o.cls = .epoch) : ∃ f, o.kind = .prep f ∧ prepField f := by
  have hrow : ∀ o ∈ objLevel n, o.cls = .epoch → o.kind = .prep (wavePrep n) := by
    simp [objLevel, oRw, oRo, oWo, Obj.x]
  exact ⟨_, hrow o ho hc, by simp only [prepField, wavePrep, prepFld]; omega⟩
/-- An EPOCH object belongs to a channel, and its home is the prepared set (R46). -/
theorem objFind_epoch {node idx sub : Nat} {o : Obj} (h : objFind node idx sub = .row o) (hc : o.cls = .epoch) :
    idx < 0x3800 ∧ (∃ n, objOfChan idx = some n) ∧ ∃ f, o.kind = .prep f ∧ prepField f := by
  unfold objFind at h
  split at h
  · cases h
  next rows hrows =>
  split at h
  next o' hfind =>
    cases h
    have ho : o ∈ rows := List.mem_of_find?_eq_some hfind
    obtain ⟨lo, hi, hch⟩ | hno := objRows_cases hrows
    · have hn : (idx - 0x3000) / 0x100 < 8 := by omega
      obtain ⟨hi', rfl⟩ | ⟨hi', rfl⟩ | hno := objChan_cases hch
      · exact ⟨hi, ⟨_, if_pos ⟨lo, hi, by omega⟩⟩, objTrav_epoch hn ho hc⟩
      · exact ⟨hi, ⟨_, if_pos ⟨lo, hi, by omega⟩⟩, objLevel_epoch hn ho hc⟩
      · exact absurd hc (by simpa using List.all_eq_true.mp hno o ho)
    · exact absurd hc (by simpa using List.all_eq_true.mp hno o ho)
  · split at h <;> cases h

section
variable {s : State} {w : World} {p : Port} {owed : Option Port} {idx : Nat} {o : Obj} {data : List Byte} {f : Fld}

theorem fin_fst (s : State) : (fin s).1 = s := rfl
theorem objDo_prep (hk : o.kind = .prep f) : s.objDo w p owed idx o data = fin (s.put f (leNat data)) := by
  unfold State.objDo; rw [hk]
theorem objRefused_prep (hk : o.kind = .prep f) : s.objRefused o data = s := by
  unfold State.objRefused; rw [hk]
/-- While an epoch is PREPARED or ARMED the prepared set does not change (R334). -/
theorem epoch_of_objCheck_prep (hk : o.kind = .prep f) (h : s.objCheck p idx o data = none) : s.epoch = .openE := by
  by_contra ho
  have hj : s.objJudge p idx o data = some abState := by
    unfold State.objJudge; rw [hk]; simp [firstBad, ho]
  unfold State.objCheck at h
  split at h
  · cases h
  · rw [hj] at h; simp at h
theorem put_prep_undisturbed (hf : prepField f) (ho : s.epoch = .openE) (v : Nat) : Undisturbed s (s.put f v) := by
  obtain ⟨hl, lo, hi⟩ := hf
  exact Undisturbed.put s v hl (by omega) (by omega) (.inr ⟨ho, lo, hi⟩)

end
/-- Outside RUN the write sets the prepared value. -/
theorem objNow_epoch_undisturbed (s : State) (w : World) (p : Port) (owed : Option Port) {idx : Nat} {o : Obj} {f : Fld} (data : List Byte)
    (hi : idx < 0x3800) (hk : o.kind = .prep f) (hf : prepField f) : Undisturbed s (s.objNow w p owed idx o data).1 := by
  have ht : s.otpTouch idx o.sub = s := if_neg (by omega)
  unfold State.objNow
  rw [ht]
  split
  · exact .refl s
  split
  · rw [objRefused_prep hk]; exact .refl s
  next hc =>
    rw [objDo_prep hk]
    exact put_prep_undisturbed hf (epoch_of_objCheck_prep hk hc) _
/-- For a parked channel it is kept (R322). -/
theorem objKeep_undisturbed (s : State) (p : Port) {n : Ch} (idx : Nat) (o : Obj) (data : List Byte) (hp : s.chParked n = true) :
    Undisturbed s (s.objKeep p n idx o data).1 := by
  unfold State.objKeep; dsimp only
  split
  · exact .refl s
  split
  · exact .refl s
  · rw [fin_fst]; exact .modCh s n rfl (.inl hp) (.inr rfl)
/-- In RUN it sets the prepared value, or waits behind the edits before it (R46). -/
theorem objRun_epoch_undisturbed (s : State) (w : World) (p : Port) (owed : Option Port) {n : Ch} (idx : Nat) {o : Obj} {f : Fld}
    (data : List Byte) (hr : s.inRun n = true) (ho : s.epoch = .openE) (hc : o.cls = .epoch) (hk : o.kind = .prep f) (hf : prepField f) :
    Undisturbed s (s.objRun w p owed n idx o data).1 := by
  unfold State.objRun
  rw [hc, if_neg (by decide), if_pos rfl]
  split
  · rw [objDo_prep hk]; exact put_prep_undisturbed hf ho _
  split
  · exact .refl s
  rw [fin_fst]; exact .modCh s n rfl (.inr rfl) (.inl hr)
theorem objWrite_epoch_undisturbed (s : State) (w : World) (p : Port) (owed : Option Port) {idx sub : Nat} {o : Obj} (data : List Byte)
    (h : objFind s.can.nodeId idx sub = .row o) (hc : o.cls = .epoch) : Undisturbed s (s.objWrite w p owed idx sub data).1 := by
  obtain ⟨hi, ⟨n, hn⟩, f, hk, hf⟩ := objFind_epoch h hc
  unfold State.objWrite
  simp only [h, hn]
  split
  next hp => exact objKeep_undisturbed s p idx o data hp
  split
  · exact objNow_epoch_undisturbed s w p owed data hi hk hf
  next hr =>
    split
    · exact .refl s
    split
    · rw [objRefused_prep hk]; exact .refl s
    next hb => exact objRun_epoch_undisturbed s w p owed idx data (by simpa using hr) (epoch_of_objCheck_prep hk hb) hc hk hf
/-- A write of an EPOCH object over a port, answered, refused, deferred or not served at all. -/
theorem portWrite_epoch_undisturbed (s : State) (w : World) (p : Port) {idx sub : Nat} {o : Obj} (data : List Byte)
    (h : objFind s.can.nodeId idx sub = .row o) (hc : o.cls = .epoch) : Undisturbed s (s.portWrite w p idx sub data) := by
  unfold State.portWrite State.reqWrite State.deferIf
  split
  · split
    · exact .of_mailbox s s.out s.pcie.mb _
    · unfold State.sdoWrite; dsimp only
      have hw := objWrite_epoch_undisturbed s w p (some p) data h hc
      split
      · exact hw.trans (.answer _ p idx sub _)
      · exact hw
  · exact .refl s
/-- R12, for the registers as they can stand: where the slots that the prepared set selects lie in their 8 bits, as every write leaves
them (`get_put_same`), a write of an EPOCH object leaves every committed value. -/
theorem epochWrite_leaves_committed (s : State) (p : Port) (idx sub : Nat) (o : Obj) (data : List Byte) (hr : s.rests = true)
    (hw : ∀ n : Ch, s.get (wavePrep n) < 256) (h : objFind s.can.nodeId idx sub = .row o) (hc : o.cls = .epoch) :
    ∃ t, exec (.sdoDownload p idx sub data) s = .next t ∧
    (∀ n : Ch, t.get (Tr.PITCH n) = s.get (Tr.PITCH n) ∧ t.get (Tr.OFS_INT n) = s.get (Tr.OFS_INT n) ∧
      t.get (Tr.OFS_FRAC n) = s.get (Tr.OFS_FRAC n) ∧ t.get (Tr.REV_SHIFT n) = s.get (Tr.REV_SHIFT n) ∧
      t.get (Lv.SET_SEL n) = s.get (Lv.SET_SEL n) ∧ t.get (Lv.ACT_SET n) = s.get (Lv.ACT_SET n) ∧
      (t.ch[n]).trav = (s.ch[n]).trav ∧ t.chSt n = s.chSt n) ∧ t.epoch = s.epoch ∧ t.cu = s.cu ∧ t.stake = s.stake := by
  have hu := portWrite_epoch_undisturbed s s.plainWorld p data h hc
  have hset : (s.portWrite s.plainWorld p idx sub data).settle = s.portWrite s.plainWorld p idx sub data :=
    settle_of_rests ((hu.rests hw).trans hr)
  refine ⟨s.portWrite s.plainWorld p idx sub data, congrArg Host.Outcome.next hset, fun n => ?_, hu.epoch, hu.cu, hu.stake⟩
  have hreg : ∀ f : Fld, chanField f → (s.portWrite s.plainWorld p idx sub data).get f = s.get f := fun f hf => hu.getCh hf
  refine ⟨hreg _ ?_, hreg _ ?_, hreg _ ?_, hreg _ ?_, hreg _ ?_, hreg _ ?_, hu.trav n, hu.chSt n⟩ <;>
    simp only [chanField, Tr.PITCH, Tr.OFS_INT, Tr.OFS_FRAC, Tr.REV_SHIFT, Lv.SET_SEL, Lv.ACT_SET] <;> omega

/-! ### A selection of the prepared set beyond its 8 bits -/

/-- A state at rest, with the canonical register list that `Inv` asks for, whose prepared WaveformSet of channel 0 holds 0xBF6, which
no 8-bit field can. The words of slot 0xBF6 then lie at 0x80100, on the mailbox's response. The epoch is PREPARED on channel 0,
which passes its check, and the mailbox serves a write of LinePitch. -/
def wideSelection : State :=
  { State.reset with
    epoch := .prepared
    dev := { Dev.reset with boot := .up, token := .pcie }
    pcie := { Pcie.reset with linkUp := true, perst := false, conf := true, mb := some ⟨0x3010, 3, 0, none⟩ }
    ch := State.reset.ch.set 0 { Chan.reset with st := .idle, link := { Link.reset with st := .up } }
    regs := [(Ep.EP_MASK.key, 1), ((Lv.VALID1 0).key, 1), ((Sl.RAIL1 0 0xBF6).key, 1), ((wavePrep 0).key, 0xBF6)] }
/-- LinePitch of channel 0 (R120). -/
def linePitch : Obj := oRw 3 4 .epoch 0x10000 uAny (.prep (prepPitch 0))

theorem mask1_wide_key : (Sl.MASK1 0 0xBF6).key = Mb.RSP_ABORT.key := rfl
theorem wideSelection_inv : Inv wideSelection := ⟨by decide, by decide⟩
theorem wideSelection_rests : wideSelection.rests = true := by decide +kernel
theorem wideSelection_linePitch : objFind wideSelection.can.nodeId 0x3010 3 = .row linePitch := by decide +kernel
/-- The refusal's abort code lands in MASK1 of the slot, the link check fails, and the epoch is lost (R335). -/
theorem wideSelection_write_loses_epoch :
    (wideSelection.portWrite wideSelection.plainWorld .pcie 0x3010 3 [0, 0, 1, 0]).settle.epoch = .openE := by decide +kernel

/-- Refutes O50: a state at rest may hold any number as its prepared WaveformSet. Where that number is beyond the field's 8 bits, the words
of the slot it selects may be the mailbox's own, so that the answer to a refused write of LinePitch fails the check of a PREPARED epoch,
which goes to OPEN. No write leaves such a number (`get_put_same`), and where there is none the statement holds
(`epochWrite_leaves_committed`). -/
theorem not_epochObjectsWaitForCommit : ¬ Obligations.EpochObjectsWaitForCommit := by
  unfold Obligations.EpochObjectsWaitForCommit
  intro h
  obtain ⟨t, ht, -, hepoch, -, -⟩ := h wideSelection .pcie 0x3010 3 linePitch [0, 0, 1, 0] wideSelection_rests wideSelection_linePitch rfl
  obtain rfl : (wideSelection.portWrite wideSelection.plainWorld .pcie 0x3010 3 [0, 0, 1, 0]).settle = t := Host.Outcome.next.inj ht
  rw [wideSelection_write_loses_epoch] at hepoch
  cases hepoch

/-- The hypotheses of `epochWrite_leaves_committed` met: where the selection went through a write of the field it was cut to its 8 bits,
and under the same write the epoch stays PREPARED. -/
theorem narrowSelection_write_keeps_epoch :
    ∃ t, exec (.sdoDownload .pcie 0x3010 3 [0, 0, 1, 0]) (wideSelection.put (wavePrep 0) 0xBF6) = .next t ∧ t.epoch = .prepared := by
  obtain ⟨t, ht, -, hepoch, -, -⟩ := epochWrite_leaves_committed (wideSelection.put (wavePrep 0) 0xBF6) .pcie 0x3010 3 linePitch
    [0, 0, 1, 0] (by decide +kernel) (by decide +kernel) wideSelection_linePitch rfl
  exact ⟨t, ht, hepoch⟩

end Sys2Proof.Machine
end

section
/-! SUPPORT. The bytes of an image line (R121 to R123, R134) and the line each row reads (R127). -/
namespace Sys2Proof.Machine

/-! ### Lines cut off a byte string -/

/-- Fewer bytes than a line are left as they are. -/
theorem cutQueue_of_short {bs : List Byte} (f cyc tag : Nat) (h : bs.length < lineBytes) : cutQueue f cyc bs tag = ([], bs, tag) := by
  cases f with
  | zero => rfl
  | succ f => exact if_pos h
theorem cutQueue_of_full {bs : List Byte} (f cyc tag : Nat) (h : ¬ bs.length < lineBytes) :
    cutQueue (f + 1) cyc bs tag =
      (⟨tag, bs.take lineBytes, cyc⟩ :: (cutQueue f cyc (bs.drop lineBytes) ((tag + 1) % 2 ^ 48)).1,
        (cutQueue f cyc (bs.drop lineBytes) ((tag + 1) % 2 ^ 48)).2) := if_neg h

/-- The lines cut off and the rest are the bytes there were, in their order. -/
theorem cutQueue_bytes (f cyc : Nat) (bs : List Byte) (tag : Nat) :
    (cutQueue f cyc bs tag).1.flatMap (fun l => l.data) ++ (cutQueue f cyc bs tag).2.1 = bs := by
  induction f generalizing bs tag with
  | zero => rfl
  | succ f ih =>
    by_cases h : bs.length < lineBytes
    · rw [cutQueue_of_short _ _ _ h]; rfl
    · rw [cutQueue_of_full _ _ _ h, List.flatMap_cons, List.append_assoc, ih, List.take_append_drop]
theorem cutQueue_line_length (f cyc : Nat) (bs : List Byte) (tag : Nat) :
    ∀ l ∈ (cutQueue f cyc bs tag).1, l.data.length = lineBytes := by
  induction f generalizing bs tag with
  | zero => exact fun l hl => nomatch hl
  | succ f ih =>
    by_cases h : bs.length < lineBytes
    · rw [cutQueue_of_short _ _ _ h]; exact fun l hl => nomatch hl
    · rw [cutQueue_of_full _ _ _ h, List.forall_mem_cons]
      exact ⟨List.length_take_of_le (Nat.le_of_not_lt h), ih _ _⟩
/-- With fuel for the lines there are, a line is cut off for every 1,280 bytes, and what is left is less than one (R134). -/
theorem cutQueue_counts (f cyc : Nat) (bs : List Byte) (tag : Nat) (h : bs.length < lineBytes * (f + 1)) :
    (cutQueue f cyc bs tag).1.length = bs.length / lineBytes ∧ (cutQueue f cyc bs tag).2.1.length = bs.length % lineBytes := by
  induction f generalizing bs tag with
  | zero => exact ⟨(Nat.div_eq_of_lt h).symm, (Nat.mod_eq_of_lt h).symm⟩
  | succ f ih =>
    by_cases hs : bs.length < lineBytes
    · rw [cutQueue_of_short _ _ _ hs]
      exact ⟨(Nat.div_eq_of_lt hs).symm, (Nat.mod_eq_of_lt hs).symm⟩
    · rw [cutQueue_of_full _ _ _ hs]
      rw [Nat.mul_succ] at h
      obtain ⟨hl, hp⟩ := ih (bs.drop lineBytes) ((tag + 1) % 2 ^ 48) (by rw [List.length_drop]; omega)
      rw [List.length_drop] at hl hp
      have hle : lineBytes ≤ bs.length := Nat.le_of_not_lt hs
      exact ⟨by rw [List.length_cons, hl, Nat.div_eq_sub_div (by decide) hle], by rw [hp, ← Nat.mod_eq_sub_mod hle]⟩

/-! ### The staging queue -/

/-- The bytes of the whole 64-bit words at the front of a byte string (R123). -/
def wholeWords (w : List Byte) : Nat := w.length / 8 * 8
theorem wholeWords_le (w : List Byte) : wholeWords w ≤ w.length := Nat.div_mul_le_self _ _
/-- The bytes that wait for the rest of their word are fewer than a word. -/
theorem length_drop_wholeWords_lt (w : List Byte) : (w.drop (wholeWords w)).length < 8 := by
  rw [List.length_drop]; unfold wholeWords; omega
/-- What `queuePush` cuts off: the lines in the partial line and the whole words behind it. -/
def Queue.cut (q : Queue) (cyc : Nat) (bs : List Byte) : List QLine × List Byte × Nat :=
  cutQueue (wholeWords (q.word ++ bs) / lineBytes + 1) cyc (q.part ++ (q.word ++ bs).take (wholeWords (q.word ++ bs))) q.tag

theorem queuePush_parked {s : State} {n : Ch} (bs : List Byte) (h : s.chParked n = true) : s.queuePush n bs = s := if_pos h
theorem queuePush_queue {s : State} {n : Ch} (bs : List Byte) (h : s.chParked n = false) :
    ((s.queuePush n bs).ch[n]).q =
      { lines := (s.ch[n]).q.lines ++ ((s.ch[n]).q.cut (cycleOf s.tb) bs).1
        part := ((s.ch[n]).q.cut (cycleOf s.tb) bs).2.1
        tag := ((s.ch[n]).q.cut (cycleOf s.tb) bs).2.2
        word := ((s.ch[n]).q.word ++ bs).drop (wholeWords ((s.ch[n]).q.word ++ bs)) } := by
  unfold State.queuePush
  rw [h, if_neg (by decide), modCh_same]
  rfl

section
variable (q : Queue) (cyc : Nat) (bs : List Byte)

/-- No byte is lost, and none comes out of its order. -/
theorem cut_bytes :
    (q.cut cyc bs).1.flatMap (fun l => l.data) ++ (q.cut cyc bs).2.1 ++ (q.word ++ bs).drop (wholeWords (q.word ++ bs)) =
      q.part ++ (q.word ++ bs) := by
  unfold Queue.cut
  rw [cutQueue_bytes, List.append_assoc, List.take_append_drop]
theorem cut_line_length : ∀ l ∈ (q.cut cyc bs).1, l.data.length = lineBytes := cutQueue_line_length _ _ _ _
/-- A line is complete with every 1,280th byte of the whole words and no other (R134). -/
theorem cut_counts (hp : q.part.length < lineBytes) :
    (q.cut cyc bs).1.length = (q.part.length + wholeWords (q.word ++ bs)) / lineBytes ∧
    (q.cut cyc bs).2.1.length = (q.part.length + wholeWords (q.word ++ bs)) % lineBytes := by
  have hlen : (q.part ++ (q.word ++ bs).take (wholeWords (q.word ++ bs))).length = q.part.length + wholeWords (q.word ++ bs) := by
    rw [List.length_append, List.length_take_of_le (wholeWords_le _)]
  rw [← hlen]
  refine cutQueue_counts _ _ _ _ ?_
  rw [hlen]
  unfold lineBytes at *
  omega

end

/-! ### The codes of a line -/

theorem imageCode_eq (bs : List Byte) (i : Nat) : imageCode bs i = (bs.getD (i / 4) 0).toNat / 2 ^ (2 * (i % 4)) % 4 := by
  have hw : 2 * (i % 4) + 1 + 1 - 2 * (i % 4) = 2 := by omega
  unfold imageCode bits
  rw [hw]; rfl
theorem length_imageCodes (noz : Nat) (bs : List Byte) : (imageCodes noz bs).length = noz := by
  rw [imageCodes, List.length_map, List.length_range]
theorem getD_imageCodes {noz i : Nat} (bs : List Byte) (h : i < noz) : (imageCodes noz bs).getD i 0 = imageCode bs i := by
  rw [List.getD_eq_getElem _ _ ((length_imageCodes noz bs).symm ▸ h)]
  unfold imageCodes
  rw [List.getElem_map, List.getElem_range]
/-- The code map (R152): level 0 has no drive code, and each other level has that of its rail. -/
theorem codeMap_levels (s : State) (n : Ch) (w : Bool) :
    s.codeMap n 0 w = 0 ∧
    s.codeMap n 1 w = s.get (if w then Ed.MAP_SW n else Ed.MAP_SF n) ∧
    s.codeMap n 2 w = s.get (if w then Ed.MAP_MW n else Ed.MAP_MF n) ∧
    s.codeMap n 3 w = s.get (if w then Ed.MAP_LW n else Ed.MAP_LF n) := by
  cases w with
  | false => exact ⟨rfl, rfl, rfl, rfl⟩
  | true => exact ⟨rfl, rfl, rfl, rfl⟩

/-! ### The line a row reads -/

theorem rowsDmax_eq (rows : List (Nat × Nat)) : rowsDmax rows = ((rowsUsed rows).map Prod.snd).max?.getD 0 := by
  have h : rowsDmax rows = ((rowsUsed rows).map Prod.snd).foldl max 0 := List.foldl_map.symm
  rw [h, List.foldl_max, Nat.zero_max]
theorem le_rowsDmax {rows : List (Nat × Nat)} {x : Nat × Nat} (h : x ∈ rowsUsed rows) : x.2 ≤ rowsDmax rows := by
  rw [rowsDmax_eq]
  exact List.le_max?_getD_of_mem (List.mem_map_of_mem h)
/-- Where a row is in use, D_max is the DELAY of one (R127). -/
theorem exists_delay_eq_rowsDmax {rows : List (Nat × Nat)} (h : rowsUsed rows ≠ []) :
    ∃ x ∈ rowsUsed rows, x.2 = rowsDmax rows := by
  rw [rowsDmax_eq]
  cases hm : ((rowsUsed rows).map Prod.snd).max? with
  | none => exact absurd (List.map_eq_nil_iff.mp (List.max?_eq_none_iff.mp hm)) h
  | some d => exact List.mem_map.mp (List.max?_mem hm)
theorem rowE_forward {s : State} {n : Ch} {k : Nat} (r : Nat) (h : s.get (Tr.MODE n) ≠ 2 ∨ s.passBack n k = false) :
    s.rowE n k r = ((s.ch[n]).store.rows.getD r (0, 0)).2 :=
  if_neg fun ⟨hm, hb⟩ => h.elim (· hm) fun hf => Bool.noConfusion (hf.symm.trans hb)
theorem rowE_backward {s : State} {n : Ch} {k : Nat} (r : Nat) (hm : s.get (Tr.MODE n) = 2) (hb : s.passBack n k = true) :
    s.rowE n k r = rowsDmax (s.ch[n]).store.rows - ((s.ch[n]).store.rows.getD r (0, 0)).2 := if_pos ⟨hm, hb⟩

/-- Settles O58: a line is cut off for every 1,280 bytes of whole words (`cut_counts`), the lines, the partial line and the unfinished
word are the bytes that came (`cut_bytes`), and D_max is the maximum of the DELAYs in use (`rowsDmax_eq`). -/
theorem imageLinesReachRows : Obligations.ImageLinesReachRows := by
  unfold Obligations.ImageLinesReachRows
  refine ⟨fun s n bs h => queuePush_parked bs h, fun s n bs h hp => ?queue, fun noz bs i _ hi => ?codes,
    fun s n w => codeMap_levels s n w, fun s n k r => ⟨rowE_forward r, rowE_backward r⟩, fun rows => ?dmax⟩
  case queue =>
    obtain ⟨hl, hpart⟩ := cut_counts (s.ch[n]).q (cycleOf s.tb) bs hp
    have hk : wholeWords ((s.ch[n]).q.word ++ bs) = 8 * (((s.ch[n]).q.word ++ bs).length / 8) := Nat.mul_comm _ _
    dsimp only
    rw [queuePush_queue bs h, ← hk, List.drop_left]
    refine ⟨rfl, length_drop_wholeWords_lt _, hpart, ?_, ?_, cut_bytes _ _ _⟩
    · rw [List.length_append, hl]; rfl
    · exact List.all_eq_true.mpr fun l hmem => beq_iff_eq.mpr (cut_line_length _ _ _ l hmem)
  case codes => exact ⟨length_imageCodes noz bs, (getD_imageCodes bs hi).trans (imageCode_eq bs i)⟩
  case dmax =>
    refine ⟨List.all_eq_true.mpr fun x hx => decide_eq_true (le_rowsDmax hx), fun hne => ?_⟩
    obtain ⟨x, hx, hd⟩ := exists_delay_eq_rowsDmax hne
    exact List.any_eq_true.mpr ⟨x, hx, beq_iff_eq.mpr hd⟩

end Sys2Proof.Machine
end

section
/-! SUPPORT. The histories and the rails of basic backsight (R161, R162), and what a write of BS_H comes to over either port (R11, R177,
R178). -/
namespace Sys2Proof.Machine

/-! ### The history of an entry -/

theorem bit_eq_testBit (v i : Nat) : bit v i = v.testBit i := by
  rw [Nat.testBit_eq_decide_div_mod_eq]; rfl
/-- The six bits move up by one, bit 0 is new, and the other bits of the entry stay (R161). -/
theorem histStep_eq (e : Nat) (b : Bool) : histStep e b = e / 64 * 64 + (e % 64 * 2 + b.toNat) % 64 := by
  cases b <;> simp [histStep, withBits, Ent.HIST, bits] <;> omega
theorem hist_histStep (e : Nat) (b : Bool) : Ent.HIST (histStep e b) = (Ent.HIST e * 2 + b.toNat) % 64 := by
  rw [histStep_eq]; simp only [Ent.HIST, bits]; omega
theorem histStep_div (e : Nat) (b : Bool) : histStep e b / 64 = e / 64 := by rw [histStep_eq]; omega
theorem bit_histStep_zero (e : Nat) (b : Bool) : bit (histStep e b) 0 = b := by
  have hmod : histStep e b % 2 = b.toNat := by
    have := b.toNat_le; rw [histStep_eq]; omega
  rw [bit_eq_testBit, Nat.testBit_zero, hmod]; cases b <;> rfl
theorem bit_histStep_succ (e : Nat) (b : Bool) {j : Nat} (hj : j < 5) : bit (histStep e b) (j + 1) = bit e j := by
  have hmod : histStep e b / 2 % 2 ^ 5 = e % 2 ^ 5 := by
    have := b.toNat_le; rw [histStep_eq]; omega
  have hbit := congrArg (Nat.testBit · j) hmod
  simp only [Nat.testBit_mod_two_pow, hj, decide_true, Bool.true_and] at hbit
  rw [bit_eq_testBit, Nat.testBit_succ, hbit, bit_eq_testBit]

/-! ### The table after a line -/

/-- What a key reads, where every listing of it agrees and only the value of an unlisted key may go unlisted. -/
theorem sparseGet_eq_of_mem {d q v : Nat} {l : List (Nat × Nat)} (hval : ∀ x ∈ l, x.1 = q → x.2 = v) (hin : v = d ∨ (q, v) ∈ l) :
    sparseGet d l q = v := by
  induction l with
  | nil => exact (hin.resolve_right (List.not_mem_nil)).symm
  | cons c l ih =>
    obtain ⟨k, u⟩ := c
    by_cases hk : k = q
    · exact (if_pos hk).trans (hval _ List.mem_cons_self hk)
    · refine (if_neg hk).trans (ih (fun x hx => hval x (List.mem_cons_of_mem _ hx)) (hin.imp_right fun h => ?_))
      exact (List.mem_cons.mp h).resolve_left fun e => hk (Prod.mk.inj e).1.symm

/-- The entries of the nozzles with a drive code, each with its history moved on. -/
def State.movedEntries (s : State) (n : Ch) (codes : List Nat) : List (Nat × Nat) :=
  (List.range codes.length).map (fun i => (i, histStep (s.entry n i) (codes.getD i 0 ≠ 0)))

theorem movedEntries_eq_zip (s : State) (n : Ch) (codes : List Nat) :
    ((List.range codes.length).zip codes).map (fun (x : Nat × Nat) => (x.1, histStep (s.entry n x.1) (x.2 ≠ 0))) =
      s.movedEntries n codes := by
  refine List.ext_getElem (by simp [State.movedEntries]) fun i hi _ => ?_
  have hc : i < codes.length := by simpa using hi
  simp [State.movedEntries, List.getElem?_eq_getElem hc]
theorem mem_movedEntries {s : State} {n : Ch} {codes : List Nat} {i e : Nat} :
    (i, e) ∈ s.movedEntries n codes ↔ i < codes.length ∧ e = histStep (s.entry n i) (codes.getD i 0 ≠ 0) := by
  unfold State.movedEntries
  rw [List.mem_map]
  constructor
  · rintro ⟨j, hj, he⟩
    obtain ⟨rfl, rfl⟩ := Prod.mk.inj he
    exact ⟨List.mem_range.mp hj, rfl⟩
  · rintro ⟨hi, rfl⟩
    exact ⟨i, List.mem_range.mpr hi, rfl⟩
theorem length_encodeCodes (s : State) (n : Ch) (k : Nat) : (s.encodeCodes n k).2.1.length = s.nozzles n := by
  change (s.driveCodes n k (s.subSources n k).1).length = s.nozzles n
  rw [State.driveCodes, List.length_map, List.length_range]
/-- The table after a line: the nozzles' entries with their histories moved on, none of them listed at 0, and the entries beyond. -/
theorem encodeCodes_table (s : State) (n : Ch) (k : Nat) :
    ((s.encodeCodes n k).1.ch[n]).table =
      (s.movedEntries n (s.encodeCodes n k).2.1).filter (fun x => x.2 ≠ 0) ++
        (s.ch[n]).table.filter (fun x => (s.encodeCodes n k).2.1.length ≤ x.1) := by
  unfold State.encodeCodes
  dsimp only
  rw [movedEntries_eq_zip]
  split
  · rw [put_ch, modCh_same]
  · rw [modCh_same]
/-- The entry of a nozzle, with 1 moved in when its drive code is not 0 (R161). -/
theorem entry_encodeCodes (s : State) {n : Ch} (k : Nat) {i : Nat} (hi : i < s.nozzles n) :
    (s.encodeCodes n k).1.entry n i = histStep (s.entry n i) ((s.encodeCodes n k).2.1.getD i 0 ≠ 0) := by
  have hlen := length_encodeCodes s n k
  unfold State.entry
  rw [encodeCodes_table]
  refine sparseGet_eq_of_mem (fun x hx hxi => ?_) ?_
  · obtain hx | hx := List.mem_append.mp hx
    · rw [← hxi]; exact (mem_movedEntries.mp (List.mem_of_mem_filter hx)).2
    · have hle := of_decide_eq_true (List.mem_filter.mp hx).2
      omega
  · refine or_iff_not_imp_left.mpr fun hne => List.mem_append_left _ (List.mem_filter.mpr ⟨mem_movedEntries.mpr ?_, by simpa using hne⟩)
    exact ⟨hlen.symm ▸ hi, rfl⟩
/-- Encoding a line moves its drive codes into the histories (R161), and changes no other bit of an entry. -/
theorem encodeCodes_moves_history (s : State) (n : Ch) (k i : Nat) (hi : i < s.nozzles n) :
    let r := s.encodeCodes n k
    let b := if r.2.1.getD i 0 = 0 then 0 else 1
    Ent.HIST (r.1.entry n i) = (Ent.HIST (s.entry n i) * 2 + b) % 64 ∧
    bit (r.1.entry n i) 0 = (r.2.1.getD i 0 != 0) ∧
    (∀ j : Fin 5, bit (r.1.entry n i) ((j : Nat) + 1) = bit (s.entry n i) j) ∧
    r.1.entry n i / 64 = s.entry n i / 64 := by
  dsimp only
  rw [entry_encodeCodes s k hi]
  generalize (s.encodeCodes n k).2.1.getD i 0 = c
  have hnew : decide (c ≠ 0) = (c != 0) := by cases c <;> rfl
  have hcount : (decide (c ≠ 0)).toNat = if c = 0 then 0 else 1 := by cases c <;> rfl
  exact ⟨by rw [hist_histStep, hcount], (bit_histStep_zero _ _).trans hnew, fun j => bit_histStep_succ _ _ j.isLt, histStep_div _ _⟩

/-! ### The rail -/

theorem any_bit_range (h m : Nat) : (List.range m).any (fun j => bit h j) = decide (h % 2 ^ m ≠ 0) := by
  have hzero : h % 2 ^ m = 0 ↔ ∀ j < m, h.testBit j = false := by
    constructor
    · intro hz j hj
      have hbit := Nat.testBit_mod_two_pow h m j
      simpa [hz, hj] using hbit.symm
    · intro hall
      refine Nat.eq_of_testBit_eq fun j => ?_
      rw [Nat.testBit_mod_two_pow, Nat.zero_testBit]
      by_cases hj : j < m
      · rw [hall j hj, Bool.and_false]
      · rw [decide_eq_false hj, Bool.false_and]
  rw [Bool.eq_iff_iff, List.any_eq_true, decide_eq_true_iff, Ne, hzero]
  simp [bit_eq_testBit]
theorem backsight_off {s : State} {n : Ch} (h v : Nat) (hm : s.eff (Ed.BS_MODE n) = 0) : s.backsight n h v = (false, v) := by
  unfold State.backsight; simp only [hm]
/-- Basic backsight (R162): rail W when the nozzle has fired in one of the last BS_H lines. -/
theorem backsight_basic {s : State} {n : Ch} (h v : Nat) (hm : s.eff (Ed.BS_MODE n) = 1) :
    s.backsight n h v = ((List.range (s.eff (Ed.BS_H n))).any (fun j => bit h j), v) := by
  unfold State.backsight; simp only [hm, any_bit_range]
/-- Basic backsight changes the rail alone, and level 0 has no drive code on either rail (R152, R162). -/
theorem backsight_rails (s : State) (n : Ch) (h v : Nat) :
    (s.eff (Ed.BS_MODE n) = 0 → s.backsight n h v = (false, v)) ∧
    (s.eff (Ed.BS_MODE n) = 1 →
      (s.backsight n h v).2 = v ∧ (s.backsight n h v).1 = (List.range (s.eff (Ed.BS_H n))).any (fun j => bit h j)) ∧
    (∀ w : Bool, s.codeMap n 0 w = 0) :=
  ⟨backsight_off h v, fun hm => by rw [backsight_basic h v hm]; exact ⟨rfl, rfl⟩, fun w => (codeMap_levels s n w).1⟩

/-! ### A write outside RUN to the edit block leaves a device at rest -/

/-- A field of no word of an edit block. -/
def offEdit (f : Fld) : Prop :=
  f.lsb < 32 ∧ f.addr < 2 ^ 55 ∧ (f.addr < 0x20000 ∨ 0x28000 ≤ f.addr ∨ f.addr % 0x1000 < 0x300 ∨ 0x400 ≤ f.addr % 0x1000)
/-- `t` differs from `s` in its registers alone, and there in no field outside the edit blocks and no shadow's agreement with its value
in effect. (`Undisturbed` says more: after it every register of the channel blocks stands, BS_H among them.) -/
structure EditedOnly (s t : State) : Prop where
  same : t = { s with regs := t.regs }
  get : ∀ f : Fld, offEdit f → t.get f = s.get f
  shadow : ∀ n : Ch, ∀ f ∈ shadowed n, s.eff f = s.get f → t.eff f = t.get f

namespace EditedOnly
variable {s t : State}

theorem ch (h : EditedOnly s t) : t.ch = s.ch := by rw [h.same]
theorem dev (h : EditedOnly s t) : t.dev = s.dev := by rw [h.same]
theorem has (h : EditedOnly s t) {f : Fld} (hf : offEdit f) : t.has f = s.has f := by unfold State.has; rw [h.get f hf]
theorem slotDesc (h : EditedOnly s t) (n : Ch) {sl : Nat} (hs : sl < 2) : t.slotDesc n sl = s.slotDesc n sl := by
  have hsp : ∀ j < 4, t.subPulse n sl j = s.subPulse n sl j := fun j hj => by
    unfold State.subPulse
    simp (disch := (simp only [offEdit, Sl.SP_START, Sl.TGT_A, Sl.STEP_A, Sl.HOLD_A, Sl.TGT_B, Sl.STEP_B, Sl.HOLD_B, Sl.STEP_R]; omega))
      only [h.get]
  unfold State.slotDesc
  rw [List.map_congr_left fun j hj => hsp j (List.mem_range.mp hj)]
  simp (disch := (simp only [offEdit, Sl.REST, Sl.FIN_T, Sl.QUIET, Sl.SP_EN, Sl.RAIL1, Sl.RAIL2, Sl.RAIL3, Sl.MASK1, Sl.MASK2, Sl.MASK3]
                  omega)) only [h.get, h.has]
theorem ltc (h : EditedOnly s t) (n : Ch) {sl : Nat} (hs : sl < 2) : t.ltc n sl = s.ltc n sl := by
  have hstart : ∀ j ∈ s.spDefined n sl, t.get (Sl.SP_START n sl j) = s.get (Sl.SP_START n sl j) := fun j hj =>
    h.get _ (by
      have : j < 4 := List.mem_range.mp (List.mem_filter.mp hj).1
      simp only [offEdit, Sl.SP_START]; omega)
  have hlink : t.linkUp n = s.linkUp n := by unfold State.linkUp State.linkSt; rw [h.ch]
  unfold State.ltc State.spDefined State.slotLineTime State.largestEnd State.spEnd State.driveMask State.driveRail State.nozzles
  simp (disch := (simp only [offEdit, Tr.MIN_PER, Lk.FE_NOZ, Lk.FE_CAP, Ld.NOZZLES]; omega)) only [hlink, h.slotDesc n hs, h.get]
  rw [any_congr_of_mem fun j hj => by rw [hstart j hj]]
theorem epochCheck (h : EditedOnly s t) (n : Ch) (hs : s.get (wavePrep n) < 2) : t.epochCheck n = s.epochCheck n := by
  have hsl : t.get (wavePrep n) = s.get (wavePrep n) := h.get _ (by simp only [offEdit, wavePrep, prepFld]; omega)
  have hv : t.has (Lv.VALID n (s.get (wavePrep n))) = s.has (Lv.VALID n (s.get (wavePrep n))) := h.has (by
    unfold Lv.VALID; split
    · simp only [offEdit, Lv.VALID0]; omega
    · simp only [offEdit, Lv.VALID1]; omega)
  unfold State.epochCheck State.chSt
  simp (disch := (simp only [offEdit, Tr.CU, Ep.EP_CU]; omega)) only [hsl, hv, h.ltc n hs, h.ch, h.get]
theorem epochStands (h : EditedOnly s t) (hs : ∀ n : Ch, s.get (wavePrep n) < 2) : t.epochStands = s.epochStands := by
  have hepoch : t.epoch = s.epoch := by rw [h.same]
  have hmask : t.epMask = s.epMask := by
    unfold State.epMask; rw [h.get Ep.EP_MASK (by simp [offEdit, Ep.EP_MASK])]
  unfold State.epochStands
  simp only [hepoch, hmask, h.epochCheck _ (hs _)]
theorem chParked (h : EditedOnly s t) (n : Ch) : t.chParked n = s.chParked n := by
  unfold State.chParked State.chSt
  rw [h.ch, h.dev, h.has (f := Lv.HV_ON n) (by simp only [offEdit, Lv.HV_ON]; omega)]
theorem chRests (h : EditedOnly s t) {n : Ch} (hr : s.chRests n = true) : t.chRests n = true := by
  have htb : t.tb = s.tb := by rw [h.same]
  have hshadow : (shadowed n).all (fun f => s.eff f == s.get f) = true → (shadowed n).all (fun f => t.eff f == t.get f) = true := by
    simp only [List.all_eq_true, beq_iff_eq]
    exact fun hall f hf => h.shadow n f hf (hall f hf)
  unfold State.chRests State.inRun State.wipedFree State.chSt State.linkUp State.linkSt at *
  rw [h.ch, htb, h.chParked n, h.has (f := Lv.PRECHG n) (by simp only [offEdit, Lv.PRECHG]; omega)]
  split at hr
  next hrun => rw [if_pos hrun]; exact hr
  next hrun =>
    rw [if_neg hrun]
    simp only [Bool.and_eq_true] at hr ⊢
    obtain ⟨hfront, ⟨⟨hqueue, hsh⟩, hwiped⟩, hreadmit⟩ := hr
    exact ⟨hfront, ⟨⟨hqueue, hshadow hsh⟩, hwiped⟩, hreadmit⟩
/-- A device at rest is at rest after it, where the prepared set selects a slot there is (R196, R334). -/
theorem rests (h : EditedOnly s t) (hs : ∀ n : Ch, s.get (wavePrep n) < 2) (hr : s.rests = true) : t.rests = true := by
  have hpix : t.pixAsked = s.pixAsked := by
    unfold State.pixAsked
    simp (disch := (simp only [offEdit, objFld]; omega)) only [h.has]
  have hbench : ∀ n : Ch, t.benchDue n = s.benchDue n := fun n => by
    have htb : t.tb = s.tb := by rw [h.same]
    unfold State.benchDue State.benchOn State.chSt State.linkUp State.linkSt
    rw [h.ch, h.dev, htb, h.has (f := Lv.PRECHG n) (by simp only [offEdit, Lv.PRECHG]; omega)]
  have hsame : t.pcieLost = s.pcieLost ∧ t.pix = s.pix ∧ t.saveDue = s.saveDue := by rw [h.same]; exact ⟨rfl, rfl, rfl⟩
  obtain ⟨hlost, hpx, hsave⟩ := hsame
  unfold State.rests State.pixKept State.pixWanted at *
  simp only [h.dev, hlost, hpx, hpix, hsave, hbench, h.epochStands hs, Bool.and_eq_true, List.all_eq_true] at hr ⊢
  obtain ⟨⟨⟨⟨⟨⟨hwake, hch⟩, htoken⟩, hpixel⟩, hepoch⟩, hdue⟩, hsaved⟩ := hr
  exact ⟨⟨⟨⟨⟨⟨hwake, fun n hn => h.chRests (hch n hn)⟩, htoken⟩, hpixel⟩, hepoch⟩, hdue⟩, hsaved⟩
theorem trans {u : State} (h : EditedOnly s t) (k : EditedOnly t u) : EditedOnly s u where
  same := by rw [k.same, h.same]
  get f hf := (k.get f hf).trans (h.get f hf)
  shadow n f hf e := k.shadow n f hf (h.shadow n f hf e)
end EditedOnly

/-- A field of an edit block. -/
def editField (f : Fld) : Prop := f.lsb < 32 ∧ 0x20000 ≤ f.addr ∧ f.addr < 0x28000 ∧ 0x300 ≤ f.addr % 0x1000 ∧ f.addr % 0x1000 < 0x400

theorem editField_bsMode (n : Ch) : editField (Ed.BS_MODE n) := by simp only [editField, Ed.BS_MODE]; omega
theorem editField_bsH (n : Ch) : editField (Ed.BS_H n) := by simp only [editField, Ed.BS_H]; omega
theorem editField_wrej (n : Ch) : editField (Ed.WREJ n) := by simp only [editField, Ed.WREJ]; omega
theorem key_ne_of_editField {f g : Fld} (hf : editField f) (hg : offEdit g) : f.key ≠ g.key := by
  obtain ⟨hl, hf⟩ := hf; obtain ⟨hl', hg⟩ := hg
  exact key_ne_of_addr_ne hl hl' (by omega)
theorem editField_addr_lt {f : Fld} (hf : editField f) : f.addr < 2 ^ 55 := by obtain ⟨-, -, h, -⟩ := hf; omega
theorem editedOnly_put (s : State) {f : Fld} (v : Nat) (hf : editField f) (hs : ∀ n : Ch, ∀ g ∈ shadowed n, f.key ≠ g.key) :
    EditedOnly s (s.put f v) where
  same := rfl
  get g hg := get_put_other s v (key_ne_of_editField hf hg)
  shadow n g hg e := by
    rw [eff_put_other s v (key_ne_effKey hf.1 (editField_addr_lt hf) g), get_put_other s v (hs n g hg), e]
/-- A shadow that goes into effect at once. -/
theorem editedOnly_putBoth (s : State) {f : Fld} (v : Nat) (hf : editField f)
    (hs : ∀ n : Ch, ∀ g ∈ shadowed n, g = f ∨ (g.lsb < 32 ∧ g.addr < 2 ^ 55 ∧ f.key ≠ g.key)) : EditedOnly s (s.putBoth f v) where
  same := rfl
  get g hg := by
    rw [putBoth_eq, get_putEff_other _ v (key_ne_effKey hg.1 hg.2.1 f).symm, get_put_other s v (key_ne_of_editField hf hg)]
  shadow n g hg e := by
    have hkey := key_ne_effKey hf.1 (editField_addr_lt hf)
    rw [putBoth_eq]
    obtain rfl | ⟨hl, ha, hne⟩ := hs n g hg
    · rw [eff_putEff_same, get_putEff_other _ v (hkey g).symm, get_put_same]
    · have heff : (State.putEff (s.put f v) f v).eff g = (s.put f v).eff g :=
        sparseGet_put_ne _ _ _ _ (by unfold Fld.effKey; omega)
      rw [heff, eff_put_other s v (hkey g), get_putEff_other _ v (key_ne_effKey hl ha f).symm, get_put_other s v hne, e]
theorem wrej_not_shadowed : ∀ n m : Ch, ∀ g ∈ shadowed m, (Ed.WREJ n).key ≠ g.key := by decide
theorem bsH_shadowed : ∀ n m : Ch, ∀ g ∈ shadowed m,
    g = Ed.BS_H n ∨ (g.lsb < 32 ∧ g.addr < 2 ^ 55 ∧ (Ed.BS_H n).key ≠ g.key) := by decide
theorem bsMode_shadowed : ∀ n m : Ch, ∀ g ∈ shadowed m,
    g = Ed.BS_MODE n ∨ (g.lsb < 32 ∧ g.addr < 2 ^ 55 ∧ (Ed.BS_MODE n).key ≠ g.key) := by decide

/-! ### The word of BS_MODE and BS_H -/

/-- The row of HistoryLines (R178). -/
def objHistory (n : Ch) : Obj := oRw 2 1 .line 1 6 (kf (Ed.BS_H n))

theorem blkOf_bsH : ∀ n : Ch, blkOf (Ed.BS_H n).addr = .edit n := by decide
theorem bsH_word : ∀ n : Ch, (Ed.fields n).filter (fun f => f.addr = (Ed.BS_H n).addr) = [Ed.BS_MODE n, Ed.BS_H n] := by decide
theorem objFind_bsH (node : Nat) : ∀ n : Ch, objFind node (0x3030 + 0x100 * n) 2 = .row (objHistory n) := by
  intro n; fin_cases n <;> rfl
theorem objOfChan_bsH : ∀ n : Ch, objOfChan (0x3030 + 0x100 * n) = some n := by decide
theorem objHistory_kind (n : Ch) : (objHistory n).kind = .word (Ed.BS_H n).addr 2 0 := rfl
theorem leNat_byte {v : Nat} (hv : v < 256) : leNat [BitVec.ofNat 8 v] = v := by simp [leNat, Nat.mod_eq_of_lt hv]
theorem bits_bsMode {m v : Nat} (hm : m < 4) (hv : v < 8) : bits (m * 256 + v) 9 8 = m := by simp only [bits]; omega
theorem bits_bsH {v : Nat} (m : Nat) (hv : v < 8) : bits (m * 256 + v) 2 0 = v := by simp only [bits]; omega

section
variable {s : State} {n : Ch}

/-- A BS_H of 0 or 7 is out of its range (R177). -/
theorem editJudge_bsH_refused {data : Nat} (h : bits data 2 0 = 0 ∨ bits data 2 0 = 7) :
    editJudge n (Ed.BS_H n).addr data s = some abRange := by
  have hword : ((Ed.BS_MODE n).addr = (Ed.BS_H n).addr && (bits data 9 8 = 3 || bits data 2 0 = 0 || bits data 2 0 = 7)) = true := by
    obtain h | h := h <;> simp [h, Ed.BS_MODE, Ed.BS_H]
  unfold editJudge
  rw [firstBad_cons, if_pos hword]
theorem editJudge_bsH_accepted {m v : Nat} (hm : m < 3) (hv : 1 ≤ v ∧ v ≤ 6) (hrun : s.inRun n = false) :
    editJudge n (Ed.BS_H n).addr (m * 256 + v) s = none := by
  unfold editJudge
  rw [bits_bsMode (by omega) (by omega), bits_bsH m (by omega)]
  simp [firstBad, hrun, Ed.BS_H, Ed.BS_MODE, Ed.SUB_BUMP, Ed.RAIL]
  omega
/-- The word that a write of HistoryLines stands for, where BS_H holds no more than its 3 bits. -/
theorem objWord_bsH {v : Nat} (hh : s.get (Ed.BS_H n) < 8) (hv : v < 8) :
    s.objWord (Ed.BS_H n).addr 2 0 v = s.get (Ed.BS_MODE n) * 256 + v := by
  have hread : s.readWord ((blkOf (Ed.BS_H n).addr).fields.filter (fun f => f.acc = .rw || f.acc = .rws)) (Ed.BS_H n).addr =
      s.get (Ed.BS_MODE n) * 256 + s.get (Ed.BS_H n) := by
    unfold State.readWord
    rw [blkOf_bsH, Blk.fields, List.filter_comm, bsH_word]
    simp [Ed.BS_MODE, Ed.BS_H]
  unfold State.objWord
  rw [hread]
  simp only [withBits]; omega

end

/-- Channel n with BS_H at v, at once, and BS_MODE written as it was. -/
def State.withBsH (s : State) (n : Ch) (v : Nat) : State := (s.putBoth (Ed.BS_MODE n) (s.get (Ed.BS_MODE n))).putBoth (Ed.BS_H n) v

section
variable {s : State} {n : Ch} {v : Nat}

theorem writeWord_bsH (hm : s.get (Ed.BS_MODE n) < 3) (hv : v ≤ 6) :
    s.writeWord (Ed.fields n) (Ed.BS_H n).addr (s.get (Ed.BS_MODE n) * 256 + v) false = s.withBsH n v := by
  unfold State.writeWord State.withBsH
  rw [bsH_word, List.foldl_cons, List.foldl_cons, List.foldl_nil, writeFld_rws _ _ _ rfl, writeFld_rws _ _ _ rfl]
  exact congrArg₂ (fun a b => (s.putBoth (Ed.BS_MODE n) a).putBoth (Ed.BS_H n) b) (bits_bsMode (by omega) (by omega))
    (bits_bsH _ (by omega))
theorem withBsH_get (hv : v ≤ 6) : (s.withBsH n v).get (Ed.BS_H n) = v := by
  have hkey := key_ne_effKey (editField_bsH n).1 (editField_addr_lt (editField_bsH n)) (Ed.BS_H n)
  unfold State.withBsH
  rw [putBoth_eq, get_putEff_other _ v hkey.symm, get_put_same, Nat.mod_eq_of_lt (by simp [Fld.card, Ed.BS_H]; omega)]
theorem withBsH_eff (hv : v ≤ 6) : (s.withBsH n v).eff (Ed.BS_H n) = v := by
  unfold State.withBsH
  rw [putBoth_eq, eff_putEff_same, Nat.mod_eq_of_lt (by simp [Fld.card, Ed.BS_H]; omega)]
theorem editedOnly_withBsH (s : State) (n : Ch) (v : Nat) : EditedOnly s (s.withBsH n v) :=
  (editedOnly_putBoth s _ (editField_bsMode n) (bsMode_shadowed n)).trans (editedOnly_putBoth _ v (editField_bsH n) (bsH_shadowed n))

end

/-! ### The word over BAR0 -/

section
variable {s : State} {n : Ch} {data : Nat}

theorem regWrite_bsH_refused (hp : s.chParked n = false) (ht : s.holds .pcie = true) (h : bits data 2 0 = 0 ∨ bits data 2 0 = 7) :
    s.regWrite (Ed.BS_H n).addr data = s.flag (Ed.WREJ n) := by
  unfold State.regWrite
  simp [blkOf_bsH, Blk.chan, hp, ht, Blk.judge, editJudge_bsH_refused h, Blk.refused, Blk.flagRefused, Blk.wrej]
theorem barStore_bsH_refused (hp : s.chParked n = false) (hb : s.barOpen = true) (ht : s.holds .pcie = true)
    (h : bits data 2 0 = 0 ∨ bits data 2 0 = 7) : s.barStore (Ed.BS_H n).addr 15 data none = s.flag (Ed.WREJ n) := by
  have haddr : ¬ 0x100000 ≤ (Ed.BS_H n).addr ∧ (Ed.BS_H n).addr % 4 = 0 ∧ (Ed.BS_H n).addr ≠ Mb.GO.addr := by
    simp only [Ed.BS_H, Mb.GO]; omega
  obtain ⟨hlow, hdword, hgo⟩ := haddr
  rw [← regWrite_bsH_refused hp ht h]
  unfold State.barStore State.barDword State.barWord
  simp [hb, hlow, hdword, hgo, blkOf_bsH]
theorem exec_registerWrite_bsH_refused {v : Nat} (hr : s.rests = true) (hw : ∀ m : Ch, s.get (wavePrep m) < 2)
    (hp : s.chParked n = false) (hb : s.barOpen = true) (ht : s.holds .pcie = true) (hv : v = 0 ∨ v = 7) :
    exec (.registerWrite (Ed.BS_H n).addr 15 (BitVec.ofNat 32 v) none) s = .next (s.flag (Ed.WREJ n)) := by
  have hbits : bits (BitVec.ofNat 32 v).toNat 2 0 = v := by
    rw [BitVec.toNat_ofNat]; simp only [bits]; omega
  have hrest : (s.flag (Ed.WREJ n)).rests = true :=
    (editedOnly_put s 1 (editField_wrej n) (wrej_not_shadowed n)).rests hw hr
  change Host.Outcome.next (s.barStore (Ed.BS_H n).addr 15 (BitVec.ofNat 32 v).toNat none).settle = _
  rw [barStore_bsH_refused hp hb ht (hbits.symm ▸ hv), settle_of_rests hrest]

end

/-! ### The object over a port -/

section
variable {s t : State} {w : World} {p : Port} {owed : Option Port} {idx sub a : Nat} {data : List Byte} {o : Obj} {n : Ch}

/-- A write to a channel's object that its row refuses changes nothing (R550). -/
theorem objWrite_of_objBad (hf : objFind s.can.nodeId idx sub = .row o) (hn : objOfChan idx = some n) (hi : idx < 0x3800)
    (hp : s.chParked n = false) (hb : s.objBad p idx o data = some a) : s.objWrite w p owed idx sub data = (s, some a) := by
  have htouch : s.otpTouch idx o.sub = s := if_neg (by omega)
  unfold State.objWrite State.objNow
  simp only [hf, hn, hp, hb, htouch]
  cases s.inRun n <;> rfl
/-- What a served write comes to: its effect, and its answer. -/
theorem portWrite_of_objWrite (hs : s.serves p = true) (hd : s.spDown = false) (hw : s.objWrite w p (some p) idx sub data = (t, some a)) :
    s.portWrite w p idx sub data = t.answer p idx sub a := by
  unfold State.portWrite State.reqWrite State.deferIf State.sdoWrite
  simp [hs, hd, hw]
theorem answer_rests (p : Port) (idx sub a : Nat) (hw : ∀ m : Ch, s.get (wavePrep m) < 2) (hr : s.rests = true) :
    (s.answer p idx sub a).rests = true :=
  ((Undisturbed.answer s p idx sub a).rests fun m => (hw m).trans (by decide)).trans hr

end

section
variable {s : State} {n : Ch} {p : Port} {v : Nat}

/-- HistoryLines takes 1 to 6 (R178). -/
theorem objBad_bsH (n : Ch) (hv : v < 256) (ht : s.holds p = true) :
    s.objBad p (0x3030 + 0x100 * n) (objHistory n) [BitVec.ofNat 8 v] = if v = 0 ∨ 6 < v then some abRange else none := by
  have hok : objValueOk (0x3030 + 0x100 * n) 2 v = true := by
    have hofs : (0x3030 + 0x100 * (n : Nat)) % 0x100 = 0x30 := by omega
    unfold objValueOk
    rw [if_pos (by omega)]
    simp [hofs]
  have hsens : s.sensorValueOk (0x3030 + 0x100 * n) 2 v = true := if_neg (by omega)
  have hpos : (v : Int) < 1 ↔ v = 0 := by omega
  have hmax : (6 : Int) < v ↔ 6 < v := by omega
  unfold State.objBad
  rw [leNat_byte hv]
  simp [objHistory, oRw, firstBad, ht, hok, hsens, hpos, hmax]
  omega
theorem objCheck_bsH (ht : s.holds p = true) (hv : 1 ≤ v ∧ v ≤ 6) (hm : s.get (Ed.BS_MODE n) < 3) (hh : s.get (Ed.BS_H n) < 8)
    (hrun : s.inRun n = false) : s.objCheck p (0x3030 + 0x100 * n) (objHistory n) [BitVec.ofNat 8 v] = none := by
  have hbad := (objBad_bsH (s := s) n (show v < 256 by omega) ht).trans (if_neg (by omega))
  have hjudge : s.objJudge p (0x3030 + 0x100 * n) (objHistory n) [BitVec.ofNat 8 v] = none := by
    unfold State.objJudge
    simp only [objHistory_kind, leNat_byte (show v < 256 by omega), objWord_bsH hh (show v < 8 by omega), blkOf_bsH]
    exact editJudge_bsH_accepted hm hv hrun
  have hcls : (objHistory n).cls = .line := rfl
  have hidx : 0x3030 + 0x100 * (n : Nat) ≠ 0x2010 := by omega
  unfold State.objCheck
  simp [hbad, hjudge, hcls, hidx, firstBad]
/-- Outside RUN a write of 1 to 6 takes effect at once (R11). -/
theorem objWrite_bsH (w : World) (owed : Option Port) (hp : s.chParked n = false) (ht : s.holds p = true) (hv : 1 ≤ v ∧ v ≤ 6)
    (hm : s.get (Ed.BS_MODE n) < 3) (hh : s.get (Ed.BS_H n) < 8) (hrun : s.inRun n = false) :
    s.objWrite w p owed (0x3030 + 0x100 * n) 2 [BitVec.ofNat 8 v] = (s.withBsH n v, some 0) := by
  have hbad := (objBad_bsH (s := s) n (show v < 256 by omega) ht).trans (if_neg (by omega))
  have htouch : s.otpTouch (0x3030 + 0x100 * n) (objHistory n).sub = s := if_neg (by omega)
  have hdo : s.objDo w p owed (0x3030 + 0x100 * n) (objHistory n) [BitVec.ofNat 8 v] = (s.withBsH n v, some 0) := by
    unfold State.objDo
    simp only [objHistory_kind, leNat_byte (show v < 256 by omega), objWord_bsH hh (show v < 8 by omega), blkOf_bsH, Blk.apply, hrun,
      writeWord_bsH hm hv.2]
    rfl
  unfold State.objWrite State.objNow
  simp [objFind_bsH, objOfChan_bsH, hp, hrun, hbad, objCheck_bsH ht hv hm hh hrun, htouch, hdo]

variable (hr : s.rests = true) (hw : ∀ m : Ch, s.get (wavePrep m) < 2) (hp : s.chParked n = false) (hs : s.serves p = true)
  (hd : s.spDown = false) (ht : s.holds p = true)
include hr hw hp hs hd ht

theorem exec_sdoDownload_bsH_refused (hv : v < 256) (hbad : v = 0 ∨ 6 < v) :
    exec (.sdoDownload p (0x3030 + 0x100 * n) 2 [BitVec.ofNat 8 v]) s = .next (s.answer p (0x3030 + 0x100 * n) 2 abRange) := by
  have hobj := objWrite_of_objBad (w := s.plainWorld) (owed := some p) (objFind_bsH _ n) (objOfChan_bsH n) (by omega) hp
    ((objBad_bsH n hv ht).trans (if_pos hbad))
  change Host.Outcome.next (s.portWrite s.plainWorld p (0x3030 + 0x100 * n) 2 [BitVec.ofNat 8 v]).settle = _
  rw [portWrite_of_objWrite hs hd hobj, settle_of_rests (answer_rests p _ 2 abRange hw hr)]
theorem exec_sdoDownload_bsH (hv : 1 ≤ v ∧ v ≤ 6) (hm : s.get (Ed.BS_MODE n) < 3) (hh : s.get (Ed.BS_H n) < 8)
    (hrun : s.inRun n = false) :
    exec (.sdoDownload p (0x3030 + 0x100 * n) 2 [BitVec.ofNat 8 v]) s = .next ((s.withBsH n v).answer p (0x3030 + 0x100 * n) 2 0) := by
  have hedit := editedOnly_withBsH s n v
  have hw' : ∀ m : Ch, (s.withBsH n v).get (wavePrep m) < 2 := fun m => by
    rw [hedit.get _ (by simp only [offEdit, wavePrep, prepFld]; omega)]; exact hw m
  change Host.Outcome.next (s.portWrite s.plainWorld p (0x3030 + 0x100 * n) 2 [BitVec.ofNat 8 v]).settle = _
  rw [portWrite_of_objWrite hs hd (objWrite_bsH _ _ hp ht hv hm hh hrun), settle_of_rests (answer_rests p _ 2 0 hw' (hedit.rests hw hr))]

end

/-- R162, R177 and R178 over both ports, for the registers as they can stand: BS_H within its 3 bits, as every write of it leaves it
(`get_put_same`), and the prepared set selecting one of the two slots there are, as WaveformSet's range has it. -/
theorem bsH_write_of_fits (s : State) (n : Ch) (hr : s.rests = true) (hp : s.chParked n = false) (hh : s.get (Ed.BS_H n) < 8)
    (hw : ∀ m : Ch, s.get (wavePrep m) < 2) :
    (∀ v : Fin 8, s.barOpen = true → s.holds .pcie = true → ((v : Nat) = 0 ∨ (v : Nat) = 7) →
      exec (.registerWrite (Ed.BS_H n).addr 15 (BitVec.ofNat 32 v) none) s = .next (s.flag (Ed.WREJ n))) ∧
    (∀ (p : Port) (v : Fin 8), s.serves p = true → s.spDown = false → s.holds p = true →
      ((v : Nat) = 0 ∨ (v : Nat) = 7 →
        exec (.sdoDownload p (0x3030 + 0x100 * n) 2 [BitVec.ofNat 8 v]) s = .next (s.answer p (0x3030 + 0x100 * n) 2 0x06090030)) ∧
      (1 ≤ (v : Nat) → (v : Nat) ≤ 6 → s.get (Ed.BS_MODE n) < 3 → s.inRun n = false → (s.ch[n]).applyQ = [] →
        ∃ t, exec (.sdoDownload p (0x3030 + 0x100 * n) 2 [BitVec.ofNat 8 v]) s = .next t ∧
          t.get (Ed.BS_H n) = v ∧ t.eff (Ed.BS_H n) = v)) := by
  refine ⟨fun v hb ht hv => exec_registerWrite_bsH_refused hr hw hp hb ht hv, fun p v hs hd ht => ⟨fun hv => ?refused, ?taken⟩⟩
  case refused => exact exec_sdoDownload_bsH_refused hr hw hp hs hd ht (by omega) (by omega)
  case taken =>
    intro hlo hhi hm hrun _
    have hans := Undisturbed.answer (s.withBsH n v) p (0x3030 + 0x100 * n) 2 0
    refine ⟨_, exec_sdoDownload_bsH hr hw hp hs hd ht ⟨hlo, hhi⟩ hm hh hrun, ?_, ?_⟩
    · rw [hans.getCh (by simp only [chanField, Ed.BS_H]; omega), withBsH_get hhi]
    · rw [hans.eff, withBsH_eff hhi]

/-! ### A BS_H beyond its 3 bits -/

/-- A state at rest, with the canonical register list that `Inv` asks for, whose BS_H of channel 0 holds 0x300, which no 3-bit field
can. The word that an object write of BS_H stands for is put together from the values of its fields, and 0x300 reaches into the bits of
BS_MODE. -/
def overfullBsH : State :=
  { State.reset with
    dev := { Dev.reset with boot := .up, token := .can }
    can := { Can.reset with nmt := .operational, nodeId := 1 }
    ch := State.reset.ch.set 0 { Chan.reset with st := .idle }
    regs := [((Ed.BS_H 0).key, 0x300), ((Ed.BS_H 0).effKey, 0x300)] }

theorem overfullBsH_inv : Inv overfullBsH := ⟨by decide, by decide⟩
theorem overfullBsH_rests : overfullBsH.rests = true := by decide +kernel
theorem overfullBsH_on : overfullBsH.chParked 0 = false := rfl
theorem overfullBsH_serves : overfullBsH.serves .can = true := by decide +kernel
/-- BS_MODE reads as 3 in that word, so a write of 1 is refused and BS_H stays (R177). -/
theorem overfullBsH_write_refused :
    (overfullBsH.portWrite overfullBsH.plainWorld .can 0x3030 2 [1]).settle.get (Ed.BS_H 0) = 0x300 := by decide +kernel

/-- Refutes O59: a state at rest may hold any number as its BS_H. Where that number is beyond the field's 3 bits, it reaches into BS_MODE
in the word that a write of HistoryLines stands for, and a write of 1 is refused. No write leaves such a number, and the rest of the
statement holds: `encodeCodes_moves_history`, `backsight_rails`, and `bsH_write_of_fits` where the registers fit their fields. -/
theorem not_historyAndRails : ¬ Obligations.HistoryAndRails := by
  unfold Obligations.HistoryAndRails
  intro h
  obtain ⟨-, -, hports⟩ := h
  obtain ⟨-, hobject⟩ := hports overfullBsH 0 overfullBsH_rests overfullBsH_on
  obtain ⟨-, htaken⟩ := hobject .can 1 overfullBsH_serves rfl rfl
  obtain ⟨t, ht, hget, -⟩ := htaken (by decide) (by decide) (by decide) rfl rfl
  obtain rfl : (overfullBsH.portWrite overfullBsH.plainWorld .can 0x3030 2 [1]).settle = t := Host.Outcome.next.inj ht
  exact absurd (overfullBsH_write_refused.symm.trans hget) (by decide)

/-- The hypotheses of `bsH_write_of_fits` met: where the number went through a write of the field it was cut to its 3 bits, and the same
write is taken. -/
theorem cutBsH_write_taken :
    ∃ t, exec (.sdoDownload .can 0x3030 2 [1]) (overfullBsH.putBoth (Ed.BS_H 0) 0x300) = .next t ∧
      t.get (Ed.BS_H 0) = 1 ∧ t.eff (Ed.BS_H 0) = 1 := by
  obtain ⟨-, hobject⟩ := bsH_write_of_fits (overfullBsH.putBoth (Ed.BS_H 0) 0x300) 0 (by decide +kernel) rfl (by decide +kernel)
    (by decide +kernel)
  obtain ⟨-, htaken⟩ := hobject .can 1 (by decide +kernel) rfl rfl
  exact htaken (by decide) (by decide) (by decide +kernel) rfl rfl

end Sys2Proof.Machine
end

section
/-! SUPPORT. What a device does of itself where nothing is due but its shadows and its epoch (R7, R335). -/
namespace Sys2Proof.Machine

/-! ### Nothing due -/

/-- A channel has nothing left to do of itself, but for its shadows: what `State.chRests` asks for beside them. -/
structure ChanDone (s : State) (n : Ch) : Prop where
  ramp : (s.ch[n]).drive.openAt.any (fun t => decide (t ≤ s.tb)) = false
  switch : (s.ch[n]).drive.vhvAt = none
  kept : s.chParked n = true ∨ (s.ch[n]).kept = []
  free : s.inRun n = true → s.wipedFree n = []
  queue : s.inRun n = false → (s.ch[n]).applyQ = []
  wiped : s.inRun n = false → (s.ch[n]).drive.wiped = []
  readmit : s.inRun n = false → s.chSt n = .idle → s.has (Lv.PRECHG n) = true → s.linkUp n = true → (s.ch[n]).readmitK = none
  bench : s.benchDue n = false
/-- The device has nothing left to do of itself, but for its shadows and its epoch. -/
structure NothingDue (s : State) : Prop where
  chan : ∀ n : Ch, ChanDone s n
  wake : s.dev.waking = none
  token : ¬(s.dev.token = .pcie ∧ s.pcieLost = true ∧ s.dev.boot = .up)
  pix : (if s.pix.on = true then s.pixKept else !s.pixWanted) = true
  save : s.saveDue = false
/-- No STRIP_EN in effect outside RUN is about to be taken to 0 (R273). -/
def State.stripsStand (s : State) : Prop := ∀ n : Ch, s.inRun n = false → s.eff (Nh.STRIP_EN n) = 1 → s.get (Nh.STRIP_EN n) ≠ 0

theorem mem_allCh : ∀ n : Ch, n ∈ allCh := by decide
theorem stripEn_mem_shadowed : ∀ n : Ch, Nh.STRIP_EN n ∈ shadowed n := by decide
theorem forCh_induct {P : State → Prop} {f : Ch → State → State} {s : State} (h0 : P s) (h : ∀ n t, P t → P (f n t)) :
    P (s.forCh f) := by
  unfold State.forCh
  generalize allCh = l
  induction l generalizing s with
  | nil => exact h0
  | cons n l ih => exact ih (h n s h0)
theorem forCh_eq_self {f : Ch → State → State} {s : State} (h : ∀ n, f n s = s) : s.forCh f = s :=
  forCh_induct (P := fun t => t = s) rfl fun n t ht => by rw [ht, h]

theorem chanDone_of_chRests {s : State} {n : Ch} (h : s.chRests n = true) (hb : s.benchDue n = false) : ChanDone s n := by
  unfold State.chRests at h
  simp only [Bool.and_eq_true, Bool.or_eq_true, Bool.not_eq_true', Option.isNone_iff_eq_none, List.isEmpty_iff] at h
  obtain ⟨⟨⟨hswitch, hramp⟩, hkept⟩, hrun⟩ := h
  cases hr : s.inRun n with
  | true =>
    rw [hr, if_pos rfl, List.isEmpty_iff] at hrun
    exact { ramp := hramp, switch := hswitch, kept := hkept, bench := hb, free := fun _ => hrun
            queue := fun e => absurd (hr.symm.trans e) (by decide), wiped := fun e => absurd (hr.symm.trans e) (by decide)
            readmit := fun e => absurd (hr.symm.trans e) (by decide) }
  | false =>
    simp [hr] at hrun
    obtain ⟨⟨⟨hqueue, -⟩, hwiped⟩, hreadmit⟩ := hrun
    exact { ramp := hramp, switch := hswitch, kept := hkept, bench := hb, free := fun e => absurd (hr.symm.trans e) (by decide)
            queue := fun _ => hqueue, wiped := fun _ => hwiped, readmit := fun _ hi hp hl => by simpa [hi, hp, hl] using hreadmit }
theorem nothingDue_of_rests {s : State} (h : s.rests = true) : NothingDue s := by
  unfold State.rests at h
  simp only [Bool.and_eq_true, List.all_eq_true, mem_allCh, true_implies, Bool.not_eq_true', Option.isNone_iff_eq_none] at h
  obtain ⟨⟨⟨⟨⟨⟨hwake, hch⟩, htoken⟩, hpix⟩, -⟩, hbench⟩, hsave⟩ := h
  exact { chan := fun n => chanDone_of_chRests (hch n) (hbench n), wake := hwake, pix := hpix, save := hsave
          token := fun ⟨ht, hl, hb⟩ => by simp [ht, hl, hb] at htoken }
/-- At rest every shadow of a channel outside RUN is in effect. -/
theorem stripsStand_of_rests {s : State} (h : s.rests = true) : s.stripsStand := by
  intro n hr he
  unfold State.rests at h
  simp only [Bool.and_eq_true, List.all_eq_true, mem_allCh, true_implies] at h
  obtain ⟨⟨⟨⟨⟨⟨-, hch⟩, -⟩, -⟩, -⟩, -⟩, -⟩ := h
  have hn := hch n
  unfold State.chRests at hn
  rw [hr, if_neg (by decide)] at hn
  simp only [Bool.and_eq_true, List.all_eq_true, beq_iff_eq] at hn
  obtain ⟨-, ⟨⟨-, hshadow⟩, -⟩, -⟩ := hn
  rw [← hshadow _ (stripEn_mem_shadowed n), he]
  decide
theorem chanDone_of_undisturbed {s t : State} {n : Ch} (h : Undisturbed s t) (k : ChanDone s n) : ChanDone t n where
  ramp := by rw [h.drive n, h.tb]; exact k.ramp
  switch := by rw [h.drive n]; exact k.switch
  kept := by
    rw [h.chParked n]
    exact (h.kept n).elim .inl fun e => k.kept.imp_right e.trans
  free hr := by rw [h.wipedFree n]; exact k.free (h.inRun n ▸ hr)
  queue hr := by
    rw [h.inRun n] at hr
    exact ((h.queue n).resolve_left (by simp [hr])).trans (k.queue hr)
  wiped hr := by rw [h.drive n]; exact k.wiped (h.inRun n ▸ hr)
  readmit hr hi hp hl := by
    rw [h.inRun n] at hr; rw [h.chSt n] at hi; rw [h.linkUp n] at hl
    rw [h.hasCh (by simp only [chanField, Lv.PRECHG]; omega)] at hp
    rw [h.readmitK n]
    exact k.readmit hr hi hp hl
  bench := by rw [h.benchDue n]; exact k.bench
theorem NothingDue.of_undisturbed {s t : State} (h : Undisturbed s t) (k : NothingDue s) : NothingDue t where
  chan n := chanDone_of_undisturbed h (k.chan n)
  wake := by rw [h.dev]; exact k.wake
  token := by rw [h.dev, h.lost]; exact k.token
  pix := by unfold State.pixKept State.pixWanted; rw [h.pix, h.dev, h.pixAsked]; exact k.pix
  save := by unfold State.saveDue; rw [h.flash, h.tb]; exact k.save
theorem stripsStand_of_undisturbed {s t : State} (h : Undisturbed s t) (k : s.stripsStand) : t.stripsStand := fun n hr he => by
  rw [h.getCh (by simp only [chanField, Nh.STRIP_EN]; omega)]
  exact k n (h.inRun n ▸ hr) ((h.eff _).symm.trans he)

/-! ### Shadows that go into effect -/

/-- `t` differs from `s` in values in effect alone, and no strip is about to be cancelled. -/
structure EffectsOnly (s t : State) : Prop where
  same : t = { s with regs := t.regs }
  get : ∀ f : Fld, f.key < 2 ^ 60 → t.get f = s.get f
  strips : t.stripsStand

namespace EffectsOnly
variable {s t : State}

theorem refl (h : s.stripsStand) : EffectsOnly s s := ⟨rfl, fun _ _ => rfl, h⟩
theorem ch (h : EffectsOnly s t) : t.ch = s.ch := by rw [h.same]
theorem dev (h : EffectsOnly s t) : t.dev = s.dev := by rw [h.same]
theorem tb (h : EffectsOnly s t) : t.tb = s.tb := by rw [h.same]
theorem chSt (h : EffectsOnly s t) (n : Ch) : t.chSt n = s.chSt n := by unfold State.chSt; rw [h.ch]
theorem inRun (h : EffectsOnly s t) (n : Ch) : t.inRun n = s.inRun n := by unfold State.inRun; rw [h.chSt]
theorem has (h : EffectsOnly s t) {f : Fld} (hf : f.key < 2 ^ 60) : t.has f = s.has f := by unfold State.has; rw [h.get f hf]
theorem linkUp (h : EffectsOnly s t) (n : Ch) : t.linkUp n = s.linkUp n := by unfold State.linkUp State.linkSt; rw [h.ch]
theorem prechg (h : EffectsOnly s t) (n : Ch) : t.has (Lv.PRECHG n) = s.has (Lv.PRECHG n) := h.has (by simp only [Fld.key, Lv.PRECHG]; omega)
theorem chanDone (h : EffectsOnly s t) {n : Ch} (k : ChanDone s n) : ChanDone t n where
  ramp := by rw [h.ch, h.tb]; exact k.ramp
  switch := by rw [h.ch]; exact k.switch
  kept := by
    have hp : t.chParked n = s.chParked n := by
      unfold State.chParked; rw [h.chSt, h.dev, h.ch, h.has (f := Lv.HV_ON n) (by simp only [Fld.key, Lv.HV_ON]; omega)]
    rw [hp, h.ch]; exact k.kept
  free hr := by unfold State.wipedFree; rw [h.ch]; exact k.free (h.inRun n ▸ hr)
  queue hr := by rw [h.ch]; exact k.queue (h.inRun n ▸ hr)
  wiped hr := by rw [h.ch]; exact k.wiped (h.inRun n ▸ hr)
  readmit hr hi hp hl := by
    rw [h.ch]; exact k.readmit (h.inRun n ▸ hr) (h.chSt n ▸ hi) (h.prechg n ▸ hp) (h.linkUp n ▸ hl)
  bench := by
    unfold State.benchDue State.benchOn; rw [h.dev, h.chSt, h.prechg, h.linkUp, h.ch, h.tb]; exact k.bench
theorem nothingDue (h : EffectsOnly s t) (k : NothingDue s) : NothingDue t where
  chan n := h.chanDone (k.chan n)
  wake := by rw [h.dev]; exact k.wake
  token := by rw [h.same]; exact k.token
  pix := by
    have hasked : t.pixAsked = s.pixAsked := by
      unfold State.pixAsked; rw [h.has (by decide), h.has (by decide), h.has (by decide)]
    have hpix : t.pix = s.pix := by rw [h.same]
    unfold State.pixKept State.pixWanted; rw [hpix, h.dev, hasked]; exact k.pix
  save := by rw [h.same]; exact k.save
/-- A shadow of the state goes into effect, STRIP_EN or another. -/
theorem putEff (h : EffectsOnly s t) {f : Fld} (hk : f.key < 2 ^ 60) (hf : ∀ m : Ch, f = Nh.STRIP_EN m ∨ f.key ≠ (Nh.STRIP_EN m).key) :
    EffectsOnly s (t.putEff f (s.get f)) where
  same := by rw [State.putEff, h.same]
  get g hg := (get_putEff_other t _ (by unfold Fld.effKey; omega)).trans (h.get g hg)
  strips m hr he := by
    have hstrip : (Nh.STRIP_EN m).key < 2 ^ 60 := by simp only [Fld.key, Nh.STRIP_EN]; omega
    rw [get_putEff_other t _ (by unfold Fld.effKey; omega)]
    obtain rfl | hne := hf m
    · rw [eff_putEff_same] at he
      rw [h.get _ hk]
      intro hz
      rw [hz, Nat.zero_mod] at he
      cases he
    · have hoff : (t.putEff f (s.get f)).eff (Nh.STRIP_EN m) = t.eff (Nh.STRIP_EN m) :=
        sparseGet_put_ne _ _ _ _ (by unfold Fld.effKey; omega)
      exact h.strips m hr (hoff.symm.trans he)
end EffectsOnly

theorem shadowed_key_lt (n : Ch) : ∀ f ∈ shadowed n, f.key < 2 ^ 60 := by revert n; decide
theorem shadowed_stripEn : ∀ n m : Ch, ∀ f ∈ shadowed n, f = Nh.STRIP_EN m ∨ f.key ≠ (Nh.STRIP_EN m).key := by decide
/-- Shadows go into effect at the values they hold; no strip is cancelled. -/
theorem EffectsOnly.shadowsIn {s t : State} (h : EffectsOnly s t) {n : Ch} (hr : t.inRun n = false) : EffectsOnly s (t.shadowsIn n t.get) := by
  have hfold : ∀ l : List Fld, (∀ f ∈ l, f ∈ shadowed n) → ∀ u, EffectsOnly s u →
      EffectsOnly s (l.foldl (fun (u : State) (f : Fld) => u.putEff f (t.get f)) u) := by
    intro l
    induction l with
    | nil => exact fun _ _ hu => hu
    | cons f l ih =>
      intro hl u hu
      have hf : f ∈ shadowed n := hl f List.mem_cons_self
      refine ih (fun g hg => hl g (List.mem_cons_of_mem _ hg)) _ ?_
      dsimp only
      rw [h.get f (shadowed_key_lt n f hf)]
      exact hu.putEff (shadowed_key_lt n f hf) fun m => shadowed_stripEn n m f hf
  have hoff : (decide (t.eff (Nh.STRIP_EN n) = 1) && decide (t.get (Nh.STRIP_EN n) = 0)) = false := by
    rw [Bool.and_eq_false_iff, decide_eq_false_iff_not, decide_eq_false_iff_not]
    exact (em _).symm.imp_right (h.strips n hr)
  unfold State.shadowsIn
  rw [hoff]
  exact hfold _ (fun _ hf => hf) t h

/-! ### Every step of what a device does of itself -/

section
variable {s : State} {n : Ch}

theorem ChanDone.openSettle (h : ChanDone s n) : State.openSettle n s = s := if_neg (by rw [h.ramp]; decide)
theorem ChanDone.switchSettle (h : ChanDone s n) : State.switchSettle n s = s :=
  if_neg (by unfold State.switchDue; rw [h.switch]; exact Bool.false_ne_true)
theorem ChanDone.benchSettle (h : ChanDone s n) : State.benchSettle n s = s := if_neg (by rw [h.bench]; decide)
theorem ChanDone.keptIn (h : ChanDone s n) : State.keptIn n s = s := if_pos h.kept
theorem modCh_eq_self {f : Chan → Chan} (h : f s.ch[n] = s.ch[n]) : s.modCh n f = s := by
  have hch : s.ch.set n (f s.ch[n]) = s.ch := by rw [h]; exact Vector.set_getElem_self _
  unfold State.modCh; rw [hch]

end

section
variable {s t : State}

/-- A channel with nothing left to do takes its shadows into effect, outside RUN (R7). -/
theorem EffectsOnly.quiet (h : EffectsOnly s t) (k : NothingDue s) (n : Ch) : EffectsOnly s (State.quiet n t) := by
  have hn : ChanDone t n := h.chanDone (k.chan n)
  unfold State.quiet
  cases hr : t.inRun n with
  | true => simpa [State.wipeFree, hn.free hr] using h
  | false =>
    have hreadmit : (if t.chSt n = .idle ∧ t.has (Lv.PRECHG n) ∧ t.linkUp n then
        t.modCh n (fun c => { c with readmitK := none }) else t) = t := by
      split
      next hc => exact modCh_eq_self (by rw [← hn.readmit hr hc.1 hc.2.1 hc.2.2])
      · rfl
    have hu : EffectsOnly s (t.shadowsIn n t.get) := h.shadowsIn hr
    have hwiped : (t.shadowsIn n t.get).wipedSettle n = t.shadowsIn n t.get :=
      if_neg fun hw => hw.2 (by rw [hu.ch, ← h.ch]; exact hn.wiped hr)
    simp only [hn.queue hr, if_true, List.foldl_nil, hreadmit, hwiped]
    exact hu
theorem NothingDue.pixFollow (h : NothingDue s) : s.pixFollow = s := by
  have hp := h.pix
  unfold State.pixFollow
  cases hon : s.pix.on <;> simp_all
theorem saveSettle_of_not_due (h : s.saveDue = false) : s.saveSettle = s := by
  unfold State.saveDue at h
  unfold State.saveSettle
  split
  next v hv => rw [hv] at h; exact if_neg (by simpa using h)
  · rfl
theorem NothingDue.tokenCheck (h : NothingDue s) : s.tokenCheck = s := if_neg h.token
theorem epochWatch_of_stands (h : s.epochStands = true) : s.epochWatch = s := by
  unfold State.epochStands at h
  unfold State.epochWatch
  split
  · rfl
  next ho =>
    simp only [ho, decide_false, Bool.false_or, List.all_eq_true, decide_eq_true_eq] at h
    rw [List.find?_eq_none.mpr (by simpa using h)]
/-- A lost epoch leaves all but the epoch and its reason (R335). -/
theorem epochWatch_cases (s : State) : s.epochWatch = s ∨ ∃ n : Ch, s.epochWatch = s.epochFail n 5 := by
  unfold State.epochWatch
  split
  · exact .inl rfl
  split
  next n _ => exact .inr ⟨n, rfl⟩
  · exact .inl rfl
theorem saveDue_epochWatch (s : State) : s.epochWatch.saveDue = s.saveDue := by
  obtain e | ⟨n, e⟩ := epochWatch_cases s
  · rw [e]
  · rw [e]; rfl
/-- What a device does of itself where nothing is due: outside RUN its shadows go into effect, and an epoch that stands no more is lost. -/
theorem NothingDue.settle (h : NothingDue s) (hs : s.stripsStand) : ∃ t, EffectsOnly s t ∧ s.settle = t.epochWatch := by
  unfold State.settle
  split
  next hr =>
    refine ⟨s, .refl hs, (epochWatch_of_stands ?_).symm⟩
    unfold State.rests at hr
    simp only [Bool.and_eq_true] at hr
    exact hr.1.1.2
  next =>
    have hq : EffectsOnly s (s.forCh State.quiet) := forCh_induct (.refl hs) fun n t ht => ht.quiet h n
    have hd : NothingDue (s.forCh State.quiet) := hq.nothingDue h
    refine ⟨s.forCh State.quiet, hq, ?_⟩
    rw [forCh_eq_self fun n => (h.chan n).openSettle]
    rw [forCh_eq_self fun n => (hd.chan n).switchSettle, forCh_eq_self fun n => (hd.chan n).benchSettle,
      forCh_eq_self (f := State.wakeCh) fun n => if_pos (.inl (by rw [hd.wake]; rfl)), forCh_eq_self fun n => (hd.chan n).keptIn,
      hd.tokenCheck, hd.pixFollow]
    exact saveSettle_of_not_due ((saveDue_epochWatch _).trans hd.save)
/-- It changes no channel, unit or stake, nothing on CAN FD, and of the registers' own values only the reason of a lost epoch. -/
theorem NothingDue.settle_frame (h : NothingDue s) (hs : s.stripsStand) :
    s.settle.ch = s.ch ∧ s.settle.cu = s.cu ∧ s.settle.stake = s.stake ∧ s.settle.can = s.can ∧
    ∀ f : Fld, f.key < Ep.FAIL_CH.key → s.settle.get f = s.get f := by
  obtain ⟨t, ht, he⟩ := h.settle hs
  have hfail : Ep.FAIL_CH.key < Ep.FAIL_REASON.key ∧ Ep.FAIL_CH.key < 2 ^ 60 := by decide
  rw [he]
  obtain hw | ⟨n, hw⟩ := epochWatch_cases t
  · rw [hw, ht.ch, ht.same]
    exact ⟨rfl, rfl, rfl, rfl, fun f hf => (congrArg (State.get · f) ht.same).symm.trans (ht.get f (by omega))⟩
  · rw [hw]
    refine ⟨ht.ch, by rw [ht.same]; rfl, by rw [ht.same]; rfl, by rw [ht.same]; rfl, fun f hf => ?_⟩
    unfold State.epochFail
    rw [get_put_other _ _ (by omega), get_put_other _ _ (by omega)]
    exact ht.get f (by omega)

end
end Sys2Proof.Machine
end

section
/-! SUPPORT. What an EMCY occurrence sets and leaves (R341 to R343), and the heartbeat consumer (R430). -/
namespace Sys2Proof.Machine

/-! ### An EMCY occurrence -/

namespace Undisturbed
variable {s t : State}

theorem modCan (s : State) (f : Can → Can) : Undisturbed s (s.modCan f) := { refl s with }
/-- A register of the device's own counts, which no object or block shows as such. -/
theorem count (s : State) {f : Fld} (v : Nat) (hl : f.lsb < 32) (ha : 0x90000000 ≤ f.addr ∧ f.addr < 2 ^ 55) : Undisturbed s (s.put f v) :=
  { refl s with
    get := fun g hg => get_put_other s v (key_ne_of_addr_ne hl hg.1 (by obtain ⟨-, hg⟩ := hg; omega))
    eff := fun g => eff_put_other s v (key_ne_effKey hl ha.2 g)
    prep := .inr fun n => get_put_other s v (key_ne_of_addr_ne hl (by simp [wavePrep, prepFld]) (by simp only [wavePrep, prepFld]; omega)) }
theorem emcyInfo (s : State) (code line : Nat) {src : Nat} (info : List Byte) (hsrc : src < 2 ^ 32) :
    Undisturbed s (s.emcyInfo code src line info) := by
  have hcount : ∀ t : State, Undisturbed t (t.incr ⟨0x9000_0400, 31, 0, .ro, 0⟩) := fun t => count t _ (by decide) (by decide)
  have hlost : ∀ t : State, Undisturbed t (t.bump (Hid.LOST src)) := fun t => count t _ (by simp [Hid.LOST]) (by simp only [Hid.LOST]; omega)
  unfold State.emcyInfo
  extract_lets old held e' s1 s2
  have h2 : Undisturbed s s2 := ((modCan s _).trans (hcount s1)).trans (cause _ 1 (by decide))
  split
  · exact h2
  split
  · exact h2.trans (modCan s2 _)
  · exact h2.trans (hlost s2)
theorem condOn (s : State) (code src : Nat) : Undisturbed s (s.condOn code src) := by
  unfold State.condOn
  split
  · exact refl s
  · exact modCan s _
theorem condOff (s : State) (code src : Nat) : Undisturbed s (s.condOff code src) := by
  unfold State.condOff
  split
  · extract_lets t
    split
    · exact (modCan s _).trans (emcyInfo t 0 0 _ (by decide))
    · exact modCan s _
  · exact refl s

end Undisturbed

section
variable (s : State) (code src line : Nat) (info : List Byte)

theorem mem_queueMsg_self (q : List Msg) (m : Msg) : m ∈ queueMsg q m := by
  induction q with
  | nil => exact List.mem_singleton_self m
  | cons x q ih =>
    unfold queueMsg
    split
    · exact List.mem_cons_self
    · exact List.mem_cons_of_mem x ih
/-- Every occurrence makes the newest entry of the fault log (R343). -/
theorem emcyInfo_log : ∃ h : Nat, (s.emcyInfo code src line info).can.log = (⟨code, src, line, s.errReg, h⟩ :: s.can.log).take 128 := by
  unfold State.emcyInfo
  extract_lets old held e' s1 s2
  have hlog : s2.can.log = (⟨code, src, line, s.errReg, if held then 1 else 0⟩ :: s.can.log).take 128 :=
    congrArg Can.log (cause_can _ _)
  split
  · exact ⟨_, hlog⟩
  split
  · exact ⟨_, hlog⟩
  · exact ⟨_, hlog⟩
/-- Where the 10 ms rule has nothing to hold it back and there is room, it is queued (R28, R342). -/
theorem emcyInfo_queue (hs : s.can.sent.all (fun e => !(e.code == code && e.src == src)) = true) (hr : s.roomFor src = true) :
    (s.emcyInfo code src line info).can.queue = queueMsg s.can.queue ⟨code, src, line, info, none⟩ := by
  have hold : s.can.sent.find? (fun e => e.code = code ∧ e.src = src) = none := 
    List.find?_eq_none.mpr fun e he => by simpa [imp_iff_not_or] using List.all_eq_true.mp hs e he
  unfold State.emcyInfo
  rw [hold]
  extract_lets old held e' s1 s2
  have h2 : s2.can = s1.can := cause_can _ _
  have hroom : s2.roomFor src = true := by unfold State.roomFor; rw [h2]; exact hr
  rw [if_neg Bool.false_ne_true, if_pos hroom, modCan_can, h2]
  rfl
/-- It leaves the words of the host block below INT_STAT. -/
theorem get_emcyInfo_low {g : Fld} (hg : g.key < Ho.INT_STAT.key) : (s.emcyInfo code src line info).get g = s.get g := by
  have hlost : Ho.INT_STAT.key < (Hid.LOST src).key := by simp only [Fld.key, Hid.LOST, Ho.INT_STAT]; omega
  unfold State.emcyInfo
  extract_lets old held e' s1 s2
  have h2 : s2.get g = s.get g :=
    (get_cause_other _ 1 (Nat.ne_of_gt hg) (Nat.ne_of_gt (hg.trans (by decide)))).trans
      (get_put_other s1 _ (Nat.ne_of_gt (hg.trans (by decide))))
  split
  · exact h2
  split
  · exact h2
  · exact (get_put_other s2 _ (Nat.ne_of_gt (hg.trans hlost))).trans h2
theorem get_condOff_low {g : Fld} (hg : g.key < Ho.INT_STAT.key) : (s.condOff code src).get g = s.get g := by
  unfold State.condOff
  split
  · extract_lets t
    split
    · exact get_emcyInfo_low t 0 0xFF 0 _ hg
    · rfl
  · rfl

end

/-! ### The heartbeat consumer -/

/-- A loss of the consumed heartbeat, but for the token: HB_LOST, its condition and its EMCY. -/
def State.hbMissed (s : State) : State := ((s.flag Ho.HB_LOST).condOn 0x8130 0xFF).emcyInfo 0x8130 0xFF 0 (leBytes 4 0)
/-- Its return, but for the token. -/
def State.hbBack (s : State) : State := (s.unflag Ho.HB_LOST).condOff 0x8130 0xFF

section
variable (s : State)

theorem putHbLost_undisturbed (v : Nat) : Undisturbed s (s.put Ho.HB_LOST v) :=
  .put s v (by decide) (.inl (by decide)) (by decide) (.inl (by decide))
theorem hbMissed_undisturbed : Undisturbed s s.hbMissed :=
  ((putHbLost_undisturbed s 1).trans (.condOn _ 0x8130 0xFF)).trans (.emcyInfo _ 0x8130 0 _ (by decide))
theorem hbBack_undisturbed : Undisturbed s s.hbBack := (putHbLost_undisturbed s 0).trans (.condOff _ 0x8130 0xFF)

end

section
variable {s t : State}

/-- A command that leaves a device at rest undisturbed, its channels as they were: the token stays where it is (R435), and what the device
then does of itself touches no channel and nothing on CAN FD. -/
theorem Undisturbed.settle_frame (h : Undisturbed s t) (hr : s.rests = true) (hc : t.ch = s.ch) :
    t.tokenCheck.settle.ch = s.ch ∧ t.tokenCheck.settle.cu = s.cu ∧ t.tokenCheck.settle.stake = s.stake ∧
    t.tokenCheck.settle.can = t.can ∧ t.tokenCheck.settle.has Ho.HB_LOST = t.has Ho.HB_LOST := by
  have hd : NothingDue t := (nothingDue_of_rests hr).of_undisturbed h
  obtain ⟨hch, hcu, hstake, hcan, hget⟩ := hd.settle_frame (stripsStand_of_undisturbed h (stripsStand_of_rests hr))
  rw [hd.tokenCheck]
  exact ⟨hch.trans hc, hcu.trans h.cu, hstake.trans h.stake, hcan, by unfold State.has; rw [hget Ho.HB_LOST (by decide)]⟩

theorem hbMissed_has : s.hbMissed.has Ho.HB_LOST = true := by
  unfold State.hbMissed State.has
  rw [get_emcyInfo_low _ _ _ _ _ (by decide), get_congr (condOn_regs _ _ _), flag_eq, get_put_same]
  rfl
theorem hbBack_has : s.hbBack.has Ho.HB_LOST = false := by
  unfold State.hbBack State.has
  rw [get_condOff_low _ _ _ (by decide), unflag_eq, get_put_same]
  rfl
theorem hbMissed_log : s.hbMissed.can.log.any (fun e => e.code == 0x8130 && e.src == 0xFF) = true := by
  obtain ⟨h, hlog⟩ := emcyInfo_log ((s.flag Ho.HB_LOST).condOn 0x8130 0xFF) 0x8130 0xFF 0 (leBytes 4 0)
  unfold State.hbMissed
  rw [hlog]
  rfl
theorem hbMissed_queue (hs : s.can.sent.all (fun e => !(e.code == 0x8130 && e.src == 0xFF)) = true) (hr : s.roomFor 0xFF = true) :
    s.hbMissed.can.queue.any (fun m => m.code == 0x8130 && m.src == 0xFF) = true := by
  have hcond : ∀ t : State, (t.condOn 0x8130 0xFF).can.sent = t.can.sent ∧ (t.condOn 0x8130 0xFF).can.queue = t.can.queue := fun t => by
    unfold State.condOn
    split
    · exact ⟨rfl, rfl⟩
    · exact ⟨rfl, rfl⟩
  obtain ⟨hsent, hqueue⟩ := hcond (s.flag Ho.HB_LOST)
  unfold State.hbMissed
  rw [emcyInfo_queue _ _ _ _ _ (by rw [hsent]; exact hs) (by unfold State.roomFor; rw [hqueue]; exact hr)]
  exact List.any_eq_true.mpr ⟨_, mem_queueMsg_self _ _, rfl⟩

end

/-- Settles O57: a heartbeat's loss or return disturbs no channel, and what the device then does of itself is at most to lose an epoch
(`NothingDue.settle`). -/
theorem heartbeatConsumer : Obligations.HeartbeatConsumer := by
  unfold Obligations.HeartbeatConsumer
  refine fun s hr => ⟨fun ht hw hb => ?lost, fun hb => ?back⟩
  case lost =>
    have hgo : s.hbLost = s.hbMissed.tokenCheck := if_pos ⟨ht, hw, by rw [hb]; rfl⟩
    obtain ⟨hch, hcu, hstake, hcan, hhas⟩ := (hbMissed_undisturbed s).settle_frame hr (by simp [State.hbMissed])
    refine ⟨s.hbMissed.tokenCheck.settle, by rw [← hgo]; rfl, hhas.trans hbMissed_has, ?_, fun hs hroom => ?_, hch, hcu, hstake⟩
    · rw [hcan]; exact hbMissed_log
    · rw [hcan]; exact hbMissed_queue hs hroom
  case back =>
    have hgo : s.hbReceived = s.hbBack.tokenCheck := if_pos hb
    obtain ⟨hch, hcu, hstake, -, hhas⟩ := (hbBack_undisturbed s).settle_frame hr (by simp [State.hbBack])
    exact ⟨s.hbBack.tokenCheck.settle, by rw [← hgo]; rfl, hhas.trans hbBack_has, hch, hcu, hstake⟩

end Sys2Proof.Machine
end

section
/-! SUPPORT. What a cause and an answer set and leave of the host block (R421, R438), and the token's passing (R434). -/
namespace Sys2Proof.Machine

/-! ### A cause and an answer -/

section
variable (s : State)

/-- While PD_HOST runs, a cause sets its bit (R421). -/
theorem get_intStat_cause {v : Nat} (hv : v < 32) (hon : s.pcie.on = true) (hperst : s.pcie.perst = false) :
    (s.cause v).get Ho.INT_STAT =
      if bit (s.get Ho.INT_STAT) v = true then s.get Ho.INT_STAT else (s.get Ho.INT_STAT + 2 ^ v) % 2 ^ 32 := by
  have hput : ∀ x, (s.put Ho.INT_STAT x).get Ho.INT_STAT = x % 2 ^ 32 := get_put_same s Ho.INT_STAT
  have hpba : (Mx.PBA v).key ≠ Ho.INT_STAT.key := by simp only [Fld.key, Mx.PBA, Ho.INT_STAT]; omega
  unfold State.cause
  rw [hon, hperst, if_neg (by decide)]
  split
  · rfl
  dsimp only
  split
  · exact hput _
  split
  · rw [flag_eq, get_put_other _ _ hpba]; exact hput _
  split
  · exact hput _
  · rw [get_emit]; exact hput _
theorem bit_intStat_cause {v : Nat} (hv : v < 32) (hon : s.pcie.on = true) (hperst : s.pcie.perst = false) :
    bit ((s.cause v).get Ho.INT_STAT) v = true := by
  rw [get_intStat_cause s hv hon hperst]
  split
  next h => exact h
  next h =>
    rw [bit_eq_testBit] at h ⊢
    rw [Nat.testBit_mod_two_pow, Nat.add_comm, Nat.testBit_two_pow_add_eq, decide_eq_true hv, eq_false_of_ne_true h]
    rfl
theorem cause_same (v : Nat) : s.cause v = { s with regs := (s.cause v).regs, out := (s.cause v).out } := by
  unfold State.cause
  extract_lets t
  repeat' split
  all_goals rfl

/-- The mailbox's answer to a write is lost, or sets its own words and cause bit 0 (R423, R438). -/
theorem mbAnswer_cases (idx sub abort : Nat) :
    s.mbAnswer idx sub abort [] = s ∨ ∃ u : State, u = { s with regs := u.regs, pcie := { s.pcie with mb := none } } ∧
      (∀ g : Fld, g.key < Mb.DONE.key → u.get g = s.get g) ∧ s.mbAnswer idx sub abort [] = u.cause 0 := by
  unfold State.mbAnswer
  split
  · exact .inl rfl
  split
  · exact .inl rfl
  simp only [or_true, if_true]
  refine .inr ⟨_, rfl, fun g hg => ?_, rfl⟩
  have hkey : ∀ f ∈ [Mb.RSP_SEQ, Mb.RSP_ABORT, Mb.RSP_LEN, Mb.BUSY, Mb.DONE], f.key ≠ g.key := by
    have hge : ∀ f ∈ [Mb.RSP_SEQ, Mb.RSP_ABORT, Mb.RSP_LEN, Mb.BUSY, Mb.DONE], Mb.DONE.key ≤ f.key := by decide
    exact fun f hf => Nat.ne_of_gt (hg.trans_le (hge f hf))
  simp only [List.forall_mem_cons] at hkey
  obtain ⟨hseq, habort, hlen, hbusy, hdone, -⟩ := hkey
  rw [flag_eq, unflag_eq, get_put_other _ _ hdone, get_put_other _ _ hbusy, get_put_other _ _ hlen, get_put_other _ _ habort,
    get_put_other _ _ hseq]
  rfl
/-- Cause 0 takes back no cause 2. -/
theorem bit_two_cause_zero (h : bit (s.get Ho.INT_STAT) 2 = true) : bit ((s.cause 0).get Ho.INT_STAT) 2 = true := by
  by_cases hrun : s.pcie.on = true ∧ s.pcie.perst = false
  · rw [get_intStat_cause s (by decide) hrun.1 hrun.2]
    split
    next => exact h
    next h0 => simp only [bit, decide_eq_true_eq] at h h0 ⊢; omega
  · have hoff : s.cause 0 = s := if_pos (by simpa [imp_iff_not_or] using hrun)
    rw [hoff]; exact h

end

/-- `t` has the host block of `s` but for cause bits that set, and differs in outputs, registers and the mailbox alone. -/
structure HostKept (s t : State) : Prop where
  get : ∀ g : Fld, g.key < Mb.DONE.key → Ho.INT_STAT.key ≠ g.key → t.get g = s.get g
  moved : bit (s.get Ho.INT_STAT) 2 = true → bit (t.get Ho.INT_STAT) 2 = true
  same : t = { s with regs := t.regs, out := t.out, pcie := { s.pcie with mb := t.pcie.mb } }

theorem HostKept.mbAnswer (s : State) (idx sub abort : Nat) : HostKept s (s.mbAnswer idx sub abort []) := by
  obtain e | ⟨u, hu, hget, e⟩ := mbAnswer_cases s idx sub abort
  · rw [e]; exact ⟨fun _ _ _ => rfl, id, rfl⟩
  · have hpba : Mb.DONE.key < (Mx.PBA 0).key := by decide
    rw [e]
    refine ⟨fun g hg hne => (get_cause_other u 0 hne (Nat.ne_of_gt (hg.trans hpba))).trans (hget g hg), fun h => ?_, ?_⟩
    · exact bit_two_cause_zero u (by rw [hget _ (by decide)]; exact h)
    · have hpcie : (u.cause 0).pcie = { s.pcie with mb := none } := by rw [cause_pcie, hu]
      rw [hpcie, cause_same u 0, hu]
theorem HostKept.answer (s : State) (p : Port) (idx sub abort : Nat) : HostKept s (s.answer p idx sub abort) := by
  cases p with
  | can => exact ⟨fun _ _ _ => rfl, id, rfl⟩
  | pcie =>
    obtain ⟨hget, hmoved, hsame⟩ := HostKept.mbAnswer (s.emit (.sdo .pcie idx sub abort)) idx sub abort
    exact ⟨hget, hmoved, hsame⟩

/-! ### The token -/

/-- The word of TOKEN_CTL, and the value of ControlOwner, that names a port (R434). -/
def portCode (p : Port) : Nat := if p = .can then 1 else 2

section
variable {s : State} {p dst : Port}

theorem tokenJudge_holder (h : s.holds p = true) : s.tokenJudge p (portCode dst) = none := by
  unfold State.tokenJudge
  cases dst <;> simp [firstBad, h, portCode]
theorem tokenSet_portCode (s : State) (dst : Port) : s.tokenSet (portCode dst) = s.moveToken dst := by
  cases dst with
  | can => rfl
  | pcie => rfl
theorem bits_portCode (dst : Port) : bits (portCode dst) 1 0 = portCode dst := by
  cases dst with
  | can => rfl
  | pcie => rfl
/-- The holder's write of TOKEN_CTL moves the token. -/
theorem viaReg_token (hb : s.barOpen = true) (ht : s.holds .pcie = true) : s.viaReg Ho.TOKEN_CTL.addr (portCode dst) = s.moveToken dst := by
  have hword : s.regWrite Ho.TOKEN_CTL.addr (portCode dst) = s.moveToken dst := by
    have hblk : blkOf Ho.TOKEN_CTL.addr = .host := by decide
    unfold State.regWrite
    simp [hblk, Blk.chan, Blk.tokenWord, Blk.critical, Blk.judge, Blk.apply, bits_portCode, tokenJudge_holder ht, tokenSet_portCode]
  have haddr : ¬ 0x100000 ≤ Ho.TOKEN_CTL.addr ∧ Ho.TOKEN_CTL.addr % 4 = 0 ∧ Ho.TOKEN_CTL.addr ≠ Mb.GO.addr ∧
      blkOf Ho.TOKEN_CTL.addr = .host := by decide
  obtain ⟨hlow, hdword, hgo, hblk⟩ := haddr
  rw [← hword]
  unfold State.viaReg State.barStore State.barDword State.barWord
  simp [hb, hlow, hdword, hgo, hblk]
/-- The row of ControlOwner. -/
def objOwner : Obj := oRw 5 1 .imm 0 uAny .fn
theorem objFind_owner (node : Nat) : objFind node 0x2000 5 = .row objOwner := rfl
/-- The holder's write of ControlOwner moves the token. -/
theorem objWrite_token (w : World) (owed : Option Port) (ht : s.holds p = true) :
    s.objWrite w p owed 0x2000 5 (leBytes 1 (portCode dst)) = (s.moveToken dst, some 0) := by
  have hval : leNat (leBytes 1 (portCode dst)) = portCode dst := by cases dst <;> rfl
  have hlen : ∀ v, (leBytes 1 v).length = 1 := fun _ => rfl
  have hbad : s.objBad p 0x2000 objOwner (leBytes 1 (portCode dst)) = none := by
    unfold State.objBad
    rw [hval]
    cases dst <;> simp [firstBad, objOwner, oRw, hlen, portCode, objToken, objValueOk, State.sensorValueOk, uAny]
  have hjudge : s.objJudge p 0x2000 objOwner (leBytes 1 (portCode dst)) = none := by
    change s.tokenJudge p (leNat (leBytes 1 (portCode dst))) = none
    rw [hval]; exact tokenJudge_holder ht
  have hcheck : s.objCheck p 0x2000 objOwner (leBytes 1 (portCode dst)) = none := by
    unfold State.objCheck
    rw [hbad, hjudge]; rfl
  have hdo : s.objDo w p owed 0x2000 objOwner (leBytes 1 (portCode dst)) = (s.moveToken dst, some 0) := by
    change fin (s.tokenSet (leNat (leBytes 1 (portCode dst)))) = _
    rw [hval, tokenSet_portCode]; rfl
  have htouch : s.otpTouch 0x2000 objOwner.sub = s := if_neg (by omega)
  change s.objNow w p owed 0x2000 objOwner (leBytes 1 (portCode dst)) = _
  unfold State.objNow
  rw [hbad, hcheck, htouch]
  exact hdo
theorem moveToken_self (h : s.dev.token = dst) : s.moveToken dst = s := if_pos h

/-! #### What a move leaves -/

/-- A device at rest is at rest with the token at the other port, unless that is PCI Express and lost (R435). -/
theorem rests_withToken (hr : s.rests = true) (hl : dst = .pcie → s.pcieLost = false) :
    (s.modDev (fun d => { d with token := dst })).rests = true := by
  unfold State.rests at hr ⊢
  simp only [Bool.and_eq_true] at hr ⊢
  obtain ⟨⟨⟨⟨⟨⟨hwake, hch⟩, -⟩, hpix⟩, hepoch⟩, hbench⟩, hsave⟩ := hr
  refine ⟨⟨⟨⟨⟨⟨hwake, hch⟩, ?_⟩, hpix⟩, hepoch⟩, hbench⟩, hsave⟩
  change (!(decide (dst = .pcie) && s.pcieLost && decide (s.dev.boot = .up))) = true
  cases dst with
  | can => rfl
  | pcie => rw [hl rfl]; rfl
theorem moveToken_undisturbed (h : s.dev.token ≠ dst) : Undisturbed (s.modDev (fun d => { d with token := dst })) (s.moveToken dst) := by
  unfold State.moveToken
  rw [if_neg h]
  have hput : ∀ (t : State) {f : Fld} (v : Nat), f.lsb < 32 → f.addr < 0x200 → Undisturbed t (t.put f v) := fun t f v hl ha =>
    .put t v hl (by omega) (by omega) (by omega)
  exact ((hput _ 1 (by decide) (by decide)).trans (.cause _ 2 (by decide))).trans (hput _ _ (by decide) (by decide))

end

/-- What a passing of the token comes to (R434). -/
structure TokenMoved (s t : State) (dst : Port) : Prop where
  token : t.dev.token = dst
  flag : t.has Ho.TOKEN_MOVED = true
  cause : bit (t.get Ho.INT_STAT) 2 = true
  count : t.get Ho.TOKEN_CNT = (s.get Ho.TOKEN_CNT + 1) % 2 ^ 32
  same : t = { s with regs := t.regs, out := t.out, pcie := t.pcie, dev := { s.dev with token := dst } }

section
variable {s t : State} {dst : Port}

theorem tokenMoved_moveToken (hon : s.pcie.on = true) (hperst : s.pcie.perst = false) (h : s.dev.token ≠ dst) :
    TokenMoved s (s.moveToken dst) dst := by
  have hmove : s.moveToken dst = (((s.modDev (fun d => { d with token := dst })).flag Ho.TOKEN_MOVED).cause 2).incr Ho.TOKEN_CNT :=
    if_neg h
  have hcount : ∀ {u : State} {g : Fld} (v : Nat), Ho.TOKEN_CNT.key ≠ g.key → (u.put Ho.TOKEN_CNT v).get g = u.get g := fun v h =>
    get_put_other _ v h
  have hflag : ∀ g : Fld, Ho.TOKEN_MOVED.key ≠ g.key →
      ((s.modDev (fun d => { d with token := dst })).flag Ho.TOKEN_MOVED).get g = s.get g := fun g h => get_put_other _ 1 h
  rw [hmove, incr_eq, incrBy_eq]
  refine ⟨?_, ?_, ?_, ?_, ?_⟩
  · exact congrArg Dev.token (cause_dev _ 2)
  · unfold State.has
    rw [hcount _ (by decide), get_cause_other _ _ (by decide) (by decide), flag_eq, get_put_same]
    rfl
  · rw [hcount _ (by decide)]
    exact bit_intStat_cause _ (by decide) hon hperst
  · rw [get_put_same, get_cause_other _ _ (by decide) (by decide), hflag _ (by decide)]
    rfl
  · rw [cause_same]; rfl
theorem TokenMoved.answer (h : TokenMoved s t dst) (p : Port) (idx sub abort : Nat) : TokenMoved s (t.answer p idx sub abort) dst := by
  obtain ⟨hget, hmoved, hsame⟩ := HostKept.answer t p idx sub abort
  refine ⟨?_, ?_, hmoved h.cause, (hget _ (by decide) (by decide)).trans h.count, ?_⟩
  · rw [hsame]; exact h.token
  · unfold State.has; rw [hget _ (by decide) (by decide)]; exact h.flag
  · rw [hsame, h.same]

end

section
variable {s : State} {dst p : Port}

theorem exec_tokenPass_reg (hb : s.barOpen = true) (ht : s.holds .pcie = true) :
    exec (.tokenPass dst .reg) s = .next (s.moveToken dst).settle := by
  change Host.Outcome.next (s.viaReg Ho.TOKEN_CTL.addr (portCode dst)).settle = _
  rw [viaReg_token hb ht]
theorem exec_tokenPass_obj (hs : s.serves p = true) (hd : s.spDown = false) (ht : s.holds p = true) :
    exec (.tokenPass dst (.obj p)) s = .next ((s.moveToken dst).answer p 0x2000 5 0).settle := by
  change Host.Outcome.next (s.portWrite s.plainWorld p 0x2000 5 (leBytes 1 (portCode dst))).settle = _
  rw [portWrite_of_objWrite hs hd (objWrite_token _ _ ht)]
/-- With the token at its new port, and after the answer, a device at rest is at rest. -/
theorem rests_moveToken (hr : s.rests = true) (hw : ∀ n : Ch, s.get (wavePrep n) < 256) (hl : dst = .pcie → s.pcieLost = false)
    {t : State} (h : Undisturbed (s.moveToken dst) t) : t.rests = true := by
  by_cases hself : s.dev.token = dst
  · rw [moveToken_self hself] at h
    exact (h.rests hw).trans hr
  · exact (((moveToken_undisturbed hself).trans h).rests hw).trans (rests_withToken hr hl)

/-- R434, where the slots that the prepared set selects lie in their 8 bits, as every write leaves them (`get_put_same`). -/
theorem tokenPass_of_fits (hr : s.rests = true) (hw : ∀ n : Ch, s.get (wavePrep n) < 256) (hon : s.pcie.on = true)
    (hperst : s.pcie.perst = false) :
    (s.barOpen = true → s.holds .pcie = true →
      (dst ≠ s.dev.token → (dst = .pcie → s.pcieLost = false) → ∃ t, exec (.tokenPass dst .reg) s = .next t ∧ TokenMoved s t dst) ∧
      (dst = s.dev.token → exec (.tokenPass dst .reg) s = .next s)) ∧
    (s.serves p = true → s.spDown = false → s.holds p = true →
      (dst ≠ s.dev.token → (dst = .pcie → s.pcieLost = false) → ∃ t, exec (.tokenPass dst (.obj p)) s = .next t ∧ TokenMoved s t dst) ∧
      (dst = s.dev.token → exec (.tokenPass dst (.obj p)) s = .next (s.answer p 0x2000 5 0))) := by
  refine ⟨fun hb ht => ⟨fun hne hl => ?_, fun he => ?_⟩, fun hs hd ht => ⟨fun hne hl => ?_, fun he => ?_⟩⟩
  · rw [exec_tokenPass_reg hb ht, settle_of_rests (rests_moveToken hr hw hl (.refl _))]
    exact ⟨_, rfl, tokenMoved_moveToken hon hperst hne.symm⟩
  · rw [exec_tokenPass_reg hb ht, moveToken_self he.symm, settle_of_rests hr]
  · rw [exec_tokenPass_obj hs hd ht, settle_of_rests (rests_moveToken hr hw hl (.answer _ p 0x2000 5 0))]
    exact ⟨_, rfl, (tokenMoved_moveToken hon hperst hne.symm).answer p 0x2000 5 0⟩
  · rw [exec_tokenPass_obj hs hd ht, moveToken_self he.symm,
      settle_of_rests (((Undisturbed.answer s p 0x2000 5 0).rests hw).trans hr)]

end

/-! ### A selection of the prepared set beyond its 8 bits -/

/-- `wideSelection` with another slot there: its one sub-pulse begins at 9,200 and takes no time while REST is its target, 0, so that the
line is just short enough for the minimum interval. The word of REST is the mailbox's own, and the mailbox serves a write of ControlOwner. -/
def wideSlotOnMailbox : State :=
  { wideSelection with
    pcie := { wideSelection.pcie with mb := some ⟨0x2000, 5, 0, none⟩ }
    regs := [(Ep.EP_MASK.key, 1), ((Lv.VALID1 0).key, 1), ((Sl.SP_EN 0 0xBF6).key, 1), ((Sl.SP_START 0 0xBF6 0).key, 9200),
      ((Sl.STEP_A 0 0xBF6 0).key, 255), ((wavePrep 0).key, 0xBF6)] }

theorem rest_wide_key : (Sl.REST 0 0xBF6).key = Mb.DONE.key := rfl
theorem wideSlotOnMailbox_inv : Inv wideSlotOnMailbox := ⟨by decide, by decide⟩
theorem wideSlotOnMailbox_rests : wideSlotOnMailbox.rests = true := by decide +kernel
theorem wideSlotOnMailbox_serves : wideSlotOnMailbox.serves .pcie = true := by decide +kernel
/-- The answer's DONE raises REST, the sub-pulse ends later than the interval allows, and the epoch is lost (R241, R335). -/
theorem wideSlotOnMailbox_loses_epoch :
    (wideSlotOnMailbox.portWrite wideSlotOnMailbox.plainWorld .pcie 0x2000 5 [1]).settle.epoch = .openE := by decide +kernel

/-- Refutes O51: a state at rest may hold any number as its prepared WaveformSet. Where that number is beyond the field's 8 bits, a word of
the slot it selects may be the mailbox's own, so that the answer to the holder's write of ControlOwner fails the check of a PREPARED
epoch, and more changes than the token. No write leaves such a number, and where there is none the statement holds
(`tokenPass_of_fits`). -/
theorem not_tokenPasses : ¬ Obligations.TokenPasses := by
  unfold Obligations.TokenPasses
  rintro ⟨-, hobject⟩
  obtain ⟨hmoves, -⟩ := hobject wideSlotOnMailbox .can .pcie wideSlotOnMailbox_rests rfl rfl wideSlotOnMailbox_serves rfl rfl
  obtain ⟨t, ht, -, -, -, -, hsame⟩ := hmoves (by decide) (by decide)
  obtain rfl : (wideSlotOnMailbox.portWrite wideSlotOnMailbox.plainWorld .pcie 0x2000 5 [1]).settle = t := Host.Outcome.next.inj ht
  have hepoch := wideSlotOnMailbox_loses_epoch
  rw [hsame] at hepoch
  cases hepoch

/-- The hypotheses of `tokenPass_of_fits` met: where the selection went through a write of the field it was cut to its 8 bits, and the same
write moves the token alone. -/
theorem narrowSlot_token_moves :
    ∃ t, exec (.tokenPass .can (.obj .pcie)) (wideSlotOnMailbox.put (wavePrep 0) 0xBF6) = .next t ∧
      TokenMoved (wideSlotOnMailbox.put (wavePrep 0) 0xBF6) t .can := by
  obtain ⟨-, hobject⟩ := tokenPass_of_fits (s := wideSlotOnMailbox.put (wavePrep 0) 0xBF6) (dst := .can) (p := .pcie) (by decide +kernel)
    (by decide +kernel) rfl rfl
  obtain ⟨hmoves, -⟩ := hobject (by decide +kernel) rfl rfl
  exact hmoves (by decide) (by decide)

end Sys2Proof.Machine
end

section
/-! SUPPORT. The implied sub-index 00 of the object dictionary (R451, R452), and what its answers leave. -/
namespace Sys2Proof.Machine

/-! ### The answer to a read -/

namespace Undisturbed
variable {s t u : State}

/-- A memory test's slice that yields, and its counters (R406). -/
theorem bistTouch (s : State) (m : Nat) (p : Nat → Bool) : Undisturbed s (s.bistTouch m p) := by
  have hcount : ∀ (t : State) {f : Fld} (v : Nat), f.lsb < 32 ∧ 0x600 ≤ f.addr ∧ f.addr < 0x700 → Undisturbed t (t.put f v) :=
    fun t f v ⟨hl, lo, hi⟩ => put t v hl (by omega) (by omega) (by omega)
  have hyield : ∀ (b : Bist) (v : Nat), Undisturbed s (State.put { s with bist := b } Me.YIELD_CNT v) := fun b v =>
    have hbist : Undisturbed s { s with bist := b } := { refl s with }
    hbist.trans (hcount _ v (by decide))
  unfold State.bistTouch
  split
  · split
    · dsimp only
      split
      · exact ((hyield _ _).trans (hcount _ 1 (f := Me.SKIP) (by decide))).trans (hcount _ _ (f := Me.SKIP_CNT) (by decide))
      · exact hyield _ _
    · exact refl s
  · exact refl s
/-- Bytes written to the scratchpad (R397). -/
theorem spApply (s : State) (o : SpOp) (l : List (Nat × Byte)) : Undisturbed s (s.spApply o l) :=
  have hbyte : ∀ (t : State) (m : List Host.Cell) (b : List Nat), Undisturbed t { t with sp := m, parBad := b } := fun t _ _ =>
    { refl t with }
  (List.foldlRecOn l _ (refl s) fun t h _ _ => h.trans (hbyte t _ _)).trans (bistTouch _ 0 _)
/-- The response words that come before the data of an answer (R438). -/
theorem mbResponse (s : State) (seq abort len : Nat) :
    Undisturbed s
      (((State.put { s with pcie := { s.pcie with mb := none } } Mb.RSP_SEQ seq).put Mb.RSP_ABORT abort).put Mb.RSP_LEN len) := by
  have hreq : Undisturbed s { s with pcie := { s.pcie with mb := none } } := of_mailbox s s.out none s.deferred
  exact ((hreq.mbPut _ (by decide)).mbPut _ (by decide)).mbPut _ (by decide)
/-- The mailbox's answer to any request: its response words and data, BUSY and DONE, cause bit 0, and for CMD 3 bytes of the scratchpad
(R438, R439). -/
theorem mbAnswerData (s : State) (idx sub abort : Nat) (data : List Byte) : Undisturbed s (s.mbAnswer idx sub abort data) := by
  have hdone : ∀ {t : State}, Undisturbed s t → Undisturbed s (((t.unflag Mb.BUSY).flag Mb.DONE).cause 0) := fun h =>
    ((h.mbPut 0 (by decide)).mbPut 1 (by decide)).trans (cause _ 0 (by decide))
  have hword : ∀ (t : State) (i v : Nat), i < 16 → Undisturbed t (t.put (Mb.RSP_DATA i) v) := fun t i v hi =>
    (refl t).mbPut v (by simp only [Mb.RSP_DATA]; omega)
  unfold State.mbAnswer
  split
  · exact refl s
  split
  · exact refl s
  extract_lets fits code pcie request response answer
  have hresponse : Undisturbed s response := mbResponse s _ _ _
  clear_value response
  have hanswer : Undisturbed s answer := by
    simp only [answer]
    split
    · exact hresponse
    split
    · exact hresponse.trans (spApply _ _ _)
    · exact List.foldlRecOn _ _ hresponse fun t h i hi => h.trans (hword t i _ (List.mem_range.mp hi))
  exact hdone hanswer
theorem answerData (s : State) (p : Port) (idx sub : Nat) (data : List Byte) : Undisturbed s (s.answerData p idx sub data) := by
  have hout : Undisturbed s (s.emit (.sdoData p idx sub data)) := of_mailbox s _ s.pcie.mb s.deferred
  cases p with
  | can => exact hout
  | pcie => exact hout.trans (mbAnswerData _ idx sub 0 data)

end Undisturbed

/-! ### A request's answer from a device at rest -/

section
variable {s : State} {p : Port} {idx sub k a : Nat} {data : List Byte}

/-- What the dictionary answers to a read of sub-index 00 that it implies. -/
theorem portRead_of_top (hs : s.serves p = true) (hd : s.spDown = false) (hf : objFind s.can.nodeId idx sub = .top k) :
    s.portRead p idx sub = s.answerData p idx sub [BitVec.ofNat 8 k] := by
  unfold State.portRead State.reqRead State.deferIf State.sdoRead
  simp [hs, hd, hf]
/-- A write to it finds a read-only object (R451). -/
theorem objWrite_of_top (w : World) (owed : Option Port) (hf : objFind s.can.nodeId idx sub = .top k) :
    s.objWrite w p owed idx sub data = (s, some abRo) := by
  unfold State.objWrite; rw [hf]
/-- The revision number's object, 0x1018:03 (R456). -/
theorem objRead_revision (s : State) (p : Port) : s.objRead p 0x1018 (oRo 3 4 .fn) = (s, leBytes 4 0x00010001) := rfl
theorem portRead_revision (hs : s.serves p = true) (hd : s.spDown = false) :
    s.portRead p 0x1018 3 = s.answerData p 0x1018 3 (leBytes 4 0x00010001) := by
  have hf : objFind s.can.nodeId 0x1018 3 = .row (oRo 3 4 .fn) := rfl
  have hbasic : (oRo 3 4 .fn).expert = false := rfl
  unfold State.portRead State.reqRead State.deferIf State.sdoRead
  simp [hs, hd, hf, hbasic, objRead_revision]

variable (hr : s.rests = true) (hw : p = .pcie → ∀ n : Ch, s.get (wavePrep n) < 256)
include hr hw

/-- An answer over CAN FD touches no register; one over the mailbox leaves a rest where the selections of the prepared set lie in
their 8 bits. -/
theorem rests_answer_of_fits (idx sub a : Nat) : (s.answer p idx sub a).rests = true := by
  cases p with
  | can => exact hr
  | pcie => exact ((Undisturbed.answer s .pcie idx sub a).rests (hw rfl)).trans hr
theorem rests_answerData_of_fits (idx sub : Nat) (data : List Byte) : (s.answerData p idx sub data).rests = true := by
  cases p with
  | can => exact hr
  | pcie => exact ((Undisturbed.answerData s .pcie idx sub data).rests (hw rfl)).trans hr
theorem exec_sdoUpload_of_portRead (h : s.portRead p idx sub = s.answerData p idx sub data) :
    exec (.sdoUpload p idx sub) s = .next (s.answerData p idx sub data) := by
  change Host.Outcome.next (s.portRead p idx sub).settle = _
  rw [h, settle_of_rests (rests_answerData_of_fits hr hw idx sub data)]
/-- A write that changes nothing is answered, and nothing more. -/
theorem exec_sdoDownload_of_unchanged (hs : s.serves p = true) (hd : s.spDown = false)
    (h : s.objWrite s.plainWorld p (some p) idx sub data = (s, some a)) :
    exec (.sdoDownload p idx sub data) s = .next (s.answer p idx sub a) := by
  change Host.Outcome.next (s.portWrite s.plainWorld p idx sub data).settle = _
  rw [portWrite_of_objWrite hs hd h, settle_of_rests (rests_answer_of_fits hr hw idx sub a)]

end

/-! ### The rows of an index -/

/-- The rows have no sub-index 00 of their own beside others: they all lie above it, or it is their only one. -/
def zeroApart (rows : List Obj) : Bool := rows.all (fun o => decide (0 < o.sub)) || rows.all (fun o => decide (o.sub = 0))
/-- The objects that R451 leaves out: 0x1003 and the PDO mapping objects. -/
def ownsZero (idx : Nat) : Prop := idx = 0x1003 ∨ idx / 4 = 0x1600 / 4 ∨ idx / 4 = 0x1A00 / 4

section
variable {node idx sub : Nat} {rows : List Obj}

theorem objComm_zeroApart (hx : ¬ ownsZero idx) (h : objComm node idx = some rows) : zeroApart rows = true := by
  unfold ownsZero at hx
  unfold objComm at h
  split at h
  · cases h; rfl
  split at h
  · omega
  split at h
  · cases h; rfl
  split at h
  · omega
  split at h
  case h_3 => omega
  all_goals cases h <;> rfl
theorem objChan_zeroApart (h : objChan idx = some rows) : zeroApart rows = true := by
  unfold objChan at h
  split at h <;> cases h <;> rfl
theorem objThermal_zeroApart (m : Nat) : zeroApart (objThermal m) = true := by unfold objThermal; split <;> rfl
/-- A range of indices whose rows keep 00 apart may be passed over. -/
theorem zeroApart_of_ite {c : Prop} [Decidable c] {a : List Obj} {y : Option (List Obj)} (ha : zeroApart a = true)
    (hy : y = some rows → zeroApart rows = true) (h : (if c then some a else y) = some rows) : zeroApart rows = true := by
  by_cases hc : c
  · rw [if_pos hc, Option.some_inj] at h; exact h ▸ ha
  · rw [if_neg hc] at h; exact hy h
theorem objRows_zeroApart (hx : ¬ ownsZero idx) (h : objRows node idx = some rows) : zeroApart rows = true := by
  unfold objRows at h
  by_cases hcomm : idx < 0x2000
  · rw [if_pos hcomm] at h; exact objComm_zeroApart hx h
  rw [if_neg hcomm] at h
  refine zeroApart_of_ite rfl (zeroApart_of_ite rfl fun h => ?_) h
  by_cases hchan : 0x3000 ≤ idx ∧ idx < 0x3800
  · rw [if_pos hchan] at h; exact objChan_zeroApart h
  rw [if_neg hchan] at h
  refine zeroApart_of_ite (objThermal_zeroApart _) (zeroApart_of_ite rfl <| zeroApart_of_ite rfl <| zeroApart_of_ite rfl <|
    zeroApart_of_ite rfl <| zeroApart_of_ite rfl <| zeroApart_of_ite rfl <| zeroApart_of_ite rfl <| zeroApart_of_ite rfl fun h => ?_) h
  split at h <;> cases h <;> rfl

/-! ### The highest sub-index -/

/-- The value of the implied sub-index 00. -/
def highestSub (rows : List Obj) : Nat := rows.foldl (fun m o => max m o.sub) 0

/-- It is one of the sub-indices, and none is above it. -/
theorem max_highestSub (h : rows ≠ []) : (rows.map Obj.sub).max? = some (highestSub rows) := by
  have hfold : highestSub rows = max 0 ((rows.map Obj.sub).max?.getD 0) := by rw [← List.foldl_max, List.foldl_map]; rfl
  cases hm : (rows.map Obj.sub).max? with
  | none => simp [h] at hm
  | some m => rw [hfold, hm, Option.getD_some, Nat.zero_max]
theorem highestSub_mem (h : rows ≠ []) : ∃ o ∈ rows, o.sub = highestSub rows :=
  List.mem_map.mp (List.max?_eq_some_iff.mp (max_highestSub h)).1
theorem sub_le_highestSub {o : Obj} (h : o ∈ rows) : o.sub ≤ highestSub rows :=
  (List.max?_eq_some_iff.mp (max_highestSub (List.ne_nil_of_mem h))).2 _ (List.mem_map_of_mem h)

/-! ### What the dictionary finds -/

/-- What is found at a sub-index is one of the index's rows. -/
theorem objFind_row_mem {o : Obj} (h : objFind node idx sub = .row o) :
    ∃ rows, objRows node idx = some rows ∧ o ∈ rows ∧ o.sub = sub := by
  unfold objFind at h
  split at h
  · cases h
  next rows hrows =>
  split at h
  next o' hfind =>
    cases h
    exact ⟨rows, hrows, List.mem_of_find?_eq_some hfind, by simpa using List.find?_some hfind⟩
  · split at h <;> cases h
theorem exists_objFind_row (hrows : objRows node idx = some rows) {o : Obj} (ho : o ∈ rows) :
    ∃ o', objFind node idx o.sub = .row o' := by
  obtain ⟨o', hfind⟩ := Option.isSome_iff_exists.mp (List.find?_isSome.mpr ⟨o, ho, decide_eq_true rfl⟩ :
    (rows.find? (fun x => x.sub = o.sub)).isSome = true)
  unfold objFind
  simp only [hrows, hfind]
  exact ⟨o', rfl⟩
/-- Where every row lies above 00, sub-index 00 is implied (R451). -/
theorem objFind_zero (hrows : objRows node idx = some rows) (h : ∀ o ∈ rows, 0 < o.sub) :
    objFind node idx 0 = .top (highestSub rows) := by
  have hnone : rows.find? (fun o => o.sub = 0) = none :=
    List.find?_eq_none.mpr fun o ho => by simpa using Nat.ne_of_gt (h o ho)
  unfold objFind
  simp only [hrows, hnone]
  rfl
/-- R451: an object with a sub-index above 00, but for those it leaves out, has a sub-index 00 with the highest of them. -/
theorem objFind_implied_zero (hx : ¬ ownsZero idx) (hsub : 0 < sub) {o : Obj} (h : objFind node idx sub = .row o) :
    ∃ k, objFind node idx 0 = .top k ∧ sub ≤ k ∧ (∃ o', objFind node idx k = .row o') ∧
      ∀ j, k < j → ∀ o', objFind node idx j ≠ .row o' := by
  obtain ⟨rows, hrows, ho, rfl⟩ := objFind_row_mem h
  have habove : ∀ o ∈ rows, 0 < o.sub := by
    obtain hall | hall := Bool.or_eq_true _ _ ▸ objRows_zeroApart hx hrows
    · simpa using hall
    · have hzero : o.sub = 0 := by simpa using List.all_eq_true.mp hall o ho
      omega
  refine ⟨highestSub rows, objFind_zero hrows habove, sub_le_highestSub ho, ?_, fun j hj o' hj' => ?_⟩
  · obtain ⟨o', ho', e⟩ := highestSub_mem (List.ne_nil_of_mem ho)
    exact e ▸ exists_objFind_row hrows ho'
  · obtain ⟨rows', hrows', ho', rfl⟩ := objFind_row_mem hj'
    obtain rfl : rows = rows' := Option.some_inj.mp (hrows.symm.trans hrows')
    exact absurd (sub_le_highestSub ho') (by omega)
/-- Of the level pattern, 0x40. -/
theorem objFind_pattern_zero (node : Nat) (n : Ch) : objFind node (0x3031 + 0x100 * n) 0 = .top 0x40 := by
  have hrows : objRows node (0x3031 + 0x100 * n) = some objPattern := by fin_cases n <;> rfl
  have hhighest : highestSub objPattern = 0x40 := by decide +kernel
  rw [objFind_zero hrows (by decide +kernel), hhighest]
/-- Of a chainage unit, 0x17. -/
theorem objFind_chainage_zero (node : Nat) : ∀ m : Cun, objFind node (0x2100 + m) 0 = .top 0x17 := by
  intro m; fin_cases m <;> rfl

end

/-! ### Sub-index 00 over the ports -/

/-- R451 and R17 over CAN FD, and over the mailbox for the registers as they can stand: where the slots that the prepared set selects
lie in their 8 bits, as every write leaves them (`get_put_same`). -/
theorem subIndexZero_of_fits {s : State} {p : Port} (hr : s.rests = true) (hw : p = .pcie → ∀ n : Ch, s.get (wavePrep n) < 256)
    (hs : s.serves p = true) (hd : s.spDown = false) :
    (∀ (idx sub : Nat) (o : Obj), objFind s.can.nodeId idx sub = .row o → 0 < sub → idx ≠ 0x1003 →
        idx / 4 ≠ 0x1600 / 4 → idx / 4 ≠ 0x1A00 / 4 →
      ∃ k : Nat, sub ≤ k ∧ (∃ o' : Obj, objFind s.can.nodeId idx k = .row o') ∧
        (∀ j : Nat, k < j → ∀ o' : Obj, objFind s.can.nodeId idx j ≠ .row o') ∧
        exec (.sdoUpload p idx 0) s = .next (s.answerData p idx 0 [BitVec.ofNat 8 k]) ∧
        (∀ data : List Byte, exec (.sdoDownload p idx 0 data) s = .next (s.answer p idx 0 0x06010002)) ∧
        (∀ n : Ch, idx = 0x3031 + 0x100 * n → k = 0x40) ∧ (∀ m : Cun, idx = 0x2100 + m → k = 0x17)) ∧
    exec (.sdoUpload p 0x1018 3) s = .next (s.answerData p 0x1018 3 (leBytes 4 0x00010001)) ∧
    bits (leNat (leBytes 4 0x00010001)) 31 16 = 1 ∧ bits (leNat (leBytes 4 0x00010001)) 15 0 = 1 := by
  refine ⟨fun idx sub o hf hsub herr hrx htx => ?_, ?_, by decide, by decide⟩
  · have hx : ¬ ownsZero idx := by rintro (h | h | h) <;> contradiction
    obtain ⟨k, htop, hle, hrow, hlast⟩ := objFind_implied_zero hx hsub hf
    have hvalue : ∀ {k'}, objFind s.can.nodeId idx 0 = .top k' → k = k' := fun h => Found.top.inj (htop.symm.trans h)
    refine ⟨k, hle, hrow, hlast, ?_, fun data => ?_, ?_, ?_⟩
    · exact exec_sdoUpload_of_portRead hr hw (portRead_of_top hs hd htop)
    · exact exec_sdoDownload_of_unchanged hr hw hs hd (objWrite_of_top _ _ htop)
    · rintro n rfl; exact hvalue (objFind_pattern_zero _ n)
    · rintro m rfl; exact hvalue (objFind_chainage_zero _ m)
  · exact exec_sdoUpload_of_portRead hr hw (portRead_revision hs hd)

/-! ### An answer that loses an epoch -/

/-- `wideSlotOnMailbox` with a read of the revision number in its mailbox. The word of REST of the slot that the prepared set selects is
the mailbox's own. -/
def wideSlotOnRevision : State :=
  { wideSlotOnMailbox with pcie := { wideSlotOnMailbox.pcie with mb := some ⟨0x1018, 3, 0, none⟩ } }

theorem wideSlotOnRevision_inv : Inv wideSlotOnRevision := ⟨by decide, by decide⟩
theorem wideSlotOnRevision_rests : wideSlotOnRevision.rests = true := by decide +kernel
theorem wideSlotOnRevision_serves : wideSlotOnRevision.serves .pcie = true := by decide +kernel
/-- The answer leaves the epoch as it is. -/
theorem wideSlotOnRevision_answer_epoch :
    (wideSlotOnRevision.answerData .pcie 0x1018 3 (leBytes 4 0x00010001)).epoch = .prepared := by decide +kernel
/-- The answer's DONE raises REST, the sub-pulse ends later than the interval allows, and the epoch is lost (R241, R335). -/
theorem wideSlotOnRevision_loses_epoch : (wideSlotOnRevision.portRead .pcie 0x1018 3).settle.epoch = .openE := by decide +kernel

/-- Refutes O60: a state at rest may hold any number as its prepared WaveformSet. Where that number is beyond the field's 8 bits, a word of
the slot it selects may be the mailbox's own, so that the answer to a read of 0x1018:03 fails the check of a PREPARED epoch, and the
epoch is lost beside the answer. No write leaves such a number, and where there is none, or over CAN FD, the statement holds
(`subIndexZero_of_fits`). -/
theorem not_subIndexZero : ¬ Obligations.SubIndexZero := by
  unfold Obligations.SubIndexZero
  intro h
  obtain ⟨-, hrevision, -⟩ := h wideSlotOnRevision .pcie wideSlotOnRevision_rests wideSlotOnRevision_serves rfl
  have hstate : (wideSlotOnRevision.portRead .pcie 0x1018 3).settle =
      wideSlotOnRevision.answerData .pcie 0x1018 3 (leBytes 4 0x00010001) :=
    Host.Outcome.next.inj hrevision
  have hepoch := wideSlotOnRevision_loses_epoch
  rw [hstate, wideSlotOnRevision_answer_epoch] at hepoch
  cases hepoch

/-- The hypotheses of `subIndexZero_of_fits` met over the mailbox: where the selection went through a write of the field it was cut to its
8 bits, and the same read is answered and no more. -/
theorem narrowSlot_revision_answered :
    exec (.sdoUpload .pcie 0x1018 3) (wideSlotOnRevision.put (wavePrep 0) 0xBF6) =
      .next ((wideSlotOnRevision.put (wavePrep 0) 0xBF6).answerData .pcie 0x1018 3 (leBytes 4 0x00010001)) := by
  obtain ⟨-, hrevision, -⟩ := subIndexZero_of_fits (s := wideSlotOnRevision.put (wavePrep 0) 0xBF6) (p := .pcie) (by decide +kernel)
    (by decide +kernel) (by decide +kernel) rfl
  exact hrevision

end Sys2Proof.Machine
end

section
/-! SUPPORT. Every command answers a next state that keeps the invariant and the queue, so every step does (O1 to O4). -/
namespace Sys2Proof.Machine

/-- A command that ends in `settle` answers a state that keeps what the state before it kept. -/
theorem after_settle_keeps {s t : State} (h : Keeps s t) :
    ∃ u, (Host.Outcome.next t.settle : Host.Outcome State Fault Refusal) = .next u ∧ Keeps s u :=
  ⟨_, rfl, keeps_settle _ h⟩

/-- Every command answers a next state, with the queue as it stood and the invariant kept. -/
theorem exec_keeps (c : Instr) (s : State) : ∃ t, exec c s = .next t ∧ Keeps s t := by
  cases c with
  | registerWrite addr be data upper => exact after_settle_keeps (keeps_barStore _ _ _ _ _ (.refl s))
  | sdoDownload p idx sub data => exact after_settle_keeps (keeps_portWrite _ _ _ _ _ _ (.refl s))
  | sdoUpload p idx sub => exact after_settle_keeps (keeps_portRead _ _ _ _ (.refl s))
  | mailboxRead idx sub seq => exact after_settle_keeps (keeps_mbRequest _ _ _ _ _ _ _ _ (.refl s))
  | mailboxWrite idx sub seq len data => exact after_settle_keeps (keeps_mbRequest _ _ _ _ _ _ _ _ (.refl s))
  | mailboxReadIntoScratchpad idx sub seq bufOfs => exact after_settle_keeps (keeps_mbRequest _ _ _ _ _ _ _ _ (.refl s))
  | mailboxWriteFromScratchpad idx sub seq len bufOfs => exact after_settle_keeps (keeps_mbRequest _ _ _ _ _ _ _ _ (.refl s))
  | heldEditWithdrawn q tick => exact after_settle_keeps (keeps_heldWithdraw _ _ (keeps_at _ _ (.refl s)))
  | hiLatchRead addr len bad sp => exact after_settle_keeps (keeps_barRead _ _ _ _ _ (.refl s))
  | posSnapshot n => exact after_settle_keeps (keeps_ite (keeps_emit _ _ (keeps_cuSnap _ _ (.refl s))) (.refl s))
  | d2dParityFailure n tick => exact after_settle_keeps (keeps_d2dFail _ _ (keeps_at _ _ (.refl s)))
  | supervisorLinkFailure tick => exact after_settle_keeps (keeps_supFail _ (keeps_at _ _ (.refl s)))
  | supervisorResend => exact after_settle_keeps (keeps_supAgain _ (.refl s))
  | pllLockLost => exact after_settle_keeps (keeps_pllLost _ (.refl s))
  | pllLock => exact after_settle_keeps (keeps_pllLock _ (.refl s))
  | watchdogExpiry tick rom => exact after_settle_keeps (keeps_ite (keeps_wdExpire _ _ (keeps_at _ _ (.refl s))) (.refl s))
  | watchdogRestartDone rom => exact after_settle_keeps (keeps_restartDone _ _ (.refl s))
  | evmSinkWrite k data => exact after_settle_keeps (keeps_viaReg _ _ _ (.refl s))
  | swPulse bits => exact after_settle_keeps (keeps_viaReg _ _ _ (.refl s))
  | eventPulse => exact after_settle_keeps (keeps_eventPulse _ (.refl s))
  | lineBoundary n tick errs => exact after_settle_keeps (keeps_lineBoundary _ _ _ (keeps_at _ _ (.refl s)))
  | lineEncoded n => exact after_settle_keeps (keeps_lineEncoded _ _ (.refl s))
  | quadTransition n a b tick => exact after_settle_keeps (keeps_quadIn _ _ _ _ _ (.refl s))
  | indexMark n tick => exact after_settle_keeps (keeps_zEdge _ _ (keeps_at _ _ (.refl s)))
  | ssiFrameStart n tick => exact after_settle_keeps (keeps_ssiStart _ _ _ (.refl s))
  | ssiFrame n low raw chk tick => exact after_settle_keeps (keeps_ssiIn _ _ _ _ _ _ (.refl s))
  | switchDebounced n sw level => exact after_settle_keeps (keeps_switchIn _ _ _ _ (.refl s))
  | speedWindowEnd n => exact after_settle_keeps (keeps_windowEnd _ _ (.refl s))
  | stillTimeout n tick => exact after_settle_keeps (keeps_stillIn _ _ _ (.refl s))
  | cuSourceWrite n src inv via => cases via with
    | reg => exact after_settle_keeps (keeps_viaReg _ _ _ (.refl s))
    | obj p => exact after_settle_keeps (keeps_ite (keeps_viaObj _ _ _ _ _ _ (.refl s)) (keeps_viaObj _ _ _ _ _ _ (keeps_viaObj _ _ _ _ _ _ (.refl s))))
  | homeGo n via => exact after_settle_keeps (keeps_viaOne _ _ _ _ _ _ _ _ (.refl s))
  | preset n via => exact after_settle_keeps (keeps_viaOne _ _ _ _ _ _ _ _ (.refl s))
  | homeCancel n via => exact after_settle_keeps (keeps_viaOne _ _ _ _ _ _ _ _ (.refl s))
  | stakeTargetWrite ix tgt via => cases via with
    | reg => exact after_settle_keeps (keeps_viaReg _ _ _ (keeps_viaReg _ _ _ (.refl s)))
    | obj p => exact after_settle_keeps (keeps_viaObj _ _ _ _ _ _ (.refl s))
  | arm ix via => exact after_settle_keeps (keeps_viaOne _ _ _ _ _ _ _ _ (.refl s))
  | disarm ix via => exact after_settle_keeps (keeps_viaOne _ _ _ _ _ _ _ _ (.refl s))
  | stakeConfigWrite ix cu dir via => cases via with
    | reg => exact after_settle_keeps (keeps_viaReg _ _ _ (.refl s))
    | obj p => exact after_settle_keeps (keeps_viaObj _ _ _ _ _ _ (keeps_ite (.refl s) (keeps_viaObj _ _ _ _ _ _ (.refl s))))
  | firedLate ix => exact after_settle_keeps (keeps_lateIn _ _ (.refl s))
  | syncReceived tick => exact after_settle_keeps (keeps_syncReceived _ (keeps_at _ _ (.refl s)))
  | start n via => exact after_settle_keeps (keeps_viaOne _ _ _ _ _ _ _ _ (.refl s))
  | stop n via => exact after_settle_keeps (keeps_viaOne _ _ _ _ _ _ _ _ (.refl s))
  | stopComplete n => exact after_settle_keeps (keeps_stopDone _ _ (.refl s))
  | lineDecision n => exact after_settle_keeps (keeps_lineDecision _ _ (.refl s))
  | geomApply n via => exact after_settle_keeps (keeps_viaOne _ _ _ _ _ _ _ _ (.refl s))
  | qFlush n via => exact after_settle_keeps (keeps_viaOne _ _ _ _ _ _ _ _ (.refl s))
  | qTagWrite n tag via => cases via with
    | reg => exact after_settle_keeps (keeps_viaReg _ _ _ (keeps_viaReg _ _ _ (.refl s)))
    | obj p => exact after_settle_keeps (keeps_viaObj _ _ _ _ _ _ (.refl s))
  | tableWrite addr bytes => exact after_settle_keeps (keeps_barBytes _ _ _ (.refl s))
  | check n slot via => cases via with
    | reg => exact after_settle_keeps (keeps_viaReg _ _ _ (.refl s))
    | obj p => exact after_settle_keeps (keeps_viaObj _ _ _ _ _ _ (keeps_viaObj _ _ _ _ _ _ (.refl s)))
  | slotWordWrite n slot word data via => cases via with
    | reg => exact after_settle_keeps (keeps_ite (keeps_viaReg _ _ _ (.refl s)) (.refl s))
    | obj p => exact after_settle_keeps (keeps_viaObj _ _ _ _ _ _ (keeps_viaObj _ _ _ _ _ _ (keeps_viaObj _ _ _ _ _ _ (.refl s))))
  | protectedLoad n ofs p => exact after_settle_keeps (keeps_viaObj _ _ _ _ _ _ (.refl s))
  | protectedLoadDone n par => exact after_settle_keeps (keeps_loadDone _ _ _ (.refl s))
  | prechargeDone n => exact after_settle_keeps (keeps_prechargeDone _ _ (.refl s))
  | prechargeTimeout n => exact after_settle_keeps (keeps_prechargeTimeout _ _ (.refl s))
  | balancerCheck n errs => exact after_settle_keeps (keeps_balanceIn _ _ _ (.refl s))
  | resFault n => exact after_settle_keeps (keeps_resIn _ _ (.refl s))
  | rampStepTimeout n => exact after_settle_keeps (keeps_rampFail _ _ (.refl s))
  | bleedDone n => exact after_settle_keeps (keeps_bleedDone _ _ (.refl s))
  | vhvOutOfRange n => exact after_settle_keeps (keeps_vhvIn _ _ (.refl s))
  | overcurrent n rail tick => exact after_settle_keeps (keeps_overIn _ _ _ (keeps_at _ _ (.refl s)))
  | railRecoveryDone n tick => exact after_settle_keeps (keeps_railsBack _ _ (keeps_at _ _ (.refl s)))
  | wipedSlotClear n => exact after_settle_keeps (keeps_wipedClear _ _ (.refl s))
  | transmitLine n => exact after_settle_keeps (keeps_transmitLine _ _ (.refl s))
  | ack n fseq => exact after_settle_keeps (keeps_ackTx _ _ _ (.refl s))
  | nak n fseq => exact after_settle_keeps (keeps_nakTx _ _ _ (.refl s))
  | frameTimeout n fseq => exact after_settle_keeps (keeps_txTimeout _ _ _ (.refl s))
  | latch n tick => exact after_settle_keeps (keeps_latchNext _ _ _ (keeps_at _ _ (.refl s)))
  | lack n tag nulled empty tick => exact after_settle_keeps (keeps_lackLine _ _ _ _ (keeps_at _ _ (.refl s)))
  | spx n j => exact after_settle_keeps (keeps_spx _ _ _ (.refl s))
  | sns n => exact after_settle_keeps (keeps_sns _ _ (.refl s))
  | stat n addr val => exact after_settle_keeps (keeps_tpdoGo _ (keeps_stat _ _ _ _ (.refl s)))
  | ferr n code tag => exact after_settle_keeps (keeps_ferrIn _ _ _ _ (.refl s))
  | tsr n ver cap => exact after_settle_keeps (keeps_tsrIn _ _ _ _ (.refl s))
  | train n via => exact after_settle_keeps (keeps_viaOne _ _ _ _ _ _ _ _ (.refl s))
  | trainingTimeout n => exact after_settle_keeps (keeps_trainTimeout _ _ (.refl s))
  | linkLost n tick => exact after_settle_keeps (keeps_linkLoss _ _ (keeps_at _ _ (.refl s)))
  | retrainTimeout n tick => exact after_settle_keeps (keeps_retrainMissed _ _ (keeps_at _ _ (.refl s)))
  | feGo n via => cases via with
    | reg => exact after_settle_keeps (keeps_viaReg _ _ _ (.refl s))
    | obj p => exact after_settle_keeps (keeps_ite (keeps_viaObj _ _ _ _ _ _ (.refl s)) (keeps_portRead _ _ _ _ (.refl s)))
  | feAccessTimeout n => exact after_settle_keeps (keeps_tpdoGo _ (keeps_feFail _ _ (.refl s)))
  | farEndRead n p => exact after_settle_keeps (keeps_portRead _ _ _ _ (.refl s))
  | captureEnd n samples => exact after_settle_keeps (keeps_captureEnd _ _ _ (.refl s))
  | senseResult n => exact after_settle_keeps (keeps_senseResult _ _ (.refl s))
  | closureObservation n => exact after_settle_keeps (keeps_ite (.refl s) (keeps_closureObservation _ _ (.refl s)))
  | verdictEnqueue n => exact after_settle_keeps (keeps_verdictPass _ _ (.refl s))
  | learn n rows via => exact after_settle_keeps (keeps_viaOne _ _ _ _ _ _ _ _ (.refl s))
  | signatureAccess n write via => cases via with
    | reg => cases write with
      | none => exact after_settle_keeps (keeps_barRead _ _ _ _ _ (.refl s))
      | some v => exact after_settle_keeps (keeps_viaReg _ _ _ (.refl s))
    | obj p => cases write with
      | none => exact after_settle_keeps (keeps_portRead _ _ _ _ (.refl s))
      | some v => exact after_settle_keeps (keeps_viaObj _ _ _ _ _ _ (.refl s))
  | stripEnWrite n en via => exact after_settle_keeps (keeps_viaOne _ _ _ _ _ _ _ _ (.refl s))
  | stripAnalysis n view => exact after_settle_keeps (keeps_stripAnalysis _ _ _ (.refl s))
  | frameStart p vc ecc bank tick => exact after_settle_keeps (keeps_frameStart _ _ _ _ (keeps_headerIn _ _ _ (keeps_deliverDue _ _ (keeps_at _ _ (.refl s)))))
  | longPacket p vc dt bytes ecc crcOk => exact after_settle_keeps (keeps_longPacket _ _ _ _ _ _ (keeps_headerIn _ _ _ (.refl s)))
  | frameEnd p vc ecc => exact after_settle_keeps (keeps_frameEnd _ _ _ (keeps_headerIn _ _ _ (.refl s)))
  | csiFrameTimeout c => exact after_settle_keeps (keeps_frameTimeout _ _ (.refl s))
  | contextDisable c p => exact after_settle_keeps (keeps_viaObj _ _ _ _ _ _ (.refl s))
  | pipelineLine par => exact after_settle_keeps (keeps_pipelineLine _ _ (.refl s))
  | frameComplete c => exact after_settle_keeps (keeps_frameComplete _ _ (.refl s))
  | triggerWidthEnd p tick => exact after_settle_keeps (keeps_trigEnd _ _ (keeps_at _ _ (.refl s)))
  | snapArm v p => exact after_settle_keeps (keeps_viaObj _ _ _ _ _ _ (.refl s))
  | curveDataAccess c write p => cases write with
    | none => exact after_settle_keeps (keeps_portRead _ _ _ _ (.refl s))
    | some v => exact after_settle_keeps (keeps_viaObj _ _ _ _ _ _ (.refl s))
  | pixRestore => exact after_settle_keeps (keeps_pixRestore _ (.refl s))
  | retire n via => exact after_settle_keeps (keeps_viaOne _ _ _ _ _ _ _ _ (.refl s))
  | readmit n via => exact after_settle_keeps (keeps_viaOne _ _ _ _ _ _ _ _ (.refl s))
  | readmitTraverseBegin n => exact after_settle_keeps (keeps_readmitBegin _ _ (.refl s))
  | prepare via => exact after_settle_keeps (keeps_viaOne _ _ _ _ _ _ _ _ (.refl s))
  | commit via => exact after_settle_keeps (keeps_viaOne _ _ _ _ _ _ _ _ (.refl s))
  | cancel via => exact after_settle_keeps (keeps_viaOne _ _ _ _ _ _ _ _ (.refl s))
  | emcy => exact after_settle_keeps (keeps_emcySend _ (.refl s))
  | thermalSample m conv tick => exact after_settle_keeps (keeps_thermalSample _ _ _ (keeps_at _ _ (.refl s)))
  | dieSample drive temp => exact after_settle_keeps (keeps_dieSample _ _ _ (.refl s))
  | dieTrip drive => exact after_settle_keeps (keeps_ite (keeps_dieTrip _ _ (.refl s)) (.refl s))
  | dieTripClear drive => exact after_settle_keeps (keeps_dieClear _ _ (.refl s))
  | sensorTypeWrite m type via => exact after_settle_keeps (keeps_viaOne _ _ _ _ _ _ _ _ (.refl s))
  | shadowArm d => exact after_settle_keeps (keeps_viaReg _ _ _ (.refl s))
  | handover d => exact after_settle_keeps (keeps_handover _ _ (keeps_dmaTick _ (.refl s)))
  | grant => exact after_settle_keeps (keeps_grant _ (.refl s))
  | dmaReadCompletion d data sp => exact after_settle_keeps (keeps_dmaCompletion _ _ _ _ (.refl s))
  | dmaReadError d => exact after_settle_keeps (keeps_dmaReadFail _ _ (.refl s))
  | dmaReadTimeout d => exact after_settle_keeps (keeps_dmaTimeout _ _ (.refl s))
  | transferDone d => exact after_settle_keeps (keeps_transferDone _ _ (keeps_dmaTick _ (.refl s)))
  | listEntryFetch d res => exact after_settle_keeps (keeps_listFetch _ _ _ (.refl s))
  | pause d via => exact after_settle_keeps (keeps_viaOne _ _ _ _ _ _ _ _ (.refl s))
  | resume d via => exact after_settle_keeps (keeps_viaOne _ _ _ _ _ _ _ _ (.refl s))
  | withdraw d via => exact after_settle_keeps (keeps_viaOne _ _ _ _ _ _ _ _ (.refl s))
  | dmaEnable d via => exact after_settle_keeps (keeps_viaOne _ _ _ _ _ _ _ _ (.refl s))
  | wrCntWrite d v => exact after_settle_keeps (keeps_viaReg _ _ _ (.refl s))
  | rdCntWrite d v => exact after_settle_keeps (keeps_viaReg _ _ _ (.refl s))
  | scratchpadWrite ofs lanes sp => exact after_settle_keeps (keeps_spWrite _ _ _ _ _ (.refl s))
  | setAliasWrite ofs lanes sp => exact after_settle_keeps (keeps_spWrite _ _ _ _ _ (.refl s))
  | clearAliasWrite ofs lanes sp => exact after_settle_keeps (keeps_spWrite _ _ _ _ _ (.refl s))
  | wipe why => exact after_settle_keeps (keeps_wipeGo _ _ (.refl s))
  | wipeDone => exact after_settle_keeps (keeps_wipeEnd _ (.refl s))
  | bistSlice single bad => exact after_settle_keeps (keeps_bistStart _ _ _ (.refl s))
  | bistSliceDone failAt => exact after_settle_keeps (keeps_bistDone _ _ (.refl s))
  | tamper => exact after_settle_keeps (keeps_tamperIn _ (.refl s))
  | glitch voltage => exact after_settle_keeps (keeps_glitchIn _ _ (.refl s))
  | pcieReset kind => exact after_settle_keeps (keeps_pcieResetIn _ _ (.refl s))
  | perstRelease => exact after_settle_keeps (keeps_perstOff _ (.refl s))
  | d3hotEntry => exact after_settle_keeps (keeps_d3In _ (.refl s))
  | msixUnmask v => exact after_settle_keeps (keeps_viaReg _ _ _ (.refl s))
  | tokenPass dst via => exact after_settle_keeps (keeps_viaOne _ _ _ _ _ _ _ _ (.refl s))
  | expertAccess v p => exact after_settle_keeps (keeps_viaObj _ _ _ _ _ _ (.refl s))
  | busOff => exact after_settle_keeps (keeps_busOff _ (.refl s))
  | busOffRecovery => exact after_settle_keeps (keeps_busRecover _ (.refl s))
  | nmtStart => exact after_settle_keeps (keeps_nmtSet _ _ (.refl s))
  | nmtStop => exact after_settle_keeps (keeps_nmtSet _ _ (.refl s))
  | nmtEnterPreOperational => exact after_settle_keeps (keeps_nmtSet _ _ (.refl s))
  | nmtResetCommunication => exact after_settle_keeps (keeps_nmtResetComm _ (.refl s))
  | nmtResetNode => exact after_settle_keeps (keeps_nmtResetNode _ (.refl s))
  | heartbeatReceived => exact after_settle_keeps (keeps_hbReceived _ (.refl s))
  | heartbeatLost => exact after_settle_keeps (keeps_hbLost _ (.refl s))
  | heartbeatSend => exact after_settle_keeps (keeps_hbSend _ (.refl s))
  | canSync => exact after_settle_keeps (keeps_canSync _ (.refl s))
  | rpdo p data => exact after_settle_keeps (keeps_rpdo _ _ _ (.refl s))
  | tpdoEventTimer p => exact after_settle_keeps (keeps_tpdoTimer _ _ (.refl s))
  | tpdoChangeCheck => exact after_settle_keeps (keeps_tpdoCheck _ (.refl s))
  | tpdoInhibitEnd p => exact after_settle_keeps (keeps_inhibitEnd _ _ (.refl s))
  | tpdoRemoteRequest p => exact after_settle_keeps (keeps_tpdoRemote _ _ (.refl s))
  | lssIdentityInquiry what => exact after_settle_keeps (keeps_lssAnswer _ _ _ (.refl s))
  | lssFastscan id bitCheck sub next => exact after_settle_keeps (keeps_lssScan _ _ _ _ _ (.refl s))
  | lssConfigureNodeId id => exact after_settle_keeps (keeps_lssAnswer _ _ _ (.refl s))
  | lssConfigureBitTiming table index => exact after_settle_keeps (keeps_lssAnswer _ _ _ (.refl s))
  | lssStoreConfiguration => exact after_settle_keeps (keeps_lssAnswer _ _ _ (.refl s))
  | errorListClear p => exact after_settle_keeps (keeps_viaObj _ _ _ _ _ _ (.refl s))
  | save p => exact after_settle_keeps (keeps_viaObj _ _ _ _ _ _ (.refl s))
  | load p => exact after_settle_keeps (keeps_viaObj _ _ _ _ _ _ (.refl s))
  | programErase p => exact after_settle_keeps (keeps_viaObj _ _ _ _ _ _ (.refl s))
  | programData p data => exact after_settle_keeps (keeps_portWrite _ _ _ _ _ _ (.refl s))
  | programVerify p => exact after_settle_keeps (keeps_viaObj _ _ _ _ _ _ (.refl s))
  | otpWordWrite v p runs => exact after_settle_keeps (keeps_portWrite _ _ _ _ _ _ (.refl s))
  | otpMarginCheck p => exact after_settle_keeps (keeps_viaObj _ _ _ _ _ _ (.refl s))
  | otpLockArm count p => exact after_settle_keeps (keeps_viaObj _ _ _ _ _ _ (.refl s))
  | otpLockArmExpiry => exact after_settle_keeps (keeps_otpDisarm _ (.refl s))
  | otpWriteLockBlow p run => exact after_settle_keeps (keeps_portWrite _ _ _ _ _ _ (.refl s))
  | otpReadLockBlow p run => exact after_settle_keeps (keeps_portWrite _ _ _ _ _ _ (.refl s))
  | lifeCycleAdvance code p runs => exact after_settle_keeps (keeps_portWrite _ _ _ _ _ _ (.refl s))
  | debugChallenge p => exact after_settle_keeps (keeps_portRead _ _ _ _ (.refl s))
  | debugResponse sig p => exact after_settle_keeps (keeps_portWrite _ _ _ _ _ _ (.refl s))
  | debugChallengeExpiry => exact after_settle_keeps (keeps_challengeExpire _ (.refl s))
  | tapBypass => exact after_settle_keeps (keeps_tapTake _ _ (.refl s))
  | tapIdcode => exact after_settle_keeps (keeps_emit _ _ (keeps_tapTake _ _ (.refl s)))
  | tapSamplePreload cells => exact after_settle_keeps (keeps_tapSample _ _ (.refl s))
  | tapExtest => exact after_settle_keeps (keeps_tapPins _ _ (.refl s))
  | tapClamp => exact after_settle_keeps (keeps_tapPins _ _ (.refl s))
  | tapHighz => exact after_settle_keeps (keeps_tapPins _ _ (.refl s))
  | tapDbg op => exact after_settle_keeps (keeps_tapDebug _ _ (.refl s))
  | standbyRequest p => exact after_settle_keeps (keeps_viaObj _ _ _ _ _ _ (.refl s))
  | hostPark => exact after_settle_keeps (keeps_hostPark _ (.refl s))
  | wake p => cases p with
    | none => exact after_settle_keeps (keeps_perstWake _ (.refl s))
    | some q => exact after_settle_keeps (keeps_viaObj _ _ _ _ _ _ (.refl s))
  | wakeDone => exact after_settle_keeps (keeps_wakeDone _ (.refl s))
  | resetRelease nodeId => exact after_settle_keeps (keeps_resetRelease _ _ (.refl s))
  | resetNLow => exact after_settle_keeps (keeps_resetNow _ _ (.refl s))
  | brownOut => exact after_settle_keeps (keeps_resetNow _ _ (.refl s))
  | supplyFault which => exact after_settle_keeps (keeps_supplyFault _ _ (.refl s))
  | supervisorLinkSilent => exact after_settle_keeps (keeps_supervisorSilent _ (.refl s))
  | firmwareStart view => exact after_settle_keeps (keeps_firmwareStart _ _ (.refl s))
  | benchmarkRunEnd => exact after_settle_keeps (keeps_benchEnd _ (.refl s))
  | safeConditionClear bit => exact after_settle_keeps (keeps_condClear _ _ (.refl s))
  | safeExit bench via => cases via with
    | reg => exact after_settle_keeps (keeps_ite (keeps_safeExitGo _ _ _ (.refl s)) (keeps_viaReg _ _ _ (.refl s)))
    | obj p => exact after_settle_keeps (keeps_portWrite _ _ _ _ _ _ (.refl s))
  | returnLaneCodeViolation n => exact after_settle_keeps (keeps_codeViolation _ _ (.refl s))
  | pcieLinkUp => exact after_settle_keeps (keeps_linkUpIn _ (.refl s))
  | returnToD0 => exact after_settle_keeps (keeps_d0In _ (.refl s))
  | uncorrectablePacketHeader p => exact after_settle_keeps (keeps_badHeader _ _ (.refl s))
  | tamperNHigh => exact after_settle_keeps (keeps_tamperHigh _ (.refl s))
  | contextBankRewrite c => exact after_settle_keeps (keeps_bankRewrite _ _ (.refl s))
  | mailboxInvalidCmd cmd idx sub seq => exact after_settle_keeps (keeps_ite (keeps_mbRequest _ _ _ _ _ _ _ _ (.refl s)) (.refl s))

/-! ### The step -/

theorem step_of_pending_nil {s : State} (h : s.pending = []) : step s = .next { s with tb := s.tb + 16 } := by
  unfold step; rw [h]
theorem step_of_pending_cons {s : State} {c : Instr} {rest : List Instr} (h : s.pending = c :: rest) :
    step s = exec c { s with pending := rest } := by
  unfold step; rw [h]
theorem step_withFront (c : Instr) (s : State) : step (s.withFront c) = exec c s := rfl
/-- A step answers a next state that has lost the front of the queue and nothing else of it, and keeps the invariant. -/
theorem exists_step (s : State) : ∃ t, step s = .next t ∧ t.pending = s.pending.tail ∧ (Inv s → Inv t) := by
  cases hp : s.pending with
  | nil => exact ⟨_, step_of_pending_nil hp, hp, id⟩
  | cons c rest =>
    obtain ⟨t, ht, hkeeps⟩ := exec_keeps c { s with pending := rest }
    exact ⟨t, (step_of_pending_cons hp).trans ht, hkeeps.pending, hkeeps.inv⟩

/-- Settles O1: the step looks at nothing but the queue. -/
theorem stepRunsTheFrontCommand : Obligations.StepRunsTheFrontCommand := by
  unfold Obligations.StepRunsTheFrontCommand
  exact ⟨step_withFront, fun _ _ _ h => step_of_pending_cons h, fun _ h => step_of_pending_nil h⟩

/-- Settles O2. -/
theorem everyCommandCompletes : Obligations.EveryCommandCompletes := by
  unfold Obligations.EveryCommandCompletes
  refine ⟨fun c s => ?_, fun s => ?_⟩
  · obtain ⟨t, ht, -⟩ := exec_keeps c s
    exact ⟨t, ht⟩
  · obtain ⟨t, ht, -⟩ := exists_step s
    exact ⟨t, ht⟩

/-- Settles O4: a step on an empty queue moves the time alone, and every command keeps both lists canonical (`exec_keeps`). -/
theorem stepKeepsInv : Obligations.StepKeepsInv := by
  unfold Obligations.StepKeepsInv
  intro s t hinv hstep
  obtain ⟨u, hu, hpending, hkeep⟩ := exists_step s
  obtain rfl : u = t := Host.Outcome.next.inj (hu.symm.trans hstep)
  exact ⟨hkeep hinv, hpending⟩

end Sys2Proof.Machine
end

section
/-! SUPPORT. The state after reset (O3). -/
namespace Sys2Proof.Machine

theorem reset_inv : Inv State.reset := ⟨memory_wf_reset, rfl⟩

/-- Settles O3: nothing is listed in the register file, so every field reads its row's reset value. -/
theorem resetLeavesResetValues : Obligations.ResetLeavesResetValues := by
  unfold Obligations.ResetLeavesResetValues
  have hchannels : ∀ n : Ch, State.reset.chSt n = .off ∧ (State.reset.ch[n]).trav.st = .stopped ∧ (State.reset.ch[n]).applyQ = [] ∧
      (State.reset.ch[n]).q.lines = [] ∧ (State.reset.ch[n]).link.st = .down := by decide +kernel
  have hstakes : ∀ i : Stk, (State.reset.stake[i]).armed = false := by decide +kernel
  have hdma : ∀ d : Dch, (State.reset.dma[d]).act = false := by decide +kernel
  exact ⟨⟨fun _ => ⟨rfl, rfl⟩, hchannels, hstakes, hdma, rfl, rfl, rfl, rfl, rfl, rfl⟩, reset_inv⟩

end Sys2Proof.Machine
end

section
/-! SUPPORT. A PREPARED epoch beside a mailbox whose response is a word of the prepared slot. -/
namespace Sys2Proof.Machine
-- One proof after the other: each evaluation under way at once keeps a stack of its own.
set_option Elab.async false

/-- The epoch that a command leaves. -/
def epochAfter (c : Instr) (s : State) : Option EpState :=
  match exec c s with | .next t => some t.epoch | _ => none
/-- A command that loses the epoch does not lead to a state that still has it. -/
theorem exec_ne_next_of_epoch_lost {c : Instr} {s t : State} (hl : epochAfter c s = some .openE) (ht : t.epoch = .prepared) :
    exec c s ≠ .next t := by
  intro h
  rw [epochAfter, h] at hl
  rw [Option.some.inj hl] at ht
  cases ht

/-- `wideSlotOnMailbox` with another request in the mailbox. -/
def asked (idx sub : Nat) : State :=
  { wideSlotOnMailbox with pcie := { wideSlotOnMailbox.pcie with mb := some ⟨idx, sub, 0, none⟩ } }
theorem asked_epoch (idx sub : Nat) : (asked idx sub).epoch = .prepared := rfl
theorem asked_rests (idx sub : Nat) : (asked idx sub).rests = true := wideSlotOnMailbox_rests
theorem asked_serves (idx sub : Nat) : (asked idx sub).serves .pcie = true := wideSlotOnMailbox_serves
/-- An answer to a port changes the answer's registers and the outputs, not the epoch. -/
theorem answer_epoch (s : State) (p : Port) (idx sub a : Nat) : (s.answer p idx sub a).epoch = s.epoch :=
  (Undisturbed.answer s p idx sub a).epoch
theorem answerData_epoch (s : State) (p : Port) (idx sub : Nat) (b : List Byte) : (s.answerData p idx sub b).epoch = s.epoch :=
  (Undisturbed.answerData s p idx sub b).epoch

/-- `asked` with expert access over PCI Express. -/
def askedExpert (idx sub : Nat) : State := (asked idx sub).modDev (fun d => { d with expPcie := true })
theorem askedExpert_rests (idx sub : Nat) : (askedExpert idx sub).rests = true := wideSlotOnMailbox_rests
theorem askedExpert_serves (idx sub : Nat) : (askedExpert idx sub).serves .pcie = true := wideSlotOnMailbox_serves

/-- A write of ControlOwner over the mailbox that waits behind nothing in the device's queue. -/
def heldWrite : Edit := { body := .obj 0x2000 5 [1], cls := .imm, owed := some .pcie, at0 := 0 }
/-- A write of an OTP word asked for whose region's write lock is blown. -/
def askedLocked : State :=
  (askedExpert 0x4C00 2).modRow 0 (fun r => { r with wl := (7, 7) })

/-- Refutes O9: in a state at rest the prepared set may select a slot beyond its 8 bits whose words are the mailbox's own. The answer
that refuses a SafeExit out of SAFE over the mailbox then loses a PREPARED epoch, and more than the answer changes. -/
theorem not_safeLeavesByItsExit : ¬ Obligations.SafeLeavesByItsExit := by
  unfold Obligations.SafeLeavesByItsExit
  intro h
  obtain ⟨-, -, -, -, hrefused, -⟩ := h (asked 0x2000 8)
  exact exec_ne_next_of_epoch_lost (by decide +kernel) (answer_epoch ..)
    (hrefused ⟨true, true, true, true, []⟩ .pcie (asked_rests _ _) (by decide +kernel) (by decide +kernel))

/-- Refutes O10: a wake of a device that is not in STANDBY, asked for over the mailbox, is answered there; where the prepared set selects
a slot whose words are the mailbox's own, the answer loses the PREPARED epoch. -/
theorem not_standbyAndWakeComplete : ¬ Obligations.StandbyAndWakeComplete := by
  unfold Obligations.StandbyAndWakeComplete
  intro h
  obtain ⟨-, -, -, hwake, -, -⟩ := h (asked 0x2000 3)
  exact exec_ne_next_of_epoch_lost (by decide +kernel) (answer_epoch ..)
    (hwake .pcie (asked_rests _ _) (by decide +kernel) (by decide +kernel) rfl rfl rfl)

/-- Refutes O11: a HOME_CANCEL over the mailbox is answered there; where the prepared set selects a slot whose words are the mailbox's
own, the answer loses the PREPARED epoch. -/
theorem not_homingComplete : ¬ Obligations.HomingComplete := by
  unfold Obligations.HomingComplete
  rintro ⟨⟨-, hport, -⟩, -, -⟩
  obtain ⟨-, -, hcancel⟩ := hport (asked 0x2100 0x0A) 0 .pcie (asked_rests _ _) (asked_serves _ _) (by decide +kernel) (by decide +kernel)
  exact exec_ne_next_of_epoch_lost (by decide +kernel) (answer_epoch ..) (hcancel (by decide +kernel))

/-- Refutes O12: an ARM over the mailbox is answered there; where the prepared set selects a slot whose words are the mailbox's own, the
answer loses the PREPARED epoch. -/
theorem not_stakeCommandsComplete : ¬ Obligations.StakeCommandsComplete := by
  unfold Obligations.StakeCommandsComplete
  rintro ⟨-, hport⟩
  obtain ⟨harm, -⟩ := hport (asked 0x2200 5) 0 .pcie (asked_rests _ _) (asked_serves _ _) (by decide +kernel) (by decide +kernel)
  exact exec_ne_next_of_epoch_lost (by decide +kernel) (answer_epoch ..) harm

/-- Refutes O17: a Retire of a channel that is OFF, over the mailbox, is refused there; where the prepared set of another channel selects
a slot whose words are the mailbox's own, the answer loses the PREPARED epoch. -/
theorem not_retirementAndReadmission : ¬ Obligations.RetirementAndReadmission := by
  unfold Obligations.RetirementAndReadmission
  rintro ⟨⟨-, hport, -⟩, -⟩
  obtain ⟨-, hoff, -⟩ := hport (asked 0x3100 4) 1 .pcie (asked_serves _ _) (by decide +kernel) (by decide +kernel)
  exact exec_ne_next_of_epoch_lost (by decide +kernel) (answer_epoch ..) (hoff (asked_rests _ _) (.inl rfl))

/-- Refutes O18: a PREPARE of a PREPARED epoch whose channels all pass, over the mailbox, is answered 0 there; where the prepared set
selects a slot whose words are the mailbox's own, that answer loses the epoch again. -/
theorem not_epochCommandsComplete : ¬ Obligations.EpochCommandsComplete := by
  unfold Obligations.EpochCommandsComplete
  rintro ⟨hcommands, -⟩
  obtain ⟨-, hprepare, -⟩ := hcommands (asked 0x2010 5) (.obj .pcie) (asked_rests _ _) (by decide +kernel)
  obtain ⟨t, ht, -, -, hstate⟩ := hprepare (by decide) (by decide +kernel)
  have hprepared : t.epoch = .prepared := by rw [hstate]
  exact exec_ne_next_of_epoch_lost (by decide +kernel) (by rw [State.answered, answer_epoch, hprepared]) ht

/-- Refutes O25: TRAIN of a channel in IDLE that no epoch names, over the mailbox, is answered there; where the prepared set of another
channel selects a slot whose words are the mailbox's own, the answer loses the PREPARED epoch. -/
theorem not_linkTrainsAndIsLost : ¬ Obligations.LinkTrainsAndIsLost := by
  unfold Obligations.LinkTrainsAndIsLost
  rintro ⟨-, -, hport⟩
  have htrain := hport { asked 0x3150 4 with ch := (asked 0x3150 4).ch.set 1 { Chan.reset with st := .idle } } 1 .pcie (by decide +kernel)
    (by decide +kernel) (by decide +kernel) (by decide +kernel) rfl (.inr (by decide +kernel)) (by decide +kernel) (by decide +kernel)
    (by decide +kernel)
  exact exec_ne_next_of_epoch_lost (by decide +kernel) (answer_epoch ..) htrain

/-- Refutes O26: a read of FarEndRead of a parked channel over the mailbox is answered there with 0; where the prepared set of another
channel selects a slot whose words are the mailbox's own, the answer loses the PREPARED epoch. -/
theorem not_farEndAccesses : ¬ Obligations.FarEndAccesses := by
  unfold Obligations.FarEndAccesses
  intro h
  obtain ⟨-, -, hport, -⟩ := h (askedExpert 0x3150 0x0D) 1
  obtain ⟨hparked, -⟩ := hport .pcie (askedExpert_rests _ _) (askedExpert_serves _ _) (by decide +kernel) (by decide +kernel)
  exact exec_ne_next_of_epoch_lost (by decide +kernel) (answerData_epoch ..) (hparked (by decide +kernel))

/-- Refutes O27: a held edit that a mailbox request owes is answered there when it is withdrawn after its 1 s; where the prepared set
selects a slot whose words are the mailbox's own, the answer loses the PREPARED epoch. -/
theorem not_tableWritesReachTheTable : ¬ Obligations.TableWritesReachTheTable := by
  unfold Obligations.TableWritesReachTheTable
  rintro ⟨-, hwithdrawn, -⟩
  obtain ⟨-, hdevice⟩ := hwithdrawn { asked 0x2000 5 with devQ := [heldWrite] } heldWrite [] [] 0x2000 5 [1] .pcie 9600000000
    (by decide +kernel) rfl rfl rfl (by decide) rfl
  exact exec_ne_next_of_epoch_lost (by decide +kernel) (answer_epoch ..) (hdevice rfl)

/-- Refutes O32: a write of a word of a locked region over the mailbox is refused there; where the prepared set selects a slot whose words
are the mailbox's own, the answer loses the PREPARED epoch. -/
theorem not_otpCommandsComplete : ¬ Obligations.OtpCommandsComplete := by
  unfold Obligations.OtpCommandsComplete
  intro h
  obtain ⟨-, -, hlocked, -⟩ := h askedLocked .pcie (by decide +kernel) (by decide +kernel) (by decide +kernel) (by decide +kernel)
  exact exec_ne_next_of_epoch_lost (by decide +kernel) (answer_epoch ..) (hlocked 0 [] rfl (by decide +kernel))

/-- Refutes O33: a response without a challenge, over the mailbox, is refused there; where the prepared set selects a slot whose words are
the mailbox's own, the answer loses the PREPARED epoch. -/
theorem not_lifeCycleAndDebug : ¬ Obligations.LifeCycleAndDebug := by
  unfold Obligations.LifeCycleAndDebug
  rintro ⟨h, -⟩
  obtain ⟨-, -, -, -, -, -, hresponse⟩ := h (askedExpert 0x4E00 5) .pcie (askedExpert_rests _ _) (by decide +kernel) (by decide +kernel)
    (by decide +kernel)
  obtain ⟨hnone, -⟩ := hresponse (List.replicate 64 0) (by decide)
  exact exec_ne_next_of_epoch_lost (by decide +kernel) (answer_epoch ..) (hnone rfl)

/-- Refutes O36: a LEARN of a row that is not in effect, over the mailbox, is refused there; where the prepared set selects a slot whose
words are the mailbox's own, the answer loses the PREPARED epoch. -/
theorem not_signaturesAreLearnedAndRead : ¬ Obligations.SignaturesAreLearnedAndRead := by
  unfold Obligations.SignaturesAreLearnedAndRead
  rintro ⟨-, -, hrefused⟩
  obtain ⟨hrow, -⟩ := hrefused (asked 0x3061 5) 0 (asked_rests _ _) (by decide +kernel)
  obtain ⟨-, hport⟩ := hrow 1 0 (by decide) (by decide +kernel)
  exact exec_ne_next_of_epoch_lost (by decide +kernel) (answer_epoch ..)
    (hport .pcie (asked_serves _ _) (by decide +kernel) (by decide +kernel))

/-- Refutes O40: the disable of a context that is not enabled, over the mailbox, is answered there; where the prepared set selects a slot
whose words are the mailbox's own, the answer loses the PREPARED epoch. -/
theorem not_cameraControlsComplete : ¬ Obligations.CameraControlsComplete := by
  unfold Obligations.CameraControlsComplete
  intro h
  obtain ⟨hcontext, -⟩ := h (asked 0x4108 1) (asked_rests _ _) rfl
  obtain ⟨-, -, -, hdisable, -⟩ := hcontext 0
  exact exec_ne_next_of_epoch_lost (by decide +kernel) (answer_epoch ..)
    (hdisable .pcie (asked_serves _ _) (by decide +kernel) (by decide +kernel) (by decide +kernel))

/-- Refutes O42: type 3 of a thermal input over the mailbox is refused there; where the prepared set selects a slot whose words are the
mailbox's own, the answer loses the PREPARED epoch. -/
theorem not_tripHoldsAndReleases : ¬ Obligations.TripHoldsAndReleases := by
  unfold Obligations.TripHoldsAndReleases
  rintro ⟨-, -, -, -, -, -, htype⟩
  obtain ⟨hreserved, -⟩ := htype (asked 0x4000 1) 0 3 .pcie (asked_rests _ _) (by decide +kernel) (asked_serves _ _) (by decide +kernel)
    (by decide +kernel)
  exact exec_ne_next_of_epoch_lost (by decide +kernel) (answer_epoch ..) (hreserved rfl)

/-- Refutes O48: a read of the vendor's identity over the mailbox is answered there; where the prepared set selects a slot whose words
are the mailbox's own, the answer loses the PREPARED epoch. -/
theorem not_sdoAnswersInOrder : ¬ Obligations.SdoAnswersInOrder := by
  unfold Obligations.SdoAnswersInOrder
  intro h
  obtain ⟨-, -, hvendor, -⟩ := h (asked 0x1018 1) .pcie (asked_rests _ _) (asked_serves _ _) (by decide +kernel)
  exact exec_ne_next_of_epoch_lost (by decide +kernel) (answerData_epoch ..) hvendor

/-- Refutes O53: a value that switches no expert access, over the mailbox, is refused there; where the prepared set selects a slot whose
words are the mailbox's own, the answer loses the PREPARED epoch. -/
theorem not_canStatesComplete : ¬ Obligations.CanStatesComplete := by
  unfold Obligations.CanStatesComplete
  intro h
  obtain ⟨-, -, -, -, -, -, hexpert⟩ := h (asked 0x2000 2) (asked_rests _ _)
  obtain ⟨-, -, hother⟩ := hexpert .pcie (asked_serves _ _) (by decide +kernel)
  exact exec_ne_next_of_epoch_lost (by decide +kernel) (answer_epoch ..) (hother 1 (by decide) (by decide))

/-- Refutes O56: a write of 0 to the error list over the mailbox is answered there; where the prepared set selects a slot whose words are
the mailbox's own, the answer loses the PREPARED epoch. -/
theorem not_storeAndProgramComplete : ¬ Obligations.StoreAndProgramComplete := by
  unfold Obligations.StoreAndProgramComplete
  rintro ⟨h, -⟩
  obtain ⟨hclear, -⟩ := h (asked 0x1003 0) .pcie (asked_rests _ _) (by decide +kernel)
  exact exec_ne_next_of_epoch_lost (by decide +kernel) (answer_epoch ..) hclear

end Sys2Proof.Machine
end

section
/-! SUPPORT. PREPARED epochs whose prepared set selects a slot where other registers' words lie. -/
namespace Sys2Proof.Machine
-- One proof after the other: each evaluation under way at once keeps a stack of its own.
set_option Elab.async false

/-- `wideSelection` with another register list: channel 0 in IDLE with its link UP, a PREPARED epoch that names it, and the registers
given. -/
def holding (regs : List (Nat × Nat)) : State := { wideSelection with regs := regs }

/-- REST of slot 0x3F4 is SOURCE of sink 0; its one sub-pulse ends just early enough while REST is 0. -/
def restOnSink : State := holding
  [(Ep.EP_MASK.key, 1), ((Lv.VALID1 0).key, 1), ((Sl.SP_EN 0 0x3F4).key, 1), ((Sl.SP_START 0 0x3F4 0).key, 9200),
    ((Sl.STEP_A 0 0x3F4 0).key, 255), ((wavePrep 0).key, 0x3F4)]
theorem rest_sink_key : (Sl.REST 0 0x3F4).key = (Ev.SOURCE 0).key := rfl

/-- Refutes O5: a write of sink 0's word raises REST of the slot that a wide selection of the prepared set names, the slot's line becomes
too long for the minimum interval, and the PREPARED epoch is lost, where the statement lets only registers change. -/
theorem not_eventsAndWatchdog : ¬ Obligations.EventsAndWatchdog := by
  unfold Obligations.EventsAndWatchdog
  rintro ⟨⟨-, -, -, -, -, hsink, -⟩, -, -⟩
  obtain ⟨t, ht, -, hstate⟩ := hsink restOnSink 0 1 (by decide +kernel) (by decide +kernel) rfl
  exact exec_ne_next_of_epoch_lost (by decide +kernel) (by rw [hstate]; rfl) ht

/-- TGT_B of sub-pulse 3 of slot 0x1F4 is SSI_REJ_CNT of unit 0, which is in SSI mode; while the target is REST, 0, the sub-pulse ends
just early enough. -/
def targetOnRejects : State := holding
  [(Ep.EP_MASK.key, 1), ((Lv.VALID1 0).key, 1), ((Cu.SRC 0).key, 1), ((Sl.FIN_T 0 0x1F4).key, 4), ((Sl.SP_EN 0 0x1F4).key, 8),
    ((Sl.SP_START 0 0x1F4 3).key, 9232), ((wavePrep 0).key, 0x1F4)]
theorem target_rejects_key : (Sl.TGT_B 0 0x1F4 3).key = (Cu.SSI_REJ_CNT 0).key := rfl

/-- Refutes O14: the count of a rejected SSI frame moves a target of the slot that a wide selection of the prepared set names, and the
PREPARED epoch is lost, where the statement lets only the count and the unit change. -/
theorem not_edgesAndFramesMove : ¬ Obligations.EdgesAndFramesMove := by
  unfold Obligations.EdgesAndFramesMove
  rintro ⟨-, hssi⟩
  obtain ⟨-, hrejected, -⟩ := hssi targetOnRejects 0 0 (by decide +kernel) (by decide +kernel)
  exact exec_ne_next_of_epoch_lost (by decide +kernel) (by decide +kernel) (hrejected true false 0 rfl (by decide))

/-- HOLD_B of sub-pulse 0 of slot 0x1F4 is SPEED of unit 0, whose last window held one edge; while the word reads 0, the sub-pulse ends
just early enough. -/
def holdOnSpeed : State :=
  { holding [(Ep.EP_MASK.key, 1), ((Lv.VALID1 0).key, 1), ((Sl.SP_EN 0 0x1F4).key, 1), ((Sl.SP_START 0 0x1F4 0).key, 9232),
      ((wavePrep 0).key, 0x1F4)] with
    cu := State.reset.cu.set 0 { Cu.reset with speed := 1 } }
theorem hold_speed_key : (Sl.HOLD_B 0 0x1F4 0).key = (Cu.SPEED 0).key := rfl

/-- Refutes O15: a read of CU_POS_LO leaves SPEED in its word, which is a hold of the slot that a wide selection of the prepared set names,
and the PREPARED epoch is lost, where the statement lets only registers and the answer change. -/
theorem not_unitWindowsAndSwitches : ¬ Obligations.UnitWindowsAndSwitches := by
  unfold Obligations.UnitWindowsAndSwitches
  rintro ⟨-, -, hreads⟩
  obtain ⟨hsnapshot, -⟩ := hreads holdOnSpeed 0 (by decide +kernel)
  obtain ⟨t, ht, -, -, -, -, -, hstate⟩ := hsnapshot (by decide +kernel)
  exact exec_ne_next_of_epoch_lost (by decide +kernel) (by rw [hstate]; rfl) ht

/-- A frame sent once, and the line that waits for its answer. -/
def sentFrame : Frame := { type := 0, index := 0, last := true, payload := [], sent := 1, acked := false, waiting := false }
def sentLine : Line :=
  { no := 0, codes := [], null := false, held := false, slot := 0, desc := .blank, theta := 0, wscale := 0, trim := 0, lineTime := 0,
    sense := none, snsEn := false, encoded := true, msgs := [], frames := [sentFrame], reps := 0, undel := false, latched := none,
    lack := none, lackAt := 0, decided := false, runs := false, cut := false, sending := true, spxSent := [] }
/-- STEP_R of sub-pulse 0 of slot 2 is RETX_CNT of channel 0, whose link awaits the answer of a frame; while the count is 0, the
sub-pulse's way back takes no time and it ends just early enough. -/
def stepOnRetransmissions : State :=
  { holding [(Ep.EP_MASK.key, 1), ((Lv.VALID1 0).key, 1), ((Sl.SP_EN 0 2).key, 1), ((Sl.SP_START 0 2 0).key, 9232), ((Sl.TGT_B 0 2 0).key, 256),
      ((wavePrep 0).key, 2)] with
    ch := State.reset.ch.set 0 { Chan.reset with
      st := .idle, lines := [sentLine], link := { Link.reset with st := .up, tx := [⟨0, some 0, 0, 0⟩] } } }
theorem step_retransmissions_key : (Sl.STEP_R 0 2 0).key = (Lk.RETX_CNT 0).key := rfl

/-- Refutes O22: the count of a frame sent again after a NAK is a step time of the slot that a wide selection of the prepared set names,
and the PREPARED epoch is lost, where the equation says that nothing else changes. -/
theorem not_linkSendsAndIsAnswered : ¬ Obligations.LinkSendsAndIsAnswered := by
  unfold Obligations.LinkSendsAndIsAnswered
  rintro ⟨-, hanswers⟩
  obtain ⟨-, hnak⟩ := hanswers stepOnRetransmissions 0 sentLine sentFrame 0 0 (by decide +kernel) rfl rfl rfl (by decide) rfl rfl rfl rfl
  obtain ⟨hagain, -⟩ := hnak (.nak 0 0) (stepOnRetransmissions.at 0) 0 (by decide +kernel) (.inl ⟨rfl, rfl, rfl⟩)
  obtain ⟨hsent, -⟩ := hagain (by decide) (by decide) rfl
  exact exec_ne_next_of_epoch_lost (by decide +kernel) (by decide +kernel) (hsent (by decide +kernel))

/-- A prepared set that selects slot 2, which does not exist: VALID of slot 1 speaks for it. -/
def slotBeyond : State := holding [(Ep.EP_MASK.key, 1), ((Lv.VALID1 0).key, 1), ((wavePrep 0).key, 2)]

/-- Refutes O28: where the prepared set selects slot 2, slot 1 is not locked, and a write of a word of it takes the VALID that the
prepared set is checked by: the PREPARED epoch is lost, where the statement lets only registers, channels and the answer change. -/
theorem not_slotsAndProtectedLoads : ¬ Obligations.SlotsAndProtectedLoads := by
  unfold Obligations.SlotsAndProtectedLoads
  rintro ⟨⟨hbar, -, -⟩, -⟩
  obtain ⟨hwrite, -⟩ := hbar slotBeyond 0 1 (by decide +kernel) (by decide +kernel) (by decide +kernel) (by decide +kernel)
  obtain ⟨t, ht, -, -, -, -, -, -, -, hstate⟩ := hwrite 0 0 (by decide +kernel)
  exact exec_ne_next_of_epoch_lost (by decide +kernel) (by rw [hstate]; rfl) ht

/-- SP_START of sub-pulse 1 of slot 30 of channel 0 is RES_ERR1 of channel 1, which is in IDLE with its input switch closed. -/
def startOnBalancer : State :=
  { holding [(Ep.EP_MASK.key, 1), ((Lv.VALID1 0).key, 1), ((Lv.HV_ON 1).key, 1), ((Sl.SP_EN 0 30).key, 2), ((wavePrep 0).key, 30)] with
    ch := wideSelection.ch.set 1 { Chan.reset with st := .idle } }
theorem start_balancer_key : (Sl.SP_START 0 30 1).key = (Lv.RES_ERR 1 1).key := rfl

/-- Refutes O29: an error of a reservoir of channel 1 is the start of a sub-pulse of the slot that a wide selection of channel 0's prepared
set names, and the PREPARED epoch is lost, where the statement lets only registers and the outputs change. -/
theorem not_prechargeAndReservoirs : ¬ Obligations.PrechargeAndReservoirs := by
  unfold Obligations.PrechargeAndReservoirs
  intro h
  obtain ⟨-, -, -, hbalancer, -⟩ := h startOnBalancer 1
  obtain ⟨t, ht, -, -, -, hstate⟩ := hbalancer (20000 :: List.replicate 14 0) (by decide +kernel) (by decide +kernel) rfl (by decide)
  exact exec_ne_next_of_epoch_lost (by decide +kernel) (by rw [hstate]; rfl) ht

/-- HOLD_B of sub-pulse 1 of slot 3 is QSKIP_CNT of channel 0, whose sense queue holds 16 results while one more waits. -/
def holdOnSkips : State :=
  { holding [(Ep.EP_MASK.key, 1), ((Lv.VALID1 0).key, 1), ((Sl.SP_EN 0 3).key, 2), ((Sl.SP_START 0 3 1).key, 9232), ((wavePrep 0).key, 3)] with
    ch := State.reset.ch.set 0 { Chan.reset with
      st := .idle, link := { Link.reset with st := .up }
      health := { Health.reset with results := [⟨0, 0, 0, 0, 0, 0, 0, 0, 0⟩], obs := List.replicate 16 (0, false, 0, 0) } } }
theorem hold_skips_key : (Sl.HOLD_B 0 3 1).key = (Nh.QSKIP_CNT 0).key := rfl

/-- Refutes O34: the count of a skipped sense result is a hold of the slot that a wide selection of the prepared set names, and the PREPARED
epoch is lost, where the equation says that nothing else changes. -/
theorem not_capturesAreClassified : ¬ Obligations.CapturesAreClassified := by
  unfold Obligations.CapturesAreClassified
  intro h
  obtain ⟨-, -, -, hresult⟩ := h holdOnSkips 0 (by decide +kernel)
  obtain ⟨-, hskipped⟩ := hresult ⟨0, 0, 0, 0, 0, 0, 0, 0, 0⟩ [] rfl
  exact exec_ne_next_of_epoch_lost (by decide +kernel) (by decide +kernel) (hskipped (by decide))

/-- A frame of context 0 with no line yet. -/
def emptyFrame : CamFrame :=
  { id := 0, flags := 0, recv := 0, inPipe := 0, pos := 0, tb := 0, bank := ⟨[], [], [], 0⟩, isOpen := true, badBank := false, void := false }
/-- FIN_T of a slot is the peak fill of port 0's FIFO; its sub-pulse ends just early enough while the FIFO has been empty. Port 0 is on,
and context 0, which takes lines of 4 pixels, has a frame open. -/
def settleOnPeak : State :=
  { holding [(Ep.EP_MASK.key, 1), ((Lv.VALID1 0).key, 1), ((Ca.PORT_EN 0).key, 1), ((Sl.SP_EN 0 0x1007DF4).key, 1),
      ((Sl.SP_START 0 0x1007DF4 0).key, 9232), ((Sl.TGT_B 0 0x1007DF4 0).key, 256), ((Ca.EN 0).key, 1), ((Ca.WIDTH 0).key, 4),
      ((wavePrep 0).key, 0x1007DF4)] with
    pix := { Pix.reset with on := true, ready := true, ctxs := Pix.reset.ctxs.set 0 { Context.reset with frames := [emptyFrame] } } }
theorem settle_peak_key : (Sl.FIN_T 0 0x1007DF4).key = (Ca.PEAK 0).key := rfl

/-- Refutes O38: the peak fill that a received line raises is the settling time of the slot that a wide selection of the prepared set
names, and the PREPARED epoch is lost, where the statement lets only the image domain and registers change. -/
theorem not_framesOpenFillAndClose : ¬ Obligations.FramesOpenFillAndClose := by
  unfold Obligations.FramesOpenFillAndClose
  intro h
  obtain ⟨-, -, -, hclaimed⟩ := h settleOnPeak 0 0 false (by decide +kernel) rfl rfl
  obtain ⟨-, -, -, hopen⟩ := hclaimed 0 (by decide +kernel) (by decide +kernel)
  obtain ⟨-, -, hline, -⟩ := hopen emptyFrame (by decide +kernel) rfl
  obtain ⟨t, ht, -, -, hstate⟩ := hline 0x2A [0, 0, 0, 0] (by decide +kernel) (by decide) (by decide +kernel) (by decide +kernel) (by decide +kernel)
  exact exec_ne_next_of_epoch_lost (by decide +kernel) (by rw [hstate]; rfl) ht

end Sys2Proof.Machine
end

section
/-! SUPPORT. Commands that take a channel out of what its PREPARED epoch was checked for, and registers beyond their fields. -/
namespace Sys2Proof.Machine
-- One proof after the other: each evaluation under way at once keeps a stack of its own.
set_option Elab.async false

/-- The command, and the state it leads to: itself where it stops. -/
def stateAfter (c : Instr) (s : State) : State := match exec c s with | .next t => t | _ => s
theorem stateAfter_of_next {c : Instr} {s t : State} (h : exec c s = .next t) : stateAfter c s = t := by rw [stateAfter, h]

/-- A PREPARED epoch that names channel 0, in a state of it that passes, with slot 0 VALID and selected, and the registers given
besides (in the order of their keys, before and after that of VALID0). -/
def preparedWith (st : ChState) (low high : List (Nat × Nat)) : State :=
  { wideSelection with
    regs := (Ep.EP_MASK.key, 1) :: low ++ ((Lv.VALID0 0).key, 1) :: high
    ch := State.reset.ch.set 0 { Chan.reset with st := st, link := { Link.reset with st := .up } } }

/-- Refutes O16: a STOP in RUN while an epoch that names the channel is PREPARED loses the epoch (R335): STOPPING is no state that passes
its check. The statement has nothing but the channel change. -/
theorem not_startAndStopSequence : ¬ Obligations.StartAndStopSequence := by
  unfold Obligations.StartAndStopSequence
  rintro ⟨-, hstop, -, -⟩
  obtain ⟨hrun, -⟩ := hstop (preparedWith .run [] []) 0 (by decide +kernel) (by decide +kernel)
  exact exec_ne_next_of_epoch_lost (by decide +kernel) (by decide +kernel) (hrun (by decide +kernel) (by decide))

/-- Refutes O21: a GEOM_APPLY of more nozzles than the far end has, in IDLE while an epoch that names the channel is PREPARED, loses the
epoch (R241, R335): the statement has nothing but the channel, registers and the answer change. -/
theorem not_lineDataCommandsComplete : ¬ Obligations.LineDataCommandsComplete := by
  unfold Obligations.LineDataCommandsComplete
  rintro ⟨hbar, -⟩
  obtain ⟨happly, -⟩ := hbar (preparedWith .idle [((Ld.COUNT 0 0).key, 8)] []) 0 (by decide +kernel) (by decide +kernel) (by decide +kernel)
    (by decide +kernel) (by decide +kernel)
  obtain ⟨t, ht, -, -, -, -, -, -, hstate⟩ := happly (by decide +kernel)
  exact exec_ne_next_of_epoch_lost (by decide +kernel) (by rw [hstate]; rfl) ht

/-- Refutes O24: a STAT that lowers the far end's nozzles below the channel's, while an epoch that names the channel is PREPARED, loses the
epoch (R241, R335): the statement has nothing but FE_NOZ change. -/
theorem not_farEndReports : ¬ Obligations.FarEndReports := by
  unfold Obligations.FarEndReports
  intro h
  obtain ⟨hidentity, -⟩ := h (preparedWith .idle [((Ld.NOZZLES 0).key, 8)] [((Lk.FE_NOZ 0).key, 8)]) 0 (by decide +kernel) (by decide +kernel)
  obtain ⟨hcount, -⟩ := hidentity 0 rfl (by decide)
  exact exec_ne_next_of_epoch_lost (by decide +kernel) (by decide +kernel) hcount

/-- Channel 0 runs with two overcurrents on lines just before, and channel 1 has held its balance since long ago in a SafeExit's
benchmark run. -/
def thirdInRun : State :=
  { State.reset with
    tb := 9600000000
    dev := { Dev.reset with boot := .up, safe := true, safeRun := some none }
    ch := (State.reset.ch.set 0 { Chan.reset with st := .run, lastLine := some 9, drive := { Drive.reset with ocLines := [7, 8] } }).set 1
      { Chan.reset with link := { Link.reset with st := .up }, drive := { Drive.reset with prechgAt := some 0 } }
    regs := [((Lv.HV_ON 0).key, 1), ((Lv.PRECHG 1).key, 1)] }

/-- Refutes O30: the third overcurrent within 1,000 lines retires its channel, but with it another channel whose benchmark run is over
becomes IDLE, where the statement has no other channel's state change. -/
theorem not_overcurrentsAndRails : ¬ Obligations.OvercurrentsAndRails := by
  unfold Obligations.OvercurrentsAndRails
  intro h
  obtain ⟨-, hthird, -⟩ := h thirdInRun 0
  obtain ⟨t, ht, -, -, hothers⟩ := hthird .f 9600000000 (by decide +kernel) (by decide +kernel) (by decide +kernel) (by decide +kernel)
  have hidle : (stateAfter (.overcurrent 0 .f 9600000000) thirdInRun).chSt 1 = .idle := by decide +kernel
  rw [stateAfter_of_next ht, hothers 1 (by decide)] at hidle
  cases hidle

/-- Channel 0 in RUN before its boundary of line 0, its TRIM's shadow beyond the 16 bits of the field. -/
def wideTrim : State :=
  { State.reset with
    ch := State.reset.ch.set 0 { Chan.reset with st := .run, store := { Store.reset with bNext := some 0 } }
    regs := [((Tr.TRIM 0).key, 65536)] }

/-- Refutes O19: a shadow may hold any number in the model's registers; one beyond the bits of its field does not go into effect whole at the
boundary. No write leaves such a number. -/
theorem not_lineBoundaryTakesItsLine : ¬ Obligations.LineBoundaryTakesItsLine := by
  unfold Obligations.LineBoundaryTakesItsLine
  rintro ⟨hboundary, -⟩
  obtain ⟨hline, -⟩ := hboundary wideTrim 0 0 (by decide +kernel)
  obtain ⟨htable, -⟩ := hline 0 (by decide +kernel) (by decide) rfl rfl
  obtain ⟨t, ht, -, -, -, -, -, -, hshadow, -⟩ := htable (by decide)
  have hcut : (stateAfter (.lineBoundary 0 0 []) wideTrim).eff (Tr.TRIM 0) = 0 := by decide +kernel
  have hwhole : (wideTrim.at 0).shadowAt (Tr.TRIM 0) = 65536 := by decide +kernel
  rw [stateAfter_of_next ht, hshadow _ (by decide), hwhole] at hcut
  cases hcut

/-- Refutes O37: STRIP_EN = 1 in MODE 2 over the mailbox is refused there; where the prepared set selects a slot whose words are the
mailbox's own, the answer loses the PREPARED epoch. -/
theorem not_stripsAreEnabledAndAnalysed : ¬ Obligations.StripsAreEnabledAndAnalysed := by
  unfold Obligations.StripsAreEnabledAndAnalysed
  rintro ⟨-, -, hmode, -⟩
  obtain ⟨-, hport⟩ := hmode ((asked 0x3060 0x11).put (Tr.MODE 0) 2) 0 (by decide +kernel) (by decide +kernel) (by decide +kernel)
    (by decide +kernel) (by decide +kernel) (by decide +kernel) (by decide +kernel)
  exact exec_ne_next_of_epoch_lost (by decide +kernel) (answer_epoch ..)
    (hport .pcie (by decide +kernel) (by decide +kernel) (by decide +kernel))

end Sys2Proof.Machine
end

section
/-! SUPPORT. Slots beyond the two, registers beyond their fields, and entries known to be bad. -/
namespace Sys2Proof.Machine
-- One proof after the other: each evaluation under way at once keeps a stack of its own.
set_option Elab.async false

/-- A STATUS_REQ frame that waits to be sent again. -/
def waitingRequest : Frame := { mkFrame tyStatus 0 true [2, 3, 4, 5] with sent := 1, waiting := true }

/-- Channel 0 in RUN with slot 2 in effect, whose STEP_R is RETX_CNT; the STATUS_REQ frame has waited to be sent again since before the
line's tick. -/
def stepBeyondCount : State :=
  { State.reset with
    tb := 300000
    dev := { Dev.reset with boot := .up }
    regs := [((Lv.SET_SEL 0).key, 2), ((Sl.SP_EN 0 2).key, 1), ((Sl.STEP_R 0 2 0).key, 400000), ((Sl.TGT_B 0 2 0).key, 256)]
    ch := State.reset.ch.set 0 { Chan.reset with
      st := .run
      trav := { Trav.reset with st := .running, sched := [⟨0, 1000000, .pred⟩], lastFired := some 0 }
      link := { Link.reset with st := .up, tsrSeen := true, ctl := [(5, waitingRequest)] } } }

/-- Refutes O20: where the slot in effect is one beyond the two, whose step time is a word of the link's counters, a count that stands beyond
its field's bits is cut when a frame is sent again. The line time is then shorter, and the line that came too soon is not dropped with
OVERSPEED. No write leaves such a slot or such a count. -/
theorem not_linesAreDecidedOnce : ¬ Obligations.LinesAreDecidedOnce := by
  unfold Obligations.LinesAreDecidedOnce
  rintro ⟨hdecision, -, -, -⟩
  obtain ⟨-, hdue⟩ := hdecision stepBeyondCount 0 (by decide +kernel)
  obtain ⟨t, ht, -, -, -, -, -, -, hsoon, -⟩ := hdue ⟨0, 1000000, .pred⟩ (by decide +kernel) (by decide +kernel)
  obtain ⟨hspeed, -⟩ := hsoon rfl (by decide +kernel)
  have hnone : (stateAfter (.lineDecision 0) stepBeyondCount).has (Tr.OVERSPEED (0 : Ch)) = false := by decide +kernel
  rw [stateAfter_of_next ht, hspeed] at hnone
  cases hnone

/-- STEP_R of sub-pulse 0 of slot 2 is RETX_CNT of channel 0, whose STATUS_REQ frame waits to be sent again while the next line, which needs
no frame, is due for its LATCH. -/
def latchBesideRequest : State :=
  { holding [(Ep.EP_MASK.key, 1), ((Lv.VALID1 0).key, 1), ((Sl.SP_EN 0 2).key, 1), ((Sl.SP_START 0 2 0).key, 9232), ((Sl.TGT_B 0 2 0).key, 256),
      ((wavePrep 0).key, 2)] with
    ch := State.reset.ch.set 0 { Chan.reset with
      st := .idle, lines := [{ sentLine with frames := [] }]
      drive := { Drive.reset with railsRest := true }
      link := { Link.reset with st := .up, tsrSeen := true, ctl := [(5, waitingRequest)] } } }

/-- Refutes O23: a frame that is sent again beside the LATCH is counted, the count is a step time of the slot that a wide selection of the
prepared set names, and the PREPARED epoch is lost, where the equation lets only the line and the link change. -/
theorem not_linesAreLatched : ¬ Obligations.LinesAreLatched := by
  unfold Obligations.LinesAreLatched
  rintro ⟨hlatch, -⟩
  obtain ⟨hline, -⟩ := hlatch latchBesideRequest 0 0 (by decide +kernel)
  obtain ⟨hsent, -⟩ := hline { sentLine with frames := [] } rfl (by decide +kernel) (by decide +kernel) rfl
  obtain ⟨hnext, -⟩ := hsent (.inr rfl)
  exact exec_ne_next_of_epoch_lost (by decide +kernel) (by decide +kernel) hnext

/-- A host that holds the token, with the registers given. -/
def hostWith (regs : List (Nat × Nat)) : State :=
  { State.reset with
    dev := { Dev.reset with boot := .up, token := .pcie }
    pcie := { Pcie.reset with linkUp := true, perst := false, conf := true }
    regs := regs }
/-- PAUSE of DMA channel 0 and its EN hold numbers beyond their one bit. -/
def widePause : State := hostWith [((Dm.PAUSE 0).key, 2)]
def wideEnable : State := hostWith [((Dm.EN 0).key, 3)]

/-- Refutes O43: a register may hold any number in the model; a PAUSE beyond its one bit does not stand when the word that holds SHADOW_ARM
is written again, where the statement has every other field keep its value. No write leaves such a number. -/
theorem not_dmaSetsAndGrants : ¬ Obligations.DmaSetsAndGrants := by
  unfold Obligations.DmaSetsAndGrants
  rintro ⟨hset, -⟩
  obtain ⟨harm, -⟩ := hset widePause 0 (by decide +kernel) rfl rfl
  obtain ⟨t, ht, -, -, hkeep, -⟩ := harm (by decide +kernel) (by decide +kernel) (by decide +kernel) (by decide +kernel)
  obtain ⟨hfields, -⟩ := hkeep (by decide +kernel)
  have hcut : (stateAfter (.shadowArm 0) widePause).get (Dm.PAUSE 0) = 0 := by decide +kernel
  rw [stateAfter_of_next ht, hfields (Dm.PAUSE 0) (by decide) (by decide)] at hcut
  exact absurd hcut (by decide +kernel)

/-- Refutes O45: an EN of 3 does not read 1, and a PAUSE writes the word with its bit 31 set: EN is then 1, where the statement has EN keep
its value. No write leaves such a number. -/
theorem not_dmaControlsComplete : ¬ Obligations.DmaControlsComplete := by
  unfold Obligations.DmaControlsComplete
  rintro ⟨hcontrol, -, -⟩
  obtain ⟨⟨t, ht, -, hen, -⟩, -⟩ := hcontrol wideEnable 0 (by decide +kernel) rfl rfl (by decide +kernel) (by decide +kernel)
  have hone : (stateAfter (.pause 0 .reg) wideEnable).get (Dm.EN (0 : Dch)) = 1 := by decide +kernel
  rw [stateAfter_of_next ht, hen] at hone
  exact absurd hone (by decide +kernel)

/-- The background test is about to take slice 0 of channel 0's table, of which one entry is known to be bad. -/
def knownBadEntry : State :=
  { hostWith [(Me.BIST_EN.key, 1), ((Lv.HV_ON 0).key, 1)] with
    bist := { State.reset.bist with mem := 2 }
    ch := State.reset.ch.set 0 { Chan.reset with st := .idle, badEntries := [0] } }

/-- Refutes O46: when a slice of a per-nozzle table comes under test, an entry known to be bad before is reported again (R408), where the
statement has nothing but the test's own place change; it asks for good parity of the scratchpad alone. -/
theorem not_scratchpadAndBackgroundTest : ¬ Obligations.ScratchpadAndBackgroundTest := by
  unfold Obligations.ScratchpadAndBackgroundTest
  rintro ⟨-, -, htest⟩
  obtain ⟨-, hslice, -⟩ := htest knownBadEntry (by decide +kernel)
  obtain ⟨hstart, -⟩ := hslice (2, 0) (by decide +kernel) rfl rfl rfl rfl (by decide +kernel)
  have hreported : (stateAfter (.bistSlice [] []) knownBadEntry).get (Ed.UE 0) = 1 := by decide +kernel
  rw [stateAfter_of_next hstart] at hreported
  exact absurd hreported (by decide +kernel)

/-- SP_START of sub-pulse 0 of slot 0x1F4 is WIN of unit 0; while it is 0, the hold lets the sub-pulse end just early enough. -/
def startOnWindow : State := holding
  [(Ep.EP_MASK.key, 1), ((Lv.VALID1 0).key, 1), ((Sl.SP_EN 0 0x1F4).key, 1), ((Sl.HOLD_B 0 0x1F4 0).key, 9232), ((wavePrep 0).key, 0x1F4)]
theorem start_window_key : (Sl.SP_START 0 0x1F4 0).key = (Cu.WIN 0).key := rfl

/-- Refutes O47: a write of WIN moves the start of a sub-pulse of the slot that a wide selection of the prepared set names, and the
PREPARED epoch is lost, where the statement lets only the word's fields change. -/
theorem not_registerWritesTakeEffect : ¬ Obligations.RegisterWritesTakeEffect := by
  unfold Obligations.RegisterWritesTakeEffect
  intro h
  obtain ⟨-, -, -, -, -, -, hwindow, -⟩ := h startOnWindow 1 (by decide +kernel)
  exact exec_ne_next_of_epoch_lost (by decide +kernel) rfl (hwindow 0 (by decide +kernel) (by decide +kernel))

/-- `wideSlotOnMailbox` with an idle mailbox. -/
def idleMailbox : State := { wideSlotOnMailbox with pcie := { wideSlotOnMailbox.pcie with mb := none } }

/-- Refutes O49: where the prepared set selects a slot whose words are the mailbox's own, the response to a request loses the PREPARED
epoch, where the statement lets only registers, outputs and the mailbox change. -/
theorem not_mailboxRequestsComplete : ¬ Obligations.MailboxRequestsComplete := by
  unfold Obligations.MailboxRequestsComplete
  intro h
  obtain ⟨hidle, -⟩ := h idleMailbox 0 (by decide +kernel) (by decide +kernel) rfl (by decide)
  obtain ⟨-, ⟨t, ht, -, -, -, -, hstate⟩, -⟩ := hidle (by decide +kernel)
  exact exec_ne_next_of_epoch_lost (by decide +kernel) (by rw [hstate]; rfl) ht

/-- REST of slot 0x1A04 is the Pending Bit of vector 0; while it is set, REST is the target of the one sub-pulse, which then ends just early
enough. -/
def restOnPending : State := holding
  [(Ep.EP_MASK.key, 1), ((Lv.VALID1 0).key, 1), ((Mx.PBA 0).key, 1), ((Sl.SP_EN 0 0x1A04).key, 1), ((Sl.SP_START 0 0x1A04 0).key, 9200),
    ((Sl.STEP_A 0 0x1A04 0).key, 255), ((Sl.TGT_A 0 0x1A04 0).key, 256), ((Sl.TGT_B 0 0x1A04 0).key, 256), ((wavePrep 0).key, 0x1A04)]
theorem rest_pending_key : (Sl.REST 0 0x1A04).key = (Mx.PBA 0).key := rfl

/-- Refutes O52: unmasking a pending vector clears its Pending Bit, which is REST of the slot that a wide selection of the prepared set
names, and the PREPARED epoch is lost, where the statement lets only the two bits and the message change. -/
theorem not_hostResetsAndInterrupts : ¬ Obligations.HostResetsAndInterrupts := by
  unfold Obligations.HostResetsAndInterrupts
  rintro ⟨hhost, -⟩
  obtain ⟨-, -, -, -, -, -, hunmask, -⟩ := hhost restOnPending (by decide +kernel)
  exact exec_ne_next_of_epoch_lost (by decide +kernel) rfl (hunmask 0 (by decide +kernel) (by decide +kernel) (by decide +kernel))

/-- REST of slot 0x11FFBFC is the count of the fault log; the node is OPERATIONAL, and its first RPDO maps one byte. -/
def restOnLogCount : State :=
  { holding [(Ep.EP_MASK.key, 1), ((Lv.VALID1 0).key, 1), ((Sl.SP_EN 0 0x11FFBFC).key, 1), ((Sl.SP_START 0 0x11FFBFC 0).key, 9200),
      ((Sl.STEP_A 0 0x11FFBFC 0).key, 255), ((Pdo.rCob 0 1).key, 0x201), ((Pdo.rCnt 0).key, 1), ((Pdo.rMap 0 1).key, 0x21000308), ((wavePrep 0).key, 0x11FFBFC)] with
    can := { Can.reset with nodeId := 1, nmt := .operational } }
theorem rest_logCount_key : (Sl.REST 0 0x11FFBFC).key = logCount.key := rfl

/-- Refutes O54: the EMCY message of a short RPDO counts in the fault log, whose count is REST of the slot that a wide selection of the
prepared set names, and the PREPARED epoch is lost, where the statement lets only the message be queued. -/
theorem not_pdosComplete : ¬ Obligations.PdosComplete := by
  unfold Obligations.PdosComplete
  rintro ⟨hpdo, -⟩
  obtain ⟨-, -, -, -, -, -, -, -, -, hrpdo⟩ := hpdo restOnLogCount 0 (by decide +kernel)
  obtain ⟨hshort, -⟩ := hrpdo [] (by decide +kernel)
  exact exec_ne_next_of_epoch_lost (by decide +kernel) (by decide +kernel) (hshort (by decide +kernel) (by decide +kernel))

end Sys2Proof.Machine
end

section
/-! SUPPORT. Messages that enter the queue and leave it, and LSS (R48, R341 to R343, R432). -/
namespace Sys2Proof.Machine

/-! ### A message in the queue -/

/-- A message of a channel goes before the first of its channel that a later line caused. -/
theorem queueMsg_cons (x : Msg) (q : List Msg) (m : Msg) :
    queueMsg (x :: q) m = if x.src = m.src ∧ m.src < 8 ∧ m.line ≠ 0 ∧ m.line < x.line then m :: x :: q else x :: queueMsg q m := rfl
theorem queueMsg_end {q : List Msg} {m : Msg}
    (h : q.all (fun x => !(x.src == m.src && decide (m.line < x.line))) = true ∨ 8 ≤ m.src ∨ m.line = 0) : queueMsg q m = q ++ [m] := by
  induction q with
  | nil => rfl
  | cons x q ih =>
    rw [List.all_cons, Bool.and_eq_true] at h
    have hx : ¬(x.src = m.src ∧ m.src < 8 ∧ m.line ≠ 0 ∧ m.line < x.line) := by
      rintro ⟨hsrc, hch, hline, hlt⟩
      obtain ⟨ha, -⟩ | ha | ha := h
      · simp [hsrc, hlt] at ha
      · omega
      · exact hline ha
    rw [queueMsg_cons, if_neg hx, ih (h.imp_left And.right)]
    rfl
theorem queueMsg_other (q : List Msg) (m : Msg) : (queueMsg q m).filter (fun x => x.src != m.src) = q.filter (fun x => x.src != m.src) := by
  induction q with
  | nil => simp [queueMsg]
  | cons x q ih =>
    rw [queueMsg_cons]
    split
    · rw [List.filter_cons_of_neg (by simp)]
    · rw [List.filter_cons, List.filter_cons, ih]
theorem length_queueMsg (q : List Msg) (m : Msg) : (queueMsg q m).length = q.length + 1 := by
  induction q with
  | nil => rfl
  | cons x q ih =>
    rw [queueMsg_cons]
    split
    · rfl
    · exact congrArg (· + 1) ih

/-- The lines of a channel's messages, those that no line caused left out. -/
def linesFrom (src : Nat) (q : List Msg) : List Nat := (q.filter (fun x => x.src == src && x.line != 0)).map (fun x => x.line)

theorem linesFrom_cons_of_line {src : Nat} {x : Msg} (q : List Msg) (hs : x.src = src) (hl : x.line ≠ 0) :
    linesFrom src (x :: q) = x.line :: linesFrom src q := by
  unfold linesFrom; rw [List.filter_cons_of_pos (by simp [hs, hl])]; rfl
theorem linesFrom_cons_of_not {src : Nat} {x : Msg} (q : List Msg) (h : ¬(x.src = src ∧ x.line ≠ 0)) :
    linesFrom src (x :: q) = linesFrom src q := by
  unfold linesFrom; rw [List.filter_cons_of_neg (by simpa using h)]
theorem mem_linesFrom_queueMsg {q : List Msg} {m : Msg} {a : Nat} (h : a ∈ linesFrom m.src (queueMsg q m)) :
    a = m.line ∨ a ∈ linesFrom m.src q := by
  have hmem : ∀ {q : List Msg} {x : Msg}, x ∈ queueMsg q m → x = m ∨ x ∈ q := by
    intro q x
    induction q with
    | nil => exact fun hx => .inl (List.mem_singleton.mp hx)
    | cons y q ih =>
      rw [queueMsg_cons]
      split
      · exact List.mem_cons.mp
      · rw [List.mem_cons, List.mem_cons]
        rintro (rfl | hx)
        · exact .inr (.inl rfl)
        · exact (ih hx).imp_right .inr
  obtain ⟨x, hx, rfl⟩ := List.mem_map.mp h
  obtain ⟨hq, hp⟩ := List.mem_filter.mp hx
  obtain rfl | hq := hmem hq
  · exact .inl rfl
  · exact .inr (List.mem_map_of_mem (List.mem_filter.mpr ⟨hq, hp⟩))
/-- A channel's messages stay in the order of their lines. -/
theorem pairwise_queueMsg {q : List Msg} {m : Msg} (hs : m.src < 8) (hl : m.line ≠ 0) (h : (linesFrom m.src q).Pairwise (· ≤ ·)) :
    (linesFrom m.src (queueMsg q m)).Pairwise (· ≤ ·) := by
  induction q with
  | nil => exact (linesFrom_cons_of_line [] rfl hl).symm ▸ List.pairwise_singleton _ _
  | cons x q ih =>
    by_cases hx : x.src = m.src ∧ x.line ≠ 0
    · obtain ⟨hsrc, hline⟩ := hx
      rw [linesFrom_cons_of_line q hsrc hline, List.pairwise_cons] at h
      obtain ⟨hfirst, hrest⟩ := h
      rw [queueMsg_cons]
      split
      next hbefore =>
        obtain ⟨-, -, -, hlt⟩ := hbefore
        rw [linesFrom_cons_of_line _ rfl hl, linesFrom_cons_of_line q hsrc hline, List.pairwise_cons, List.pairwise_cons]
        exact ⟨List.forall_mem_cons.mpr ⟨hlt.le, fun a ha => hlt.le.trans (hfirst a ha)⟩, hfirst, hrest⟩
      next hbefore =>
        rw [linesFrom_cons_of_line _ hsrc hline, List.pairwise_cons]
        refine ⟨fun a ha => ?_, ih hrest⟩
        obtain rfl | ha := mem_linesFrom_queueMsg ha
        · exact not_lt.mp fun hlt => hbefore ⟨hsrc, hs, hl, hlt⟩
        · exact hfirst a ha
    · rw [linesFrom_cons_of_not q hx] at h
      rw [queueMsg_cons, if_neg (fun hb => hx ⟨hb.1, fun hz => by omega⟩), linesFrom_cons_of_not _ hx]
      exact ih h

/-! ### An occurrence that nothing holds back -/

/-- The lists of CAN FD after an occurrence of a code that its source has not sent of late, its message not yet queued. -/
def Can.told (c : Can) (code src line tb reg : Nat) : Can :=
  { c with
    sent := ⟨code, src, tb, 0⟩ :: c.sent.filter (fun e => ¬(e.code = code ∧ e.src = src))
    errs := ((code, src) :: c.errs).take 16
    log := (⟨code, src, line, reg, 0⟩ :: c.log).take 128 }
section
variable {s : State} {code src line : Nat} {info : List Byte} (hc : code ≠ 0)
  (hs : s.can.sent.all (fun e => !(e.code == code && e.src == src)) = true) (hr : s.roomFor src = true)
include hc hs hr

/-- It is logged, counted, raised as cause 1, and its message is queued (R28, R342, R343). -/
theorem emcyInfo_new : s.emcyInfo code src line info =
    (((s.modCan fun c => c.told code src line s.tb s.errReg).incr logCount).cause 1).modCan
      (fun c => { c with queue := queueMsg c.queue ⟨code, src, line, info, none⟩ }) := by
  have hold : s.can.sent.find? (fun e => e.code = code ∧ e.src = src) = none :=
    List.find?_eq_none.mpr fun e he => by simpa [imp_iff_not_or] using List.all_eq_true.mp hs e he
  have hroom : (((s.modCan fun c => c.told code src line s.tb s.errReg).incr logCount).cause 1).roomFor src = true := by
    unfold State.roomFor; rw [cause_can]; exact hr
  unfold State.emcyInfo
  rw [hold]
  simp only [if_neg hc, Bool.false_eq_true, if_false]
  exact if_pos hroom
theorem emcyInfo_new_can : (s.emcyInfo code src line info).can =
    { s.can.told code src line s.tb s.errReg with queue := queueMsg s.can.queue ⟨code, src, line, info, none⟩ } := by
  rw [emcyInfo_new hc hs hr, modCan_can, cause_can]; rfl
theorem emcyInfo_new_logCount : (s.emcyInfo code src line info).get logCount = (s.get logCount + 1) % 2 ^ 32 := by
  have hkey : Ho.INT_STAT.key ≠ logCount.key ∧ (Mx.PBA 1).key ≠ logCount.key := by decide
  rw [emcyInfo_new hc hs hr, get_congr (modCan_regs _ _), get_cause_other _ 1 hkey.1 hkey.2]
  exact get_put_same _ _ _

end
theorem emcyInfo_frame (s : State) (code src line : Nat) (info : List Byte) : let t := s.emcyInfo code src line info
    t.ch = s.ch ∧ t.cu = s.cu ∧ t.stake = s.stake ∧ t.dev = s.dev := by
  refine ⟨?_, ?_, ?_, ?_⟩ <;> simp

/-! ### Messages leave -/

/-- The first message leaves when nothing holds it back. -/
theorem msgNext_cons {s : State} {m : Msg} {rest : List Msg} (hq : s.can.queue = m :: rest) (hm : s.msgHeld m = false) :
    s.msgNext = some (m, rest) := by
  unfold State.msgNext; rw [hq]; unfold takeMsg; rw [hm]; rfl
theorem takeMsg_of_all_held {held : Msg → Bool} {q : List Msg} (h : q.all held = true) : takeMsg held q = none := by
  induction q with
  | nil => rfl
  | cons m q ih =>
    rw [List.all_cons, Bool.and_eq_true] at h
    unfold takeMsg; rw [if_pos h.1, ih h.2]; rfl
theorem emcySend_of_all_held {s : State} (h : s.can.queue.all s.msgHeld = true) : s.emcySend = s := by
  unfold State.emcySend State.msgNext; rw [takeMsg_of_all_held h]
/-- In PRE-OPERATIONAL and OPERATIONAL an EMCY message leaves, unless CobIdEmcy bars it; in STOPPED it is dropped. -/
theorem emcySend_cons {s : State} {m : Msg} {rest : List Msg} (hq : s.can.queue = m :: rest) (hup : s.canUp = true)
    (hnmt : s.can.nmt ≠ .init) (hrec : m.record = none) (hm : s.msgHeld m = false) : s.emcySend =
      if s.can.nmt = .stopped ∨ bit (s.get (cobEmcy s.can.nodeId)) 31 then s.modCan (fun c => { c with queue := rest })
      else (s.modCan (fun c => { c with queue := rest })).emit (.emcy m.code s.errReg m.src (m.info.map BitVec.toNat)) := by
  unfold State.emcySend
  rw [msgNext_cons hq hm]
  simp only [hup, hnmt, hrec, Bool.not_true, Bool.false_eq_true, or_self, if_false]
theorem msgHeld_of_ioLow {s : State} (m : Msg) (h : s.dev.ioLow = true) : s.msgHeld m = true := by
  unfold State.msgHeld; rw [h, Bool.true_or]

/-! ### Rest -/

/-- A device at rest is at rest when its state on CAN FD or its outputs change. -/
theorem settle_modCan {s : State} (f : Can → Can) (h : s.rests = true) : (s.modCan f).settle = s.modCan f :=
  settle_of_rests ((rests_congr rfl rfl rfl rfl rfl rfl rfl rfl).trans h)
theorem settle_emit {s : State} (o : Out) (h : s.rests = true) : (s.emit o).settle = s.emit o :=
  settle_of_rests ((rests_congr rfl rfl rfl rfl rfl rfl rfl rfl).trans h)
theorem rests_modCan {s : State} (f : Can → Can) (h : s.rests = true) : (s.modCan f).rests = true :=
  (rests_congr rfl rfl rfl rfl rfl rfl rfl rfl).trans h

theorem exec_emcy (s : State) : exec .emcy s = .next s.emcySend.settle := rfl
theorem exec_emcy_cons {s : State} {m : Msg} {rest : List Msg} (hr : s.rests = true) (hq : s.can.queue = m :: rest) (hup : s.canUp = true)
    (hrec : m.record = none) (hm : s.msgHeld m = false) :
    ((s.can.nmt = .preOp ∨ s.can.nmt = .operational) → bit (s.get (cobEmcy s.can.nodeId)) 31 = false →
      exec .emcy s = .next ((s.modCan (fun c => { c with queue := rest })).emit (.emcy m.code s.errReg m.src (m.info.map BitVec.toNat)))) ∧
    (s.can.nmt = .stopped → exec .emcy s = .next (s.modCan (fun c => { c with queue := rest }))) := by
  refine ⟨fun hnmt hbit => ?_, fun hnmt => ?_⟩
  · have hstate : s.can.nmt ≠ .init ∧ s.can.nmt ≠ .stopped := by obtain h | h := hnmt <;> rw [h] <;> decide
    rw [exec_emcy, emcySend_cons hq hup hstate.1 hrec hm, if_neg (by simp [hstate.2, hbit]), settle_emit _ (rests_modCan _ hr)]
  · rw [exec_emcy, emcySend_cons hq hup (by rw [hnmt]; decide) hrec hm, if_pos (.inl hnmt), settle_modCan _ hr]

/-! ### LSS -/

section
variable {s : State} (hr : s.rests = true) (hup : s.canUp = true)
include hr hup

/-- A node that can send sends an LSS answer, and nothing follows. -/
theorem lssAnswer_settle (cs v : Nat) : (s.lssAnswer cs v).settle = s.emit (lssFrame cs v) := by
  unfold State.lssAnswer; rw [if_pos hup]; exact settle_emit _ hr
theorem exec_lssFastscan_reset (id : Word) (sub next : Byte) :
    exec (.lssFastscan id 0x80 sub next) s = .next ((s.modCan (fun c => { c with lssPos := 0 })).emit (lssFrame 0x4F 0)) := by
  have hscan : s.lssScan id.toNat 0x80 sub.toNat next.toNat = (s.modCan (fun c => { c with lssPos := 0 })).lssAnswer 0x4F 0 := by
    unfold State.lssScan; rw [hup]; rfl
  have hsent := lssAnswer_settle (s := s.modCan (fun c => { c with lssPos := 0 })) (rests_modCan _ hr) hup 0x4F 0
  exact congrArg Host.Outcome.next ((congrArg State.settle hscan).trans hsent)
theorem exec_lssFastscan_mismatch {id : Word} (next : Byte) (hid : id ≠ 0x06B1) :
    exec (.lssFastscan id 0 0 next) s = .next s := by
  have hne : identity 0 / 2 ^ 0 ≠ id.toNat / 2 ^ 0 := by
    rw [Nat.pow_zero, Nat.div_one, Nat.div_one]
    exact fun h => hid (BitVec.eq_of_toNat_eq h.symm)
  have hscan : s.lssScan id.toNat 0 0 next.toNat = s := by
    unfold State.lssScan
    rw [hup, if_neg (by decide), if_neg (by decide), if_pos (.inr (.inr hne))]
  exact congrArg Host.Outcome.next ((congrArg State.settle hscan).trans (settle_of_rests hr))

end

/-- Settles O55: an occurrence that nothing holds back is queued in its channel's line order (`pairwise_queueMsg`), the message in front
leaves by the state of the NMT, and LSS answers change nothing. -/
theorem messagesLeave : Obligations.MessagesLeave := by
  unfold Obligations.MessagesLeave
  refine ⟨⟨fun s code src line info hc hs hr => ?told, fun q m => ?_, fun s m rest hr hq hup hrec hm => exec_emcy_cons hr hq hup hrec hm,
    fun s hr hall => ?_, fun s m hlow => msgHeld_of_ioLow m hlow⟩, fun s hr hup => ?lss⟩
  case told =>
    obtain ⟨hch, hcu, hstake, hdev⟩ := emcyInfo_frame s code src line info
    have hcan := emcyInfo_new_can (line := line) (info := info) hc hs hr
    exact ⟨congrArg Can.queue hcan, congrArg Can.errs hcan, congrArg Can.log hcan, (congrArg Can.conds hcan :), hch, hcu, hstake, hdev,
      emcyInfo_new_logCount hc hs hr⟩
  · exact ⟨queueMsg_end, queueMsg_other q m, length_queueMsg q m, pairwise_queueMsg⟩
  · rw [exec_emcy, emcySend_of_all_held hall, settle_of_rests hr]
  case lss =>
    have hanswer : ∀ cs v, Host.Outcome.next (s.lssAnswer cs v).settle = (.next (s.emit (lssFrame cs v)) : Host.Outcome State Fault Refusal) :=
      fun cs v => congrArg _ (lssAnswer_settle hr hup cs v)
    exact ⟨hanswer 0x5A 0x06B1, hanswer 0x5B 0x0820, hanswer 0x5C 0x10001, hanswer 0x5D 0, fun _ => hanswer 0x11 1, fun _ _ => hanswer 0x13 1,
      hanswer 0x17 2, exec_lssFastscan_reset hr hup, fun _ next _ hid => exec_lssFastscan_mismatch hr hup next hid⟩

end Sys2Proof.Machine
end

section
/-! SUPPORT. What a rest depends on, whatever slot the prepared set selects, and what a device does of itself where it rests but for its
epoch. -/
namespace Sys2Proof.Machine

/-! ### The fields that a rest reads -/

/-- The fields of a channel's blocks that a rest reads, but for the slots' words. -/
def restFlds (n : Ch) : List Fld :=
  [Lv.HV_ON n, Lv.PRECHG n, Lv.VALID0 n, Lv.VALID1 n, Tr.CU n, Tr.MIN_PER n, Lk.FE_NOZ n, Lk.FE_CAP n, Ld.NOZZLES n] ++ shadowed n
/-- A place where a word of a slot may lie, whatever number selects the slot. -/
def slotWord (f : Fld) : Prop := f.lsb < 32 ∧ 0x20600 ≤ f.addr ∧ f.addr % 4 = 0 ∧ f.addr % 0x80 ≠ 0x0C

/-- `t` is in a rest where `s` is: they differ in nothing that `State.rests` reads. Of the slots, the prepared set and the epoch block only
a rest with an epoch that is not OPEN depends. -/
structure SameRest (s t : State) : Prop where
  flds : ∀ n : Ch, ∀ f ∈ restFlds n, t.get f = s.get f
  eff : ∀ n : Ch, ∀ f ∈ shadowed n, t.eff f = s.eff f
  asked : t.pixAsked = s.pixAsked
  slots : s.epoch = .openE ∨ ((∀ f, slotWord f → t.get f = s.get f) ∧ (∀ n : Ch, t.get (wavePrep n) = s.get (wavePrep n)) ∧
    t.get Ep.EP_MASK = s.get Ep.EP_MASK ∧ t.get Ep.EP_CU = s.get Ep.EP_CU)
  tb : t.tb = s.tb
  dev : t.dev = s.dev
  epoch : t.epoch = s.epoch
  pixOn : t.pix.on = s.pix.on
  flash : t.flash = s.flash
  lost : t.pcieLost = s.pcieLost
  chSt : ∀ n : Ch, t.chSt n = s.chSt n
  trav : ∀ n : Ch, (t.ch[n]).trav = (s.ch[n]).trav
  drive : ∀ n : Ch, (t.ch[n]).drive = (s.ch[n]).drive
  lines : ∀ n : Ch, (t.ch[n]).lines = (s.ch[n]).lines
  readmitK : ∀ n : Ch, (t.ch[n]).readmitK = (s.ch[n]).readmitK
  linkUp : ∀ n : Ch, t.linkUp n = s.linkUp n
  kept : ∀ n : Ch, (t.ch[n]).kept = (s.ch[n]).kept
  queue : ∀ n : Ch, s.inRun n = true ∨ (t.ch[n]).applyQ = (s.ch[n]).applyQ

namespace SameRest
variable {s t u : State}

theorem refl (s : State) : SameRest s s where
  flds _ _ _ := rfl
  eff _ _ _ := rfl
  asked := rfl
  slots := .inr ⟨fun _ _ => rfl, fun _ => rfl, rfl, rfl⟩
  tb := rfl
  dev := rfl
  epoch := rfl
  pixOn := rfl
  flash := rfl
  lost := rfl
  chSt _ := rfl
  trav _ := rfl
  drive _ := rfl
  lines _ := rfl
  readmitK _ := rfl
  linkUp _ := rfl
  kept _ := rfl
  queue _ := .inr rfl
theorem inRun (h : SameRest s t) (n : Ch) : t.inRun n = s.inRun n := by unfold State.inRun; rw [h.chSt n]
theorem trans (h : SameRest s t) (k : SameRest t u) : SameRest s u where
  flds n f hf := (k.flds n f hf).trans (h.flds n f hf)
  eff n f hf := (k.eff n f hf).trans (h.eff n f hf)
  asked := k.asked.trans h.asked
  slots := by
    obtain ho | ⟨hw, hp, hm, hc⟩ := h.slots
    · exact .inl ho
    · refine k.slots.imp (fun e => h.epoch.symm.trans e) fun ⟨kw, kp, km, kc⟩ => ?_
      exact ⟨fun f hf => (kw f hf).trans (hw f hf), fun n => (kp n).trans (hp n), km.trans hm, kc.trans hc⟩
  tb := k.tb.trans h.tb
  dev := k.dev.trans h.dev
  epoch := k.epoch.trans h.epoch
  pixOn := k.pixOn.trans h.pixOn
  flash := k.flash.trans h.flash
  lost := k.lost.trans h.lost
  chSt n := (k.chSt n).trans (h.chSt n)
  trav n := (k.trav n).trans (h.trav n)
  drive n := (k.drive n).trans (h.drive n)
  lines n := (k.lines n).trans (h.lines n)
  readmitK n := (k.readmitK n).trans (h.readmitK n)
  linkUp n := (k.linkUp n).trans (h.linkUp n)
  kept n := (k.kept n).trans (h.kept n)
  queue n := by
    obtain hr | hq := h.queue n
    · exact .inl hr
    · exact (k.queue n).imp (fun e => (h.inRun n).symm.trans e) (fun e => e.trans hq)

/-! #### A channel -/

theorem has (h : SameRest s t) {n : Ch} {f : Fld} (hf : f ∈ restFlds n) : t.has f = s.has f := by unfold State.has; rw [h.flds n f hf]
theorem prechg (h : SameRest s t) (n : Ch) : t.has (Lv.PRECHG n) = s.has (Lv.PRECHG n) := h.has (n := n) (by simp [restFlds])
theorem chParked (h : SameRest s t) (n : Ch) : t.chParked n = s.chParked n := by
  unfold State.chParked
  rw [h.chSt n, h.dev, h.has (n := n) (f := Lv.HV_ON n) (by simp [restFlds]), h.drive n]
theorem shadows (h : SameRest s t) (n : Ch) :
    (shadowed n).all (fun f => t.eff f == t.get f) = (shadowed n).all (fun f => s.eff f == s.get f) :=
  all_congr_of_mem fun f hf => by rw [h.eff n f hf, h.flds n f (List.mem_append_right _ hf)]
theorem chRests (h : SameRest s t) (n : Ch) : t.chRests n = s.chRests n := by
  have hfree : t.wipedFree n = s.wipedFree n := by unfold State.wipedFree; rw [h.drive n, h.lines n]
  unfold State.chRests
  rw [h.drive n, h.tb, h.chParked n, h.kept n, h.inRun n, hfree, h.shadows n, h.chSt n, h.prechg n, h.linkUp n, h.readmitK n]
  obtain e | e := h.queue n
  · rw [if_pos e, if_pos e]
  · rw [e]
theorem benchDue (h : SameRest s t) (n : Ch) : t.benchDue n = s.benchDue n := by
  unfold State.benchDue State.benchOn
  rw [h.dev, h.chSt n, h.prechg n, h.linkUp n, h.drive n, h.tb]

/-! #### The slots and the epoch -/

theorem subPulse (hw : ∀ f, slotWord f → t.get f = s.get f) (n : Ch) (sl : Nat) {j : Nat} (hj : j < 4) :
    t.subPulse n sl j = s.subPulse n sl j := by
  unfold State.subPulse
  simp (disch :=
    simp only [slotWord, Sl.SP_START, Sl.TGT_A, Sl.STEP_A, Sl.HOLD_A, Sl.TGT_B, Sl.STEP_B, Sl.HOLD_B, Sl.STEP_R]
    omega) only [hw]
theorem slotDesc (hw : ∀ f, slotWord f → t.get f = s.get f) (n : Ch) (sl : Nat) : t.slotDesc n sl = s.slotDesc n sl := by
  have hsp : (List.range 4).map (fun j => t.subPulse n sl j) = (List.range 4).map (fun j => s.subPulse n sl j) :=
    List.map_congr_left fun j hj => subPulse hw n sl (List.mem_range.mp hj)
  unfold State.slotDesc State.has
  simp (disch :=
    simp only [slotWord, Sl.REST, Sl.FIN_T, Sl.QUIET, Sl.SP_EN, Sl.RAIL1, Sl.RAIL2, Sl.RAIL3, Sl.MASK1, Sl.MASK2, Sl.MASK3]
    omega) only [hw, hsp]
theorem ltc (h : SameRest s t) (hw : ∀ f, slotWord f → t.get f = s.get f) (n : Ch) (sl : Nat) : t.ltc n sl = s.ltc n sl := by
  have hstart : ∀ j ∈ s.spDefined n sl, t.get (Sl.SP_START n sl j) = s.get (Sl.SP_START n sl j) := fun j hj =>
    hw _ (by
      have : j < 4 := List.mem_range.mp (List.mem_filter.mp hj).1
      simp only [slotWord, Sl.SP_START]; omega)
  have hdef : t.spDefined n sl = s.spDefined n sl := by unfold State.spDefined; rw [slotDesc hw]
  have hend : t.spEnd n sl = s.spEnd n sl := by funext j; unfold State.spEnd; rw [slotDesc hw]
  have hmask : t.driveMask n sl = s.driveMask n sl := by funext j; unfold State.driveMask; rw [slotDesc hw]
  have hrail : t.driveRail n sl = s.driveRail n sl := by funext j; unfold State.driveRail; rw [slotDesc hw]
  have hnum : t.nozzles n = s.nozzles n := h.flds n _ (by simp [restFlds])
  unfold State.ltc State.slotLineTime State.largestEnd
  rw [h.linkUp n, slotDesc hw, h.flds n (Tr.MIN_PER n) (by simp [restFlds]), h.flds n (Lk.FE_NOZ n) (by simp [restFlds]),
    h.flds n (Lk.FE_CAP n) (by simp [restFlds]), hnum, hdef, hend, hmask, hrail]
  rw [any_congr_of_mem fun j hj => by rw [hstart j hj]]
theorem valid (h : SameRest s t) (n : Ch) (sl : Nat) : t.has (Lv.VALID n sl) = s.has (Lv.VALID n sl) := by
  refine h.has (n := n) ?_
  unfold Lv.VALID
  split
  · simp [restFlds]
  · simp [restFlds]
theorem epochStands (h : SameRest s t) : t.epochStands = s.epochStands := by
  unfold State.epochStands
  rw [h.epoch]
  obtain ho | ⟨hw, hp, hm, hc⟩ := h.slots
  · rw [ho]; rfl
  · have hcheck : ∀ n : Ch, t.epochCheck n = s.epochCheck n := fun n => by
      unfold State.epochCheck
      simp only [hp, hc, h.valid n, h.chSt n, h.trav n, h.ltc hw n, h.flds n (Tr.CU n) (by simp [restFlds])]
    unfold State.epMask
    simp only [hm, hcheck]
/-- It rests where the other does. -/
theorem rests (h : SameRest s t) : t.rests = s.rests := by
  have hk : t.pixKept = s.pixKept := by unfold State.pixKept; rw [h.dev, h.asked]
  have hn : t.pixWanted = s.pixWanted := by unfold State.pixWanted; rw [h.dev, h.asked]
  have hd : t.saveDue = s.saveDue := by unfold State.saveDue; rw [h.flash, h.tb]
  unfold State.rests
  simp only [h.dev, h.lost, h.pixOn, hk, hn, hd, h.chRests, h.benchDue, h.epochStands]
theorem settle (h : SameRest s t) (hr : s.rests = true) : t.settle = t := settle_of_rests (h.rests.trans hr)

end SameRest

/-! ### Registers that no rest reads -/

/-- A field that no rest with an OPEN epoch reads. -/
def restFree (f : Fld) : Prop :=
  f.lsb < 32 ∧ f.addr < 2 ^ 55 ∧ f.addr ≠ 0x80410001 ∧ f.addr ≠ 0x80410101 ∧ f.addr ≠ 0x80420001 ∧ (f.addr < 0x20000 ∨ 0x30000 ≤ f.addr)
/-- A field that no epoch depends on, whatever slot it selects. -/
def epochFree (f : Fld) : Prop :=
  f.addr ≠ 0x200 ∧ (f.addr < 0x20600 ∨ (f.addr < 0x88000000 ∧ (f.addr % 4 ≠ 0 ∨ f.addr % 0x80 = 0x0C)))

theorem restFlds_addr (n : Ch) : ∀ f ∈ restFlds n, f.lsb < 32 ∧ 0x20000 ≤ f.addr ∧ f.addr < 0x30000 := by revert n; decide
theorem shadowed_addr (n : Ch) : ∀ f ∈ shadowed n, f.lsb < 32 ∧ 0x20000 ≤ f.addr ∧ f.addr < 0x30000 := by revert n; decide
theorem SameRest.put {s : State} {f : Fld} (v : Nat) (hf : restFree f) (he : s.epoch = .openE ∨ epochFree f) : SameRest s (s.put f v) := by
  obtain ⟨hl, hlt, hcam0, hcam1, hclosure, hblock⟩ := hf
  have hget : ∀ g : Fld, g.lsb < 32 → f.addr ≠ g.addr → (s.put f v).get g = s.get g := fun g hg ha =>
    get_put_other s v (key_ne_of_addr_ne hl hg ha)
  have hhas : ∀ g : Fld, g.lsb < 32 → f.addr ≠ g.addr → (s.put f v).has g = s.has g := fun g hg ha => by
    unfold State.has; rw [hget g hg ha]
  exact { SameRest.refl s with
    flds := fun n g hg => by
      obtain ⟨hgl, hlo, hhi⟩ := restFlds_addr n g hg
      exact hget g hgl (by omega)
    eff := fun n g _ => eff_put_other s v (key_ne_effKey hl hlt g)
    asked := by
      unfold State.pixAsked
      rw [hhas _ (by decide) hcam0, hhas _ (by decide) hcam1, hhas _ (by decide) hclosure]
    slots := he.imp_right fun ⟨hep, hoff⟩ => by
      refine ⟨fun g ⟨hgl, hlo, h4, hc⟩ => hget g hgl (by omega), fun n => hget _ (by simp [wavePrep, prepFld]) ?_,
        hget _ (by decide) hep, hget _ (by decide) hep⟩
      simp only [wavePrep, prepFld]; omega }

/-! ### A device that rests but for its epoch -/

/-- The state with its epoch set aside. -/
def State.calm (s : State) : State := { s with epoch := .openE }

theorem calm_rests {s : State} (h : s.rests = true) : s.calm.rests = true := by
  unfold State.rests at h ⊢
  simp only [Bool.and_eq_true] at h ⊢
  obtain ⟨⟨⟨h1, -⟩, h2⟩, h3⟩ := h
  exact ⟨⟨⟨h1, rfl⟩, h2⟩, h3⟩
theorem nothingDue_of_calm {s : State} (h : s.calm.rests = true) : NothingDue s :=
  have hc : NothingDue s.calm := nothingDue_of_rests h
  { chan := fun n =>
      have hn : ChanDone s.calm n := hc.chan n
      { ramp := hn.ramp, switch := hn.switch, kept := hn.kept, free := hn.free, queue := hn.queue, wiped := hn.wiped, readmit := hn.readmit
        bench := hn.bench }
    wake := hc.wake, token := hc.token, pix := hc.pix, save := hc.save }
/-- What a device that rests but for its epoch does of itself changes the epoch and its reason, and otherwise only what stands in the
register file for a shadow in effect. -/
theorem settle_calm {s : State} (h : s.calm.rests = true) :
    ∃ r e, s.settle = { s with regs := r, epoch := e } ∧
      ∀ f : Fld, f.key < 2 ^ 60 → f.key ≠ Ep.FAIL_CH.key → f.key ≠ Ep.FAIL_REASON.key → s.settle.get f = s.get f := by
  obtain ⟨t, ht, he⟩ := (nothingDue_of_calm h).settle fun n hr he => stripsStand_of_rests (s := s.calm) h n hr he
  rw [he]
  obtain hw | ⟨n, hw⟩ := epochWatch_cases t
  · refine ⟨t.regs, s.epoch, hw.trans ht.same, fun f hf _ _ => ?_⟩
    rw [hw, ht.get f hf]
  · refine ⟨t.epochWatch.regs, .openE, ?_, fun f hf hc hr => ?_⟩
    · rw [hw, State.epochFail, ht.same]; rfl
    · rw [hw, State.epochFail, get_put_other _ _ hc.symm, get_put_other _ _ hr.symm]
      exact ht.get f hf
/-- A command that leaves all that a rest reads but the epoch: what follows it leaves every register but the reason of a lost epoch. -/
theorem SameRest.settle_calm {s t : State} (h : SameRest s.calm t.calm) (hr : s.rests = true) :
    ∃ r e, t.settle = { t with regs := r, epoch := e } ∧
      ∀ f : Fld, f.key < 2 ^ 60 → f.key ≠ Ep.FAIL_CH.key → f.key ≠ Ep.FAIL_REASON.key → t.settle.get f = t.get f :=
  Machine.settle_calm (h.rests.trans (calm_rests hr))

end Sys2Proof.Machine
end

section
/-! SUPPORT. Commands that leave all that a rest reads but the epoch, and thermal samples (R349 to R367). -/
namespace Sys2Proof.Machine

/-! ### Calm commands -/

/-- `t` rests but for its epoch where `s` does. -/
def Calm (s t : State) : Prop := SameRest s.calm t.calm

namespace Calm
variable {s t : State}

theorem refl (s : State) : Calm s s := SameRest.refl s.calm
theorem put (h : Calm s t) {f : Fld} (v : Nat) (hf : restFree f) : Calm s (t.put f v) := h.trans (SameRest.put (s := t.calm) v hf (.inl rfl))
theorem putB (h : Calm s t) {f : Fld} (b : Bool) (hf : restFree f) : Calm s (t.putB f b) := h.put _ hf
theorem modTh (h : Calm s t) (m : Thi) (f : Thermal → Thermal) : Calm s (t.modTh m f) :=
  h.trans { SameRest.refl t.calm with }
theorem cause (h : Calm s t) {v : Nat} (hv : v < 32) : Calm s (t.cause v) := by
  have hstat : ∀ x, Calm s (t.put Ho.INT_STAT x) := fun x => h.put x (by unfold restFree; decide)
  have hpba : restFree (Mx.PBA v) := by simp only [restFree, Mx.PBA]; omega
  unfold State.cause; dsimp only
  split
  · exact h
  split
  · exact h
  split
  · exact hstat _
  split
  · exact (hstat _).put 1 hpba
  split
  · exact hstat _
  · exact (hstat _).trans { SameRest.refl _ with }
/-- What follows leaves every register but the reason of a lost epoch, and nothing else but the epoch. -/
theorem settle (h : Calm s t) (hr : s.rests = true) :
    ∃ r e, t.settle = { t with regs := r, epoch := e } ∧
      ∀ f : Fld, f.key < 2 ^ 60 → f.key ≠ Ep.FAIL_CH.key → f.key ≠ Ep.FAIL_REASON.key → t.settle.get f = t.get f :=
  SameRest.settle_calm h hr

end Calm

/-! ### Thermal samples -/

/-- The registers of a thermal input are read by no rest, and a lost epoch leaves them. -/
theorem th_restFree (m : Thi) : ∀ f ∈ Th.fields m, restFree f := by unfold restFree; revert m; decide
theorem th_kept (m : Thi) : ∀ f ∈ Th.fields m, f.key < 2 ^ 60 ∧ f.key ≠ Ep.FAIL_CH.key ∧ f.key ≠ Ep.FAIL_REASON.key := by revert m; decide

theorem th_cause_get (s : State) (m : Thi) {f : Fld} (hf : f ∈ Th.fields m) : (s.cause 21).get f = s.get f := by
  obtain ⟨hi, hp⟩ : Ho.INT_STAT.key ≠ f.key ∧ (Mx.PBA 21).key ≠ f.key := by revert m f; decide
  exact get_cause_other s 21 hi hp
theorem wrap_lt (w : Nat) (v : Int) : wrap w v < 2 ^ w := by
  have hpos : (0 : Int) < 2 ^ w := by positivity
  have := Int.emod_lt_of_pos v hpos
  have := Int.emod_nonneg v hpos.ne'
  unfold wrap
  zify
  omega
theorem goSlow_get (s : State) (m : Thi) {f : Fld} (h : (Th.FAST m).key ≠ f.key) : (s.goSlow m).get f = s.get f := by
  unfold State.goSlow; rw [get_modTh]; exact get_put_other _ _ h
theorem goSlow_fast (s : State) (m : Thi) : (s.goSlow m).get (Th.FAST m) = 0 := by
  unfold State.goSlow; rw [get_modTh]; exact get_put_same _ _ _
theorem th_settle_get {s t : State} (h : Calm s t) (hr : s.rests = true) (m : Thi) {f : Fld} (hf : f ∈ Th.fields m) :
    t.settle.get f = t.get f := by
  obtain ⟨r, e, -, hget⟩ := h.settle hr
  obtain ⟨hk, hc, hn⟩ := th_kept m f hf
  exact hget f hk hc hn

section
variable (s : State) (m : Thi)

/-- RAW of a conversion, and the free value it may have used. -/
def State.sampled (c : Conv) : State :=
  { s with ctr := s.ctr + 1 }.put (Th.RAW m) (rawOf (if s.get (Th.TYPE m) = 1 then s.get (Th.P2 m) else 0) c)

theorem sampled_get (c : Conv) {f : Fld} (hf : (Th.RAW m).key ≠ f.key) : (s.sampled m c).get f = s.get f := get_put_other _ _ hf
theorem dwell_th (code : Int) : ∃ f : Thermal → Thermal, s.dwell m code = s.modTh m f ∧ ∀ x, (f x).oor = x.oor := by
  unfold State.dwell
  split
  · exact ⟨_, rfl, fun _ => rfl⟩
  dsimp only
  split
  · refine ⟨fun x => { x with dwell0 := some ((s.th[m]).dwell0.getD s.tb), restart := some (cycleOf s.tb) }, ?_, fun _ => rfl⟩
    simp [State.modTh]
  · exact ⟨_, rfl, fun _ => rfl⟩

end

/-- What a valid sample of an input that is neither BROKEN nor sampled fast comes to below 64 °C. -/
theorem thermalSample_good {s : State} {m : Thi} {c : Conv} {code : Int} (hsample : s.sampleOf m c = some (.good code))
    (hb : s.has (Th.BROKEN m) = false) (hf : s.has (Th.FAST m) = false) (hcode : code < 8192) :
    ∃ f : Thermal → Thermal, (∀ x, (f x).oor = 0) ∧
      s.thermalSample m c = if isHead m then
          (((s.sampled m c).modTh m f).put (Th.TEMP m) (wrap 16 code)).setTheta m (throttle (s.get (Th.BAND m)) code)
        else (((s.sampled m c).modTh m f).put (Th.TEMP m) (wrap 16 code)).boardWarn m code := by
  obtain ⟨g, hg, hoor⟩ := dwell_th ((s.sampled m c).modTh m (fun x => { x with oor := 0, valid := x.valid + 1 })) m code
  refine ⟨fun x => g { x with oor := 0, valid := x.valid + 1 }, fun x => hoor _, ?_⟩
  have hth : (s.sampled m c).modTh m (fun x => g { x with oor := 0, valid := x.valid + 1 }) =
      ((s.sampled m c).modTh m (fun x => { x with oor := 0, valid := x.valid + 1 })).dwell m code := by
    rw [hg]; simp [State.modTh]
  have hvalid : s.thermalSample m c =
      (((s.sampled m c).modTh m (fun x => { x with oor := 0, valid := x.valid + 1 })).dwell m code).validSample m code := by
    unfold State.thermalSample
    rw [hsample]; dsimp only
    rw [hb, if_neg Bool.false_ne_true]
    rfl
  have hread : ∀ f : Fld, (Th.RAW m).key ≠ f.key →
      (((s.sampled m c).modTh m (fun x => { x with oor := 0, valid := x.valid + 1 })).dwell m code).get f = s.get f := fun f hne => by
    rw [hg]; exact sampled_get s m c hne
  have hfast : (((s.sampled m c).modTh m (fun x => { x with oor := 0, valid := x.valid + 1 })).dwell m code).has (Th.FAST m) = false := by
    unfold State.has; rw [hread _ (by simp only [Fld.key, Th.RAW, Th.FAST]; omega)]; exact hf
  rw [hvalid, hth]
  unfold State.validSample; dsimp only
  cases hhead : isHead m with
  | true =>
    rw [if_neg (by decide), hfast, if_pos (by decide), if_neg (by omega), if_pos rfl, hread _ (by simp only [Fld.key, Th.RAW, Th.BAND]; omega)]
  | false => rw [if_pos (by decide), if_neg (by decide)]


/-- What an out-of-range sample of an input that is not BROKEN notes. -/
def State.sampledBad (s : State) (m : Thi) (c : Conv) (d : Nat) : State :=
  ((s.sampled m c).put (Th.DIAG m) d).modTh m (fun x => { x with oor := x.oor + 1, valid := 0, cool := 0, dwell0 := none })

section
variable {s : State} {m : Thi} {c : Conv} {d : Nat}

theorem sampledBad_get {f : Fld} (hr : (Th.RAW m).key ≠ f.key) (hd : (Th.DIAG m).key ≠ f.key) : (s.sampledBad m c d).get f = s.get f :=
  (get_put_other _ _ hd).trans (sampled_get s m c hr)
theorem sampledBad_oor : ((s.sampledBad m c d).th[m]).oor = (s.th[m]).oor + 1 := by
  unfold State.sampledBad; rw [modTh_same]; rfl
theorem thermalSample_bad (hsample : s.sampleOf m c = some (.bad d)) (hb : s.has (Th.BROKEN m) = false) :
    s.thermalSample m c = if (s.th[m]).oor < 7 then s.sampledBad m c d
      else if isHead m then
        let t := (((((s.sampledBad m c d).flag (Th.BROKEN m)).thFlag (Th.BRK m)).bump (Th.BRK_CNT m)).put (Th.TEMP m) 0x8000).goSlow m
        let t := (t.setTheta m 1024).modTh m (fun x => { x with brkMsg := true })
        if s.has (Th.BRK_RETIRE m) then t.retire (headCh m) 8 else t
      else (((((s.sampledBad m c d).flag (Th.BROKEN m)).thFlag (Th.BRK m)).bump (Th.BRK_CNT m)).put (Th.TEMP m) 0x8000).goSlow m := by
  have hread : ∀ f : Fld, (Th.RAW m).key ≠ f.key → (s.sampled m c).has f = s.has f := fun f hne => by
    unfold State.has; rw [sampled_get s m c hne]
  have hbroken : (s.sampled m c).has (Th.BROKEN m) = false := (hread _ (by simp only [Fld.key, Th.RAW, Th.BROKEN]; omega)).trans hb
  have hretire : (s.sampled m c).has (Th.BRK_RETIRE m) = s.has (Th.BRK_RETIRE m) :=
    hread _ (by simp only [Fld.key, Th.RAW, Th.BRK_RETIRE]; omega)
  have hbad : s.thermalSample m c = (s.sampled m c).badSample m d := by unfold State.thermalSample; rw [hsample]; rfl
  have hcount := sampledBad_oor (s := s) (m := m) (c := c) (d := d)
  unfold State.sampledBad at hcount
  rw [hbad, State.badSample, hbroken, hretire]
  dsimp only
  rw [hcount]
  by_cases hlt : (s.th[m]).oor < 7
  · rw [if_pos hlt, if_pos (.inr (by omega))]; rfl
  · rw [if_neg hlt, if_neg (not_or.mpr ⟨Bool.false_ne_true, by omega⟩)]
    cases isHead m <;> rfl
end

/-! #### Calm samples -/

section
variable {z s : State}

theorem Calm.th (h : Calm z s) (m : Thi) {f : Fld} (v : Nat) (hf : f ∈ Th.fields m) : Calm z (s.put f v) := h.put v (th_restFree m f hf)
theorem Calm.thFlag (h : Calm z s) (m : Thi) {f : Fld} (hf : f ∈ Th.fields m) : Calm z (s.thFlag f) := (h.th m 1 hf).cause (by decide)
theorem Calm.goSlow (h : Calm z s) (m : Thi) : Calm z (s.goSlow m) := (h.th m 0 (by simp [Th.fields, Th.plain])).modTh m _
theorem Calm.boardWarn (h : Calm z s) (m : Thi) (code : Int) : Calm z (s.boardWarn m code) := by
  unfold State.boardWarn
  split
  · exact h.thFlag m (by simp [Th.fields, Th.plain])
  · exact h
theorem calm_sampled (s : State) (m : Thi) (c : Conv) : Calm s (s.sampled m c) :=
  Calm.th (s := { s with ctr := s.ctr + 1 }) { SameRest.refl s.calm with } m _ (by simp [Th.fields, Th.plain])
theorem calm_sampledBad (s : State) (m : Thi) (c : Conv) (d : Nat) : Calm s (s.sampledBad m c d) :=
  ((calm_sampled s m c).th m d (by simp [Th.fields, Th.plain])).modTh m _

theorem boardWarn_ch (s : State) (m : Thi) (code : Int) : (s.boardWarn m code).ch = s.ch := by
  unfold State.boardWarn
  split
  · exact cause_ch _ _
  · rfl
theorem boardWarn_cu (s : State) (m : Thi) (code : Int) : (s.boardWarn m code).cu = s.cu := by
  unfold State.boardWarn
  split
  · exact cause_cu _ _
  · rfl
theorem boardWarn_th (s : State) (m : Thi) (code : Int) : (s.boardWarn m code).th = s.th := by
  unfold State.boardWarn
  split
  · exact cause_th _ _
  · rfl
theorem boardWarn_get (s : State) (m : Thi) (code : Int) {f : Fld} (hf : f ∈ Th.fields m) (hw : (Th.WARN m).key ≠ f.key) :
    (s.boardWarn m code).get f = s.get f := by
  unfold State.boardWarn
  split
  · exact (th_cause_get _ m hf).trans (get_put_other _ _ hw)
  · rfl
end

/-- A die sample sets its register, and of the logic die the window of the OTP. -/
theorem settle_dieSample {s : State} (hr : s.rests = true) (v : Nat) {f : Fld} (hf : restFree f) (he : epochFree f) :
    (s.put f v).settle = s.put f v := (SameRest.put v hf (.inr he)).settle hr

/-! #### The obligation's clauses -/

section
variable {s : State} {m : Thi} {c : Conv} {tick : Tick}

theorem goodSample_taken {code : Int} (hr : (s.at tick).rests = true) (hsample : (s.at tick).sampleOf m c = some (.good code))
    (hb : s.has (Th.BROKEN m) = false) (hf : s.has (Th.FAST m) = false) (hcode : code < 8192) :
    ∃ t, exec (.thermalSample m c tick) s = .next t ∧ t.get (Th.TEMP m) = wrap 16 code ∧ (t.th[m]).oor = 0 ∧
      t.has (Th.FAST m) = false ∧ t.has (Th.BROKEN m) = false ∧ t.get (Th.TRIP_CNT m) = s.get (Th.TRIP_CNT m) ∧
      (isHead m = true → (t.th[m]).theta = throttle (s.get (Th.BAND m)) code) ∧ t.ch = s.ch ∧ t.cu = s.cu := by
  obtain ⟨f, hoor, ht⟩ := thermalSample_good hsample hb hf hcode
  set u := (((s.at tick).sampled m c).modTh m f).put (Th.TEMP m) (wrap 16 code) with hu
  have hcalm : Calm (s.at tick) u := ((calm_sampled (s.at tick) m c).modTh m f).th m _ (by simp [Th.fields, Th.plain])
  have htemp : u.get (Th.TEMP m) = wrap 16 code := by
    rw [hu, get_put_same]
    exact Nat.mod_eq_of_lt (wrap_lt 16 code)
  have hother : ∀ g : Fld, (Th.RAW m).key ≠ g.key → (Th.TEMP m).key ≠ g.key → u.get g = s.get g := fun g hraw hne =>
    (get_put_other _ _ hne).trans (sampled_get (s.at tick) m c hraw)
  have hfast : u.get (Th.FAST m) = s.get (Th.FAST m) := hother _ (by simp only [Fld.key, Th.RAW, Th.FAST]; omega)
    (by simp only [Fld.key, Th.TEMP, Th.FAST]; omega)
  have hbroken : u.get (Th.BROKEN m) = s.get (Th.BROKEN m) := hother _ (by simp only [Fld.key, Th.RAW, Th.BROKEN]; omega)
    (by simp only [Fld.key, Th.TEMP, Th.BROKEN]; omega)
  have hcnt : u.get (Th.TRIP_CNT m) = s.get (Th.TRIP_CNT m) := hother _ (by simp only [Fld.key, Th.RAW, Th.TRIP_CNT]; omega)
    (by simp only [Fld.key, Th.TEMP, Th.TRIP_CNT]; omega)
  have hth : (u.th[m]).oor = 0 := by
    have : u.th[m] = f (s.th[m]) := modTh_same _ _ _
    rw [this, hoor]
  have hfin : ∀ t : State, Calm (s.at tick) t → (s.at tick).thermalSample m c = t →
      (∀ g ∈ Th.fields m, (Th.WARN m).key ≠ g.key → t.get g = u.get g) → (t.th[m]).oor = 0 →
      (isHead m = true → (t.th[m]).theta = throttle (s.get (Th.BAND m)) code) → t.ch = s.ch → t.cu = s.cu →
      ∃ t, exec (.thermalSample m c tick) s = .next t ∧ t.get (Th.TEMP m) = wrap 16 code ∧ (t.th[m]).oor = 0 ∧
      t.has (Th.FAST m) = false ∧ t.has (Th.BROKEN m) = false ∧ t.get (Th.TRIP_CNT m) = s.get (Th.TRIP_CNT m) ∧
      (isHead m = true → (t.th[m]).theta = throttle (s.get (Th.BAND m)) code) ∧ t.ch = s.ch ∧ t.cu = s.cu := fun t hc he hg ho hs hch hcu => by
    obtain ⟨r, e, hsettle, -⟩ := hc.settle hr
    have hget : ∀ g ∈ Th.fields m, (Th.WARN m).key ≠ g.key → t.settle.get g = u.get g := fun g hm hw =>
      (th_settle_get hc hr m hm).trans (hg g hm hw)
    refine ⟨t.settle, congrArg (fun x => Host.Outcome.next (State.settle x)) he, ?_, ?_, ?_, ?_, ?_, ?_, ?_, ?_⟩
    · exact (hget _ (by simp [Th.fields, Th.plain]) (by simp only [Fld.key, Th.WARN, Th.TEMP]; omega)).trans htemp
    · rw [hsettle]; exact ho
    · have := (hget _ (by simp [Th.fields, Th.plain]) (by simp only [Fld.key, Th.WARN, Th.FAST]; omega)).trans hfast
      unfold State.has at hf ⊢; rw [this]; exact hf
    · have := (hget _ (by simp [Th.fields, Th.plain]) (by simp only [Fld.key, Th.WARN, Th.BROKEN]; omega)).trans hbroken
      unfold State.has at hb ⊢; rw [this]; exact hb
    · exact (hget _ (by simp [Th.fields, Th.plain]) (by simp only [Fld.key, Th.WARN, Th.TRIP_CNT]; omega)).trans hcnt
    · intro hh; rw [hsettle]; exact hs hh
    · rw [hsettle]; exact hch
    · rw [hsettle]; exact hcu
  by_cases hhead : isHead m = true
  · rw [if_pos hhead] at ht
    refine hfin _ (hcalm.modTh m _) ht (fun g _ _ => rfl) ?_ (fun _ => ?_) rfl rfl
    · rw [modTh_same]; exact hth
    · rw [modTh_same]; rfl
  · rw [if_neg hhead] at ht
    refine hfin _ (hcalm.boardWarn m code) ht (fun g hg hw => boardWarn_get _ m code hg hw) ?_ (fun h => ?_) ?_ ?_
    · rw [boardWarn_th]; exact hth
    · exact absurd h hhead
    · exact boardWarn_ch _ m code
    · exact boardWarn_cu _ m code

theorem badSample_counted {d : Nat} (hr : (s.at tick).rests = true) (hsample : (s.at tick).sampleOf m c = some (.bad d)) (hd : d < 4)
    (hb : s.has (Th.BROKEN m) = false) (hlt : (s.th[m]).oor < 7) :
    ∃ t, exec (.thermalSample m c tick) s = .next t ∧ t.get (Th.DIAG m) = d ∧ (t.th[m]).oor = (s.th[m]).oor + 1 ∧
      t.has (Th.BROKEN m) = false ∧ t.get (Th.TEMP m) = s.get (Th.TEMP m) ∧ t.ch = s.ch := by
  have ht := thermalSample_bad hsample hb
  rw [if_pos (show ((s.at tick).th[m]).oor < 7 from hlt)] at ht
  have hcalm := calm_sampledBad (s.at tick) m c d
  obtain ⟨r, e, hsettle, -⟩ := hcalm.settle hr
  have hget : ∀ g ∈ Th.fields m, ((s.at tick).sampledBad m c d).settle.get g = ((s.at tick).sampledBad m c d).get g := fun g hm =>
    th_settle_get hcalm hr m hm
  refine ⟨_, congrArg (fun x => Host.Outcome.next (State.settle x)) ht, ?_, ?_, ?_, ?_, ?_⟩
  · rw [hget _ (by simp [Th.fields, Th.plain])]
    exact (get_put_same _ _ _).trans (Nat.mod_eq_of_lt hd)
  · rw [hsettle]; exact sampledBad_oor
  · have h1 := (hget (Th.BROKEN m) (by simp [Th.fields, Th.plain])).trans
      (sampledBad_get (by simp only [Fld.key, Th.RAW, Th.BROKEN]; omega) (by simp only [Fld.key, Th.DIAG, Th.BROKEN]; omega))
    unfold State.has at hb ⊢; rw [h1]; exact hb
  · exact (hget (Th.TEMP m) (by simp [Th.fields, Th.plain])).trans
      (sampledBad_get (by simp only [Fld.key, Th.RAW, Th.TEMP]; omega) (by simp only [Fld.key, Th.DIAG, Th.TEMP]; omega))
  · rw [hsettle]; rfl

theorem badSample_breaks {d : Nat} (hr : (s.at tick).rests = true) (hsample : (s.at tick).sampleOf m c = some (.bad d)) (hd : d < 4)
    (hb : s.has (Th.BROKEN m) = false) (heq : (s.th[m]).oor = 7) (hhead : isHead m = false) :
    ∃ t, exec (.thermalSample m c tick) s = .next t ∧ t.get (Th.DIAG m) = d ∧ t.has (Th.BROKEN m) = true ∧
      t.has (Th.BRK m) = true ∧ t.get (Th.TEMP m) = 0x8000 ∧ t.has (Th.FAST m) = false ∧
      t.get (Th.BRK_CNT m) = min (s.get (Th.BRK_CNT m) + 1) ((Th.BRK_CNT m).card - 1) ∧ t.ch = s.ch := by
  have ht := thermalSample_bad hsample hb
  rw [if_neg (show ¬ ((s.at tick).th[m]).oor < 7 by change ¬ (s.th[m]).oor < 7; omega), hhead, if_neg Bool.false_ne_true] at ht
  set b := (s.at tick).sampledBad m c d with hbdef
  have hbad : ∀ f : Fld, (Th.RAW m).key ≠ f.key → (Th.DIAG m).key ≠ f.key → b.get f = s.get f := fun f h1 h2 =>
    sampledBad_get (s := s.at tick) h1 h2
  have hdiag : b.get (Th.DIAG m) = d := (get_put_same _ _ _).trans (Nat.mod_eq_of_lt hd)
  set u := ((b.flag (Th.BROKEN m)).thFlag (Th.BRK m)) with hu
  have hflags : ∀ f ∈ Th.fields m, (Th.BROKEN m).key ≠ f.key → (Th.BRK m).key ≠ f.key → u.get f = b.get f := fun f hm h1 h2 =>
    (th_cause_get _ m hm).trans ((get_put_other _ _ h2).trans (get_put_other _ _ h1))
  have hbrk : u.get (Th.BRK m) = 1 := (th_cause_get _ m (by simp [Th.fields, Th.plain])).trans (get_put_same _ _ _)
  have hbroken : u.get (Th.BROKEN m) = 1 := (th_cause_get _ m (by simp [Th.fields, Th.plain])).trans
    ((get_put_other _ _ (by simp only [Fld.key, Th.BRK, Th.BROKEN]; omega)).trans (get_put_same _ _ _))
  have hch : u.ch = s.ch := cause_ch _ _
  have hcnt : u.get (Th.BRK_CNT m) = s.get (Th.BRK_CNT m) := (hflags _ (by simp [Th.fields, Th.plain])
    (by simp only [Fld.key, Th.BROKEN, Th.BRK_CNT]; omega) (by simp only [Fld.key, Th.BRK, Th.BRK_CNT]; omega)).trans
    (hbad _ (by simp only [Fld.key, Th.RAW, Th.BRK_CNT]; omega) (by simp only [Fld.key, Th.DIAG, Th.BRK_CNT]; omega))
  have hcalm : Calm (s.at tick) (((u.bump (Th.BRK_CNT m)).put (Th.TEMP m) 0x8000).goSlow m) :=
    ((((((calm_sampledBad (s.at tick) m c d).th m 1 (by simp [Th.fields, Th.plain])).thFlag m (by simp [Th.fields, Th.plain])).th m _
      (by simp [Th.fields, Th.plain])).th m _ (by simp [Th.fields, Th.plain])).goSlow m)
  obtain ⟨r, e, hsettle, -⟩ := hcalm.settle hr
  have hget : ∀ f ∈ Th.fields m, (Th.BRK_CNT m).key ≠ f.key → (Th.TEMP m).key ≠ f.key → (Th.FAST m).key ≠ f.key →
      (((u.bump (Th.BRK_CNT m)).put (Th.TEMP m) 0x8000).goSlow m).settle.get f = u.get f := fun f hm h1 h2 h3 =>
    (th_settle_get hcalm hr m hm).trans ((goSlow_get _ m h3).trans ((get_put_other _ _ h2).trans (get_put_other _ _ h1)))
  refine ⟨_, congrArg (fun x => Host.Outcome.next (State.settle x)) ht, ?_, ?_, ?_, ?_, ?_, ?_, ?_⟩
  · rw [hget _ (by simp [Th.fields, Th.plain]) (by simp only [Fld.key, Th.BRK_CNT, Th.DIAG]; omega)
      (by simp only [Fld.key, Th.TEMP, Th.DIAG]; omega) (by simp only [Fld.key, Th.FAST, Th.DIAG]; omega),
      hflags _ (by simp [Th.fields, Th.plain]) (by simp only [Fld.key, Th.BROKEN, Th.DIAG]; omega)
      (by simp only [Fld.key, Th.BRK, Th.DIAG]; omega)]
    exact hdiag
  · unfold State.has
    rw [hget _ (by simp [Th.fields, Th.plain]) (by simp only [Fld.key, Th.BRK_CNT, Th.BROKEN]; omega)
      (by simp only [Fld.key, Th.TEMP, Th.BROKEN]; omega) (by simp only [Fld.key, Th.FAST, Th.BROKEN]; omega), hbroken]
    rfl
  · unfold State.has
    rw [hget _ (by simp [Th.fields, Th.plain]) (by simp only [Fld.key, Th.BRK_CNT, Th.BRK]; omega)
      (by simp only [Fld.key, Th.TEMP, Th.BRK]; omega) (by simp only [Fld.key, Th.FAST, Th.BRK]; omega), hbrk]
    rfl
  · rw [th_settle_get hcalm hr m (by simp [Th.fields, Th.plain])]
    exact (goSlow_get _ m (by simp only [Fld.key, Th.FAST, Th.TEMP]; omega)).trans (get_put_same _ _ _)
  · unfold State.has
    rw [th_settle_get hcalm hr m (by simp [Th.fields, Th.plain])]
    rw [goSlow_fast]
    rfl
  · rw [th_settle_get hcalm hr m (by simp [Th.fields, Th.plain])]
    refine (goSlow_get _ m (by simp only [Fld.key, Th.FAST, Th.BRK_CNT]; omega)).trans
      ((get_put_other _ _ (by simp only [Fld.key, Th.TEMP, Th.BRK_CNT]; omega)).trans ?_)
    rw [bump_eq, bumpBy_eq, get_put_same, hcnt]
    exact Nat.mod_eq_of_lt (by simp only [Fld.card, Th.BRK_CNT]; omega)
  · rw [hsettle]
    exact hch
end

/-- Settles O41: a conversion of no sensor leaves the state; the registers of a thermal input are read by no rest, so a sample's marks
stand, whatever becomes of the epoch. -/
theorem samplesAreTaken : Obligations.SamplesAreTaken := by
  unfold Obligations.SamplesAreTaken
  refine ⟨fun s m c tick hr hn => ?_, fun s m c tick code hr hs hb hf hc _ => goodSample_taken hr hs hb hf hc,
    fun s m c tick d hr hs hd hb => ⟨badSample_counted hr hs hd hb, badSample_breaks hr hs hd hb⟩, fun s temp hr => ⟨?_, ?_⟩⟩
  · have hsame : (s.at tick).thermalSample m c = s.at tick := by
      unfold State.thermalSample
      rw [show (s.at tick).sampleOf m c = none from hn]
    exact congrArg Host.Outcome.next ((congrArg State.settle hsame).trans (settle_of_rests hr))
  · exact congrArg Host.Outcome.next (settle_dieSample hr (wrap 16 temp) (f := Di.DIE_DRIVE) (by unfold restFree; decide)
      (by unfold epochFree; decide))
  · have hrest : SameRest s (s.dieSample false temp) :=
      (SameRest.put (wrap 16 temp) (f := Di.DIE_LOGIC) (by unfold restFree; decide) (.inr (by unfold epochFree; decide))).trans
        { SameRest.refl (s.put Di.DIE_LOGIC (wrap 16 temp)) with }
    exact ⟨s.dieSample false temp, congrArg Host.Outcome.next (hrest.settle hr), rfl, rfl⟩

end Sys2Proof.Machine
end

section
/-! SUPPORT. Updates of a channel that no rest reads, and the closure engine's observations and verdicts (R262 to R287). -/
namespace Sys2Proof.Machine

/-! ### Channel updates that a rest does not read -/

section
variable (s : State) (n : Ch)

theorem modCh_proj {α : Type} {f : Chan → Chan} (g : Chan → α) (hg : g (f (s.ch[n])) = g (s.ch[n])) (m : Ch) :
    g ((s.modCh n f).ch[m]) = g (s.ch[m]) := by
  by_cases h : m = n
  · rw [h, modCh_same, hg]
  · rw [modCh_other s f (Ne.symm h)]
theorem modCh_modCh (f g : Chan → Chan) : (s.modCh n f).modCh n g = s.modCh n (fun c => g (f c)) := by simp [State.modCh]

/-- A channel whose state, traverse, rails, lines, readmission, link and kept decisions an update leaves rests as it did, if its queue
stays or it is in RUN. -/
theorem SameRest.modCh {f : Chan → Chan} (hst : (f (s.ch[n])).st = (s.ch[n]).st) (htrav : (f (s.ch[n])).trav = (s.ch[n]).trav)
    (hdrive : (f (s.ch[n])).drive = (s.ch[n]).drive) (hlines : (f (s.ch[n])).lines = (s.ch[n]).lines)
    (hre : (f (s.ch[n])).readmitK = (s.ch[n]).readmitK) (hlink : (f (s.ch[n])).link.st = (s.ch[n]).link.st)
    (hkept : (f (s.ch[n])).kept = (s.ch[n]).kept) (hq : s.inRun n = true ∨ (f (s.ch[n])).applyQ = (s.ch[n]).applyQ) :
    SameRest s (s.modCh n f) :=
  { SameRest.refl s with
    chSt := modCh_proj s n Chan.st hst
    trav := modCh_proj s n Chan.trav htrav
    drive := modCh_proj s n Chan.drive hdrive
    lines := modCh_proj s n Chan.lines hlines
    readmitK := modCh_proj s n Chan.readmitK hre
    linkUp := modCh_proj s n (fun c => decide (c.link.st = .up)) (by rw [hlink])
    kept := modCh_proj s n Chan.kept hkept
    queue := fun m => by
      by_cases h : m = n
      · rw [h, modCh_same]; exact hq
      · rw [modCh_other s f (Ne.symm h)]; exact .inr rfl }
theorem SameRest.modHealth (f : Health → Health) : SameRest s (s.modHealth n f) :=
  SameRest.modCh s n rfl rfl rfl rfl rfl rfl rfl (.inr rfl)

end

/-! ### Verdicts as masked values -/

theorem bits_or (a b m l : Nat) : bits (a ||| b) m l = bits a m l ||| bits b m l := by
  unfold bits; rw [Nat.or_div_two_pow, Nat.or_mod_two_pow]
theorem bits_and (a b m l : Nat) : bits (a &&& b) m l = bits a m l &&& bits b m l := by
  unfold bits; rw [Nat.and_div_two_pow, Nat.and_mod_two_pow]
theorem status_withBits_cnt (v x : Nat) : Ent.STATUS (withBits v 31 24 x) = Ent.STATUS v := by
  simp only [Ent.STATUS, bits, withBits]; omega
/-- A masked value whose mask has the bits of STATUS gives its STATUS. -/
theorem status_masked {old mask val : Nat} (hm : bits mask 63 61 = 7) (hn : bits (0xFFFFFFFF_FFFFFFFF ^^^ mask) 63 61 = 0) :
    Ent.STATUS (masked old mask val) = Ent.STATUS val := by
  unfold masked Ent.STATUS
  rw [bits_or, bits_and, bits_and, hm, hn, Nat.and_zero, Nat.zero_or]
  exact Nat.and_two_pow_sub_one_of_lt_two_pow (n := 3) (Nat.mod_lt _ (by decide))
/-- A closure write whose mask has STATUS sets it, held or not. -/
theorem status_closureMerge (old val st sx : Nat) (cm : Bool) (sub : Option Nat) (sd : Option Int) :
    Ent.STATUS (closureMerge old (verdictVal st cm sub sx sd).1 val) = Ent.STATUS val := by
  unfold closureMerge
  rw [status_withBits_cnt]
  cases sd <;> cases Ent.HOLD old
  all_goals
    simp only [verdictVal, Option.isSome_none, Option.isSome_some, if_true, if_false, Bool.false_eq_true]
    exact status_masked (by decide) (by decide)
theorem status_verdictVal (st : Nat) (hst : st < 8) (v : Nat) (cm e : Bool) (sd : Option Int) :
    Ent.STATUS (verdictVal st cm (if e then some (Ent.SUB_IDX v) else none) (Ent.SUB_IDX v) sd).2 = st := by
  have hsub : Ent.SUB_IDX v < 8192 := Nat.mod_lt _ (by decide)
  have hdev := wrap_lt 8 (sd.getD 0)
  unfold verdictVal Ent.STATUS bits
  generalize wrap 8 (sd.getD 0) = d at hdev
  generalize Ent.SUB_IDX v = x at hsub
  cases cm <;> cases e <;> simp only [Option.getD, Option.isSome, Bool.false_eq_true, if_false, if_true] <;> omega

/-! ### Observations and verdict groups -/

section
variable {s : State} {n : Ch}

/-- The observation in front taken. -/
def State.obsTaken (s : State) (n : Ch) (rest : List (Nat × Bool × Nat × Int)) : State := s.modHealth n (fun h => { h with obs := rest })

theorem exec_closureObservation (hdown : s.spDown = false) : exec (.closureObservation n) s = .next (s.closureObservation n).settle := by
  change execClosureObservation n s = _
  unfold execClosureObservation
  rw [hdown]; rfl
theorem closureObservation_of_held (h : (s.ch[n]).health.obs = [] ∨ s.pix.on = false ∨ 64 < (s.ch[n]).health.verdicts.length) :
    s.closureObservation n = s := by
  unfold State.closureObservation
  cases hobs : (s.ch[n]).health.obs with
  | nil => rfl
  | cons o rest =>
    obtain h | h | h := h
    · rw [hobs] at h; cases h
    · dsimp only; rw [h]; rfl
    · have hold : s.engineHolds n = true := decide_eq_true h
      dsimp only; rw [hold, Bool.or_true]; rfl
theorem evidOf_noz (s : State) (n : Ch) (i : Nat) : (s.evidOf n i).noz = i := by
  unfold State.evidOf
  cases h : (s.ch[n]).health.evid.find? (fun e => e.noz = i) with
  | none => rfl
  | some e =>
    have := List.find?_some h
    exact of_decide_eq_true this
theorem keep_noz (e : Evid) (strip : Bool) (code : Nat) (dev : Int) : (e.keep strip code dev).noz = e.noz := by
  unfold Evid.keep; split <;> rfl
theorem evidOf_setEvid (s : State) (n : Ch) (e : Evid) : (s.setEvid n e).evidOf n e.noz = e := by
  unfold State.evidOf State.setEvid
  rw [modHealth_eq, modCh_same, List.find?_append]
  have hnone : ((s.ch[n]).health.evid.filter (fun x => x.noz ≠ e.noz)).find? (fun x => x.noz = e.noz) = none := by
    simp [List.find?_eq_none]
  rw [hnone]
  simp
theorem devUpdate_off (h : s.get (Nh.DEV_UPD n) = 0) (i : Nat) (e : Evid) : s.devUpdate n i e = s := by
  unfold State.devUpdate
  cases e.sd <;> simp [h]

variable {i : Nat} {strip : Bool} {code : Nat} {dev : Int} {rest : List (Nat × Bool × Nat × Int)}
  (hobs : (s.ch[n]).health.obs = (i, strip, code, dev) :: rest) (hon : s.pix.on = true) (hroom : (s.ch[n]).health.verdicts.length ≤ 64)
include hobs hon hroom

/-- The engine takes the observation in front and does with it what its class and ClosureEnable say. -/
theorem closureObservation_cons : s.closureObservation n =
    if strip && code = 4 then (if s.has Cl.ENABLE then (s.obsTaken n rest).maskedVerdict n i else s.obsTaken n rest)
    else if !strip && (3 ≤ code || !s.canRoute n) then s.obsTaken n rest
    else
      let t := (s.obsTaken n rest).setEvid n ((s.evidOf n i).keep strip code dev)
      if s.has Cl.ENABLE then t.rejudge n i (if strip then 2 else 1)
      else if strip then t
      else t.devUpdate n i (t.evidOf n i) := by
  have hold : s.engineHolds n = false := decide_eq_false (Nat.not_lt.mpr hroom)
  unfold State.closureObservation
  rw [hobs]; dsimp only
  rw [hon, hold, if_neg (by decide)]
  rfl
theorem closureObservation_passed (hstrip : strip = false) (hclass : 3 ≤ code ∨ s.canRoute n = false) :
    s.closureObservation n = s.obsTaken n rest := by
  rw [closureObservation_cons hobs hon hroom, hstrip, if_neg (by simp), if_pos (by simpa using hclass)]
theorem closureObservation_masked (hstrip : strip = true) (hcode : code = 4) (hen : s.has Cl.ENABLE = true) :
    s.closureObservation n = (s.obsTaken n rest).maskedVerdict n i := by
  rw [closureObservation_cons hobs hon hroom, hstrip, hcode, hen]
  rfl
theorem closureObservation_kept (hen : s.has Cl.ENABLE = false)
    (hsense : strip = false → code < 3 ∧ s.canRoute n = true ∧ s.get (Nh.DEV_UPD n) = 0) (hstrip : strip = true → code ≠ 4) :
    s.closureObservation n = (s.obsTaken n rest).setEvid n ((s.evidOf n i).keep strip code dev) := by
  rw [closureObservation_cons hobs hon hroom, hen]
  cases strip with
  | true => rw [if_neg (by simpa using hstrip), if_neg (by simp)]; rfl
  | false =>
    obtain ⟨hlt, hroute, hupd⟩ := hsense rfl
    rw [if_neg (by simp), if_neg (by simpa [hroute] using hlt)]
    exact devUpdate_off (s := (s.obsTaken n rest).setEvid n ((s.evidOf n i).keep false code dev)) hupd i _

end

theorem obsTaken_entryView (s : State) (n : Ch) (rest : List (Nat × Bool × Nat × Int)) (i : Nat) :
    (s.obsTaken n rest).entryView n i = s.entryView n i := by
  unfold State.entryView State.entryWritten State.entry State.obsTaken
  rw [modHealth_eq, modCh_same]
theorem obsTaken_evidOf (s : State) (n : Ch) (rest : List (Nat × Bool × Nat × Int)) (i : Nat) :
    (s.obsTaken n rest).evidOf n i = s.evidOf n i := by
  unfold State.evidOf State.obsTaken
  rw [modHealth_eq, modCh_same]
/-- What a MASKED finding writes. -/
def State.maskedWrite (s : State) (n : Ch) (i : Nat) : VWrite :=
  let v := s.entryView n i
  let w := verdictVal 5 (Ent.CMASK v) (if Ent.SUB_EN v then some (Ent.SUB_IDX v) else none) (Ent.SUB_IDX v) (s.evidOf n i).sd
  ⟨i, w.1, w.2, 2⟩
theorem maskedVerdict_decided {s : State} {n : Ch} (rest : List (Nat × Bool × Nat × Int)) {i : Nat} (h : Ent.STATUS (s.entryView n i) ≠ 5) :
    (s.obsTaken n rest).maskedVerdict n i =
      (s.modHealth n (fun h => { h with obs := rest, verdicts := h.verdicts ++ [[s.maskedWrite n i]] })).incr Cl.DECISIONS := by
  unfold State.maskedVerdict
  simp only [obsTaken_entryView, obsTaken_evidOf]
  rw [if_neg h]
  unfold State.decideGroup State.obsTaken
  rw [modHealth_eq, modHealth_eq, modCh_modCh]
  rfl
theorem exec_verdictEnqueue (s : State) (n : Ch) : exec (.verdictEnqueue n) s = .next (s.verdictPass n).settle := rfl
/-- A verdict group in front taken into the apply queue as LINE edits. -/
def State.groupTaken (s : State) (n : Ch) (g : List VWrite) (rest : List (List VWrite)) : State :=
  let edits : List Edit := g.map (fun w => { body := .closure w.noz w.mask w.val 0 w.why, cls := .line, owed := none, at0 := s.tb })
  s.modCh n (fun c => { c with health := { c.health with verdicts := rest }, applyQ := c.applyQ ++ edits })
theorem verdictPass_taken {s : State} {n : Ch} {g : List VWrite} {rest : List (List VWrite)} (hv : (s.ch[n]).health.verdicts = g :: rest)
    (hp : s.chParked n = false) (hroom : (s.ch[n]).applyQ.length ≤ 28) :
    s.verdictPass n = s.groupTaken n g rest := by
  unfold State.verdictPass
  rw [hv]
  dsimp only
  rw [if_neg (by rw [hp]; simp only [queueDepth, Bool.false_eq_true, false_or]; omega), modHealth_eq, modCh_modCh]
  rfl

/-- Settles O35: an observation changes what no rest reads, so nothing follows it; a verdict group joins the queue of a channel in RUN,
which waits for the next boundary. -/
theorem observationsBecomeVerdicts : Obligations.ObservationsBecomeVerdicts := by
  unfold Obligations.ObservationsBecomeVerdicts
  intro s n hr
  have hstay : s.settle = s := settle_of_rests hr
  refine ⟨fun h => ?_, fun i strip code dev rest hobs hon hdown hroom => ⟨fun hs hc => ?_, fun hs hc hen hst => ⟨?_, ?_⟩, fun hen hsense hstrip => ?_⟩,
    fun hv => ?_, fun g rest hv => ⟨fun h => ?_, fun hp hroom hrun => ?_⟩⟩
  · cases hdown : s.spDown with
    | true =>
      change execClosureObservation n s = _
      unfold execClosureObservation
      rw [hdown, if_pos rfl, hstay]
    | false =>
      rw [exec_closureObservation hdown, closureObservation_of_held, hstay]
      exact h.imp_right fun h => h.imp_right fun h => h.resolve_left (by rw [hdown]; decide)
  · rw [exec_closureObservation hdown, closureObservation_passed hobs hon hroom hs hc]
    exact congrArg Host.Outcome.next ((SameRest.modHealth s n _).settle hr)
  · rw [exec_closureObservation hdown, closureObservation_masked hobs hon hroom hs hc hen, maskedVerdict_decided rest hst]
    exact congrArg Host.Outcome.next (((SameRest.modHealth s n _).trans
      (SameRest.put _ (by unfold restFree; decide) (.inr (by unfold epochFree; decide)))).settle hr)
  · rw [status_closureMerge]
    exact status_verdictVal 5 (by decide) _ _ _ _
  · have hrest : SameRest s ((s.obsTaken n rest).setEvid n ((s.evidOf n i).keep strip code dev)) :=
      (SameRest.modHealth s n _).trans (SameRest.modHealth _ n _)
    have hnoz : ((s.evidOf n i).keep strip code dev).noz = i := (keep_noz _ _ _ _).trans (evidOf_noz s n i)
    have hchan : (((s.obsTaken n rest).setEvid n ((s.evidOf n i).keep strip code dev)).ch[n]) = { s.ch[n] with
        health := { (s.ch[n]).health with obs := rest, evid := ((s.ch[n]).health.evid.filter
          (fun x => x.noz ≠ ((s.evidOf n i).keep strip code dev).noz)) ++ [(s.evidOf n i).keep strip code dev] } } := by
      unfold State.setEvid State.obsTaken
      rw [modHealth_eq, modHealth_eq, modCh_same, modCh_same]
    refine ⟨(s.obsTaken n rest).setEvid n ((s.evidOf n i).keep strip code dev), ?_, ?_, ?_, ?_, ?_, rfl, fun m hm => ?_⟩
    · rw [exec_closureObservation hdown, closureObservation_kept hobs hon hroom hen hsense hstrip, hrest.settle hr]
    · rw [hchan]
    · have := evidOf_setEvid (s.obsTaken n rest) n ((s.evidOf n i).keep strip code dev)
      rwa [hnoz] at this
    · rw [hchan]
    · rw [hchan]
    · exact (modCh_other _ _ (Ne.symm hm)).trans (modCh_other _ _ (Ne.symm hm))
  · have : s.verdictPass n = s := by unfold State.verdictPass; rw [hv]
    rw [exec_verdictEnqueue, this, hstay]
  · have : s.verdictPass n = s := by
      unfold State.verdictPass
      rw [hv]; dsimp only
      rw [if_pos (h.imp_right fun h => by simp only [queueDepth]; omega)]
    rw [exec_verdictEnqueue, this, hstay]
  · refine ⟨s.groupTaken n g rest, ?_, ?_, ?_, ?_, rfl, fun m hm => modCh_other _ _ (Ne.symm hm)⟩
    · rw [exec_verdictEnqueue, verdictPass_taken hv hp hroom]
      exact congrArg Host.Outcome.next ((SameRest.modCh s n rfl rfl rfl rfl rfl rfl rfl (.inl hrun)).settle hr)
    · unfold State.groupTaken; rw [modCh_same]
    · unfold State.groupTaken; rw [modCh_same]
    · unfold State.groupTaken; rw [modCh_same]

end Sys2Proof.Machine
end

section
/-! SUPPORT. The camera pipeline where no slice is under test, frames that complete, and the pixel arithmetic (R300 to R313). -/
namespace Sys2Proof.Machine

/-! ### Pixels -/

theorem nth_le {t : List Nat} {m : Nat} (h : t.all (fun x => x ≤ m) = true) (i : Nat) : nth t i ≤ m := by
  unfold nth
  rw [List.getD_eq_getElem?_getD]
  by_cases hi : i < t.length
  · rw [List.getElem?_eq_getElem hi]
    exact of_decide_eq_true (List.all_eq_true.mp h _ (List.getElem_mem hi))
  · rw [List.getElem?_eq_none (Nat.le_of_not_lt hi)]
    exact Nat.zero_le m
theorem toneCurve_le {t : List Nat} (h : t.all (fun x => x ≤ 4095) = true) (v : Nat) : toneCurve t v ≤ 4095 := by
  have ha := nth_le h (v / 4)
  have hb := nth_le h (min (v / 4 + 1) 1023)
  have hf : v % 4 < 4 := Nat.mod_lt _ (by decide)
  unfold toneCurve
  dsimp only
  have hx : (4 - v % 4) * nth t (v / 4) ≤ (4 - v % 4) * 4095 := Nat.mul_le_mul_left _ ha
  have hy : v % 4 * nth t (min (v / 4 + 1) 1023) ≤ v % 4 * 4095 := Nat.mul_le_mul_left _ hb
  omega
theorem toneCurve_entry (t : List Nat) {v : Nat} (h : v % 4 = 0) : toneCurve t v = nth t (v / 4) := by
  unfold toneCurve
  dsimp only
  rw [h]
  omega
theorem clamp_le (v : Int) : (clamp 0 4095 v).toNat ≤ 4095 := by unfold clamp; omega
/-- Without curves every output is a clamped sum. -/
theorem pixel_no_curves (bk : Bank) (cv : List (List Nat)) (px : Nat × Nat × Nat) (h : bk.en = 0) :
    ∃ x y z : Int, pixel bk cv px = ((clamp 0 4095 x).toNat, (clamp 0 4095 y).toNat, (clamp 0 4095 z).toNat) := by
  unfold pixel
  simp only [h, show ∀ i, bit 0 i = false from fun i => by simp [bit], Bool.false_eq_true, if_false]
  exact ⟨_, _, _, rfl⟩
/-- A component of 12 bits passes black level 0 and unit gain. -/
theorem unit_gain {v : Nat} (h : v ≤ 4095) : min 4095 (((v - 0) * 0x1000 * 2 + 4096) / 8192) = v := by omega
theorem unit_matrix {v : Nat} (h : v ≤ 4095) : (clamp 0 4095 (roundDiv (4096 * (v : Int)) 4096)).toNat = v := by
  unfold clamp roundDiv
  rw [if_pos (by omega)]
  omega
theorem pixel_unit {bk : Bank} (cv : List (List Nat)) {a b c : Nat} (hbl : bk.bl = [0, 0, 0]) (hgain : bk.gain = [0x1000, 0x1000, 0x1000])
    (hmtx : bk.mtx = [0x1000, 0, 0, 0, 0x1000, 0, 0, 0, 0x1000]) (hen : bk.en = 0) (ha : a ≤ 4095) (hb : b ≤ 4095) (hc : c ≤ 4095) :
    pixel bk cv (a, b, c) = (a, b, c) := by
  unfold pixel
  simp only [hbl, hgain, hmtx, hen, show ∀ i, bit 0 i = false from fun i => by simp [bit], Bool.false_eq_true, if_false]
  simp only [List.mapIdx_cons, List.mapIdx_nil, nth, List.getD_cons_zero, List.getD_cons_succ, unit_gain ha, unit_gain hb, unit_gain hc]
  simp only [List.range, List.range.loop, List.foldl, nthZ, List.getD_cons_zero, List.getD_cons_succ]
  have h (v : Nat) (hv : v ≤ 4095) := unit_matrix hv
  simp only [Nat.mul_zero, Nat.add_zero, List.getD_cons_zero, Int.zero_mul, Int.add_zero, Int.zero_add, h a ha, h b hb, h c hc]

/-! ### The image domain's lists -/

theorem getD_mapIdx {α : Type} {l : List α} {f : Nat → α → α} {d : α} {i : Nat} (hi : i < l.length) :
    (l.mapIdx f).getD i d = f i (l.getD i d) := by
  simp [List.getD_eq_getElem?_getD, hi]
theorem length_of_frames {s : State} {c : Nat} (h : (s.cam c).frames ≠ []) : c < s.pix.ctxs.length := by
  by_contra hn
  refine h ?_
  unfold State.cam
  rw [List.getD_eq_default _ _ (Nat.le_of_not_lt hn)]
  rfl
theorem length_of_fifo {s : State} {p : Nat} (h : (s.camPort p).fifo ≠ []) : p < s.pix.ports.length := by
  by_contra hn
  refine h ?_
  unfold State.camPort
  rw [List.getD_eq_default _ _ (Nat.le_of_not_lt hn)]
  rfl
theorem cam_modCam {s : State} {c : Nat} (f : Context → Context) (h : c < s.pix.ctxs.length) : (s.modCam c f).cam c = f (s.cam c) := by
  unfold State.cam State.modCam
  rw [getD_mapIdx h, if_pos rfl]
theorem cam_snap (s : State) (sn : Snap) (c : Nat) : State.cam { s with pix := { s.pix with snap := sn } } c = s.cam c := rfl
theorem camPort_modPort {s : State} {p : Nat} (f : CamPort → CamPort) (h : p < s.pix.ports.length) :
    (s.modPort p f).camPort p = f (s.camPort p) := by
  unfold State.camPort State.modPort
  rw [getD_mapIdx h, if_pos rfl]

/-- `t` differs from `s` in contexts and snapshot alone. -/
def OnlyContexts (s t : State) : Prop :=
  ∃ cs sn, t = { s with pix := { s.pix with ctxs := cs, snap := sn } }

namespace OnlyContexts
variable {s t u : State}

theorem refl (s : State) : OnlyContexts s s := ⟨s.pix.ctxs, s.pix.snap, rfl⟩
theorem trans (h : OnlyContexts s t) (k : OnlyContexts t u) : OnlyContexts s u := by
  obtain ⟨_, _, rfl⟩ := h
  obtain ⟨_, _, rfl⟩ := k
  exact ⟨_, _, rfl⟩
theorem modCam (s : State) (c : Nat) (f : Context → Context) : OnlyContexts s (s.modCam c f) := ⟨_, _, rfl⟩
theorem rest (h : OnlyContexts s t) : SameRest s t := by
  obtain ⟨_, _, rfl⟩ := h
  exact { SameRest.refl s with }
theorem last (h : OnlyContexts s t) : t.pix.last = s.pix.last := by obtain ⟨_, _, rfl⟩ := h; rfl
theorem camPort (h : OnlyContexts s t) (p : Nat) : t.camPort p = s.camPort p := by obtain ⟨_, _, rfl⟩ := h; rfl
theorem get (h : OnlyContexts s t) (f : Fld) : t.get f = s.get f := by obtain ⟨_, _, rfl⟩ := h; rfl
theorem regs (h : OnlyContexts s t) : t.regs = s.regs := by obtain ⟨_, _, rfl⟩ := h; rfl

end OnlyContexts

/-- `t` differs from `s` in the image domain and the registers alone. -/
def PixAndRegs (s t : State) : Prop := ∃ px r, t = { s with pix := px, regs := r }
theorem PixAndRegs.trans {s t u : State} (h : PixAndRegs s t) (k : PixAndRegs t u) : PixAndRegs s u := by
  obtain ⟨_, _, rfl⟩ := h
  obtain ⟨_, _, rfl⟩ := k
  exact ⟨_, _, rfl⟩
theorem PixAndRegs.same {s t : State} (h : PixAndRegs s t) : t = { s with pix := t.pix, regs := t.regs } := by
  obtain ⟨_, _, rfl⟩ := h
  rfl
theorem OnlyContexts.pixAndRegs {s t : State} (h : OnlyContexts s t) : PixAndRegs s t := by
  obtain ⟨_, _, rfl⟩ := h
  exact ⟨_, _, rfl⟩

/-! ### The pipeline's steps -/

section
variable {s : State}

theorem sliceTouch_idle (h : s.bist.running = none) (m ofs len : Nat) : s.sliceTouch m ofs len = s := by
  unfold State.sliceTouch State.bistTouch; rw [h]
theorem closureTouch_idle (h : s.bist.running = none) : s.closureTouch = s := by
  unfold State.closureTouch; rw [h]; rfl
theorem curvesTouch_idle (h : s.bist.running = none) (c en : Nat) : s.curvesTouch c en = s := by
  unfold State.curvesTouch
  simp only [List.foldl, sliceTouch_idle h, ite_self]

/-- A processed line goes to the closure engine where its context feeds it, and otherwise to the snapshot alone. -/
theorem lineOut_idle (h : s.bist.running = none) (l : CamLine) (f : CamFrame) (px : List (Nat × Nat × Nat)) :
    ∃ sn, s.lineOut l f px =
      let t := if s.has (Ca.TO_CL l.ctx) then s.modCam l.ctx (fun x => { x with out := x.out ++ [(l.no, px)] }) else s
      { t with pix := { t.pix with snap := sn } } := by
  set t := if s.has (Ca.TO_CL l.ctx) then s.modCam l.ctx (fun x => { x with out := x.out ++ [(l.no, px)] }) else s with ht
  have hrun : t.bist.running = none := by rw [ht]; split <;> exact h
  have hfed : (if s.has (Ca.TO_CL l.ctx) then (s.modCam l.ctx (fun x => { x with out := x.out ++ [(l.no, px)] })).closureTouch else s) = t := by
    rw [ht]
    split
    · exact closureTouch_idle h
    · rfl
  unfold State.lineOut
  rw [hfed]
  dsimp only
  split
  · rw [sliceTouch_idle (by exact hrun)]
    split
    · exact ⟨_, rfl⟩
    · exact ⟨_, rfl⟩
  · exact ⟨t.pix.snap, rfl⟩
theorem lineOut_onlyContexts (h : s.bist.running = none) (l : CamLine) (f : CamFrame) (px : List (Nat × Nat × Nat)) :
    OnlyContexts s (s.lineOut l f px) := by
  obtain ⟨sn, he⟩ := lineOut_idle h l f px
  rw [he]
  dsimp only
  split
  · exact (OnlyContexts.modCam s _ _).trans ⟨_, sn, rfl⟩
  · exact ⟨_, sn, rfl⟩
/-- What a processed line leaves of its context but for the lines kept for the closure engine. -/
theorem lineOut_cam (h : s.bist.running = none) (l : CamLine) (f : CamFrame) (px : List (Nat × Nat × Nat)) (hlen : l.ctx < s.pix.ctxs.length) :
    ((s.lineOut l f px).cam l.ctx).frames = (s.cam l.ctx).frames ∧ ((s.lineOut l f px).cam l.ctx).bankBad = (s.cam l.ctx).bankBad ∧
      (s.has (Ca.TO_CL l.ctx) = true → ((s.lineOut l f px).cam l.ctx).out = (s.cam l.ctx).out ++ [(l.no, px)]) := by
  obtain ⟨sn, he⟩ := lineOut_idle h l f px
  rw [he]
  dsimp only
  rw [cam_snap]
  split
  · have hc := cam_modCam (fun x => { x with out := x.out ++ [(l.no, px)] }) hlen
    exact ⟨by rw [hc], by rw [hc], fun _ => by rw [hc]⟩
  next hno => exact ⟨rfl, rfl, fun hyes => absurd hyes hno⟩

/-- The line in front taken out of a port's FIFO. -/
def State.lineTaken (s : State) (p : Nat) (rest : List CamLine) : State :=
  let t := s.modPort p (fun q => { q with fifo := rest })
  { t with pix := { t.pix with last := p } }
/-- A parity error of a FIFO's word reported. -/
def State.fifoNoted (s : State) (p : Nat) (par : Option Nat) : State :=
  match par with | some o => (if o < 0x40000 then s.parityNote (11 + p) o else s) | none => s

theorem parityNote_rest (s : State) (m o : Nat) : SameRest s (s.parityNote m o) := by
  have hput : ∀ (t : State) (f : Fld) (v : Nat), f ∈ [Me.PAR, Me.PAR_CNT, Me.PAR_MEM, Me.PAR_OFS] → SameRest t (t.put f v) := fun t f v hf =>
    SameRest.put v (by unfold restFree; revert f; decide) (.inr (by unfold epochFree; revert f; decide))
  exact (((hput s Me.PAR _ (by decide)).trans (hput _ Me.PAR_CNT _ (by decide))).trans (hput _ Me.PAR_MEM _ (by decide))).trans
    (hput _ Me.PAR_OFS _ (by decide))
theorem parityNote_marks (s : State) {m : Nat} (o : Nat) (hm : m < 16) :
    (s.parityNote m o).has Me.PAR = true ∧ (s.parityNote m o).get Me.PAR_MEM = m := by
  have hpar : (s.parityNote m o).get Me.PAR = 1 :=
    (get_put_other _ _ (by decide)).trans ((get_put_other _ _ (by decide)).trans ((get_put_other _ _ (by decide)).trans (get_put_same _ _ _)))
  refine ⟨decide_eq_true hpar, (get_put_other _ _ (by decide)).trans ?_⟩
  rw [get_put_same]
  exact Nat.mod_eq_of_lt hm
theorem parityNote_camPort (s : State) (m o p : Nat) : (s.parityNote m o).camPort p = s.camPort p := rfl
theorem parityNote_pixAndRegs (s : State) (m o : Nat) : PixAndRegs s (s.parityNote m o) := ⟨_, _, rfl⟩
theorem lineTaken_pixAndRegs (s : State) (p : Nat) (rest : List CamLine) : PixAndRegs s (s.lineTaken p rest) := ⟨_, _, rfl⟩
theorem lineTaken_rest (s : State) (p : Nat) (rest : List CamLine) : SameRest s (s.lineTaken p rest) := { SameRest.refl s with }
theorem lineTaken_camPort {p : Nat} (rest : List CamLine) (h : p < s.pix.ports.length) : ((s.lineTaken p rest).camPort p).fifo = rest :=
  congrArg CamPort.fifo (camPort_modPort (s := s) (p := p) (fun q => { q with fifo := rest }) h)
theorem fifoNoted_rest (s : State) (p : Nat) (par : Option Nat) : SameRest s (s.fifoNoted p par) := by
  unfold State.fifoNoted
  split
  · split
    · exact parityNote_rest _ _ _
    · exact SameRest.refl s
  · exact SameRest.refl s

/-- What the pipeline does with the line in front of the port served next. -/
theorem pipelineLine_taken {par : Option Nat} {p : Nat} {l : CamLine} {rest : List CamLine} (hb : s.bist.running = none)
    (hl : s.pixLive = true) (hp : s.pipePort = some p) (hf : (s.camPort p).fifo = l :: rest) :
    s.pipelineLine par = match (s.cam l.ctx).frames.find? (fun f => f.id = l.frame) with
      | none => (s.fifoNoted p par).lineTaken p rest
      | some f =>
        let t := ((s.fifoNoted p par).lineTaken p rest).modFrame l.ctx f.id (fun y => { y with inPipe := y.inPipe - 1 })
        if f.void then t
        else (t.bankParity l.ctx (curvePar par)).lineOut l f
          ((unpack l.dt (s.get (Ca.WIDTH l.ctx)) l.bytes).map (pixel f.bank (s.cam l.ctx).curves)) := by
  have hrun : (s.fifoNoted p par).bist.running = none := by
    unfold State.fifoNoted
    split
    · split
      · exact hb
      · exact hb
    · exact hb
  unfold State.pipelineLine
  rw [hl, hp]
  simp only [Bool.not_true, Bool.false_eq_true, if_false, hf]
  cases (s.cam l.ctx).frames.find? (fun f => f.id = l.frame) with
  | none => rfl
  | some f =>
    dsimp only
    rw [curvesTouch_idle (by exact hrun)]
    rfl

theorem fifoNoted_run (hb : s.bist.running = none) (p : Nat) (par : Option Nat) : (s.fifoNoted p par).bist.running = none := by
  unfold State.fifoNoted
  split
  · split <;> exact hb
  · exact hb

variable {par : Option Nat} {p : Nat} {l : CamLine} {rest : List CamLine} (hb : s.bist.running = none)
  (hl : s.pixLive = true) (hp : s.pipePort = some p) (hf : (s.camPort p).fifo = l :: rest)
include hb hl hp hf

/-- Without an error of the bank the line taken changes contexts and snapshot alone. -/
theorem pipelineLine_onlyContexts (hbank : curvePar par = none) : OnlyContexts ((s.fifoNoted p par).lineTaken p rest) (s.pipelineLine par) := by
  rw [pipelineLine_taken hb hl hp hf]
  split
  · exact OnlyContexts.refl _
  · rw [hbank]
    dsimp only
    split
    · exact OnlyContexts.modCam _ _ _
    · exact (OnlyContexts.modCam _ _ _).trans (lineOut_onlyContexts (by exact fifoNoted_run hb p par) _ _ _)
/-- The line of a context's only frame. -/
theorem pipelineLine_frame {f : CamFrame} (hfr : (s.cam l.ctx).frames = [f]) (hid : f.id = l.frame) :
    s.pipelineLine par =
      let t := ((s.fifoNoted p par).lineTaken p rest).modCam l.ctx (fun x =>
        { x with frames := x.frames.map (fun y => if y.id = f.id then { y with inPipe := y.inPipe - 1 } else y) })
      if f.void then t
      else (t.bankParity l.ctx (curvePar par)).lineOut l f
        ((unpack l.dt (s.get (Ca.WIDTH l.ctx)) l.bytes).map (pixel f.bank (s.cam l.ctx).curves)) := by
  rw [pipelineLine_taken hb hl hp hf, hfr, List.find?_cons_of_pos (by simpa using hid)]
  rfl

/-- The clause of a line without errors. -/
theorem pipelineLine_clean (hr : s.rests = true) :
    ∃ t, exec (.pipelineLine none) s = .next t ∧ t.pix.last = p ∧ (t.camPort p).fifo = rest ∧ t.regs = s.regs ∧
      (∀ f ∈ (s.cam l.ctx).frames, f.id = l.frame → (s.cam l.ctx).frames = [f] →
        (t.cam l.ctx).frames = [{ f with inPipe := f.inPipe - 1 }] ∧
        (f.void = true → (t.cam l.ctx).out = (s.cam l.ctx).out ∧ t.pix.snap = s.pix.snap) ∧
        (f.void = false → s.has (Ca.TO_CL l.ctx) = true →
          (t.cam l.ctx).out = (s.cam l.ctx).out ++
            [(l.no, (unpack l.dt (s.get (Ca.WIDTH l.ctx)) l.bytes).map (pixel f.bank (s.cam l.ctx).curves))])) ∧
      t = { s with pix := t.pix } := by
  have hport : p < s.pix.ports.length := length_of_fifo (by rw [hf]; exact List.cons_ne_nil _ _)
  have honly := pipelineLine_onlyContexts (par := none) hb hl hp hf rfl
  refine ⟨s.pipelineLine none, ?_, honly.last, ?_, honly.regs, fun f _ hid hfr => ?_, ?_⟩
  · exact congrArg Host.Outcome.next (((lineTaken_rest s p rest).trans honly.rest).settle hr)
  · exact (congrArg CamPort.fifo (honly.camPort p)).trans (lineTaken_camPort rest hport)
  · have hlen : l.ctx < s.pix.ctxs.length := length_of_frames (by rw [hfr]; exact List.cons_ne_nil _ _)
    have ht := pipelineLine_frame (par := none) hb hl hp hf hfr hid
    set u := ((s.fifoNoted p none).lineTaken p rest).modCam l.ctx (fun x =>
        { x with frames := x.frames.map (fun y => if y.id = f.id then { y with inPipe := y.inPipe - 1 } else y) }) with hu
    have hframes : (u.cam l.ctx).frames = [{ f with inPipe := f.inPipe - 1 }] := by
      rw [hu, cam_modCam _ (by exact hlen)]
      change List.map _ (s.cam l.ctx).frames = _
      rw [hfr, List.map_singleton, if_pos rfl]
    have hkept : (u.cam l.ctx).out = (s.cam l.ctx).out := by
      rw [hu, cam_modCam _ (by exact hlen)]
      rfl
    have hulen : l.ctx < u.pix.ctxs.length := by
      rw [hu]
      exact Nat.lt_of_lt_of_eq hlen List.length_mapIdx.symm
    by_cases hv : f.void = true
    · rw [if_pos hv] at ht
      rw [ht]
      exact ⟨hframes, fun _ => ⟨hkept, rfl⟩, fun h => absurd (h.symm.trans hv) (by decide)⟩
    · rw [if_neg hv] at ht
      obtain ⟨hsame, -, hout⟩ := lineOut_cam (s := u) (by exact hb) l f
        ((unpack l.dt (s.get (Ca.WIDTH l.ctx)) l.bytes).map (pixel f.bank (s.cam l.ctx).curves)) hulen
      refine ⟨?_, fun h => absurd h hv, fun _ hto => ?_⟩
      · rw [ht]; exact hsame.trans hframes
      · rw [ht]; exact (hout hto).trans (congrArg (· ++ _) hkept)
  · obtain ⟨_, _, he⟩ := honly
    rw [he]
    rfl
/-- The clause of a word of the FIFO with wrong parity. -/
theorem pipelineLine_fifoError (hr : s.rests = true) (hp2 : p < 2) {ofs : Nat} (ho : ofs < 0x40000) :
    ∃ t, exec (.pipelineLine (some ofs)) s = .next t ∧ t.has Me.PAR = true ∧ t.get Me.PAR_MEM = 11 + p ∧ (t.camPort p).fifo = rest ∧
      t = { s with pix := t.pix, regs := t.regs } := by
  have hport : p < s.pix.ports.length := length_of_fifo (by rw [hf]; exact List.cons_ne_nil _ _)
  have hbank : curvePar (some ofs) = none := by simp [curvePar, ho]
  have hnoted : s.fifoNoted p (some ofs) = s.parityNote (11 + p) ofs := if_pos ho
  have honly := pipelineLine_onlyContexts (par := some ofs) hb hl hp hf hbank
  rw [hnoted] at honly
  obtain ⟨hpar, hmem⟩ := parityNote_marks s ofs (m := 11 + p) (by omega)
  refine ⟨s.pipelineLine (some ofs), ?_, ?_, (honly.get _).trans hmem, ?_, ?_⟩
  · exact congrArg Host.Outcome.next ((((parityNote_rest s _ _).trans (lineTaken_rest _ p rest)).trans honly.rest).settle hr)
  · exact (congrArg (fun v => decide (v = 1)) (honly.get Me.PAR)).trans hpar
  · exact (congrArg CamPort.fifo (honly.camPort p)).trans (lineTaken_camPort (s := s.parityNote (11 + p) ofs) rest hport)
  · exact (((parityNote_pixAndRegs s _ _).trans (lineTaken_pixAndRegs _ p rest)).trans honly.pixAndRegs).same
/-- The clause of a word of the bank with wrong parity. -/
theorem pipelineLine_bankError (hr : s.rests = true) {f : CamFrame} {ofs : Nat} (hfr : (s.cam l.ctx).frames = [f]) (hid : f.id = l.frame)
    (hv : f.void = false) (ho : 0x40000 ≤ ofs) :
    ∃ t, exec (.pipelineLine (some ofs)) s = .next t ∧ t.has Me.PAR = true ∧ t.get Me.PAR_MEM = 1 ∧ (t.cam l.ctx).bankBad = true ∧
      (t.camPort p).fifo = rest ∧ t = { s with pix := t.pix, regs := t.regs } := by
  have hport : p < s.pix.ports.length := length_of_fifo (by rw [hf]; exact List.cons_ne_nil _ _)
  have hlen : l.ctx < s.pix.ctxs.length := length_of_frames (by rw [hfr]; exact List.cons_ne_nil _ _)
  obtain ⟨o, hbank⟩ : ∃ o, curvePar (some ofs) = some o := ⟨_, if_neg (Nat.not_lt.mpr ho)⟩
  have hnoted : s.fifoNoted p (some ofs) = s := if_neg (Nat.not_lt.mpr ho)
  have ht := pipelineLine_frame (par := some ofs) hb hl hp hf hfr hid
  rw [hv, if_neg Bool.false_ne_true, hbank, hnoted] at ht
  have htv0 : ∀ t : State, t.bankParity l.ctx (some o) = (t.parityNote 1 (bankBase + 0x2000 * l.ctx + o % 0x2000)).modCam l.ctx
    (fun x => { x with bankBad := true }) := fun _ => rfl
  rw [htv0] at ht
  set u := (s.lineTaken p rest).modCam l.ctx (fun x =>
    { x with frames := x.frames.map (fun y => if y.id = f.id then { y with inPipe := y.inPipe - 1 } else y) }) with hu
  generalize bankBase + 0x2000 * l.ctx + o % 0x2000 = word at ht
  set w := u.parityNote 1 word with hw
  set v := w.modCam l.ctx (fun x => { x with bankBad := true }) with hvdef
  have htv : s.pipelineLine (some ofs) = v.lineOut l f
    ((unpack l.dt (s.get (Ca.WIDTH l.ctx)) l.bytes).map (pixel f.bank (s.cam l.ctx).curves)) := ht
  have honly := lineOut_onlyContexts (s := v) (by exact hb) l f
    ((unpack l.dt (s.get (Ca.WIDTH l.ctx)) l.bytes).map (pixel f.bank (s.cam l.ctx).curves))
  rw [← htv] at honly
  have hwlen : l.ctx < w.pix.ctxs.length := Nat.lt_of_lt_of_eq hlen List.length_mapIdx.symm
  have hvlen : l.ctx < v.pix.ctxs.length := Nat.lt_of_lt_of_eq hwlen List.length_mapIdx.symm
  obtain ⟨-, hbad, -⟩ := lineOut_cam (s := v) (by exact hb) l f
    ((unpack l.dt (s.get (Ca.WIDTH l.ctx)) l.bytes).map (pixel f.bank (s.cam l.ctx).curves)) hvlen
  obtain ⟨hpar, hmem⟩ := parityNote_marks u word (m := 1) (by decide)
  have hrest : SameRest s v := (((lineTaken_rest s p rest).trans (OnlyContexts.modCam _ _ _).rest).trans (parityNote_rest u _ _)).trans
    (OnlyContexts.modCam w _ _).rest
  refine ⟨s.pipelineLine (some ofs), ?_, ?_, (honly.get _).trans hmem, ?_, ?_, ?_⟩
  · exact congrArg Host.Outcome.next ((hrest.trans honly.rest).settle hr)
  · exact (congrArg (fun v => decide (v = 1)) (honly.get Me.PAR)).trans hpar
  · rw [htv, hbad, hvdef, cam_modCam _ hwlen]
  · have hports : (s.pipelineLine (some ofs)).camPort p = (s.lineTaken p rest).camPort p :=
      (honly.camPort p).trans (((OnlyContexts.modCam w _ _).camPort p).trans ((parityNote_camPort u _ _ p).trans
        ((OnlyContexts.modCam _ _ _).camPort p)))
    rw [hports]
    exact lineTaken_camPort rest hport
  · exact (((((lineTaken_pixAndRegs s p rest).trans (OnlyContexts.modCam _ _ _).pixAndRegs).trans (parityNote_pixAndRegs u _ _)).trans
      (OnlyContexts.modCam w _ _).pixAndRegs).trans honly.pixAndRegs).same

end

/-! ### Frames that complete -/

/-- The objects that a complete frame sets are read by no rest. -/
theorem lastFld_rest (s : State) (c : Ctx) {f : Fld} (v : Nat) (hf : f ∈ [Ca.LAST c, Ca.FRAMES c, Ca.LAST_LINES c, Ca.LAST_TIME c, Ca.FLAGGED c]) :
    SameRest s (s.put f v) := by
  refine SameRest.put v ?_ (.inr ?_)
  · unfold restFree; revert c f; decide
  · unfold epochFree; revert c f; decide
/-- What a complete frame leaves in its context's objects. -/
def State.frameNoted (s : State) (c : Nat) (f : CamFrame) : State :=
  let t := ((((s.put (Ca.LAST c) (f.flags * 2 ^ 48 + f.pos.toNat)).incr (Ca.FRAMES c)).put (Ca.LAST_LINES c)
    (min f.recv 0xFFFF * 65536 + (f.id + 1) % 65536)).put (Ca.LAST_TIME c) f.tb)
  if f.flags = 0 then t else t.incr (Ca.FLAGGED c)
/-- The oldest frame leaves its context, and its lines with it. -/
def State.frameLeft (s : State) (c : Nat) (rest : List CamFrame) : State := s.modCam c (fun x => { x with frames := rest, out := [] })

theorem frameNoted_rest (s : State) (c : Ctx) (f : CamFrame) : SameRest s (s.frameNoted c f) := by
  have h1 := lastFld_rest s c (f := Ca.LAST c) (f.flags * 2 ^ 48 + f.pos.toNat) (by simp)
  have h2 := h1.trans (lastFld_rest _ c (f := Ca.FRAMES c) ((s.put (Ca.LAST c) (f.flags * 2 ^ 48 + f.pos.toNat)).get (Ca.FRAMES c) + 1) (by simp))
  have h3 := h2.trans (lastFld_rest _ c (f := Ca.LAST_LINES c) (min f.recv 0xFFFF * 65536 + (f.id + 1) % 65536) (by simp))
  have h := h3.trans (lastFld_rest _ c (f := Ca.LAST_TIME c) f.tb (by simp))
  unfold State.frameNoted
  dsimp only
  split
  · exact h
  · exact h.trans (lastFld_rest _ c _ (by simp))
theorem frameNoted_get (s : State) (c : Ctx) (f : CamFrame) :
    (s.frameNoted c f).get (Ca.FRAMES c) = (s.get (Ca.FRAMES c) + 1) % 2 ^ 32 ∧
    (f.flags < 2 ^ 16 → (s.frameNoted c f).get (Ca.LAST c) = f.flags * 2 ^ 48 + f.pos.toNat) ∧
    (s.frameNoted c f).get (Ca.FLAGGED c) = (if f.flags = 0 then s.get (Ca.FLAGGED c) else (s.get (Ca.FLAGGED c) + 1) % 2 ^ 32) := by
  obtain ⟨hLF, hLG, hLL, hLT, hFL, hFT, hFG, hGL, hGT⟩ : (Ca.LAST c).key ≠ (Ca.FRAMES c).key ∧ (Ca.LAST c).key ≠ (Ca.FLAGGED c).key ∧
      (Ca.LAST_LINES c).key ≠ (Ca.LAST c).key ∧ (Ca.LAST_TIME c).key ≠ (Ca.LAST c).key ∧ (Ca.LAST_LINES c).key ≠ (Ca.FRAMES c).key ∧
      (Ca.LAST_TIME c).key ≠ (Ca.FRAMES c).key ∧ (Ca.FRAMES c).key ≠ (Ca.FLAGGED c).key ∧ (Ca.LAST_LINES c).key ≠ (Ca.FLAGGED c).key ∧
      (Ca.LAST_TIME c).key ≠ (Ca.FLAGGED c).key := by revert c; decide
  set t := ((((s.put (Ca.LAST c) (f.flags * 2 ^ 48 + f.pos.toNat)).incr (Ca.FRAMES c)).put (Ca.LAST_LINES c)
    (min f.recv 0xFFFF * 65536 + (f.id + 1) % 65536)).put (Ca.LAST_TIME c) f.tb) with ht
  have hframes : t.get (Ca.FRAMES c) = (s.get (Ca.FRAMES c) + 1) % 2 ^ 32 := by
    rw [ht, get_put_other _ _ hFT, get_put_other _ _ hFL, incr_eq, incrBy_eq, get_put_same, get_put_other _ _ hLF]
    rfl
  have hlast : f.flags < 2 ^ 16 → t.get (Ca.LAST c) = f.flags * 2 ^ 48 + f.pos.toNat := fun hlt => by
    rw [ht, get_put_other _ _ hLT, get_put_other _ _ hLL, incr_eq, incrBy_eq, get_put_other _ _ hLF.symm, get_put_same]
    have hp := f.pos.isLt
    refine Nat.mod_eq_of_lt ?_
    simp only [Fld.card, Ca.LAST, objFld]
    omega
  have hflagged : t.get (Ca.FLAGGED c) = s.get (Ca.FLAGGED c) := by
    rw [ht, get_put_other _ _ hGT, get_put_other _ _ hGL, incr_eq, incrBy_eq, get_put_other _ _ hFG, get_put_other _ _ hLG]
  unfold State.frameNoted
  rw [← ht]
  by_cases hz : f.flags = 0
  · rw [if_pos hz, if_pos hz]
    exact ⟨hframes, hlast, hflagged⟩
  · rw [if_neg hz, if_neg hz, incr_eq, incrBy_eq]
    refine ⟨(get_put_other _ _ hFG.symm).trans hframes, fun hlt => (get_put_other _ _ hLG.symm).trans (hlast hlt), ?_⟩
    rw [get_put_same, hflagged]
    rfl
theorem put_onlyRegs {s t : State} (f : Fld) (v : Nat) (h : ∃ r, t = { s with regs := r }) : ∃ r, t.put f v = { s with regs := r } := by
  obtain ⟨_, rfl⟩ := h
  exact ⟨_, rfl⟩
theorem frameNoted_onlyRegs (s : State) (c : Nat) (f : CamFrame) : ∃ r, s.frameNoted c f = { s with regs := r } := by
  have h0 : ∃ r, s = { s with regs := r } := ⟨s.regs, rfl⟩
  have h := put_onlyRegs (Ca.LAST_TIME c) f.tb (put_onlyRegs (Ca.LAST_LINES c) (min f.recv 0xFFFF * 65536 + (f.id + 1) % 65536)
    (put_onlyRegs (Ca.FRAMES c) ((s.put (Ca.LAST c) (f.flags * 2 ^ 48 + f.pos.toNat)).get (Ca.FRAMES c) + 1)
      (put_onlyRegs (Ca.LAST c) (f.flags * 2 ^ 48 + f.pos.toNat) h0)))
  unfold State.frameNoted
  dsimp only
  split
  · exact h
  · exact put_onlyRegs _ _ h
theorem frameComplete_left {s : State} {c : Ctx} {f : CamFrame} {rest : List CamFrame} (hfr : (s.cam c).frames = f :: rest)
    (ho : f.isOpen = false) (hi : f.inPipe = 0) (hl : s.pixLive = true) (hcl : s.has (Ca.TO_CL c) = false) :
    s.frameComplete c =
      { (s.frameLeft c rest).frameNoted c f with inFlight := s.inFlight ++ [(0x39 + (c : Nat), s.tb + 32)] } := by
  have hpulse : ((s.frameLeft c rest).frameNoted c f).pulse (0x39 + c) =
      { (s.frameLeft c rest).frameNoted c f with inFlight := s.inFlight ++ [(0x39 + (c : Nat), s.tb + 32)] } := by
    unfold State.pulse
    obtain ⟨_, he⟩ := frameNoted_onlyRegs (s.frameLeft c rest) c f
    rw [if_pos (by omega), he]
    rfl
  unfold State.frameComplete
  rw [hfr]
  dsimp only
  rw [hcl, if_neg (by simp [ho, hi, hl]), if_neg Bool.false_ne_true, ← hpulse]
  rfl
theorem frameComplete_waits {s : State} {c : Nat} (h : (s.cam c).frames = [] ∨ s.pixLive = false ∨
      ∃ f rest, (s.cam c).frames = f :: rest ∧ (f.isOpen = true ∨ f.inPipe ≠ 0)) : s.frameComplete c = s := by
  unfold State.frameComplete
  obtain h | h | ⟨f, rest, h, hw⟩ := h
  · rw [h]
  · split
    · rfl
    · rw [h, if_pos (by simp)]
  · rw [h]
    dsimp only
    rw [if_pos (hw.imp_right .inl)]

/-- Settles O39: a line taken and a frame completed change what no rest reads. -/
theorem linesLeaveThePipeline : Obligations.LinesLeaveThePipeline := by
  unfold Obligations.LinesLeaveThePipeline
  have hexec : ∀ (s : State) (par : Option Nat), exec (.pipelineLine par) s = .next (s.pipelineLine par).settle := fun _ _ => rfl
  have hdone : ∀ (s : State) (c : Ctx), exec (.frameComplete c) s = .next (s.frameComplete c).settle := fun _ _ => rfl
  refine ⟨fun s hr hb => ?_, fun bk cv a b c hbl hg hm hen ha hb hc => pixel_unit cv hbl hg hm hen ha hb hc, fun bk cv px hen => ?_,
    fun t v h => toneCurve_le h v, fun t v h _ => toneCurve_entry t h⟩
  · have hstay : s.settle = s := settle_of_rests hr
    refine ⟨fun hp => ?_, fun hl => ⟨fun par => ?_, fun c => ?_⟩, fun p l rest hl hp hf _ => ⟨?_, fun ofs ho => ?_, fun f ofs hfr hid hv ho => ?_⟩,
      fun c => ⟨fun hfr => ?_, fun f rest hfr => ⟨fun hw => ?_, fun ho hi hl hcl => ?_⟩⟩⟩
    · have : s.pipelineLine none = s := by unfold State.pipelineLine; rw [hp]; exact ite_self _
      rw [hexec, this, hstay]
    · have : s.pipelineLine par = s := by unfold State.pipelineLine; rw [hl]; rfl
      rw [hexec, this, hstay]
    · rw [hdone, frameComplete_waits (.inr (.inl hl)), hstay]
    · exact pipelineLine_clean hb hl hp hf hr
    · exact pipelineLine_fifoError hb hl hp hf hr p.isLt ho
    · exact pipelineLine_bankError hb hl hp hf hr hfr hid hv ho
    · rw [hdone, frameComplete_waits (.inl hfr), hstay]
    · rw [hdone, frameComplete_waits (.inr (.inr ⟨f, rest, hfr, hw⟩)), hstay]
    · have hlen : c.val < s.pix.ctxs.length := length_of_frames (by rw [hfr]; exact List.cons_ne_nil _ _)
      have hleft : SameRest s (s.frameLeft c rest) := (OnlyContexts.modCam s c _).rest
      have hrest : SameRest s (s.frameComplete c) := by
        rw [frameComplete_left hfr ho hi hl hcl]
        exact (hleft.trans (frameNoted_rest _ c f)).trans { SameRest.refl _ with }
      have hcomplete := frameComplete_left hfr ho hi hl hcl
      obtain ⟨hframes, hlast, hflagged⟩ := frameNoted_get (s.frameLeft c rest) c f
      refine ⟨s.frameComplete c, congrArg Host.Outcome.next (hrest.settle hr), ?_, ?_, ?_, ?_, ?_, ?_⟩
      · obtain ⟨_, he⟩ := frameNoted_onlyRegs (s.frameLeft c rest) c f
        rw [hcomplete, he]
        exact congrArg Context.frames (cam_modCam _ hlen)
      · rw [hcomplete]; exact hframes
      · rw [hcomplete]; exact hlast
      · rw [hcomplete]; exact hflagged
      · rw [hcomplete]
      · obtain ⟨_, he⟩ := frameNoted_onlyRegs (s.frameLeft c rest) c f
        rw [hcomplete, he]
        rfl
  · obtain ⟨x, y, z, he⟩ := pixel_no_curves bk cv px hen
    rw [he]
    exact ⟨clamp_le x, clamp_le y, clamp_le z⟩

end Sys2Proof.Machine
end

section
/-! SUPPORT. DMA channels while the engine is free: completions, failing reads, the end of a transfer and list entries (R374 to R392). -/
namespace Sys2Proof.Machine

/-! ### Registers of a DMA channel -/

/-- The registers that completions, errors and ends of a DMA channel set. -/
def dmaMarks (d : Dch) : List Fld :=
  [Dm.ERR d, Dm.EN d, Dm.ERRF d, Dm.ERR_CNT d, Dm.RD_CNT d, Dm.OPEN d, Dm.ACT_CFG d, Dm.ACT_ADDR_LO d, Dm.ACT_ADDR_HI d, Dm.ACT_END d, Dm.ACT_DOFS d]

theorem dmaMarks_restFree (d : Dch) : ∀ f ∈ dmaMarks d, restFree f := by unfold restFree; revert d; decide
theorem dmaMarks_epochFree (d : Dch) : ∀ f ∈ dmaMarks d, epochFree f := by unfold epochFree; revert d; decide
theorem dmaMarks_kept (d : Dch) : ∀ f ∈ dmaMarks d, f.key < 2 ^ 60 ∧ f.key ≠ Ep.FAIL_CH.key ∧ f.key ≠ Ep.FAIL_REASON.key := by revert d; decide

section
variable {z s : State}

theorem SameRest.dmaMark (h : SameRest z s) (d : Dch) {f : Fld} (v : Nat) (hf : f ∈ dmaMarks d) : SameRest z (s.put f v) :=
  h.trans (SameRest.put v (dmaMarks_restFree d f hf) (.inr (dmaMarks_epochFree d f hf)))
theorem SameRest.modDma (h : SameRest z s) (d : Dch) (f : Dma → Dma) : SameRest z (s.modDma d f) := h.trans { SameRest.refl s with }
theorem SameRest.dmaError (h : SameRest z s) (d : Dch) (err : Nat) : SameRest z (s.dmaError d err) :=
  ((((h.dmaMark d err (by simp [dmaMarks])).dmaMark d 0 (by simp [dmaMarks])).dmaMark d 1 (by simp [dmaMarks])).dmaMark d _
    (by simp [dmaMarks])).modDma d _
end

/-! ### The engine is free -/

section
variable {s : State}

theorem dmaTick_free (h : s.granting = none) : s.dmaTick = s := by
  unfold State.dmaTick State.issueDue; rw [h]
theorem dmaNow_free (h : s.granting = none) (d : Dch) : s.dmaNow d = s := by
  unfold State.dmaNow
  rw [dmaTick_free h]
  exact if_neg (by simp [h])
theorem dmaPlace_free (h : s.granting = none) (b : Bool) : s.dmaPlace b = s := by
  unfold State.dmaPlace
  rw [h]
  exact congrArg (fun g => { s with granting := g }) h.symm
theorem dmaStopIssue_free (h : s.granting = none) (d : Dch) : s.dmaStopIssue d = s := by
  unfold State.dmaStopIssue; rw [h]; rfl
theorem modDma_self {d : Dch} {f : Dma → Dma} (h : f (s.dma[d]) = s.dma[d]) : s.modDma d f = s := by
  unfold State.modDma
  rw [h]
  exact congrArg (fun v => { s with dma := v }) (Vector.set_getElem_self _)
theorem modDma_congr {d : Dch} {f g : Dma → Dma} (h : f (s.dma[d]) = g (s.dma[d])) : s.modDma d f = s.modDma d g := by
  unfold State.modDma
  rw [h]
/-- No answer is owed: the channel's settling answers nobody. -/
theorem dmaSettle_none {d : Dch} (h : (s.dma[d]).owed = []) : s.dmaSettle d = s := by
  have hself : s.modDma d (fun x => { x with owed := [] }) = s := modDma_self (by rw [← h])
  unfold State.dmaSettle
  rw [h, hself]
  exact ite_self _
theorem bistTouch_nothing (s : State) (m : Nat) : s.bistTouch m (fun _ => false) = s := by
  unfold State.bistTouch
  cases s.bist.running with
  | none => rfl
  | some r => exact if_neg (by simp)
theorem spBoth_nothing (s : State) (o : SpOp) : s.spBoth o [] none = s := bistTouch_nothing s 0
/-- A burst without a swap reaches its destination as it came. -/
theorem swapBytes_none (src ix : Nat) (bs : List Byte) : swapBytes 0 src ix bs = bs := by
  unfold swapBytes
  refine List.ext_getElem (by simp) fun i hi hb => ?_
  simp [hb]

end

/-- An error changes the registers and its channel. -/
theorem dmaError_eq (s : State) (d : Dch) (err : Nat) :
    ∃ r, s.dmaError d err = { s.modDma d (fun x => { x with failing := 0 }) with regs := r } := ⟨_, rfl⟩
theorem dmaError_dma (s : State) (d : Dch) (err : Nat) : ((s.dmaError d err).dma[d]) = { s.dma[d] with failing := 0 } := by
  obtain ⟨_, he⟩ := dmaError_eq s d err
  rw [he]
  exact modDma_same s d (fun x => { x with failing := 0 })

/-! ### Completions -/

section
variable {s : State} {d : Dch} (hg : s.granting = none) (ho : (s.dma[d]).owed = [])
include hg ho

/-- The last burst of the one transfer in progress, into a queue. -/
theorem dmaCompletion_last {x : Xfer} {a n t0 : Nat} {data : List Byte} (hl : s.dmaLink = true) (hj : (s.dma[d]).junk = [])
    (hx : (s.dma[d]).xf = [x]) (hout : x.out = [(a, n, t0)]) (hrem : x.rem = 0) (hlen : data.length = n) (hdst : x.dst < 8) (hswap : x.swap = 0) :
    s.dmaCompletion d data none =
      (State.queuePush { s with ctr := s.ctr + n } (Fin.ofNat 8 x.dst) data).modDma d (fun c => { c with
        xf := modFirst (fun y => !y.out.isEmpty) (fun y => { y with out := [], got := y.got + n, cred := y.cred, fin := true }) c.xf }) := by
  have hwrite : State.dmaWriteOut { s with ctr := s.ctr + n } d x none data =
      State.queuePush { s with ctr := s.ctr + n } (Fin.ofNat 8 x.dst) data := by
    unfold State.dmaWriteOut
    rw [if_neg (by omega)]
    exact spBoth_nothing _ _
  have hgran : (State.queuePush { s with ctr := s.ctr + n } (Fin.ofNat 8 x.dst) data).granting = none := by
    unfold State.queuePush
    split <;> exact hg
  have hdma : (State.queuePush { s with ctr := s.ctr + n } (Fin.ofNat 8 x.dst) data).dma = s.dma := by
    unfold State.queuePush
    split <;> rfl
  unfold State.dmaCompletion
  rw [dmaNow_free hg]
  dsimp only
  rw [hl, hj, hx]
  simp only [Bool.not_true, Bool.false_eq_true, if_false, List.find?, hout, List.isEmpty_cons, Bool.not_false, hlen, ne_eq, not_true, hrem,
    decide_true, List.isEmpty_nil, Bool.and_self, if_true, hswap, swapBytes_none, hwrite]
  rw [dmaPlace_free (by exact hgran), dmaSettle_none]
  rw [modDma_same, hdma]
  exact ho
omit ho in
theorem dmaCompletion_junk {r : Nat × Nat × Nat} {rest : List (Nat × Nat × Nat)} {data : List Byte} (hl : s.dmaLink = true)
    (hj : (s.dma[d]).junk = r :: rest) (hlen : data.length = r.2.1) :
    s.dmaCompletion d data none = s.modDma d (fun x => { x with junk := rest }) := by
  have hdrop : s.modDma d (fun c => { c with junk := c.junk.drop 1 }) = s.modDma d (fun x => { x with junk := rest }) :=
    modDma_congr (by rw [hj]; rfl)
  unfold State.dmaCompletion
  rw [dmaNow_free hg]
  dsimp only
  rw [hl, hj]
  simp only [Bool.not_true, Bool.false_eq_true, if_false, hlen, ne_eq, not_true]
  unfold State.dmaJunk
  rw [dmaPlace_free (by exact hg), hdrop]

/-! ### Failing reads -/

omit hg ho in
theorem failed_owed (c : Dma) (b : Bool) (x : Xfer) : (c.failed b x).owed = c.owed := by
  unfold Dma.failed
  dsimp only
  split
  · split <;> rfl
  · rfl
theorem dmaReadFail_first {x : Xfer} {rest : List Xfer} (hl : s.dmaLink = true) (hj : (s.dma[d]).junk = [])
    (hx : (s.dma[d]).xf = x :: rest) (hout : x.out ≠ []) :
    ∃ b, s.dmaReadFail d = (s.modDma d (fun c => c.failed b x)).dmaError d 1 := by
  refine ⟨decide (s.dmaMode d = 1), ?_⟩
  have hfind : (x :: rest).find? (fun x => !x.out.isEmpty) = some x := List.find?_cons_of_pos (by simpa using hout)
  unfold State.dmaReadFail
  rw [dmaNow_free hg]
  dsimp only
  rw [hl, hj, hx, hfind]
  simp only [Bool.not_true, Bool.false_eq_true, if_false, ne_eq, not_true]
  rw [dmaStopIssue_free (by exact hg), dmaSettle_none]
  rw [dmaError_dma, modDma_same]
  exact (failed_owed _ _ x).trans ho

end

theorem failed_junk (c : Dma) (b : Bool) (x : Xfer) : (c.failed b x).junk = (xfReads c.xf).drop 1 := by
  unfold Dma.failed
  dsimp only
  split
  · split <;> rfl
  · rfl
theorem failed_xf {c : Dma} {x : Xfer} {rest : List Xfer} (b : Bool) (hx : c.xf = x :: rest) (hout : x.out ≠ []) :
    (x.old = false → (c.failed b x).xf = [{ x with src := (x.out.headD (x.src, 0, 0)).1, rem := x.len - x.got, out := [] }]) ∧
    (x.old = true → (c.failed b x).xf = []) := by
  have hbefore : (x :: rest).takeWhile (fun z => z.out.isEmpty) = [] := by
    rw [List.takeWhile_cons_of_neg (by simpa using hout)]
  unfold Dma.failed
  dsimp only
  rw [hx, hbefore]
  refine ⟨fun h => ?_, fun h => ?_⟩
  · rw [h, if_neg Bool.false_ne_true]; rfl
  · rw [h, if_pos rfl]
    split <;> rfl
/-- What an error of a channel leaves in its marks. -/
theorem dmaError_marks (s : State) (d : Dch) {err : Nat} (he : err < 8) :
    (s.dmaError d err).get (Dm.ERR d) = err ∧ (s.dmaError d err).has (Dm.EN d) = false ∧ (s.dmaError d err).has (Dm.ERRF d) = true := by
  obtain ⟨h1, h2, h3, h4, h5, h6⟩ : (Dm.EN d).key ≠ (Dm.ERR d).key ∧ (Dm.ERRF d).key ≠ (Dm.ERR d).key ∧ (Dm.ERR_CNT d).key ≠ (Dm.ERR d).key ∧
    (Dm.ERRF d).key ≠ (Dm.EN d).key ∧ (Dm.ERR_CNT d).key ≠ (Dm.EN d).key ∧ (Dm.ERR_CNT d).key ≠ (Dm.ERRF d).key := by revert d; decide
  unfold State.dmaError State.has
  simp only [bump_eq, bumpBy_eq, flag_eq, unflag_eq, get_modDma]
  rw [get_put_other _ _ h3, get_put_other _ _ h2, get_put_other _ _ h1, get_put_same]
  simp only [get_put_other _ _ h5, get_put_other _ _ h4, get_put_other _ _ h6, get_put_same]
  exact ⟨Nat.mod_eq_of_lt he, rfl, rfl⟩

/-! ### Ends of transfers -/

/-- Where a rest holds, so it does but for the epoch. -/
theorem SameRest.calm {s t : State} (h : SameRest s t) : Calm s t where
  flds := h.flds
  eff := h.eff
  asked := h.asked
  slots := .inl rfl
  tb := h.tb
  dev := h.dev
  epoch := rfl
  pixOn := h.pixOn
  flash := h.flash
  lost := h.lost
  chSt := h.chSt
  trav := h.trav
  drive := h.drive
  lines := h.lines
  readmitK := h.readmitK
  linkUp := h.linkUp
  kept := h.kept
  queue := h.queue
theorem bytesIn_off (m : Ch) : (Ld.BYTES_IN m).addr < 2 ^ 55 ∧ (Ld.BYTES_IN m).addr < 0x80000000 ∧
    ∀ n : Ch, ∀ g ∈ restFlds n, (Ld.BYTES_IN m).addr ≠ g.addr := by revert m; decide
/-- A queue's count of bytes is read by no rest but through a slot of the epoch. -/
theorem Calm.bytesIn {z s : State} (h : Calm z s) (m : Ch) (v : Nat) : Calm z (s.put (Ld.BYTES_IN m) v) := by
  obtain ⟨hlt, hlow, hne⟩ := bytesIn_off m
  have hget : ∀ g : Fld, g.lsb < 32 → (Ld.BYTES_IN m).addr ≠ g.addr → (s.put (Ld.BYTES_IN m) v).get g = s.get g := fun g hg ha =>
    get_put_other s v (key_ne_of_addr_ne (by simp [Ld.BYTES_IN]) hg ha)
  have hhas : ∀ g : Fld, g.lsb < 32 → (Ld.BYTES_IN m).addr ≠ g.addr → (s.put (Ld.BYTES_IN m) v).has g = s.has g := fun g hg ha => by
    unfold State.has; rw [hget g hg ha]
  exact h.trans { SameRest.refl s.calm with
    flds := fun n g hg => hget g (restFlds_addr n g hg).1 (hne n g hg)
    eff := fun n g _ => eff_put_other s v (key_ne_effKey (by simp [Ld.BYTES_IN]) hlt g)
    asked := by
      change (s.put (Ld.BYTES_IN m) v).pixAsked = s.pixAsked
      unfold State.pixAsked
      rw [hhas _ (by decide) (by simp only [objFld]; omega), hhas _ (by decide) (by simp only [objFld]; omega),
        hhas _ (by decide) (by simp only [objFld]; omega)]
    slots := .inl rfl }

section
variable {z s : State}

theorem Calm.dmaMark (h : Calm z s) (d : Dch) {f : Fld} (v : Nat) (hf : f ∈ dmaMarks d) : Calm z (s.put f v) :=
  h.put v (dmaMarks_restFree d f hf)
theorem Calm.modDma (h : Calm z s) (d : Dch) (f : Dma → Dma) : Calm z (s.modDma d f) := h.trans { SameRest.refl s.calm with }
theorem Calm.dmaCount (h : Calm z s) (d : Dch) (dst k : Nat) : Calm z (s.dmaCount d dst k) := by
  have hrd := h.dmaMark d (f := Dm.RD_CNT d) (s.get (Dm.RD_CNT d) + k) (by simp [dmaMarks])
  unfold State.dmaCount
  dsimp only
  split
  · exact hrd.put _ (by unfold restFree; decide)
  · exact hrd.bytesIn _ _
theorem Calm.pulse (h : Calm z s) (src : Nat) : Calm z (s.pulse src) := by
  unfold State.pulse
  split
  · exact h.trans { SameRest.refl s.calm with }
  · exact h
theorem Calm.dmaEndIf (h : Calm z s) (d : Dch) : Calm z (s.dmaEndIf d) := by
  unfold State.dmaEndIf
  split
  · exact ((((((h.dmaMark d (f := Dm.OPEN d) 0 (by simp [dmaMarks])).dmaMark d (f := Dm.ACT_CFG d) 0 (by simp [dmaMarks])).dmaMark d
      (f := Dm.ACT_ADDR_LO d) 0 (by simp [dmaMarks])).dmaMark d (f := Dm.ACT_ADDR_HI d) 0 (by simp [dmaMarks])).dmaMark d
      (f := Dm.ACT_END d) 0 (by simp [dmaMarks])).dmaMark d (f := Dm.ACT_DOFS d) 0 (by simp [dmaMarks])).modDma d _
  · exact h
end

/-- `t` has what `s` has of everything but registers and DMA channels. -/
def DmaAndRegs (s t : State) : Prop := ∃ r v, t = { s with regs := r, dma := v }

namespace DmaAndRegs
variable {z s : State}

theorem refl (s : State) : DmaAndRegs s s := ⟨_, _, rfl⟩
theorem put (h : DmaAndRegs z s) (f : Fld) (v : Nat) : DmaAndRegs z (s.put f v) := by obtain ⟨_, _, rfl⟩ := h; exact ⟨_, _, rfl⟩
theorem modDma (h : DmaAndRegs z s) (d : Dch) (f : Dma → Dma) : DmaAndRegs z (s.modDma d f) := by obtain ⟨_, _, rfl⟩ := h; exact ⟨_, _, rfl⟩
theorem dmaError (h : DmaAndRegs z s) (d : Dch) (err : Nat) : DmaAndRegs z (s.dmaError d err) :=
  ((((h.put _ _).put _ _).put _ _).put _ _).modDma _ _
theorem dmaCount (h : DmaAndRegs z s) (d : Dch) (dst k : Nat) : DmaAndRegs z (s.dmaCount d dst k) := by
  have hrd := h.put (Dm.RD_CNT d) (s.get (Dm.RD_CNT d) + k)
  unfold State.dmaCount
  dsimp only
  split
  · exact hrd.put _ _
  · exact hrd.put _ _
theorem dmaEndIf (h : DmaAndRegs z s) (d : Dch) : DmaAndRegs z (s.dmaEndIf d) := by
  unfold State.dmaEndIf
  split
  · exact ((((((h.put _ _).put _ _).put _ _).put _ _).put _ _).put _ _).modDma d _
  · exact h
theorem ch (h : DmaAndRegs z s) : s.ch = z.ch := by obtain ⟨_, _, rfl⟩ := h; rfl
theorem sp (h : DmaAndRegs z s) : s.sp = z.sp := by obtain ⟨_, _, rfl⟩ := h; rfl
theorem inFlight (h : DmaAndRegs z s) : s.inFlight = z.inFlight := by obtain ⟨_, _, rfl⟩ := h; rfl
theorem tb (h : DmaAndRegs z s) : s.tb = z.tb := by obtain ⟨_, _, rfl⟩ := h; rfl
end DmaAndRegs

/-! #### What the end of a transfer counts and leaves -/

section
variable (s : State) (d : Dch)

theorem dmaCount_rd (dst k : Nat) : (s.dmaCount d dst k).get (Dm.RD_CNT d) = (s.get (Dm.RD_CNT d) + k) % 2 ^ 32 := by
  have hsp : De.SP_IN.key ≠ (Dm.RD_CNT d).key := by revert d; decide
  have hin : ∀ m : Ch, (Ld.BYTES_IN m).key ≠ (Dm.RD_CNT d).key := by revert d; decide
  unfold State.dmaCount
  simp only [incrBy_eq]
  split
  · rw [get_put_other _ _ hsp, get_put_same]; rfl
  · rw [get_put_other _ _ (hin _), get_put_same]; rfl
theorem dmaCount_dma (dst k : Nat) : (s.dmaCount d dst k).dma = s.dma := by
  unfold State.dmaCount
  dsimp only
  split <;> rfl
theorem pulse_get (src : Nat) (f : Fld) : (s.pulse src).get f = s.get f := by
  unfold State.pulse
  split <;> rfl
theorem dmaEndIf_rd : (s.dmaEndIf d).get (Dm.RD_CNT d) = s.get (Dm.RD_CNT d) := by
  have hne : ∀ f ∈ [Dm.OPEN d, Dm.ACT_CFG d, Dm.ACT_ADDR_LO d, Dm.ACT_ADDR_HI d, Dm.ACT_END d, Dm.ACT_DOFS d], f.key ≠ (Dm.RD_CNT d).key := by
    revert d; decide
  unfold State.dmaEndIf
  split
  · unfold State.dmaEnd State.clearAll
    simp only [get_modDma, List.foldl, unflag_eq]
    simp only [List.forall_mem_cons] at hne
    obtain ⟨h1, h2, h3, h4, h5, h6, -⟩ := hne
    rw [get_put_other _ _ h6, get_put_other _ _ h5, get_put_other _ _ h4, get_put_other _ _ h3, get_put_other _ _ h2, get_put_other _ _ h1]
  · rfl
/-- A set ends only once no transfer of it is left. -/
theorem dmaEndIf_dma : ((s.dmaEndIf d).dma[d]).xf = (s.dma[d]).xf ∧ ((s.dmaEndIf d).dma[d]).owed = (s.dma[d]).owed ∧
    ((s.dma[d]).failing = 0 → ((s.dmaEndIf d).dma[d]).failing = 0) := by
  unfold State.dmaEndIf
  split
  next hover =>
    have hnil : (s.dma[d]).xf = [] := by
      unfold State.dmaOver at hover
      simp only [Bool.and_eq_true, List.isEmpty_iff] at hover
      exact hover.1.2
    have hend : ((s.dmaEnd d).dma[d]) = { s.dma[d] with
        act := false, ent := none, ended := false, links := 0, failing := 0, xf := (s.dma[d]).xf.map (fun y => { y with old := true }) } :=
      modDma_same _ _ _
    rw [hend, hnil]
    exact ⟨rfl, rfl, fun _ => rfl⟩
  · exact ⟨rfl, rfl, id⟩
theorem dmaFailDue_none (h : (s.dma[d]).failing = 0) : s.dmaFailDue d = s := if_neg fun hf => hf.1 h

end

section
variable {s : State} {d : Dch}

theorem transferDone_first {x : Xfer} {rest : List Xfer} (ho : (s.dma[d]).owed = []) (hx : (s.dma[d]).xf = x :: rest) (hfin : x.fin = true)
    (hf : (s.dma[d]).failing = 0) : s.transferDone d =
      ((((s.modDma d (fun c => { c with xf := rest })).dmaCount d x.dst (x.got - x.cred)).pulse (1 + d)).dmaEndIf d) := by
  set u := ((s.modDma d (fun c => { c with xf := rest })).dmaCount d x.dst (x.got - x.cred)).pulse (1 + d) with hu
  have hdma : (u.dma[d]) = { s.dma[d] with xf := rest } := by
    rw [hu, pulse_dma, dmaCount_dma, modDma_same]
  obtain ⟨-, howed, hfail⟩ := dmaEndIf_dma u d
  rw [hdma] at howed hfail
  unfold State.transferDone
  rw [hx]
  dsimp only
  rw [hfin, if_neg (by decide), dmaFailDue_none _ d (hfail hf), dmaSettle_none (howed.trans ho)]

theorem exec_transferDone (hg : s.granting = none) : exec (.transferDone d) s = .next (s.transferDone d).settle := by
  change Host.Outcome.next (s.dmaTick.transferDone d).settle = _
  rw [dmaTick_free hg]

/-- The clause of the end of a transfer. -/
theorem transferDone_counts {x : Xfer} {rest : List Xfer} (hr : s.rests = true) (hg : s.granting = none) (ho : (s.dma[d]).owed = [])
    (hx : (s.dma[d]).xf = x :: rest) (hfin : x.fin = true) (hf : (s.dma[d]).failing = 0) :
    ∃ t, exec (.transferDone d) s = .next t ∧ (t.dma[d]).xf = rest ∧
      t.get (Dm.RD_CNT d) = (s.get (Dm.RD_CNT d) + (x.got - x.cred)) % 2 ^ 32 ∧
      t.inFlight = s.inFlight ++ [(1 + (d : Nat), s.tb + 32)] ∧ t.ch = s.ch ∧ t.sp = s.sp := by
  have hdone := transferDone_first ho hx hfin hf
  set v := (s.modDma d (fun c => { c with xf := rest })).dmaCount d x.dst (x.got - x.cred) with hv
  have hvcalm : Calm s v := ((Calm.refl s).modDma d _).dmaCount d _ _
  have hcalm : Calm s (s.transferDone d) := by
    rw [hdone]
    exact (hvcalm.pulse _).dmaEndIf d
  have hvsame : DmaAndRegs s v := ((DmaAndRegs.refl s).modDma d _).dmaCount d _ _
  have hpulse : v.pulse (1 + d) = { v with inFlight := v.inFlight ++ [(1 + (d : Nat), v.tb + 32)] } := if_pos (by omega)
  have hsame : DmaAndRegs (v.pulse (1 + d)) (s.transferDone d) := by
    rw [hdone]
    exact (DmaAndRegs.refl _).dmaEndIf d
  obtain ⟨r, e, hsettle, hget⟩ := hcalm.settle hr
  obtain ⟨hk, hc, hn⟩ := dmaMarks_kept d (Dm.RD_CNT d) (by simp [dmaMarks])
  refine ⟨_, exec_transferDone hg, ?_, ?_, ?_, ?_, ?_⟩
  · rw [hsettle]
    change ((s.transferDone d).dma[d]).xf = rest
    rw [hdone, (dmaEndIf_dma _ d).1, pulse_dma, hv, dmaCount_dma, modDma_same]
  · rw [hget _ hk hc hn, hdone, dmaEndIf_rd, pulse_get, hv, dmaCount_rd]
    rfl
  · rw [hsettle]
    change (s.transferDone d).inFlight = _
    rw [hsame.inFlight, hpulse, hvsame.inFlight, hvsame.tb]
  · rw [hsettle]
    change (s.transferDone d).ch = _
    rw [hsame.ch, hpulse]
    exact hvsame.ch
  · rw [hsettle]
    change (s.transferDone d).sp = _
    rw [hsame.sp, hpulse]
    exact hvsame.sp

/-- The clause of a last burst. -/
theorem lastBurst_written {x : Xfer} {a n t0 : Nat} {data : List Byte} (hr : s.rests = true) (hg : s.granting = none) (ho : (s.dma[d]).owed = [])
    (hl : s.dmaLink = true) (hj : (s.dma[d]).junk = []) (hx : (s.dma[d]).xf = [x]) (hout : x.out = [(a, n, t0)]) (hrem : x.rem = 0)
    (hlen : data.length = n) (hdst : x.dst < 8) (hswap : x.swap = 0) :
    ∃ t, exec (.dmaReadCompletion d data none) s = .next t ∧ (t.dma[d]).xf = [{ x with out := [], got := x.got + n, fin := true }] ∧
      t.ch = (s.queuePush (Fin.ofNat 8 x.dst) data).ch ∧ t.regs = s.regs ∧ (∀ e : Dch, e ≠ d → t.dma[e] = s.dma[e]) := by
  have hcomp := dmaCompletion_last hg ho hl hj hx hout hrem hlen hdst hswap
  set u := State.queuePush { s with ctr := s.ctr + n } (Fin.ofNat 8 x.dst) data with hu
  have hpush : u.dma = s.dma ∧ u.regs = s.regs ∧ u.ch = (s.queuePush (Fin.ofNat 8 x.dst) data).ch ∧ SameRest s u := by
    have hparked : State.chParked { s with ctr := s.ctr + n } (Fin.ofNat 8 x.dst) = s.chParked (Fin.ofNat 8 x.dst) := rfl
    rw [hu]
    unfold State.queuePush
    rw [hparked]
    split
    · exact ⟨rfl, rfl, rfl, { SameRest.refl s with }⟩
    · exact ⟨rfl, rfl, rfl, SameRest.trans (t := { s with ctr := s.ctr + n }) { SameRest.refl s with }
        (SameRest.modCh _ _ rfl rfl rfl rfl rfl rfl rfl (.inr rfl))⟩
  obtain ⟨hdma, hregs, hch, hrest⟩ := hpush
  refine ⟨s.dmaCompletion d data none, ?_, ?_, ?_, ?_, fun e he => ?_⟩
  · have hall : SameRest s (s.dmaCompletion d data none) := by
      rw [hcomp]
      exact hrest.modDma d _
    exact congrArg Host.Outcome.next (hall.settle hr)
  · rw [hcomp, modDma_same, hdma, hx]
    simp only [modFirst, hout, List.isEmpty_cons, Bool.not_false, if_true]
  · rw [hcomp]; exact hch
  · rw [hcomp]; exact hregs
  · rw [hcomp, modDma_other _ _ (Ne.symm he), hdma]

/-- What a failing read leaves of its channel, and of all else. -/
theorem dmaReadFail_leaves {x : Xfer} {rest : List Xfer} (hg : s.granting = none) (ho : (s.dma[d]).owed = []) (hl : s.dmaLink = true)
    (hj : (s.dma[d]).junk = []) (hx : (s.dma[d]).xf = x :: rest) (hout : x.out ≠ []) :
    (s.dmaReadFail d).get (Dm.ERR d) = 1 ∧ (s.dmaReadFail d).has (Dm.EN d) = false ∧ (s.dmaReadFail d).has (Dm.ERRF d) = true ∧
    (x.old = false → ((s.dmaReadFail d).dma[d]).xf = [{ x with src := (x.out.headD (x.src, 0, 0)).1, rem := x.len - x.got, out := [] }]) ∧
    (x.old = true → ((s.dmaReadFail d).dma[d]).xf = []) ∧ ((s.dmaReadFail d).dma[d]).junk = (xfReads (x :: rest)).drop 1 ∧
    (∀ e : Dch, e ≠ d → (s.dmaReadFail d).dma[e] = s.dma[e]) ∧ DmaAndRegs s (s.dmaReadFail d) ∧ SameRest s (s.dmaReadFail d) := by
  obtain ⟨b, he⟩ := dmaReadFail_first hg ho hl hj hx hout
  obtain ⟨herr, hen, herrf⟩ := dmaError_marks (s.modDma d (fun c => c.failed b x)) d (err := 1) (by decide)
  obtain ⟨hnew, hold⟩ := failed_xf b hx hout
  have hdma : ((s.dmaReadFail d).dma[d]) = { (s.dma[d]).failed b x with failing := 0 } := by
    rw [he, dmaError_dma, modDma_same]
  refine ⟨by rw [he]; exact herr, by rw [he]; exact hen, by rw [he]; exact herrf, fun h => ?_, fun h => ?_, ?_, fun e hne => ?_, ?_, ?_⟩
  · rw [hdma]; exact hnew h
  · rw [hdma]; exact hold h
  · rw [hdma, ← hx]; exact failed_junk _ b x
  · rw [he]
    obtain ⟨_, heq⟩ := dmaError_eq (s.modDma d (fun c => c.failed b x)) d 1
    rw [heq]
    change (((s.modDma d (fun c => c.failed b x)).modDma d (fun c => { c with failing := 0 })).dma[e]) = s.dma[e]
    rw [modDma_other _ _ (Ne.symm hne), modDma_other _ _ (Ne.symm hne)]
  · rw [he]; exact ((DmaAndRegs.refl s).modDma d _).dmaError d 1
  · rw [he]; exact ((SameRest.refl s).modDma d _).dmaError d 1

theorem exec_readError : exec (.dmaReadError d) s = .next (s.dmaReadFail d).settle := rfl
theorem exec_readTimeout {x : Xfer} {rest : List Xfer} (hg : s.granting = none) (hl : s.dmaLink = true) (hj : (s.dma[d]).junk = [])
    (hx : (s.dma[d]).xf = x :: rest) (hout : x.out ≠ []) : exec (.dmaReadTimeout d) s =
      .next ((State.dmaReadFail (s.at ((x.out.headD (x.src, 0, 0)).2.2 + s.ctoTicks)) d).flag Cs.AER_CTO).settle := by
  obtain ⟨r, out, hr⟩ := List.exists_cons_of_ne_nil hout
  have hold : s.oldestRead d = some r := by
    unfold State.oldestRead xfReads
    rw [hj, hx, List.flatMap_cons, hr]
    rfl
  change Host.Outcome.next (s.dmaTimeout d).settle = _
  unfold State.dmaTimeout
  rw [dmaNow_free hg]
  dsimp only
  rw [hold, hl, hr]
  rfl
theorem cto_off (d : Dch) : ∀ f ∈ dmaMarks d, Cs.AER_CTO.key ≠ f.key := by revert d; decide
theorem cto_restFree : restFree Cs.AER_CTO := by unfold restFree; decide

/-- The clause of a failing read. -/
theorem readError_stops {x : Xfer} {rest : List Xfer} (hr : s.rests = true) (hg : s.granting = none) (ho : (s.dma[d]).owed = [])
    (hl : s.dmaLink = true) (hj : (s.dma[d]).junk = []) (hx : (s.dma[d]).xf = x :: rest) (hout : x.out ≠ []) :
    ∀ c ∈ [Instr.dmaReadError d, .dmaReadTimeout d],
      (c = .dmaReadTimeout d → (s.at ((x.out.headD (x.src, 0, 0)).2.2 + s.ctoTicks)).rests = true) →
      ∃ t, exec c s = .next t ∧ t.get (Dm.ERR d) = 1 ∧ t.has (Dm.EN d) = false ∧ t.has (Dm.ERRF d) = true ∧
        (c = .dmaReadTimeout d → t.has Cs.AER_CTO = true) ∧
        (x.old = false → (t.dma[d]).xf = [{ x with src := (x.out.headD (x.src, 0, 0)).1, rem := x.len - x.got, out := [] }]) ∧
        (x.old = true → (t.dma[d]).xf = []) ∧ (t.dma[d]).junk = (xfReads (x :: rest)).drop 1 ∧
        (∀ e : Dch, e ≠ d → t.dma[e] = s.dma[e]) ∧ t.ch = s.ch ∧ t.sp = s.sp := by
  intro c hc hat
  simp only [List.mem_cons, List.not_mem_nil, or_false] at hc
  obtain rfl | rfl := hc
  · obtain ⟨herr, hen, herrf, hnew, hold, hjunk, hoth, hsame, hrest⟩ := dmaReadFail_leaves hg ho hl hj hx hout
    exact ⟨s.dmaReadFail d, congrArg Host.Outcome.next (hrest.settle hr), herr, hen, herrf, fun h => Instr.noConfusion h,
      hnew, hold, hjunk, hoth, hsame.ch, hsame.sp⟩
  · set u := s.at ((x.out.headD (x.src, 0, 0)).2.2 + s.ctoTicks) with hu
    obtain ⟨herr, hen, herrf, hnew, hold, hjunk, hoth, hsame, hrest⟩ := dmaReadFail_leaves (s := u) (d := d) hg ho hl hj hx hout
    set v := u.dmaReadFail d with hv
    have hcalm : Calm u (v.flag Cs.AER_CTO) := hrest.calm.put 1 cto_restFree
    obtain ⟨r, e, hsettle, hget⟩ := hcalm.settle (hat rfl)
    have hmark : ∀ f ∈ dmaMarks d, (v.flag Cs.AER_CTO).settle.get f = v.get f := fun f hf => by
      obtain ⟨hk, hch, hn⟩ := dmaMarks_kept d f hf
      have hne : Cs.AER_CTO.key ≠ f.key := cto_off d f hf
      exact (hget f hk hch hn).trans (get_put_other _ _ hne)
    have hcto : (v.flag Cs.AER_CTO).settle.get Cs.AER_CTO = 1 :=
      (hget _ (by decide) (by decide) (by decide)).trans (get_put_same _ _ _)
    refine ⟨(v.flag Cs.AER_CTO).settle, exec_readTimeout hg hl hj hx hout, ?_, ?_, ?_, fun _ => decide_eq_true hcto, ?_, ?_, ?_, ?_, ?_, ?_⟩
    · exact (hmark _ (by simp [dmaMarks])).trans herr
    · exact (congrArg (fun w => decide (w = 1)) (hmark (Dm.EN d) (by simp [dmaMarks]))).trans hen
    · exact (congrArg (fun w => decide (w = 1)) (hmark (Dm.ERRF d) (by simp [dmaMarks]))).trans herrf
    · rw [hsettle]; exact hnew
    · rw [hsettle]; exact hold
    · rw [hsettle]; exact hjunk
    · rw [hsettle]; exact hoth
    · rw [hsettle]; exact hsame.ch
    · rw [hsettle]; exact hsame.sp

/-! ### List entries -/

theorem exec_listEntryFetch (s : State) (d : Dch) (res : FetchRes) : exec (.listEntryFetch d res) s = .next (s.listFetch d res).settle := rfl

section
variable (hg : s.granting = none) (hh : s.dmaHost = true) (ha : (s.dma[d]).act = true) (hm : s.dmaMode d = 1) (he : (s.dma[d]).ent = none)
  (hend : (s.dma[d]).ended = false) (hf : (s.dma[d]).failing = 0) (herr : s.get (Dm.ERR d) = 0)
include hg hh ha hm he hend hf herr

theorem listFetch_error : s.listFetch d .error = s.entryFail d 1 := by
  unfold State.listFetch
  rw [dmaTick_free hg]
  dsimp only
  rw [if_neg (by rw [ha, hm, he, hend, hf, herr, hh]; decide)]
theorem listFetch_bad {addr len flags : Nat} (h : listEntry addr len flags = .bad) : s.listFetch d (.entry addr len flags) = s.entryFail d 2 := by
  unfold State.listFetch
  rw [dmaTick_free hg]
  dsimp only
  rw [if_neg (by rw [ha, hm, he, hend, hf, herr, hh]; decide), h]
theorem listFetch_link {addr len flags a : Nat} (h : listEntry addr len flags = .link a) (hl : (s.dma[d]).links < 3) :
    s.listFetch d (.entry addr len flags) = s.modDma d (fun x => { x with entAt := a, links := x.links + 1 }) := by
  unfold State.listFetch
  rw [dmaTick_free hg]
  dsimp only
  rw [if_neg (by rw [ha, hm, he, hend, hf, herr, hh]; decide), h]
  exact if_neg (Nat.not_le.mpr hl)
theorem listFetch_data {addr len flags a l : Nat} {last : Bool} (h : listEntry addr len flags = .data a l last) :
    s.listFetch d (.entry addr len flags) = s.modDma d (fun x => { x with ent := some (a, l, last), links := 0 }) := by
  unfold State.listFetch
  rw [dmaTick_free hg]
  dsimp only
  rw [if_neg (by rw [ha, hm, he, hend, hf, herr, hh]; decide), h]

end

theorem listEntry_data {addr len flags : Nat} (ha : addr % 8 = 0) (hl : len % 8 = 0) (hlo : 8 ≤ len) (hhi : len ≤ 16384) (hf : flags ≤ 1) :
    listEntry addr len flags = .data addr len (decide (flags = 1)) := by
  unfold listEntry
  rw [if_neg (by omega), if_neg (by omega), if_neg (by omega)]
theorem listEntry_link (addr len : Nat) : listEntry addr len 2 = .link addr := rfl
theorem listEntry_bad (addr len : Nat) : listEntry addr len 3 = .bad := rfl

end

/-- Settles O44: while no channel holds the engine a completion finds the channels as they stand; what it sets no rest reads, but for the
count of a queue's bytes and the error log of PCI Express, of which a lost epoch leaves the rest. -/
theorem dmaTransfersComplete : Obligations.DmaTransfersComplete := by
  unfold Obligations.DmaTransfersComplete
  intro s d hr hg ho
  refine ⟨fun x a n t0 data hl hj hx hout hrem _ hlen hdst hswap => lastBurst_written hr hg ho hl hj hx hout hrem hlen hdst hswap,
    fun c hc x rest hl hj hx hout hat => readError_stops hr hg ho hl hj hx hout c hc hat, fun r rest data hl hj hlen => ?_,
    fun x rest hx hfin hf => transferDone_counts hr hg ho hx hfin hf, fun hh ha hm he hend hf herr => ?_⟩
  · change Host.Outcome.next (s.dmaCompletion d data none).settle = _
    rw [dmaCompletion_junk hg hl hj hlen]
    exact congrArg Host.Outcome.next (((SameRest.refl s).modDma d _).settle hr)
  · have hfail : ∀ err, (s.dma[d]).xf = [] → (s.entryFail d err).settle = s.dmaError d err := fun err hx => by
      unfold State.entryFail
      rw [if_pos hx]
      exact ((SameRest.refl s).dmaError d err).settle hr
    refine ⟨fun addr len flags hal hl hlo hhi hfl => ?_, fun addr len hlinks => ?_, fun addr len hx => ?_, fun hx => ?_⟩
    · rw [exec_listEntryFetch, listFetch_data hg hh ha hm he hend hf herr (listEntry_data hal hl hlo hhi hfl)]
      exact congrArg Host.Outcome.next (((SameRest.refl s).modDma d _).settle hr)
    · rw [exec_listEntryFetch, listFetch_link hg hh ha hm he hend hf herr (listEntry_link addr len) hlinks]
      exact congrArg Host.Outcome.next (((SameRest.refl s).modDma d _).settle hr)
    · rw [exec_listEntryFetch, listFetch_bad hg hh ha hm he hend hf herr (listEntry_bad addr len), hfail 2 hx]
    · rw [exec_listEntryFetch, listFetch_error hg hh ha hm he hend hf herr, hfail 1 hx]

end Sys2Proof.Machine
end

section
/-! SUPPORT. Stakes: armed, hit, and hit by a quadrature edge (R77 to R83). -/
namespace Sys2Proof.Machine

/-! ### Registers of a stake -/

section
variable (s : State) (i : Stk)

/-- A message tells nothing to the registers below the message counters but the causes'. -/
theorem emcyInfo_get (code src line : Nat) (info : List Byte) {f : Fld} (hi : Ho.INT_STAT.key ≠ f.key) (hp : (Mx.PBA 1).key ≠ f.key)
    (hf : f.key < (Hid.LOST 0).key) : (s.emcyInfo code src line info).get f = s.get f := by
  have hlost : (Hid.LOST src).key ≠ f.key := by
    simp only [Fld.key, Hid.LOST] at hf ⊢
    omega
  have hlog : logCount.key ≠ f.key := by
    simp only [Fld.key, Hid.LOST, logCount] at hf ⊢
    omega
  unfold State.emcyInfo
  extract_lets old held e' s1 s2
  have h2 : s2.get f = s.get f := (get_cause_other _ 1 hi hp).trans (get_put_other s1 _ hlog)
  split
  · exact h2
  split
  · exact h2
  · exact (get_put_other s2 _ hlost).trans h2
theorem stake_fields_low : ∀ f ∈ St.fields i, Ho.INT_STAT.key ≠ f.key ∧ (Mx.PBA 1).key ≠ f.key ∧ f.key < (Hid.LOST 0).key := by
  revert i; decide
theorem stakeLate_get {f : Fld} (hf : f ∈ St.fields i) : (s.stakeLate i).get f = s.get f := by
  obtain ⟨hi, hp, hlow⟩ := stake_fields_low i f hf
  exact (emcyInfo_get _ _ _ _ _ hi hp hlow).trans (pulse_get s _ f)
theorem stakeLate_inFlight : (s.stakeLate i).inFlight = s.inFlight ++ [(0x3F, s.tb + 32)] := by
  unfold State.stakeLate
  rw [emcyMsg_inFlight]
  rfl
theorem stakeLate_stake : (s.stakeLate i).stake = s.stake := by
  unfold State.stakeLate
  rw [emcyMsg_stake]
  rfl
theorem stakeLate_at (j : Stk) : ((s.stakeLate i).stake[j]) = s.stake[j] := by rw [stakeLate_stake]
theorem stakeLate_cu : (s.stakeLate i).cu = s.cu := by
  unfold State.stakeLate
  rw [emcyMsg_cu]
  rfl
theorem stakeLate_ch : (s.stakeLate i).ch = s.ch := by
  unfold State.stakeLate
  rw [emcyMsg_ch]
  rfl

/-! ### Arming -/

/-- The stake armed, not yet judged. -/
def State.stakeSet : State := (s.modStk i (fun k => { k with armed := true, lateDue := false })).flag (St.ARMED i)

/-- Two states in which a stake's hit condition reads the same. -/
theorem hitHolds_congr {s t : State} {i : Stk} (prev : Option Pos) (htgt : (t.stake[i]).tgt = (s.stake[i]).tgt)
    (hpos : ∀ m, s.stkCu i = m → (t.cu[m]).pos = (s.cu[m]).pos) (hcu : t.get (St.CU i) = s.get (St.CU i)) (hdir : t.get (St.DIR i) = s.get (St.DIR i)) :
    t.hitHolds i prev = s.hitHolds i prev := by
  have hunit : t.stkCu i = s.stkCu i := by unfold State.stkCu; rw [hcu]
  unfold State.hitHolds
  simp only [hunit, hdir, htgt, hpos _ rfl]
theorem stakeSet_stake : ((s.stakeSet i).stake[i]) = { s.stake[i] with armed := true, lateDue := false } :=
  modStk_same s i (fun k => { k with armed := true, lateDue := false })
theorem stakeSet_hitHolds (prev : Option Pos) : (s.stakeSet i).hitHolds i prev = s.hitHolds i prev := by
  refine hitHolds_congr prev ?_ (fun _ _ => rfl) ?_ ?_
  · rw [stakeSet_stake]
  · exact get_put_other _ _ (by simp only [Fld.key, St.ARMED, St.CU]; omega)
  · exact get_put_other _ _ (by simp only [Fld.key, St.ARMED, St.DIR]; omega)
/-- The stake late: disarmed, with its flag. -/
def State.stakeMissed : State := ((s.stakeSet i).stakeDisarm i).flag (St.LATE i)
/-- What arming comes to, by the hit condition and LATE_POL. -/
theorem stakeArm_eq : s.stakeArm i =
    if s.hitHolds i none then
      if s.has (St.LATE_POL i) then (s.stakeSet i).modStk i (fun k => { k with lateDue := true }) else (s.stakeMissed i).stakeLate i
    else s.stakeSet i := by
  have hpol : (s.stakeSet i).has (St.LATE_POL i) = s.has (St.LATE_POL i) := by
    unfold State.has
    rw [show (s.stakeSet i).get (St.LATE_POL i) = s.get (St.LATE_POL i) from
      get_put_other _ _ (by simp only [Fld.key, St.ARMED, St.LATE_POL]; omega)]
  have hholds := stakeSet_hitHolds s i none
  unfold State.stakeArm
  rw [← hholds, ← hpol]
  rfl
theorem stakeMissed_stake : ((s.stakeMissed i).stake[i]) = { s.stake[i] with armed := false, lateDue := false } := by
  have h : ((s.stakeMissed i).stake[i]) = { (s.stakeSet i).stake[i] with armed := false, lateDue := false } :=
    modStk_same (s.stakeSet i) i (fun k => { k with armed := false, lateDue := false })
  rw [h, stakeSet_stake]
theorem stakeSet_other {j : Stk} (h : j ≠ i) : ((s.stakeSet i).stake[j]) = s.stake[j] :=
  modStk_other s (fun k => { k with armed := true, lateDue := false }) (Ne.symm h)
theorem stakeMissed_other {j : Stk} (h : j ≠ i) : ((s.stakeMissed i).stake[j]) = s.stake[j] :=
  (modStk_other (s.stakeSet i) (fun k => { k with armed := false, lateDue := false }) (Ne.symm h)).trans (stakeSet_other s i h)
theorem stakeSet_get {f : Fld} (h : (St.ARMED i).key ≠ f.key) : (s.stakeSet i).get f = s.get f := get_put_other _ _ h
theorem stakeMissed_get {f : Fld} (ha : (St.ARMED i).key ≠ f.key) (hl : (St.LATE i).key ≠ f.key) : (s.stakeMissed i).get f = s.get f :=
  (get_put_other _ _ hl).trans ((get_put_other _ _ ha).trans (stakeSet_get s i ha))
theorem stakeMissed_late : (s.stakeMissed i).get (St.LATE i) = 1 := get_put_same _ _ _
theorem stakeMissed_armed : (s.stakeMissed i).get (St.ARMED i) = 0 :=
  (get_put_other _ _ (by simp only [Fld.key, St.LATE, St.ARMED]; omega)).trans (get_put_same _ _ _)
/-- A register of a stake that arming does not mark reads what it read. -/
theorem stakeArm_get {f : Fld} (hf : f ∈ St.fields i) (ha : (St.ARMED i).key ≠ f.key) (hl : (St.LATE i).key ≠ f.key) :
    (s.stakeArm i).get f = s.get f := by
  rw [stakeArm_eq]
  split
  · split
    · exact stakeSet_get s i ha
    · exact (stakeLate_get _ i hf).trans (stakeMissed_get s i ha hl)
  · exact stakeSet_get s i ha
theorem stakeArm_other {j : Stk} (h : j ≠ i) : ((s.stakeArm i).stake[j]) = s.stake[j] := by
  rw [stakeArm_eq]
  split
  · split
    · exact (modStk_other _ _ (Ne.symm h)).trans (stakeSet_other s i h)
    · exact (stakeLate_at _ i j).trans (stakeMissed_other s i h)
  · exact stakeSet_other s i h
theorem stakeArm_tgt : ((s.stakeArm i).stake[i]).tgt = (s.stake[i]).tgt := by
  rw [stakeArm_eq]
  split
  · split
    · rw [modStk_same, stakeSet_stake]
    · exact (congrArg Stake.tgt (stakeLate_at _ i i)).trans (by rw [stakeMissed_stake])
  · rw [stakeSet_stake]
theorem stakeArm_cu : (s.stakeArm i).cu = s.cu := by
  rw [stakeArm_eq]
  split
  · split
    · rfl
    · rw [stakeLate_cu]
      rfl
  · rfl
theorem stakeArm_ch : (s.stakeArm i).ch = s.ch := by
  rw [stakeArm_eq]
  split
  · split
    · rfl
    · rw [stakeLate_ch]
      rfl
  · rfl
/-- Arming leaves the stake armed, or late. -/
theorem stakeArm_judged : ((s.stakeArm i).stake[i]).armed = true ∨ (s.stakeArm i).has (St.LATE i) = true := by
  rw [stakeArm_eq]
  split
  · split
    · left; rw [modStk_same, stakeSet_stake]
    · right
      exact decide_eq_true ((stakeLate_get _ i (by simp [St.fields, St.plain])).trans (stakeMissed_late s i))
  · left; rw [stakeSet_stake]
/-- What is under way stays under way. -/
theorem stakeArm_inFlight : (s.stakeArm i).inFlight = s.inFlight ∨ (s.stakeArm i).inFlight = s.inFlight ++ [(0x3F, s.tb + 32)] := by
  rw [stakeArm_eq]
  split
  · split
    · exact .inl rfl
    · right
      rw [stakeLate_inFlight]
      rfl
  · exact .inl rfl

/-! ### Hits -/

/-- The stake hit, before a repeat. -/
def State.stakeStruck (t : Nat) : State :=
  (((s.pulse (0x11 + i)).incr (St.HITCNT i)).put (St.HITTIME i) t).stakeDisarm i

theorem stakeStruck_get {t : Nat} {f : Fld} (hc : (St.HITCNT i).key ≠ f.key) (ht : (St.HITTIME i).key ≠ f.key) (ha : (St.ARMED i).key ≠ f.key) :
    (s.stakeStruck i t).get f = s.get f :=
  (get_put_other _ _ ha).trans ((get_put_other _ _ ht).trans ((get_put_other _ _ hc).trans (pulse_get s _ f)))
theorem stakeStruck_count (t : Nat) : (s.stakeStruck i t).get (St.HITCNT i) = (s.get (St.HITCNT i) + 1) % (St.HITCNT i).card := by
  refine (get_put_other _ _ (by simp only [Fld.key, St.ARMED, St.HITCNT]; omega)).trans
    ((get_put_other _ _ (by simp only [Fld.key, St.HITTIME, St.HITCNT]; omega)).trans ((get_put_same _ _ _).trans ?_))
  rw [pulse_get]
theorem stakeStruck_time (t : Nat) : (s.stakeStruck i t).get (St.HITTIME i) = t % 2 ^ 32 :=
  (get_put_other _ _ (by simp only [Fld.key, St.ARMED, St.HITTIME]; omega)).trans (get_put_same _ _ _)
theorem stakeStruck_armed (t : Nat) : (s.stakeStruck i t).get (St.ARMED i) = 0 := get_put_same _ _ _
theorem stakeStruck_pulse : s.pulse (0x11 + i) = { s with inFlight := s.inFlight ++ [(0x11 + (i : Nat), s.tb + 32)] } :=
  if_pos (by omega)
theorem stakeStruck_inFlight (t : Nat) : (s.stakeStruck i t).inFlight = s.inFlight ++ [(0x11 + (i : Nat), s.tb + 32)] := by
  unfold State.stakeStruck
  rw [stakeStruck_pulse]
  rfl
theorem stakeStruck_stake (t : Nat) : (s.stakeStruck i t).stake = s.stake.set i { s.stake[i] with armed := false, lateDue := false } := by
  unfold State.stakeStruck
  rw [stakeStruck_pulse]
  rfl
theorem stakeStruck_same (t : Nat) : s.stakeStruck i t =
    { s with regs := (s.stakeStruck i t).regs, stake := (s.stakeStruck i t).stake, inFlight := (s.stakeStruck i t).inFlight } := by
  unfold State.stakeStruck
  rw [stakeStruck_pulse]
  rfl
/-- A repeat moves the target on. -/
def State.stakeMoved (r : Nat) : State :=
  s.modStk i (fun k => { k with tgt := if s.get (St.DIR i) = 1 then k.tgt - BitVec.ofNat 48 r else k.tgt + BitVec.ofNat 48 r })
theorem stakeHit_eq (t : Nat) : s.stakeHit i t =
    if s.get (St.REPEAT i) = 0 then s.stakeStruck i t
    else (((s.stakeStruck i t).stakeMoved i (s.get (St.REPEAT i))).stakeArm i) := by
  have hrep : (s.stakeStruck i t).get (St.REPEAT i) = s.get (St.REPEAT i) := stakeStruck_get s i
    (by simp only [Fld.key, St.HITCNT, St.REPEAT]; omega) (by simp only [Fld.key, St.HITTIME, St.REPEAT]; omega)
    (by simp only [Fld.key, St.ARMED, St.REPEAT]; omega)
  have hdir : (s.stakeStruck i t).get (St.DIR i) = s.get (St.DIR i) := stakeStruck_get s i
    (by simp only [Fld.key, St.HITCNT, St.DIR]; omega) (by simp only [Fld.key, St.HITTIME, St.DIR]; omega)
    (by simp only [Fld.key, St.ARMED, St.DIR]; omega)
  unfold State.stakeHit State.stakeMoved
  rw [← hrep, hdir]
  rfl

/-- What arming comes to in each of its three outcomes, and what it leaves. -/
theorem stakeArm_clause :
    (s.hitHolds i none = false →
      s.stakeArm i = (s.modStk i (fun k => { k with armed := true, lateDue := false })).flag (St.ARMED i)) ∧
    (s.hitHolds i none = true → s.has (St.LATE_POL i) = true →
      ((s.stakeArm i).stake[i]).armed = true ∧ ((s.stakeArm i).stake[i]).lateDue = true ∧ (s.stakeArm i).inFlight = s.inFlight) ∧
    (s.hitHolds i none = true → s.has (St.LATE_POL i) = false →
      ((s.stakeArm i).stake[i]).armed = false ∧ ((s.stakeArm i).stake[i]).lateDue = false ∧
      (s.stakeArm i).has (St.LATE i) = true ∧ (s.stakeArm i).has (St.ARMED i) = false ∧
      (s.stakeArm i).inFlight = s.inFlight ++ [(0x3F, s.tb + 32)]) ∧
    ((s.stakeArm i).stake[i]).tgt = (s.stake[i]).tgt ∧ (∀ j, j ≠ i → (s.stakeArm i).stake[j] = s.stake[j]) ∧
    (s.stakeArm i).get (St.HITCNT i) = s.get (St.HITCNT i) ∧ (s.stakeArm i).cu = s.cu ∧ (s.stakeArm i).ch = s.ch := by
  refine ⟨fun h => ?_, fun h hp => ?_, fun h hp => ?_, stakeArm_tgt s i, fun j hj => stakeArm_other s i hj, ?_, stakeArm_cu s i, stakeArm_ch s i⟩
  · rw [stakeArm_eq, h, if_neg Bool.false_ne_true]
    rfl
  · have he : s.stakeArm i = (s.stakeSet i).modStk i (fun k => { k with lateDue := true }) := by rw [stakeArm_eq, if_pos h, if_pos hp]
    rw [he, modStk_same, stakeSet_stake]
    exact ⟨rfl, rfl, rfl⟩
  · have he : s.stakeArm i = (s.stakeMissed i).stakeLate i := by
      rw [stakeArm_eq, if_pos h, hp, if_neg Bool.false_ne_true]
    rw [he]
    refine ⟨?_, ?_, decide_eq_true ?_, decide_eq_false ?_, stakeLate_inFlight _ i⟩
    · exact (congrArg Stake.armed (stakeLate_at _ i i)).trans (by rw [stakeMissed_stake])
    · exact (congrArg Stake.lateDue (stakeLate_at _ i i)).trans (by rw [stakeMissed_stake])
    · exact (stakeLate_get _ i (by simp [St.fields, St.plain])).trans (stakeMissed_late s i)
    · rw [stakeLate_get _ i (by simp [St.fields, St.plain]), stakeMissed_armed]
      decide
  · exact stakeArm_get s i (by simp [St.fields, St.plain]) (by simp only [Fld.key, St.ARMED, St.HITCNT]; omega)
      (by simp only [Fld.key, St.LATE, St.HITCNT]; omega)
/-- A hit without a repeat. -/
theorem stakeHit_once {t : Nat} (h : s.get (St.REPEAT i) = 0) : s.stakeHit i t = s.stakeStruck i t := by
  rw [stakeHit_eq, if_pos h]
theorem stakeHit_clause_once (t : Nat) (h : s.get (St.REPEAT i) = 0) :
    (s.stakeHit i t).inFlight = s.inFlight ++ [(0x11 + (i : Nat), s.tb + 32)] ∧
    (s.stakeHit i t).get (St.HITCNT i) = (s.get (St.HITCNT i) + 1) % (St.HITCNT i).card ∧
    (s.stakeHit i t).get (St.HITTIME i) = t % 2 ^ 32 ∧
    (s.stakeHit i t).stake = s.stake.set i { s.stake[i] with armed := false, lateDue := false } ∧
    (s.stakeHit i t).has (St.ARMED i) = false ∧
    s.stakeHit i t = { s with regs := (s.stakeHit i t).regs, stake := (s.stakeHit i t).stake, inFlight := (s.stakeHit i t).inFlight } := by
  rw [stakeHit_once s i h]
  refine ⟨stakeStruck_inFlight s i t, stakeStruck_count s i t, stakeStruck_time s i t, stakeStruck_stake s i t, decide_eq_false ?_,
    stakeStruck_same s i t⟩
  rw [stakeStruck_armed]
  decide
theorem stakeHit_clause_repeat (t : Nat) (h : s.get (St.REPEAT i) ≠ 0) :
    (s.stakeHit i t).get (St.HITCNT i) = (s.get (St.HITCNT i) + 1) % (St.HITCNT i).card ∧ (s.stakeHit i t).get (St.HITTIME i) = t % 2 ^ 32 ∧
    ((s.stakeHit i t).stake[i]).tgt = (if s.get (St.DIR i) = 1 then (s.stake[i]).tgt - BitVec.ofNat 48 (s.get (St.REPEAT i))
      else (s.stake[i]).tgt + BitVec.ofNat 48 (s.get (St.REPEAT i))) ∧
    (((s.stakeHit i t).stake[i]).armed = true ∨ (s.stakeHit i t).has (St.LATE i) = true) ∧
    (s.stakeHit i t).inFlight.take (s.inFlight.length + 1) = s.inFlight ++ [(0x11 + (i : Nat), s.tb + 32)] ∧
    (∀ j, j ≠ i → (s.stakeHit i t).stake[j] = s.stake[j]) := by
  set u := (s.stakeStruck i t).stakeMoved i (s.get (St.REPEAT i)) with hu
  have he : s.stakeHit i t = u.stakeArm i := by rw [stakeHit_eq, if_neg h]
  have hdir : (s.stakeStruck i t).get (St.DIR i) = s.get (St.DIR i) := stakeStruck_get s i
    (by simp only [Fld.key, St.HITCNT, St.DIR]; omega) (by simp only [Fld.key, St.HITTIME, St.DIR]; omega)
    (by simp only [Fld.key, St.ARMED, St.DIR]; omega)
  have hstruck : ((s.stakeStruck i t).stake[i]).tgt = (s.stake[i]).tgt := by
    have : ((s.stakeStruck i t).stake[i]) = { s.stake[i] with armed := false, lateDue := false } := by
      simp only [stakeStruck_stake]
      exact Vector.getElem_set_self _
    rw [this]
  have hget : ∀ f ∈ [St.HITCNT i, St.HITTIME i], (u.stakeArm i).get f = (s.stakeStruck i t).get f := fun f hf => by
    simp only [List.mem_cons, List.not_mem_nil, or_false] at hf
    obtain rfl | rfl := hf
    · exact stakeArm_get u i (by simp [St.fields, St.plain]) (by simp only [Fld.key, St.ARMED, St.HITCNT]; omega)
        (by simp only [Fld.key, St.LATE, St.HITCNT]; omega)
    · exact stakeArm_get u i (by simp [St.fields, St.plain]) (by simp only [Fld.key, St.ARMED, St.HITTIME]; omega)
        (by simp only [Fld.key, St.LATE, St.HITTIME]; omega)
  rw [he]
  refine ⟨(hget _ (by simp)).trans (stakeStruck_count s i t), (hget _ (by simp)).trans (stakeStruck_time s i t), ?_, stakeArm_judged u i, ?_,
    fun j hj => ?_⟩
  · rw [stakeArm_tgt, hu, State.stakeMoved, modStk_same, hdir, hstruck]
  · have hin : u.inFlight = s.inFlight ++ [(0x11 + (i : Nat), s.tb + 32)] := stakeStruck_inFlight s i t
    have hlen : (s.inFlight ++ [(0x11 + (i : Nat), s.tb + 32)]).length = s.inFlight.length + 1 := by simp
    obtain hs | hs := stakeArm_inFlight u i
    · rw [hs, hin, ← hlen, List.take_length]
    · rw [hs, hin, ← hlen, List.take_left]
  · have hstr : ((s.stakeStruck i t).stake[j]) = s.stake[j] := by
      simp only [stakeStruck_stake]
      exact Vector.getElem_set_ne _ _ (fun e => hj (Fin.ext e).symm)
    rw [stakeArm_other _ i hj, hu, State.stakeMoved, modStk_other _ _ (Ne.symm hj), hstr]

end

/-! ### An edge that hits a stake -/

/-- One stake's turn in a position update. -/
def stakeTurn (n : Cun) (old : Pos) (t : Nat) (r : State × List Hit) (i : Stk) : State × List Hit :=
  if (r.1.stake[i]).armed && !(r.1.stake[i]).lateDue && r.1.stkCu i = n && r.1.hitHolds i (some old)
  then (r.1.stakeHit i t, r.2 ++ [⟨i, (r.1.stake[i]).tgt, t⟩]) else r
theorem posUpdate_eq (s : State) (n : Cun) (p : Pos) (t : Nat) :
    s.posUpdate n p t = allStk.foldl (stakeTurn n (s.cu[n]).pos t) (s.modCu n (fun c => { c with pos := p }), []) := rfl
/-- A stake on the unit is armed. -/
def State.armedOn (s : State) (n : Cun) (i : Stk) : Prop := (s.stake[i]).armed = true ∧ s.stkCu i = n
theorem stakeTurn_idle {n : Cun} {old : Pos} {t : Nat} {r : State × List Hit} {i : Stk} (h : ¬ r.1.armedOn n i) : stakeTurn n old t r i = r := by
  refine if_neg fun hc => h ?_
  simp only [Bool.and_eq_true, decide_eq_true_eq] at hc
  obtain ⟨⟨⟨ha, -⟩, hu⟩, -⟩ := hc
  exact ⟨ha, hu⟩
theorem stakeTurns_idle {n : Cun} {old : Pos} {t : Nat} {r : State × List Hit} {l : List Stk} (h : ∀ i ∈ l, ¬ r.1.armedOn n i) :
    l.foldl (stakeTurn n old t) r = r := by
  induction l with
  | nil => rfl
  | cons i l ih =>
    rw [List.foldl_cons, stakeTurn_idle (h i List.mem_cons_self)]
    exact ih fun j hj => h j (List.mem_cons_of_mem _ hj)
theorem mem_allStk : ∀ i : Stk, i ∈ allStk := by decide
/-- Where one stake alone is armed on the unit, the update is that stake's turn. -/
theorem stakeTurns_one {n : Cun} {old : Pos} {t : Nat} {r : State × List Hit} {i : Stk} (hrep : r.1.get (St.REPEAT i) = 0)
    (h : ∀ j, r.1.armedOn n j → j = i) : allStk.foldl (stakeTurn n old t) r = stakeTurn n old t r i := by
  obtain ⟨l₁, l₂, hsplit⟩ := List.append_of_mem (mem_allStk i)
  have hnodup : allStk.Nodup := by decide
  rw [hsplit] at hnodup
  obtain ⟨-, hn2, hn⟩ := List.nodup_append.mp hnodup
  have hi1 : ∀ j ∈ l₁, j ≠ i := fun j hj => hn j hj i List.mem_cons_self
  have hi2 : ∀ j ∈ l₂, j ≠ i := fun j hj e => (List.nodup_cons.mp hn2).1 (e ▸ hj)
  rw [hsplit, List.foldl_append, List.foldl_cons, stakeTurns_idle fun j hj hj' => hi1 j hj (h j hj')]
  refine stakeTurns_idle fun j hj ⟨ha, hu⟩ => hi2 j hj (h j ?_)
  unfold stakeTurn at ha hu
  split at ha
  · have hcu : (r.1.stakeHit i t).get (St.CU j) = r.1.get (St.CU j) := by
      rw [stakeHit_once _ _ hrep]
      exact stakeStruck_get _ i (by simp only [Fld.key, St.HITCNT, St.CU]; omega) (by simp only [Fld.key, St.HITTIME, St.CU]; omega)
        (by simp only [Fld.key, St.ARMED, St.CU]; omega)
    have hst : ((r.1.stakeHit i t).stake[j]) = r.1.stake[j] := by
      rw [stakeHit_once _ _ hrep]
      simp only [stakeStruck_stake]
      exact Vector.getElem_set_ne _ _ (fun e => hi2 j hj (Fin.ext e).symm)
    rw [if_pos (by assumption)] at hu
    refine ⟨by rw [← hst]; exact ha, ?_⟩
    unfold State.stkCu at hu ⊢
    rw [← hcu]
    exact hu
  · rw [if_neg (by assumption)] at hu
    exact ⟨ha, hu⟩

section
variable {s : State} {n : Cun}

/-- No traverse that reads the unit moves or waits. -/
def State.unitQuiet (s : State) (n : Cun) : Prop := ∀ m : Ch, s.chCu m = n → (s.ch[m]).trav.st = .stopped

theorem travHit_quiet (hq : s.unitQuiet n) (m : Ch) {h : Hit} (hs : s.stkCu h.stk = n) : s.travHit m h = s := by
  refine if_pos ?_
  by_cases hm : s.chCu m = n
  · left; rw [hq m hm]; decide
  · right; right; rw [hs]; exact Ne.symm hm
theorem stripHit_quiet (hq : s.unitQuiet n) (m : Ch) {h : Hit} (hs : s.stkCu h.stk = n) : s.stripHit m h = s := by
  refine if_pos ?_
  by_cases hm : s.chCu m = n
  · right; right; right; right; rw [hq m hm]; decide
  · right; right; left; rw [hs]; exact Ne.symm hm
theorem hitsOut_quiet (hq : s.unitQuiet n) {hs : List Hit} (h : ∀ x ∈ hs, s.stkCu x.stk = n) : s.hitsOut hs = s := by
  unfold State.hitsOut
  induction hs with
  | nil => rfl
  | cons x hs ih =>
    have hx := h x List.mem_cons_self
    rw [List.foldl_cons, forCh_eq_self fun m => ?_]
    · exact ih fun y hy => h y (List.mem_cons_of_mem _ hy)
    · rw [travHit_quiet hq m hx, stripHit_quiet hq m hx]
theorem recordOut_quiet (hq : s.unitQuiet n) (back : Bool) (t ready : Nat) (ssi : Option (Nat × Nat)) (regained : Bool) :
    s.recordOut n back t ready ssi regained = s := by
  unfold State.recordOut State.travRecords
  refine forCh_eq_self fun m => ?_
  split
  next hm =>
    unfold State.travRecord
    rw [hq m hm]
  · rfl

/-- The unit's position after an edge of its levels. -/
def State.edgeForward (s : State) (n : Cun) (a b : Bool) : Bool :=
  (if a ≠ (s.cu[n]).a then decide (a ≠ b) else decide (a = b)) != s.has (Cu.INV_DIR n)
def State.edgePos (s : State) (n : Cun) (a b : Bool) : Pos := if s.edgeForward n a b then (s.cu[n]).pos + 1 else (s.cu[n]).pos - 1
/-- The edge's bookkeeping, before the position moves; and with it moved, before the stakes are judged. -/
def State.edgeBooked (s : State) (n : Cun) (a b : Bool) (tick : Nat) : State :=
  (s.modCu n (fun c => { c with a := a, b := b })).edgeTime n (!s.edgeForward n a b) tick ((cycleOf tick + s.get (Cu.FILT n) + 1) * 16) 1
    (s.cu[n]).lastT
def State.edgeTaken (s : State) (n : Cun) (a b : Bool) (tick : Nat) : State :=
  (s.edgeBooked n a b tick).modCu n (fun c => { c with pos := s.edgePos n a b })

theorem edgeBooked_pos (s : State) (n : Cun) (a b : Bool) (tick : Nat) : ((s.edgeBooked n a b tick).cu[n]).pos = (s.cu[n]).pos := by
  unfold State.edgeBooked State.edgeTime
  rw [modCu_same, modCu_same]
theorem edgeTaken_same (s : State) (n : Cun) (a b : Bool) (tick : Nat) : ∃ v, s.edgeTaken n a b tick = { s with cu := v } := ⟨_, rfl⟩
theorem edgeTaken_pos (s : State) (n : Cun) (a b : Bool) (tick : Nat) : ((s.edgeTaken n a b tick).cu[n]).pos = s.edgePos n a b := by
  unfold State.edgeTaken
  rw [modCu_same]
/-- One of two levels changed: neither none nor both. -/
theorem one_level_changed : ∀ a b a' b' : Bool, (a ≠ a' ↔ b = b') →
    (decide (a = a') && decide (b = b')) = false ∧ (decide (a ≠ a') && decide (b ≠ b')) = false := by decide
theorem quadEdge_single {a b : Bool} {tick : Nat} (hsrc : s.get (Cu.SRC n) = 0) (hone : a ≠ (s.cu[n]).a ↔ b = (s.cu[n]).b) :
    s.quadEdge n a b tick = (((s.edgeBooked n a b tick).posUpdate n (s.edgePos n a b) tick).1,
      ((s.edgeBooked n a b tick).posUpdate n (s.edgePos n a b) tick).2, some (!s.edgeForward n a b)) := by
  obtain ⟨hnone, hboth⟩ := one_level_changed a b (s.cu[n]).a (s.cu[n]).b hone
  have hforward : (decide (if a ≠ (s.cu[n]).a then a ≠ b else a = b) != s.has (Cu.INV_DIR n)) = s.edgeForward n a b := by
    unfold State.edgeForward
    split <;> rfl
  unfold State.quadEdge
  dsimp only
  rw [hnone, hsrc, if_neg (by decide), hboth, if_neg Bool.false_ne_true, hforward]
  rfl

/-- What a quadrature edge comes to on a unit whose traverses are quiet and on which one stake may be armed, which does not repeat. -/
theorem quadIn_single {a b : Bool} {tick : Nat} {i : Stk} (hsrc : s.get (Cu.SRC n) = 0) (hone : a ≠ (s.cu[n]).a ↔ b = (s.cu[n]).b)
    (hq : s.unitQuiet n) (harmed : (s.stake[i]).armed = true) (hlate : (s.stake[i]).lateDue = false) (hunit : s.stkCu i = n)
    (hrep : s.get (St.REPEAT i) = 0) (honly : ∀ j, s.armedOn n j → j = i) (htb : s.at tick = s) :
    s.quadIn n a b tick = if (s.edgeTaken n a b tick).hitHolds i (some (s.cu[n]).pos) then (s.edgeTaken n a b tick).stakeStruck i tick
      else s.edgeTaken n a b tick := by
  obtain ⟨v, hv⟩ := edgeTaken_same s n a b tick
  set w := s.edgeTaken n a b tick with hw
  have hwrep : w.get (St.REPEAT i) = 0 := by rw [hv]; exact hrep
  have hwonly : ∀ j, w.armedOn n j → j = i := by rw [hv]; exact honly
  have hwarmed : (w.stake[i]).armed = true := by rw [hv]; exact harmed
  have hwlate : (w.stake[i]).lateDue = false := by rw [hv]; exact hlate
  have hwunit : w.stkCu i = n := by rw [hv]; exact hunit
  have hwq : w.unitQuiet n := by rw [hv]; exact hq
  have hpos : (s.edgeBooked n a b tick).posUpdate n (s.edgePos n a b) tick = stakeTurn n (s.cu[n]).pos tick (w, []) i := by
    rw [posUpdate_eq, edgeBooked_pos]
    exact stakeTurns_one (r := (w, [])) hwrep hwonly
  unfold State.quadIn
  dsimp only
  rw [htb, quadEdge_single hsrc hone, hpos]
  dsimp only
  by_cases hhit : w.hitHolds i (some (s.cu[n]).pos) = true
  · have hturn : stakeTurn n (s.cu[n]).pos tick (w, []) i = (w.stakeStruck i tick, [⟨i, (w.stake[i]).tgt, tick⟩]) := by
      unfold stakeTurn
      dsimp only
      rw [hwarmed, hwlate, hwunit, hhit, stakeHit_once _ _ hwrep, if_pos (by simp)]
      rfl
    have hreg : ∀ f : Fld, (St.HITCNT i).key ≠ f.key → (St.HITTIME i).key ≠ f.key → (St.ARMED i).key ≠ f.key →
        (w.stakeStruck i tick).get f = w.get f := fun f h1 h2 h3 => stakeStruck_get w i h1 h2 h3
    have hqs : (w.stakeStruck i tick).unitQuiet n := fun m hm => by
      have hcu : (w.stakeStruck i tick).get (Tr.CU m) = w.get (Tr.CU m) := hreg _
        (by simp only [Fld.key, St.HITCNT, Tr.CU]; omega) (by simp only [Fld.key, St.HITTIME, Tr.CU]; omega)
        (by simp only [Fld.key, St.ARMED, Tr.CU]; omega)
      have hch : (w.stakeStruck i tick).ch = w.ch := by rw [stakeStruck_same]
      simp only [hch]
      refine hwq m ?_
      unfold State.chCu at hm ⊢
      rw [← hcu]
      exact hm
    have hsunit : (w.stakeStruck i tick).stkCu i = n := by
      unfold State.stkCu
      rw [hreg _ (by simp only [Fld.key, St.HITCNT, St.CU]; omega) (by simp only [Fld.key, St.HITTIME, St.CU]; omega)
        (by simp only [Fld.key, St.ARMED, St.CU]; omega)]
      exact hwunit
    rw [if_pos hhit, hturn]
    dsimp only
    rw [hitsOut_quiet hqs fun x hx => by rw [List.mem_singleton.mp hx]; exact hsunit, recordOut_quiet hqs]
  · have hturn : stakeTurn n (s.cu[n]).pos tick (w, []) i = (w, []) := if_neg fun h => hhit (Bool.and_eq_true_iff.mp h).2
    rw [if_neg hhit, hturn]
    dsimp only
    rw [hitsOut_quiet hwq fun x hx => absurd hx List.not_mem_nil, recordOut_quiet hwq]

end

theorem at_at (s : State) (tick : Tick) : (s.at tick).at tick = s.at tick := by
  unfold State.at
  simp only [max_assoc, max_self]
theorem quadIn_at (s : State) (n : Cun) (a b : Bool) (tick : Tick) : s.quadIn n a b tick = (s.at tick).quadIn n a b tick := by
  unfold State.quadIn
  rw [at_at]
theorem stakeMarks_restFree (i : Stk) : ∀ f ∈ [St.HITCNT i, St.HITTIME i, St.ARMED i], restFree f := by unfold restFree; revert i; decide
theorem stakeMarks_kept (i : Stk) : ∀ f ∈ [St.HITCNT i, St.HITTIME i, St.ARMED i],
    f.key < 2 ^ 60 ∧ f.key ≠ Ep.FAIL_CH.key ∧ f.key ≠ Ep.FAIL_REASON.key := by revert i; decide
theorem calm_stakeStruck {z s : State} (h : Calm z s) (i : Stk) (t : Nat) : Calm z (s.stakeStruck i t) := by
  have hp := h.pulse (0x11 + i)
  have hc := hp.put (f := St.HITCNT i) ((s.pulse (0x11 + i)).get (St.HITCNT i) + 1) (stakeMarks_restFree i _ (by simp))
  have ht := hc.put (f := St.HITTIME i) t (stakeMarks_restFree i _ (by simp))
  have hd : Calm z ((((s.pulse (0x11 + i)).incr (St.HITCNT i)).put (St.HITTIME i) t).modStk i (fun k => { k with armed := false, lateDue := false })) :=
    ht.trans { SameRest.refl _ with }
  exact hd.put 0 (stakeMarks_restFree i _ (by simp))

/-- The clause of an edge on whose unit one stake is armed. -/
theorem quadTransition_hits {s : State} {n : Cun} {a b : Bool} {tick : Tick} {i : Stk} (hr : (s.at tick).rests = true)
    (hsrc : s.get (Cu.SRC n) = 0) (hone : a ≠ (s.cu[n]).a ↔ b = (s.cu[n]).b) (harmed : (s.stake[i]).armed = true)
    (hlate : (s.stake[i]).lateDue = false) (hunit : s.stkCu i = n) (hrep : s.get (St.REPEAT i) = 0) (honly : ∀ j, s.armedOn n j → j = i)
    (hq : s.unitQuiet n) :
    ((s.modCu n (fun c => { c with pos := s.edgePos n a b })).hitHolds i (some (s.cu[n]).pos) = true →
      ∃ t, exec (.quadTransition n a b tick) s = .next t ∧ (t.cu[n]).pos = s.edgePos n a b ∧ (t.stake[i]).armed = false ∧
        t.get (St.HITCNT i) = (s.get (St.HITCNT i) + 1) % (St.HITCNT i).card ∧ t.get (St.HITTIME i) = tick % 2 ^ 32 ∧
        t.inFlight = s.inFlight ++ [(0x11 + (i : Nat), max s.tb tick + 32)] ∧ (∀ j, j ≠ i → t.stake[j] = s.stake[j])) ∧
    ((s.modCu n (fun c => { c with pos := s.edgePos n a b })).hitHolds i (some (s.cu[n]).pos) = false →
      ∃ t, exec (.quadTransition n a b tick) s = .next t ∧ (t.cu[n]).pos = s.edgePos n a b ∧ t.stake = s.stake ∧ t.inFlight = s.inFlight ∧
        t.get (St.HITCNT i) = s.get (St.HITCNT i)) := by
  set z := s.at tick with hz
  have hin : s.quadIn n a b tick = if (z.edgeTaken n a b tick).hitHolds i (some (s.cu[n]).pos) then (z.edgeTaken n a b tick).stakeStruck i tick
      else z.edgeTaken n a b tick := by
    rw [quadIn_at]
    exact quadIn_single (s := z) hsrc hone hq harmed hlate hunit hrep honly (at_at s tick)
  obtain ⟨v, hv⟩ := edgeTaken_same z n a b tick
  set w := z.edgeTaken n a b tick with hw
  have hwpos : (w.cu[n]).pos = s.edgePos n a b := edgeTaken_pos z n a b tick
  have hrest : SameRest z w := by
    rw [hv]
    exact { SameRest.refl z with }
  have hholds : w.hitHolds i (some (s.cu[n]).pos) = (s.modCu n (fun c => { c with pos := s.edgePos n a b })).hitHolds i (some (s.cu[n]).pos) := by
    refine hitHolds_congr _ (by rw [hv]; rfl) (fun m hm => ?_) (by rw [hv]; rfl) (by rw [hv]; rfl)
    obtain rfl : m = n := hm.symm.trans hunit
    rw [hwpos, modCu_same]
  refine ⟨fun h => ?_, fun h => ?_⟩
  · rw [hholds, if_pos h] at hin
    have hcalm : Calm z (w.stakeStruck i tick) := calm_stakeStruck hrest.calm i tick
    obtain ⟨r, e, hsettle, hget⟩ := hcalm.settle hr
    have hmark : ∀ f ∈ [St.HITCNT i, St.HITTIME i, St.ARMED i], (w.stakeStruck i tick).settle.get f = (w.stakeStruck i tick).get f :=
      fun f hf => by
        obtain ⟨hk, hc, hn⟩ := stakeMarks_kept i f hf
        exact hget f hk hc hn
    refine ⟨_, congrArg (fun x => Host.Outcome.next (State.settle x)) hin, ?_, ?_, ?_, ?_, ?_, fun j hj => ?_⟩
    · rw [hsettle, stakeStruck_same]
      exact hwpos
    · rw [hsettle]
      simp only [stakeStruck_stake]
      exact congrArg Stake.armed (Vector.getElem_set_self _)
    · rw [hmark _ (by simp), stakeStruck_count, hv]
      rfl
    · exact (hmark _ (by simp)).trans (stakeStruck_time w i tick)
    · rw [hsettle]
      refine (stakeStruck_inFlight w i tick).trans ?_
      rw [hv]
      rfl
    · rw [hsettle]
      simp only [stakeStruck_stake]
      refine (Vector.getElem_set_ne _ _ (fun e => hj (Fin.ext e).symm)).trans ?_
      simp only [hv]
      rfl
  · rw [hholds, h, if_neg Bool.false_ne_true] at hin
    refine ⟨w, ?_, hwpos, by rw [hv]; rfl, by rw [hv]; rfl, by rw [hv]; rfl⟩
    exact congrArg Host.Outcome.next ((congrArg State.settle hin).trans (hrest.settle hr))

/-- Settles O13: arming judges the stake's own condition; a hit marks its stake; an edge on a unit whose traverses are quiet reaches no
traverse and no strip, so it is the turn of the one stake that is armed there. -/
theorem stakeJudgedAndHitOnce : Obligations.StakeJudgedAndHitOnce := by
  unfold Obligations.StakeJudgedAndHitOnce
  refine ⟨stakeArm_clause, fun s i t h => stakeHit_clause_once s i t h, fun s i t h => stakeHit_clause_repeat s i t h,
    fun s n a b tick i hr hsrc hone harmed hlate hunit hrep honly hq => ?_, fun s i h => ?_⟩
  · exact quadTransition_hits hr hsrc hone harmed hlate hunit hrep (fun j hj => honly j hj.1 hj.2) hq
  · change Host.Outcome.next (s.lateIn i).settle = _
    unfold State.lateIn State.stakeLateHit
    rw [if_pos h]

end Sys2Proof.Machine
end

section
/-! SUPPORT. A wipe that stops a readmission lets the edits held behind it fill a wiped slot again. -/
namespace Sys2Proof.Machine
set_option Elab.async false

/-- An IMM edit of channel 0's waveform object that waits in its apply queue. -/
def slotEdit (sub : Nat) (data : List Byte) : Edit := ⟨.obj 0x3041 sub data, .imm, some .can, 0⟩
/-- A word of the selected slot. -/
def wordEdits (w v : Nat) : List Edit := [slotEdit 2 (leBytes 1 w), slotEdit 3 (leBytes 4 v)]
/-- The smallest waveform that passes its check, written to slot 1: one sub-pulse at 0 with steps of 1, a FIN_T of 4. -/
def waveformEdits : List Edit :=
  slotEdit 1 (leBytes 1 1) :: wordEdits 2 0x104 ++ wordEdits 4 0x10000 ++ wordEdits 5 1 ++ wordEdits 6 1 ++ [slotEdit 4 (leBytes 1 1)]

/-- Channel 0 in READMITTING with both slots protected, slot 0 in effect; a LINE edit waits for the boundary, and behind it the edits that
write and check a waveform in slot 1. -/
def waveformBehindReadmission : State :=
  { State.reset with
    dev := { Dev.reset with boot := .up }
    regs := [((Lv.PROT0 0).key, 1), ((Lv.PROT1 0).key, 1)]
    ch := State.reset.ch.set 0 { Chan.reset with
      st := .readmitting
      applyQ := ⟨.obj 0x3040 2 (leBytes 2 1024), .line, none, 0⟩ :: waveformEdits } }

/-- Refutes O31: a wipe that finds a channel in READMITTING with a protected slot in effect makes it IDLE, so that its apply queue drains in
the same step; the edits that waited there write and check slot 1 again, which is VALID afterwards although the wipe took it. -/
theorem not_wipesClearSecrets : ¬ Obligations.WipesClearSecrets := by
  unfold Obligations.WipesClearSecrets
  intro h
  obtain ⟨hwipe, -⟩ := h waveformBehindReadmission (by decide +kernel)
  obtain ⟨t, ht, -, -, -, -, -, hprot, -⟩ := hwipe .tamper rfl
  obtain ⟨-, hvalid⟩ := hprot 0 1 (by decide +kernel)
  have hset : (stateAfter (.wipe .tamper) waveformBehindReadmission).has (Lv.VALID (0 : Ch) (1 : Fin 2)) = true := by decide +kernel
  rw [stateAfter_of_next ht, hvalid] at hset
  cases hset
end Sys2Proof.Machine
end

section
/-! SUPPORT. What a device reset leaves (R510 to R512). -/
namespace Sys2Proof.Machine

section Reset
variable (s : State) (src : Nat) (b : BootStage)

theorem deviceReset_regs : (s.deviceReset src b).regs = (State.reset.put Su.RESET_SRC src).regs := rfl
theorem deviceReset_get {f : Fld} (h : f.key ≠ Su.RESET_SRC.key) : (s.deviceReset src b).get f = f.rst :=
  (get_congr (deviceReset_regs s src b) f).trans (get_put_other _ _ h.symm)
theorem deviceReset_eff (f : Fld) : (s.deviceReset src b).eff f = f.rst := by
  have h : Su.RESET_SRC.key ≠ f.effKey := by simp only [Fld.effKey, Fld.key, Su.RESET_SRC]; omega
  exact (eff_put_other State.reset src h)
theorem deviceReset_src : (s.deviceReset src b).get Su.RESET_SRC = src % 16 :=
  (get_congr (deviceReset_regs s src b) _).trans (get_put_same _ _ _)
/-- A channel after a device reset: only its rails stand where they stood. -/
def Chan.afterReset (c : Chan) (t : Nat) : Chan :=
  { Chan.reset with drive := { Drive.reset with railF := c.drive.railF.rest t, railW := c.drive.railW.rest t } }
theorem deviceReset_ch (n : Ch) : ((s.deviceReset src b).ch[n]) = (s.ch[n]).afterReset s.tb := by
  unfold State.deviceReset
  exact Vector.getElem_map _ _
theorem deviceReset_cu (m : Cun) : ((s.deviceReset src b).cu[m]) =
    { Cu.reset with a := (s.cu[m]).a, b := (s.cu[m]).b, swHome := (s.cu[m]).swHome, swLimP := (s.cu[m]).swLimP, swLimN := (s.cu[m]).swLimN } := by
  unfold State.deviceReset
  exact Vector.getElem_map _ _

theorem shadowed_ne_src (n : Ch) : ∀ f ∈ shadowed n, f.key ≠ Su.RESET_SRC.key := by revert n; decide
/-- The device after its reset has nothing to do of itself. -/
theorem deviceReset_rests (hb : b = .held ∨ b = .released) : (s.deviceReset src b).rests = true := by
  have hch : ∀ n ∈ allCh, (s.deviceReset src b).chRests n = true := fun n _ => by
    have hst : (s.deviceReset src b).chSt n = .off := by unfold State.chSt; rw [deviceReset_ch]; rfl
    have hrun : (s.deviceReset src b).inRun n = false := by unfold State.inRun; rw [hst]; rfl
    have hkey : ∀ f ∈ shadowed n, f.key ≠ Su.RESET_SRC.key := shadowed_ne_src n
    have hshadow : (shadowed n).all (fun f => (s.deviceReset src b).eff f == (s.deviceReset src b).get f) = true :=
      List.all_eq_true.mpr fun f hf => by rw [deviceReset_eff, deviceReset_get s src b (hkey f hf)]; exact beq_self_eq_true _
    unfold State.chRests
    rw [hshadow, hrun, hst, deviceReset_ch]
    simp [Chan.afterReset, Chan.reset, Drive.reset]
  have hask : (s.deviceReset src b).pixAsked = false := by
    unfold State.pixAsked State.has
    rw [deviceReset_get s src b (by decide), deviceReset_get s src b (by decide), deviceReset_get s src b (by decide)]
    rfl
  have hbench : ∀ n ∈ allCh, (!(s.deviceReset src b).benchDue n) = true := fun n _ => by
    unfold State.benchDue State.benchOn
    obtain rfl | rfl := hb <;> rfl
  have hpix : (s.deviceReset src b).pixWanted = false := by unfold State.pixWanted; rw [hask]; exact Bool.and_false _
  have hup : (s.deviceReset src b).dev.boot ≠ .up := by obtain rfl | rfl := hb <;> exact nofun
  unfold State.rests
  rw [List.all_eq_true.mpr hch, List.all_eq_true.mpr hbench, hpix, decide_eq_false hup]
  rfl
end Reset

/-! #### The flash -/

theorem reply_flash (s : State) (p : Option Port) (idx sub a : Nat) : (s.reply p idx sub a).flash = s.flash := by
  cases p with
  | none => rfl
  | some q => exact (Undisturbed.answer s q idx sub a).flash
/-- A save that is over writes a copy: the firmware slots and the one named for the next reset stay. -/
theorem saveSettle_slots (s : State) : s.saveSettle.flash.slots = s.flash.slots ∧ s.saveSettle.flash.nextBoot = s.flash.nextBoot := by
  unfold State.saveSettle
  split
  · split
    · rw [reply_flash]
      simp only [Flash.journal]
      split <;> exact ⟨rfl, rfl⟩
    · exact ⟨rfl, rfl⟩
  · exact ⟨rfl, rfl⟩
theorem afterReset_copies {s : State} (h : s.flash.saving = none) : s.saveSettle.flash.afterReset.copies = s.flash.copies := by
  rw [saveSettle_of_not_due (by unfold State.saveDue; rw [h]; rfl)]
  exact if_neg (by rw [h]; decide)
theorem afterReset_copies_saving {s : State} {v : Saving} (h : s.flash.saving = some v) (ht : s.tb < v.due) :
    s.saveSettle.flash.afterReset.copies = s.flash.copies.set s.flash.older none := by
  rw [saveSettle_of_not_due (by unfold State.saveDue; rw [h]; exact decide_eq_false (Nat.not_le.mpr ht))]
  exact if_pos (by rw [h]; rfl)

/-! #### The commands -/

/-- What a device reset leaves, as its three commands share it. -/
theorem deviceReset_leaves (s : State) (src : Nat) (b : BootStage) (hsrc : src < 16) :
    let t := s.deviceReset src b
    (∀ f : Fld, f.key ≠ Su.RESET_SRC.key → t.get f = f.rst ∧ t.eff f = f.rst) ∧ t.get Su.RESET_SRC = src ∧
      t.otp.words = s.otp.words ∧ t.otp.rows = s.otp.rows ∧ t.otp.arm = none ∧ t.flash.slots = s.flash.slots ∧
      (s.flash.saving = none → t.flash.copies = s.flash.copies) ∧
      (∀ v : Saving, s.flash.saving = some v → s.tb < v.due → t.flash.copies = s.flash.copies.set s.flash.older none) ∧
      t.flash.bootSlot = s.flash.nextBoot ∧ t.flash.nextBoot = s.flash.nextBoot ∧ t.can.nodeId = s.can.nodeId ∧
      (∀ m : Cun, (t.cu[m]).a = (s.cu[m]).a ∧ (t.cu[m]).b = (s.cu[m]).b ∧ (t.cu[m]).swHome = (s.cu[m]).swHome ∧
        (t.cu[m]).swLimP = (s.cu[m]).swLimP ∧ (t.cu[m]).swLimN = (s.cu[m]).swLimN ∧ (t.cu[m]).pos = 0) ∧
      t.pcie.perst = s.pcie.perst ∧ t.dev.tamperLow = s.dev.tamperLow ∧
      (∀ n : Ch, t.ch[n] = { Chan.reset with drive := { Drive.reset with
        railF := (s.ch[n]).drive.railF.rest s.tb, railW := (s.ch[n]).drive.railW.rest s.tb } }) ∧
      t.dma = State.reset.dma ∧ t.sp = [] ∧ t.epoch = .openE ∧ t.dev.boot = b ∧ t.pending = s.pending ∧ t.out = s.out := by
  obtain ⟨hslots, hnext⟩ := saveSettle_slots s
  refine ⟨fun f hf => ⟨deviceReset_get s src b hf, deviceReset_eff s src b f⟩, ?_, rfl, rfl, rfl, hslots, afterReset_copies,
    fun _ => afterReset_copies_saving, hnext, hnext, rfl, fun m => ?_, rfl, rfl, deviceReset_ch s src b, rfl, rfl, rfl, rfl, rfl, rfl⟩
  · rw [deviceReset_src, Nat.mod_eq_of_lt hsrc]
  · rw [deviceReset_cu]
    exact ⟨rfl, rfl, rfl, rfl, rfl, rfl⟩
/-- Each of the three commands is the device reset of its source. -/
theorem exec_deviceReset {s : State} {c : Instr} {src : Nat} {b : BootStage}
    (hc : (c, src, b) ∈ [(Instr.resetNLow, 2, BootStage.held), (Instr.brownOut, 3, .held), (Instr.nmtResetNode, 4, .released)])
    (hnode : c = .nmtResetNode → s.anyBusy = false ∧ s.canUp = true ∧ s.can.nmt ≠ .init)
    (hheld : s.dev.boot = .held → s.get Su.RESET_SRC ≠ 0) : exec c s = .next (s.deviceReset src b) := by
  have hnow : ∀ k, s.resetNow k = s.deviceReset k .held := fun k => by
    unfold State.resetNow
    rw [if_neg fun h => hheld h.1 h.2]
  have hpin : ∀ k, (s.resetNow k).settle = s.deviceReset k .held := fun k => by
    rw [hnow, settle_of_rests (deviceReset_rests s k .held (.inl rfl))]
  simp only [List.mem_cons, Prod.mk.injEq, List.not_mem_nil, or_false] at hc
  obtain ⟨rfl, rfl, rfl⟩ | ⟨rfl, rfl, rfl⟩ | ⟨rfl, rfl, rfl⟩ := hc
  · exact congrArg _ (hpin 2)
  · exact congrArg _ (hpin 3)
  · obtain ⟨hbusy, hup, hnmt⟩ := hnode rfl
    have hreset : s.nmtResetNode = s.deviceReset 4 .released := by
      unfold State.nmtResetNode
      rw [if_neg (by simp [hup, hnmt]), if_neg (by simp [hbusy])]
    refine congrArg Host.Outcome.next ?_
    rw [hreset, settle_of_rests (deviceReset_rests s 4 .released (.inr rfl))]
theorem resetNLow_first {s : State} (hb : s.dev.boot = .held) (h0 : s.get Su.RESET_SRC = 0) : exec .resetNLow s = .next (s.deviceReset 0 .held) := by
  refine congrArg Host.Outcome.next ?_
  unfold State.resetNow
  rw [if_pos ⟨hb, h0⟩, settle_of_rests (deviceReset_rests s 0 .held (.inl rfl))]

end Sys2Proof.Machine
end

section
/-! SUPPORT. Rails that ramp to LV0 behind which the switch opens (R185), and what of a rest they leave. -/
namespace Sys2Proof.Machine

/-! #### Both rails ramp to LV0 and the switch opens -/

theorem modCh_congr {s : State} {n : Ch} {f g : Chan → Chan} (h : f (s.ch[n]) = g (s.ch[n])) : s.modCh n f = s.modCh n g := by
  unfold State.modCh; rw [h]
section Ramp
variable (s : State) (n : Ch)

/-- The higher of the levels at which the rails stand. -/
def State.topLevel : Nat := max ((s.ch[n]).drive.railF.levelAt s.tb) ((s.ch[n]).drive.railW.levelAt s.tb)
/-- A ramp from a level to LV0 that begins at a tick. -/
def rampFrom (l t : Nat) : RailRun := ⟨l, none, [⟨t, t, rampDown l ++ [], rampStep, none⟩]⟩
theorem rampFrom_ends (l t : Nat) : (rampFrom l t).ends = t + 1920 * l := by
  simp [rampFrom, RailRun.ends, RailMove.ends, rampDown, rampStep, Nat.mul_comm]
/-- The drive of a channel whose rails have begun to ramp down at a tick. -/
def Drive.lowering (d : Drive) (t : Nat) : Drive :=
  { d with railF := rampFrom (d.railF.levelAt t) t, railW := rampFrom (d.railW.levelAt t) t, railsRest := false, precharging := false,
           bleeding := true, vhvAt := none }
/-- The same, with the tick at which its switch opens behind them. -/
def Drive.ramping (d : Drive) (t : Nat) : Drive :=
  { d.lowering t with openAt := some (t + 1920 * max (d.railF.levelAt t) (d.railW.levelAt t)) }
theorem planRail_same (w : Bool) (r : RailRun) : ∃ o, s.planRail n w r = { s.setRail n w r with out := o } := by
  unfold State.planRail
  simp only
  split
  · exact ⟨_, rfl⟩
  · exact ⟨_, rfl⟩
theorem switchDrop_same : ∃ d, s.switchDrop n = { s with dev := { s.dev with supCmd := d } } := by
  unfold State.switchDrop
  split
  · exact ⟨_, rfl⟩
  · exact ⟨_, rfl⟩
theorem rampRails_same : ∃ o, s.rampRails n 0 none = { s.modDrive n (fun d => { d with
    railF := rampFrom (d.railF.levelAt s.tb) s.tb, railW := rampFrom (d.railW.levelAt s.tb) s.tb }) with out := o } := by
  let lF := (s.ch[n]).drive.railF.levelAt s.tb
  let lW := (s.ch[n]).drive.railW.levelAt s.tb
  obtain ⟨o, ho⟩ := planRail_same s n false (rampFrom lF s.tb)
  let u : State := { s.modCh n (fun c => { c with drive := { c.drive with railF := rampFrom lF s.tb } }) with out := o }
  have hF : s.rampRail n 0 none false = u := ho
  have hW : (u.ch[n]).drive.railW = (s.ch[n]).drive.railW := by
    change (((s.modCh n (fun c => { c with drive := { c.drive with railF := rampFrom lF s.tb } })).ch)[n]).drive.railW = _
    rw [modCh_same]
  obtain ⟨o', ho'⟩ := planRail_same u n true (rampFrom lW s.tb)
  refine ⟨o', ?_⟩
  have hlevel : u.rampRail n 0 none true = u.planRail n true (rampFrom ((u.ch[n]).drive.railW.levelAt s.tb) s.tb) := rfl
  have hboth : (s.modCh n (fun c => { c with drive := { c.drive with railF := rampFrom lF s.tb } })).modCh n
      (fun c => { c with drive := { c.drive with railW := rampFrom lW s.tb } }) =
      s.modDrive n (fun d => { d with railF := rampFrom (d.railF.levelAt s.tb) s.tb, railW := rampFrom (d.railW.levelAt s.tb) s.tb }) := by
    rw [modCh_modCh]
    exact modCh_congr rfl
  unfold State.rampRails
  rw [hF, hlevel, hW, ho', ← hboth]
  rfl
/-- How a channel that does not bleed yet ramps down. -/
theorem rampAndOpen_eq (hb : (s.ch[n]).drive.bleeding = false) : ∃ o d, s.rampAndOpen n = State.openSettle n
    { (s.put (Lv.PRECHG n) 0).modDrive n (fun d => d.ramping s.tb) with out := o, dev := { s.dev with supCmd := d } } := by
  obtain ⟨d, hd⟩ := switchDrop_same s n
  obtain ⟨o, ho⟩ := rampRails_same (s.switchDrop n) n
  refine ⟨o, d, ?_⟩
  let q : State := s.put (Lv.PRECHG n) 0
  let p : State := { q.modDrive n (fun d => d.lowering s.tb) with out := o, dev := { s.dev with supCmd := d } }
  have hp : (((s.switchDrop n).rampRails n 0 none).unflag (Lv.PRECHG n)).modDrive n (fun d =>
      { d with railsRest := false, precharging := false, bleeding := true, vhvAt := none }) = p := by
    rw [ho, hd]
    simp [p, q, State.modDrive, State.modCh, State.unflag, State.put, Drive.lowering]
  have hend : p.railsEnd n = s.tb + 1920 * s.topLevel n := by
    have hdrive : (p.ch[n]).drive = (s.ch[n]).drive.lowering s.tb :=
      congrArg Chan.drive (modCh_same q n (fun c => { c with drive := c.drive.lowering s.tb }))
    unfold State.railsEnd State.topLevel
    rw [hdrive]
    simp only [Drive.lowering, rampFrom_ends]
    omega
  unfold State.rampAndOpen
  simp only
  rw [if_neg (by rw [hb]; exact Bool.false_ne_true), hp, hend]
  refine congrArg (State.openSettle n) ?_
  simp [p, q, State.modDrive, State.modCh, Drive.ramping, State.topLevel]
/-- When the switch of a channel that begins to ramp opens: at once where both rails stand at LV0. -/
def State.opensAt : Option Nat := if s.topLevel n = 0 then none else some (s.tb + 1920 * s.topLevel n)
/-- The channel with its rails on their way down. -/
def State.lowered : State :=
  (if s.topLevel n = 0 then (s.put (Lv.PRECHG n) 0).put (Lv.HV_ON n) 0 else s.put (Lv.PRECHG n) 0).modDrive n
    (fun d => { d.lowering s.tb with openAt := s.opensAt n })
/-- A channel that does not bleed yet ramps down; what leaves for the drive die and the supervisor is left open here. -/
theorem rampAndOpen_lowered (hb : (s.ch[n]).drive.bleeding = false) :
    ∃ o d, s.rampAndOpen n = { s.lowered n with out := o, dev := { s.dev with supCmd := d } } := by
  obtain ⟨o, d, he⟩ := rampAndOpen_eq s n hb
  rw [he]
  have hopen : ((s.put (Lv.PRECHG n) 0).modDrive n (fun d => d.ramping s.tb)).ch[n].drive.openAt = some (s.tb + 1920 * s.topLevel n) :=
    congrArg (fun (c : Chan) => c.drive.openAt) (modCh_same (s.put (Lv.PRECHG n) 0) n (fun c => { c with drive := c.drive.ramping s.tb }))
  unfold State.openSettle
  simp only
  rw [hopen]
  by_cases h0 : s.topLevel n = 0
  · refine ⟨o, some ⟨n, false, s.tb, false⟩, ?_⟩
    rw [if_pos (by simp [h0])]
    unfold State.lowered State.opensAt
    rw [if_pos h0, if_pos h0]
    simp [State.switchOpen, State.switchSent, State.modDev, State.unflag, State.put, State.modDrive, State.modCh, Drive.ramping, Drive.lowering]
  · refine ⟨o, d, ?_⟩
    rw [if_neg (by simp [h0])]
    unfold State.lowered State.opensAt
    rw [if_neg h0, if_neg h0]
    rfl
theorem rampAndOpen_bleeding (hb : (s.ch[n]).drive.bleeding = true) : s.rampAndOpen n = s := if_pos hb
end Ramp

/-! #### What the ramps of a device leave of a rest -/

/-- A drive that an open switch and a ramp down tell from another. -/
structure Drive.Lower (d e : Drive) (t : Nat) : Prop where
  wiped : e.wiped = d.wiped
  wipeStop : e.wipeStop = d.wipeStop
  prechgAt : e.prechgAt = d.prechgAt
  vhvAt : d.vhvAt = none → e.vhvAt = none
  openAt : d.openAt.any (fun x => decide (x ≤ t)) = false → e.openAt.any (fun x => decide (x ≤ t)) = false
/-- `t` is `s` with rails of some channels on their way down: registers but for two bits of each channel, and channels but for their
drives, are as they were. -/
structure Lower (s t : State) : Prop where
  same : ∃ r c o d, t = { s with regs := r, ch := c, out := o, dev := { s.dev with supCmd := d } }
  get : ∀ f : Fld, (∀ n : Ch, (Lv.PRECHG n).key ≠ f.key ∧ (Lv.HV_ON n).key ≠ f.key) → t.get f = s.get f
  low : ∀ f : Fld, f.rst = 0 → t.get f = s.get f ∨ t.get f = 0
  eff : ∀ f : Fld, t.eff f = s.eff f
  chan : ∀ n : Ch, ∃ e, t.ch[n] = { s.ch[n] with drive := e } ∧ (s.ch[n]).drive.Lower e s.tb

theorem Drive.Lower.refl (d : Drive) (t : Nat) : d.Lower d t := ⟨rfl, rfl, rfl, id, id⟩
theorem Drive.Lower.trans {d e g : Drive} {t : Nat} (h : d.Lower e t) (k : e.Lower g t) : d.Lower g t :=
  ⟨k.wiped.trans h.wiped, k.wipeStop.trans h.wipeStop, k.prechgAt.trans h.prechgAt, k.vhvAt ∘ h.vhvAt, k.openAt ∘ h.openAt⟩

namespace Lower
variable {s t u : State}

theorem refl (s : State) : Lower s s := ⟨⟨_, _, _, _, rfl⟩, fun _ _ => rfl, fun _ _ => .inl rfl, fun _ => rfl, fun _ => ⟨_, rfl, .refl _ _⟩⟩
theorem tb (h : Lower s t) : t.tb = s.tb := by obtain ⟨_, _, _, _, rfl⟩ := h.same; rfl
theorem trans (h : Lower s t) (k : Lower t u) : Lower s u where
  same := by obtain ⟨_, _, _, _, rfl⟩ := h.same; obtain ⟨_, _, _, _, rfl⟩ := k.same; exact ⟨_, _, _, _, rfl⟩
  get f hf := (k.get f hf).trans (h.get f hf)
  low f hf := (k.low f hf).elim (fun e => (h.low f hf).imp e.trans e.trans) .inr
  eff f := (k.eff f).trans (h.eff f)
  chan n := by
    obtain ⟨e, he, hd⟩ := h.chan n
    obtain ⟨g, hg, kd⟩ := k.chan n
    rw [he, h.tb] at kd
    exact ⟨g, by rw [hg, he], hd.trans kd⟩
/-- A bit of a channel that a ramp clears. -/
theorem clear (h : Lower s t) (n : Ch) {f : Fld} (hf : f = Lv.PRECHG n ∨ f = Lv.HV_ON n) : Lower s (t.put f 0) := by
  have hkey : f.key < 2 ^ 60 ∧ f.rst = 0 := by obtain rfl | rfl := hf <;> exact ⟨by simp only [Fld.key, Lv.PRECHG, Lv.HV_ON]; omega, rfl⟩
  refine h.trans ⟨⟨_, _, _, _, rfl⟩, fun g hg => get_put_other _ _ ?_, fun g hg => ?_, fun g => eff_put_other _ _ ?_, fun _ => ⟨_, rfl, .refl _ _⟩⟩
  · obtain rfl | rfl := hf
    · exact (hg n).1
    · exact (hg n).2
  · by_cases hk : f.key = g.key
    · refine .inr ?_
      unfold State.get State.put
      rw [hg, hkey.2, ← hk, sparseGet_put_same, Nat.zero_mod]
    · exact .inl (get_put_other _ _ hk)
  · unfold Fld.effKey; omega

theorem modDrive (h : Lower s t) (n : Ch) {f : Drive → Drive} (hf : ∀ d : Drive, d.Lower (f d) s.tb) : Lower s (t.modDrive n f) := by
  refine h.trans ⟨⟨_, _, _, _, rfl⟩, fun _ _ => rfl, fun _ _ => .inl rfl, fun _ => rfl, fun m => ?_⟩
  by_cases hm : m = n
  · subst hm
    exact ⟨f (t.ch[m]).drive, modCh_same _ _ _, h.tb ▸ hf _⟩
  · exact ⟨(t.ch[m]).drive, modCh_other _ _ (Ne.symm hm), .refl _ _⟩
theorem beside (h : Lower s t) (o : List Out) (d : Option SwitchCmd) : Lower s { t with out := o, dev := { t.dev with supCmd := d } } := by
  refine h.trans ⟨⟨_, _, _, _, rfl⟩, fun _ _ => rfl, fun _ _ => .inl rfl, fun _ => rfl, fun m => ⟨(t.ch[m]).drive, rfl, .refl _ _⟩⟩
theorem lowered (s : State) (n : Ch) : Lower s (s.lowered n) := by
  have hregs : Lower s (if s.topLevel n = 0 then (s.put (Lv.PRECHG n) 0).put (Lv.HV_ON n) 0 else s.put (Lv.PRECHG n) 0) := by
    split
    · exact ((refl s).clear n (.inl rfl)).clear n (.inr rfl)
    · exact (refl s).clear n (.inl rfl)
  refine hregs.modDrive n fun d => ⟨rfl, rfl, rfl, fun _ => rfl, fun _ => ?_⟩
  unfold State.opensAt
  split
  · rfl
  · exact decide_eq_false (by omega)
theorem rampAndOpen (h : Lower s t) (n : Ch) : Lower s (t.rampAndOpen n) := by
  cases hb : (t.ch[n]).drive.bleeding with
  | true => rw [rampAndOpen_bleeding t n hb]; exact h
  | false =>
    obtain ⟨o, d, he⟩ := rampAndOpen_lowered t n hb
    have hdev : (t.lowered n).dev = t.dev := by unfold State.lowered; split <;> rfl
    rw [he, ← hdev]
    exact h.trans ((lowered t n).beside o d)

end Lower

/-! #### A slot whose finishing time falls -/

section Fin
variable (d : SlotDesc) {x : Nat}

theorem moveTime_le (a t step : Nat) {x y : Nat} (h : x ≤ y) : moveTime a t step x ≤ moveTime a t step y := by
  unfold moveTime
  split
  · exact Nat.le_refl _
  · split <;> omega
theorem finish_le (p : SubPulse) (rest : Nat) {x y : Nat} (h : x ≤ y) : p.finish rest x ≤ p.finish rest y := by
  have h1 := moveTime_le (rest * 256) p.tgtA p.stepA h
  have h2 := moveTime_le p.tgtA p.tgtB p.stepB h
  have h3 := moveTime_le p.tgtB (rest * 256) p.stepR h
  unfold SubPulse.finish
  omega
theorem spEnd_le (h : x ≤ d.fin) (j : Nat) : ({ d with fin := x } : SlotDesc).spEnd j ≤ d.spEnd j := finish_le _ _ h
theorem foldl_max_le {f g : Nat → Nat} (h : ∀ j, f j ≤ g j) (l : List Nat) :
    ∀ {a b : Nat}, a ≤ b → l.foldl (fun (m : Nat) (j : Nat) => max m (f j)) a ≤ l.foldl (fun (m : Nat) (j : Nat) => max m (g j)) b := by
  induction l with
  | nil => exact id
  | cons j l ih =>
    intro a b hab
    have := h j
    exact ih (show max a (f j) ≤ max b (g j) by omega)
theorem largestEnd_le (h : x ≤ d.fin) : ({ d with fin := x } : SlotDesc).largestEnd ≤ d.largestEnd :=
  foldl_max_le (spEnd_le d h) _ (Nat.le_refl 0)
end Fin
/-- A link check that passes passes every part. -/
theorem ltc_eq_zero {s : State} {n : Ch} {sl : Nat} : s.ltc n sl = 0 ↔
    s.linkUp n = true ∧ 8 * s.largestEnd n sl + 6144 ≤ max (s.get (Tr.MIN_PER n)) (s.slotLineTime n sl) ∧
    ¬ ((s.spDefined n sl).any (fun j => decide (0 < j) && (j - 1) ∈ s.spDefined n sl &&
      [1, 2, 3].any (fun d => bit (s.driveMask n sl d) j != bit (s.driveMask n sl d) (j - 1)) &&
      decide (s.get (Sl.SP_START n sl j) < s.spEnd n sl (j - 1) + 192)) = true) ∧
    s.nozzles n ≤ s.get (Lk.FE_NOZ n) ∧
    ¬ (([1, 2, 3].any (fun d => s.driveRail n sl d && s.driveMask n sl d ≠ 0) && !bit (s.get (Lk.FE_CAP n)) 1) = true) := by
  have hfive (a b c d e : Prop) [Decidable a] [Decidable b] [Decidable c] [Decidable d] [Decidable e] :
      (if a then 1 else if b then 2 else if c then 3 else if d then 4 else if e then 5 else 0) = 0 ↔ ¬a ∧ ¬b ∧ ¬c ∧ ¬d ∧ ¬e := by
    split_ifs <;> simp [*]
  unfold State.ltc
  rw [hfive, Bool.not_eq_true', Bool.not_eq_false, Nat.not_lt, Nat.not_lt]

namespace Lower
variable {s t : State}

/-- No word but one of those that hold the two bits differs. -/
theorem word (h : Lower s t) {f : Fld} (hf : f.lsb < 32 ∧ (f.addr % 0x1000 ≠ 0x508 ∨ 2 ≤ f.lsb)) : t.get f = s.get f :=
  h.get f fun n => by
    simp only [Fld.key, Lv.PRECHG, Lv.HV_ON]
    omega
theorem subPulse (h : Lower s t) (n : Ch) (sl : Nat) {j : Nat} (hj : j < 4) : t.subPulse n sl j = s.subPulse n sl j := by
  unfold State.subPulse
  simp (disch :=
    simp only [Sl.SP_START, Sl.TGT_A, Sl.STEP_A, Sl.HOLD_A, Sl.TGT_B, Sl.STEP_B, Sl.HOLD_B, Sl.STEP_R]
    omega) only [h.word]
/-- Of a slot only the finishing time can have fallen. -/
theorem slotDesc (h : Lower s t) (n : Ch) (sl : Nat) :
    ∃ x, x ≤ (s.slotDesc n sl).fin ∧ t.slotDesc n sl = { s.slotDesc n sl with fin := x } := by
  have hsp : (List.range 4).map (fun j => t.subPulse n sl j) = (List.range 4).map (fun j => s.subPulse n sl j) :=
    List.map_congr_left fun j hj => h.subPulse n sl (List.mem_range.mp hj)
  have hfin : t.get (Sl.FIN_T n sl) ≤ s.get (Sl.FIN_T n sl) := (h.low _ rfl).elim Nat.le_of_eq fun e => e ▸ Nat.zero_le _
  refine ⟨_, hfin, ?_⟩
  unfold State.slotDesc State.has
  simp (disch :=
    simp only [Sl.REST, Sl.QUIET, Sl.SP_EN, Sl.RAIL1, Sl.RAIL2, Sl.RAIL3, Sl.MASK1, Sl.MASK2, Sl.MASK3]
    omega) only [h.word, hsp]
theorem linkUp (h : Lower s t) (n : Ch) : t.linkUp n = s.linkUp n := by
  obtain ⟨e, he, -⟩ := h.chan n
  unfold State.linkUp State.linkSt
  rw [he]
/-- A link check that passes still passes. -/
theorem ltc (h : Lower s t) (n : Ch) (sl : Nat) (hs : s.ltc n sl = 0) : t.ltc n sl = 0 := by
  obtain ⟨x, hx, hd⟩ := h.slotDesc n sl
  have hend := spEnd_le (s.slotDesc n sl) hx
  have hlargest := largestEnd_le (s.slotDesc n sl) hx
  rw [ltc_eq_zero] at hs ⊢
  obtain ⟨hup, htime, hstart, hnoz, hcap⟩ := hs
  have hmask : t.driveMask n sl = s.driveMask n sl := by funext j; unfold State.driveMask; rw [hd]; rfl
  have hrail : t.driveRail n sl = s.driveRail n sl := by funext j; unfold State.driveRail; rw [hd]; rfl
  have hdef : t.spDefined n sl = s.spDefined n sl := by unfold State.spDefined; rw [hd]; rfl
  refine ⟨(h.linkUp n).trans hup, ?_, ?_, ?_, ?_⟩
  · have hmin : t.get (Tr.MIN_PER n) = s.get (Tr.MIN_PER n) := h.word (by simp only [Tr.MIN_PER]; omega)
    unfold State.largestEnd State.slotLineTime SlotDesc.lineTime at htime ⊢
    rw [hd, hmin]
    dsimp only at htime hlargest ⊢
    omega
  · rw [hdef]
    refine fun hany => hstart (List.any_eq_true.mpr ?_)
    obtain ⟨j, hj, hc⟩ := List.any_eq_true.mp hany
    have hj4 : j < 4 := List.mem_range.mp (List.mem_filter.mp hj).1
    have hstep : t.get (Sl.SP_START n sl j) = s.get (Sl.SP_START n sl j) := h.word (by simp only [Sl.SP_START]; omega)
    have hle : t.spEnd n sl (j - 1) ≤ s.spEnd n sl (j - 1) := by unfold State.spEnd; rw [hd]; exact hend _
    rw [hmask, hstep] at hc
    simp only [Bool.and_eq_true, decide_eq_true_eq] at hc ⊢
    exact ⟨j, hj, hc.1, by omega⟩
  · have hnum : t.nozzles n = s.nozzles n := h.word (by simp only [Ld.NOZZLES]; omega)
    have hfar : t.get (Lk.FE_NOZ n) = s.get (Lk.FE_NOZ n) := h.word (by simp only [Lk.FE_NOZ]; omega)
    rw [hnum, hfar]
    exact hnoz
  · have hfar : t.get (Lk.FE_CAP n) = s.get (Lk.FE_CAP n) := h.word (by simp only [Lk.FE_CAP]; omega)
    rw [hmask, hrail, hfar]
    exact hcap
end Lower

end Sys2Proof.Machine
end

section
/-! SUPPORT. A device at rest whose rails go down, and the supervisor whose link is silent (R510). -/
namespace Sys2Proof.Machine

/-- A device with nothing due, with every shadow of a channel outside RUN in effect and an epoch that stands, rests. -/
theorem rests_intro {s : State} (h : NothingDue s) (hs : ∀ n : Ch, s.inRun n = false → ∀ f ∈ shadowed n, s.eff f = s.get f)
    (he : s.epochStands = true) : s.rests = true := by
  have hch : ∀ n : Ch, s.chRests n = true := fun n => by
    have hn := h.chan n
    have hkept : (s.chParked n || (s.ch[n]).kept.isEmpty) = true := by
      obtain e | e := hn.kept
      · rw [e]; rfl
      · rw [e]; exact Bool.or_true _
    unfold State.chRests
    rw [hn.switch, hn.ramp, hkept]
    cases hr : s.inRun n with
    | true => rw [if_pos rfl, hn.free hr]; rfl
    | false =>
      have hshadow : (shadowed n).all (fun f => s.eff f == s.get f) = true := List.all_eq_true.mpr fun f hf => by
        rw [hs n hr f hf]
        exact beq_self_eq_true _
      have hready : (decide (s.chSt n = .idle) && s.has (Lv.PRECHG n) && s.linkUp n && (s.ch[n]).readmitK.isSome) = false := by
        cases hk : (s.ch[n]).readmitK with
        | none => exact Bool.and_false _
        | some k =>
          refine Bool.eq_false_iff.mpr fun hall => ?_
          simp only [Bool.and_eq_true, decide_eq_true_eq] at hall
          obtain ⟨⟨⟨hi, hp⟩, hl⟩, -⟩ := hall
          rw [hn.readmit hr hi hp hl] at hk
          cases hk
      rw [if_neg (by decide), hn.queue hr, hn.wiped hr, hshadow, hready]
      rfl
  have htoken : (decide (s.dev.token = .pcie) && s.pcieLost && decide (s.dev.boot = .up)) = false :=
    Bool.eq_false_iff.mpr fun hall => h.token (by simpa [and_assoc] using hall)
  unfold State.rests
  rw [h.wake, List.all_eq_true.mpr fun n _ => hch n, htoken, h.pix, he, h.save,
    List.all_eq_true.mpr fun n _ => by rw [(h.chan n).bench]; rfl]
  rfl

theorem epochStands_of_rests {s : State} (h : s.rests = true) : s.epochStands = true := by
  unfold State.rests at h
  simp only [Bool.and_eq_true] at h
  exact h.1.1.2
theorem shadow_of_rests {s : State} (h : s.rests = true) (n : Ch) (hr : s.inRun n = false) : ∀ f ∈ shadowed n, s.eff f = s.get f := by
  unfold State.rests at h
  simp only [Bool.and_eq_true, List.all_eq_true, mem_allCh, true_implies] at h
  obtain ⟨⟨⟨⟨⟨⟨-, hch⟩, -⟩, -⟩, -⟩, -⟩, -⟩ := h
  have hn := hch n
  unfold State.chRests at hn
  rw [hr, if_neg (by decide)] at hn
  simp only [Bool.and_eq_true, List.all_eq_true, beq_iff_eq] at hn
  obtain ⟨-, ⟨⟨-, hshadow⟩, -⟩, -⟩ := hn
  exact hshadow
namespace Lower
variable {s t : State}

theorem chSt (h : Lower s t) (n : Ch) : t.chSt n = s.chSt n := by
  obtain ⟨e, he, -⟩ := h.chan n
  unfold State.chSt
  rw [he]
theorem inRun (h : Lower s t) (n : Ch) : t.inRun n = s.inRun n := by unfold State.inRun; rw [h.chSt n]
theorem has (h : Lower s t) {f : Fld} (hf : f.rst = 0) (ht : t.has f = true) : s.has f = true := by
  unfold State.has at ht ⊢
  rw [decide_eq_true_eq] at ht ⊢
  obtain e | e := h.low f hf
  · exact e.symm.trans ht
  · rw [e] at ht; cases ht
/-- A named channel that passes still passes: nothing it is judged by differs but for the slot's times. -/
theorem epochCheck (h : Lower s t) (n : Ch) (hs : s.epochCheck n = 0) : t.epochCheck n = 0 := by
  have hwave : t.get (wavePrep n) = s.get (wavePrep n) := h.word (by simp only [wavePrep, prepFld]; omega)
  have hvalid : t.has (Lv.VALID n (s.get (wavePrep n))) = s.has (Lv.VALID n (s.get (wavePrep n))) := by
    unfold State.has Lv.VALID
    split
    · rw [h.word (by simp only [Lv.VALID0]; omega)]
    · rw [h.word (by simp only [Lv.VALID1]; omega)]
  have htrav : (t.ch[n]).trav = (s.ch[n]).trav := by obtain ⟨e, he, -⟩ := h.chan n; rw [he]
  have hunit : t.get (Tr.CU n) = s.get (Tr.CU n) := h.word (by simp only [Tr.CU]; omega)
  have hepoch : t.get Ep.EP_CU = s.get Ep.EP_CU := h.word (by decide)
  unfold State.epochCheck at hs ⊢
  simp only at hs ⊢
  rw [hwave, h.chSt n, hvalid, htrav, hunit, hepoch]
  split at hs
  · cases hs
  split at hs
  · cases hs
  split at hs
  · cases hs
  next h1 h2 h3 =>
    rw [if_neg h1, if_neg h2, if_neg (not_not.mpr (h.ltc n _ (not_not.mp h3)))]
    exact hs
theorem epochStands (h : Lower s t) (hs : s.epochStands = true) : t.epochStands = true := by
  have hepoch : t.epoch = s.epoch := by obtain ⟨_, _, _, _, rfl⟩ := h.same; rfl
  have hmask : t.epMask = s.epMask := by unfold State.epMask; rw [h.word (by decide)]
  unfold State.epochStands at hs ⊢
  rw [hepoch, hmask]
  simp only [Bool.or_eq_true, List.all_eq_true, decide_eq_true_eq] at hs ⊢
  exact hs.imp_right fun hall n hn => h.epochCheck n (hall n hn)
theorem chanDone (h : Lower s t) (hw : s.dev.waking = none) {n : Ch} (hs : ChanDone s n) : ChanDone t n := by
  obtain ⟨e, he, hd⟩ := h.chan n
  have hdev : t.dev.boot = s.dev.boot ∧ t.dev.safeRun = s.dev.safeRun ∧ t.dev.waking = s.dev.waking := by
    obtain ⟨_, _, _, _, rfl⟩ := h.same; exact ⟨rfl, rfl, rfl⟩
  obtain ⟨hboot, hsafe, hwake⟩ := hdev
  exact {
    ramp := by rw [he, h.tb]; exact hd.openAt hs.ramp
    switch := by rw [he]; exact hd.vhvAt hs.switch
    kept := by
      have hpark : t.chParked n = s.chParked n := by
        unfold State.chParked
        rw [h.chSt n, hboot, hsafe, hwake, hw]
        rfl
      rw [hpark, he]
      exact hs.kept
    free := fun hr => by
      have hfree : t.wipedFree n = s.wipedFree n := by unfold State.wipedFree; rw [he, hd.wiped, hd.wipeStop]
      rw [hfree]
      exact hs.free ((h.inRun n).symm.trans hr)
    queue := fun hr => by rw [he]; exact hs.queue ((h.inRun n).symm.trans hr)
    wiped := fun hr => by rw [he]; exact hd.wiped.trans (hs.wiped ((h.inRun n).symm.trans hr))
    readmit := fun hr hi hp hl => by
      rw [he]
      exact hs.readmit ((h.inRun n).symm.trans hr) ((h.chSt n).symm.trans hi) (h.has rfl hp) ((h.linkUp n).symm.trans hl)
    bench := by
      refine Bool.eq_false_iff.mpr fun hdue => ?_
      have hno := hs.bench
      unfold State.benchDue State.benchOn at hdue hno
      rw [hboot, hsafe, h.chSt n, h.linkUp n, he, hd.prechgAt, h.tb] at hdue
      simp only [Bool.and_eq_true] at hdue
      obtain ⟨⟨⟨⟨hon, hoff⟩, hp⟩, hl⟩, htime⟩ := hdue
      rw [hon, hoff, h.has rfl hp, hl, htime] at hno
      cases hno }
theorem nothingDue (h : Lower s t) (hs : NothingDue s) : NothingDue t where
  chan n := h.chanDone hs.wake (hs.chan n)
  wake := by obtain ⟨_, _, _, _, rfl⟩ := h.same; exact hs.wake
  token := by obtain ⟨_, _, _, _, rfl⟩ := h.same; exact hs.token
  pix := by
    have hask : t.pixAsked = s.pixAsked := by
      unfold State.pixAsked State.has
      rw [h.word (by decide), h.word (by decide), h.word (by decide)]
    have hp := hs.pix
    unfold State.pixKept State.pixWanted at hp ⊢
    rw [hask]
    obtain ⟨_, _, _, _, rfl⟩ := h.same
    exact hp
  save := by obtain ⟨_, _, _, _, rfl⟩ := h.same; exact hs.save
theorem shadowed_not_switch (n : Ch) : ∀ f ∈ shadowed n, f.lsb < 32 ∧ (f.addr % 0x1000 ≠ 0x508 ∨ 2 ≤ f.lsb) := by revert n; decide
/-- A device at rest stays at rest when rails go down. -/
theorem rests (h : Lower s t) (hs : s.rests = true) : t.rests = true :=
  rests_intro (h.nothingDue (nothingDue_of_rests hs))
    (fun n hr f hf => by
      rw [h.eff f, h.word (shadowed_not_switch n f hf)]
      exact shadow_of_rests hs n ((h.inRun n).symm.trans hr) f hf)
    (h.epochStands (epochStands_of_rests hs))
end Lower

/-! #### The supervisor whose link is silent -/

theorem allCh_split : ∀ n : Ch, n ∉ allCh.takeWhile (· ≠ n) ∧ n ∉ (allCh.dropWhile (· ≠ n)).tail ∧
    allCh = allCh.takeWhile (· ≠ n) ++ n :: (allCh.dropWhile (· ≠ n)).tail := by decide
/-- What the turn of one channel brings about and the turns of the others keep. -/
theorem forCh_turn {P Q : State → Prop} {f : Ch → State → State} {s : State} (n : Ch) (h0 : P s) (hother : ∀ m, m ≠ n → ∀ t, P t → P (f m t))
    (hturn : ∀ t, P t → Q (f n t)) (hkeep : ∀ m, m ≠ n → ∀ t, Q t → Q (f m t)) : Q (s.forCh f) := by
  have hfold : ∀ R : State → Prop, (∀ m, m ≠ n → ∀ t, R t → R (f m t)) → ∀ (l : List Ch), n ∉ l → ∀ t, R t → R (l.foldl (fun t m => f m t) t) := by
    intro R hR l
    induction l with
    | nil => exact fun _ t ht => ht
    | cons m l ih => exact fun hn t ht => ih (List.not_mem_of_not_mem_cons hn) _ (hR m (List.ne_of_not_mem_cons hn).symm t ht)
  obtain ⟨hl, hr, he⟩ := allCh_split n
  unfold State.forCh
  conv in allCh => rw [he]
  rw [List.foldl_append]
  exact hfold Q hkeep _ hr _ (hturn _ (hfold P hother _ hl s h0))

theorem modDrive_get (s : State) (n : Ch) (g : Drive → Drive) (f : Fld) : (s.modDrive n g).get f = s.get f := rfl
theorem modDrive_drive (s : State) (n : Ch) (g : Drive → Drive) : ((s.modDrive n g).ch[n]).drive = g (s.ch[n]).drive :=
  congrArg Chan.drive (modCh_same s n (fun c => { c with drive := g c.drive }))
/-- What a ramp writes of registers and channels. -/
theorem rampAndOpen_writes (s : State) (n : Ch) (hb : (s.ch[n]).drive.bleeding = false) :
    (∀ f, (s.rampAndOpen n).get f = (s.lowered n).get f) ∧ (s.rampAndOpen n).ch = (s.lowered n).ch := by
  obtain ⟨o, d, he⟩ := rampAndOpen_lowered s n hb
  generalize s.lowered n = u at he
  rw [he]
  exact ⟨fun _ => rfl, rfl⟩
theorem lowered_get (s : State) (n : Ch) (f : Fld) : (s.lowered n).get f =
    (if s.topLevel n = 0 then (s.put (Lv.PRECHG n) 0).put (Lv.HV_ON n) 0 else s.put (Lv.PRECHG n) 0).get f := modDrive_get _ _ _ _
theorem lowered_drive (s : State) (n : Ch) :
    ((s.lowered n).ch[n]).drive = { (s.ch[n]).drive.lowering s.tb with openAt := s.opensAt n } := by
  unfold State.lowered
  rw [modDrive_drive]
  split <;> rfl
/-- What the ramp of one channel leaves of another. -/
theorem rampAndOpen_other (s : State) {m n : Ch} (h : m ≠ n) : ((s.rampAndOpen m).ch[n]) = s.ch[n] ∧
    (s.rampAndOpen m).has (Lv.PRECHG n) = s.has (Lv.PRECHG n) ∧ (s.rampAndOpen m).has (Lv.HV_ON n) = s.has (Lv.HV_ON n) := by
  cases hb : (s.ch[m]).drive.bleeding with
  | true => rw [rampAndOpen_bleeding s m hb]; exact ⟨rfl, rfl, rfl⟩
  | false =>
    obtain ⟨hregs, hchs⟩ := rampAndOpen_writes s m hb
    have hne : (m : Nat) ≠ n := Fin.val_ne_of_ne h
    have hget : ∀ f, (Lv.PRECHG m).key ≠ f.key → (Lv.HV_ON m).key ≠ f.key → (s.rampAndOpen m).has f = s.has f := fun f hp hv => by
      unfold State.has
      rw [hregs, lowered_get]
      split
      · rw [get_put_other _ _ hv, get_put_other _ _ hp]
      · rw [get_put_other _ _ hp]
    have hch : (s.lowered m).ch[n] = s.ch[n] := by
      unfold State.lowered
      refine (modCh_other _ _ h).trans ?_
      split <;> rfl
    rw [hchs]
    refine ⟨hch, hget _ ?_ ?_, hget _ ?_ ?_⟩ <;> simp only [Fld.key, Lv.PRECHG, Lv.HV_ON] <;> omega
theorem rampAndOpen_tb (s : State) (n : Ch) : (s.rampAndOpen n).tb = s.tb := ((Lower.refl s).rampAndOpen n).tb
/-- A channel on its way down, as the ramp that began at a tick leaves it. -/
structure Lowering (c : Chan) (n : Ch) (tb : Nat) (t : State) : Prop where
  prechg : t.has (Lv.PRECHG n) = false
  rest : (t.ch[n]).drive.railsRest = false
  bleeding : (t.ch[n]).drive.bleeding = true
  low : c.drive.railF.levelAt tb = 0 → c.drive.railW.levelAt tb = 0 → t.has (Lv.HV_ON n) = false
  openAt : 0 < c.drive.railF.levelAt tb ∨ 0 < c.drive.railW.levelAt tb →
    (t.ch[n]).drive.openAt = some (tb + 1920 * max (c.drive.railF.levelAt tb) (c.drive.railW.levelAt tb))
theorem lowering_rampAndOpen (s : State) (n : Ch) (hb : (s.ch[n]).drive.bleeding = false) : Lowering s.ch[n] n s.tb (s.rampAndOpen n) := by
  obtain ⟨hregs, hchs⟩ := rampAndOpen_writes s n hb
  have hprechg : (s.rampAndOpen n).has (Lv.PRECHG n) = false := by
    have hkey : (Lv.HV_ON n).key ≠ (Lv.PRECHG n).key := by simp only [Fld.key, Lv.PRECHG, Lv.HV_ON]; omega
    unfold State.has
    rw [hregs, lowered_get]
    split
    · rw [get_put_other _ _ hkey, get_put_same, Nat.zero_mod]; rfl
    · rw [get_put_same, Nat.zero_mod]; rfl
  refine ⟨hprechg, ?_, ?_, fun hF hW => ?_, fun hup => ?_⟩
  · rw [hchs, lowered_drive]; rfl
  · rw [hchs, lowered_drive]; rfl
  · have htop : s.topLevel n = 0 := by unfold State.topLevel; rw [hF, hW]; rfl
    unfold State.has
    rw [hregs, lowered_get, if_pos htop, get_put_same, Nat.zero_mod]
    rfl
  · have htop : s.topLevel n ≠ 0 := by unfold State.topLevel; omega
    rw [hchs, lowered_drive]
    exact if_neg htop
theorem supervisorSilent_lower (s : State) : Lower s s.supervisorSilent := by
  unfold State.supervisorSilent
  split
  · exact forCh_induct (.refl s) fun n t ht => ht.rampAndOpen n
  · exact .refl s
theorem supervisorSilent_lowering {s : State} (hboot : s.dev.boot = .held ∨ s.dev.boot = .released ∨ s.dev.boot = .locked) (n : Ch)
    (hb : (s.ch[n]).drive.bleeding = false) : Lowering s.ch[n] n s.tb s.supervisorSilent := by
  unfold State.supervisorSilent
  rw [if_pos hboot]
  refine forCh_turn (P := fun t => t.ch[n] = s.ch[n] ∧ t.tb = s.tb) n ⟨rfl, rfl⟩ (fun m hm t ht => ?_) (fun t ht => ?_) (fun m hm t ht => ?_)
  · exact ⟨(rampAndOpen_other t hm).1.trans ht.1, (rampAndOpen_tb t m).trans ht.2⟩
  · obtain ⟨hc, htb⟩ := ht
    rw [← hc, ← htb]
    exact lowering_rampAndOpen t n (hc ▸ hb)
  · obtain ⟨hc, hp, hv⟩ := rampAndOpen_other t hm
    exact ⟨hp.trans ht.prechg, hc ▸ ht.rest, hc ▸ ht.bleeding, fun hF hW => hv.trans (ht.low hF hW), fun h => hc ▸ ht.openAt h⟩

/-- Settles O8: after a device reset nothing is due, so its state is the whole answer; after the ramps of a silent supervisor nothing
is due either, whatever the prepared slots, since the only word of theirs that a cleared bit can be is a finishing time, and a shorter one
passes every check that the longer passes. -/
theorem deviceResetsKeepOtpAndFlash : Obligations.DeviceResetsKeepOtpAndFlash := by
  unfold Obligations.DeviceResetsKeepOtpAndFlash
  intro s
  refine ⟨fun c src b hc hnode hheld => ?_, fun hb h0 => ?_, fun hr hboot => ?_⟩
  · have hsrc : src < 16 := by
      simp only [List.mem_cons, Prod.mk.injEq, List.not_mem_nil, or_false] at hc
      omega
    exact ⟨_, exec_deviceReset hc hnode hheld, deviceReset_leaves s src b hsrc⟩
  · exact ⟨_, resetNLow_first hb h0, deviceReset_src s 0 .held, rfl⟩
  · have hlow := supervisorSilent_lower s
    refine ⟨_, congrArg Host.Outcome.next (settle_of_rests (hlow.rests hr)), fun n hb => ?_, fun n => ?_, ?_⟩
    · obtain ⟨hp, hrest, hbleed, hzero, hopen⟩ := supervisorSilent_lowering hboot n hb
      exact ⟨hp, hrest, hbleed, hzero, hopen⟩
    · obtain ⟨e, he, -⟩ := hlow.chan n
      exact ⟨by rw [he], hlow.chSt n⟩
    · obtain ⟨_, _, _, _, he⟩ := hlow.same
      rw [he]

end Sys2Proof.Machine
end

section
/-! SUPPORT. What a device that has started keeps, whatever a command or what settles behind it does (R513, R520). -/
namespace Sys2Proof.Machine

/-- The device is in SAFE, or enters it. -/
def Dev.inSafe (d : Dev) : Prop := d.safe = true ∨ d.safeEntry.isSome = true
/-- The benchmark run goes on, or its device is up in SAFE. -/
def Dev.started (d : Dev) : Prop := d.boot = .benchmark ∨ d.boot = .up ∧ d.inSafe
/-- What a device that has started keeps, and, where `dies` says so, that its dies have tripped. -/
structure Stands (dies : Bool) (z s : State) : Prop where
  locked : s.datum.locked = z.datum.locked
  slot : s.datum.bootSrc = z.datum.bootSrc
  nmt : z.can.nmt = .preOp → s.can.nmt = .preOp
  started : z.dev.started → s.dev.started
  inSafe : z.dev.inSafe → s.dev.inSafe
  cond : dies = true → bit (z.get Su.SAFE_COND) 0 = true → bit (s.get Su.SAFE_COND) 0 = true

variable {dies : Bool} {z : State}

theorem Stands.refl (dies : Bool) (s : State) : Stands dies s s := ⟨rfl, rfl, id, id, id, fun _ => id⟩

/-! #### Registers beside the conditions of SAFE -/

theorem apart_of_addr {f : Fld} (h : 0x300 < f.addr) : f.key ≠ Su.SAFE_COND.key := by
  simp only [Fld.key, Su.SAFE_COND]
  omega
theorem effKey_ne (f : Fld) : f.effKey ≠ Su.SAFE_COND.key := by
  simp only [Fld.effKey, Fld.key, Su.SAFE_COND]
  omega
theorem below_add {a b : Nat} (h : Nat.blt 0x300 a = true) : 0x300 < a + b := Nat.lt_of_lt_of_le (Nat.le_of_ble_eq_true h) (Nat.le_add_right _ _)
theorem below_add_add {a b d : Nat} (h : Nat.blt 0x300 a = true) : 0x300 < a + b + d := Nat.lt_of_lt_of_le (below_add h) (Nat.le_add_right _ _)
theorem below_add_add_add {a b d e : Nat} (h : Nat.blt 0x300 a = true) : 0x300 < a + b + d + e := Nat.lt_of_lt_of_le (below_add_add h) (Nat.le_add_right _ _)
theorem valid_apart (n sl : Nat) : (Lv.VALID n sl).key ≠ Su.SAFE_COND.key := by unfold Lv.VALID; split <;> exact apart_of_addr (below_add_add rfl)
theorem prot_apart (n sl : Nat) : (Lv.PROT n sl).key ≠ Su.SAFE_COND.key := by unfold Lv.PROT; split <;> exact apart_of_addr (below_add_add rfl)
theorem err_apart (n sl : Nat) : (Lv.ERR n sl).key ≠ Su.SAFE_COND.key := by unfold Lv.ERR; split <;> exact apart_of_addr (below_add_add rfl)
theorem outcome_apart (n : Nat) : (Su.BM_RES n).key ≠ Su.SAFE_COND.key := apart_of_addr (show 0x300 < 0x30C by decide)
theorem slot_apart (n sl : Nat) : ∀ f ∈ Sl.fields n sl, f.key ≠ Su.SAFE_COND.key := by
  intro f hf
  simp only [Sl.fields, Sl.plain, List.mem_append, List.mem_flatMap, List.mem_cons, List.not_mem_nil, or_false] at hf
  obtain h | ⟨j, -, h⟩ := hf
  · rcases h with rfl | rfl | rfl | rfl | rfl | rfl | rfl | rfl | rfl | rfl <;> exact apart_of_addr (below_add_add_add rfl)
  · rcases h with rfl | rfl | rfl | rfl | rfl | rfl | rfl | rfl <;>
      exact apart_of_addr (Nat.lt_of_lt_of_le (below_add_add_add rfl) ((Nat.le_add_right _ _).trans (Nat.le_add_right _ _)))
theorem cuFields_apart : ∀ n : Cun, ∀ f ∈ Cu.fields n, f.key ≠ Su.SAFE_COND.key ∨ f.acc = .ro := by decide
theorem stFields_apart : ∀ n : Stk, ∀ f ∈ St.fields n, f.key ≠ Su.SAFE_COND.key ∨ f.acc = .ro := by decide
theorem thFields_apart : ∀ n : Thi, ∀ f ∈ thermalFields n, f.key ≠ Su.SAFE_COND.key ∨ f.acc = .ro := by decide
theorem trFields_apart : ∀ n : Ch, ∀ f ∈ Tr.fields n, f.key ≠ Su.SAFE_COND.key ∨ f.acc = .ro := by decide
theorem nhFields_apart : ∀ n : Ch, ∀ f ∈ Nh.fields n, f.key ≠ Su.SAFE_COND.key ∨ f.acc = .ro := by decide
theorem lvFields_apart : ∀ n : Ch, ∀ f ∈ Lv.fields n, f.key ≠ Su.SAFE_COND.key ∨ f.acc = .ro := by decide
theorem lkFields_apart : ∀ n : Ch, ∀ f ∈ Lk.fields n, f.key ≠ Su.SAFE_COND.key ∨ f.acc = .ro := by decide
theorem ldFields_apart : ∀ n : Ch, ∀ f ∈ Ld.fields n, f.key ≠ Su.SAFE_COND.key ∨ f.acc = .ro := by decide
theorem edFields_apart : ∀ n : Ch, ∀ f ∈ Ed.fields n, f.key ≠ Su.SAFE_COND.key ∨ f.acc = .ro := by decide
theorem ccFields_apart : ∀ n : Ch, ∀ f ∈ Cc.fields n, f.key ≠ Su.SAFE_COND.key ∨ f.acc = .ro := by decide
theorem dmFields_apart : ∀ d : Dch, ∀ f ∈ Dm.fields d, f.key ≠ Su.SAFE_COND.key ∨ f.acc = .ro := by decide
theorem hoFields_apart : ∀ f ∈ Ho.fields, f.key ≠ Su.SAFE_COND.key ∨ f.acc = .ro := by decide
theorem prFields_apart : ∀ f ∈ Pr.fields, f.key ≠ Su.SAFE_COND.key ∨ f.acc = .ro := by decide
theorem suFields_apart : ∀ f ∈ Su.fields, f.key ≠ Su.SAFE_COND.key ∨ f.acc = .ro := by decide
theorem shFields_apart : ∀ f ∈ Sh.fields, f.key ≠ Su.SAFE_COND.key ∨ f.acc = .ro := by decide
theorem diFields_apart : ∀ f ∈ Di.fields, f.key ≠ Su.SAFE_COND.key ∨ f.acc = .ro := by decide
theorem evFields_apart : ∀ f ∈ Ev.fields, f.key ≠ Su.SAFE_COND.key ∨ f.acc = .ro := by decide
theorem mbFields_apart : ∀ f ∈ Mb.fields, f.key ≠ Su.SAFE_COND.key ∨ f.acc = .ro := by decide
theorem mxFields_apart : ∀ f ∈ Mx.fields, f.key ≠ Su.SAFE_COND.key ∨ f.acc = .ro := by
  intro f hf
  simp only [Mx.fields, List.mem_flatMap, List.mem_cons, List.not_mem_nil, or_false] at hf
  obtain ⟨v, -, h⟩ := hf
  rcases h with rfl | rfl | rfl | rfl | rfl
  case inr.inr.inr.inr => exact .inl (apart_of_addr (show 0x300 < 0xF0800 by decide))
  all_goals exact .inl (apart_of_addr (below_add rfl))
theorem meFields_apart : ∀ f ∈ Me.fields, f.key ≠ Su.SAFE_COND.key ∨ f.acc = .ro := by decide
theorem epFields_apart : ∀ f ∈ Ep.fields, f.key ≠ Su.SAFE_COND.key ∨ f.acc = .ro := by decide
theorem sinkFields_apart (k : Nat) : ∀ f ∈ Ev.sinkFields k, f.key ≠ Su.SAFE_COND.key ∨ f.acc = .ro := by
  intro f hf
  unfold Ev.sinkFields at hf
  split at hf
  · simp only [List.mem_cons, List.not_mem_nil, or_false] at hf
    rcases hf with rfl | rfl | rfl <;> exact .inl (apart_of_addr (below_add rfl))
  · cases hf
theorem camCounters_apart : ∀ f ∈ camCounters, f.key ≠ Su.SAFE_COND.key := by decide
/-- The results that a benchmark run clears as it starts. -/
theorem benchFields_apart (chs : List Ch) :
    ∀ f ∈ chs.map (fun (n : Ch) => Su.BM_RES n) ++ Su.fields.filter (fun f => f.addr = 0x310), f.key ≠ Su.SAFE_COND.key := by
  have hshared : ∀ f ∈ Su.fields.filter (fun f => f.addr = 0x310), f.key ≠ Su.SAFE_COND.key := by decide
  intro f hf
  obtain hf | hf := List.mem_append.mp hf
  · obtain ⟨n, -, rfl⟩ := List.mem_map.mp hf
    exact outcome_apart n
  · exact hshared f hf
theorem objWrej_apart (n : Ch) (idx : Nat) : (objWrej n idx).key ≠ Su.SAFE_COND.key := by
  unfold objWrej
  split <;> exact apart_of_addr (below_add_add rfl)

/-! #### The values that objects set by themselves -/

/-- The addresses of the values that a write of the object sets or clears by itself lie above those of the start-up block. -/
def Obj.far (o : Obj) : Prop :=
  match o.kind with
  | .own f | .prep f => 0x300 < f.addr
  | .clr fs => fs.Forall (fun f => 0x300 < f.addr)
  | _ => True
theorem objComm_far {node idx : Nat} {rows : List Obj} (h : objComm node idx = some rows) : rows.Forall Obj.far := by
  unfold objComm at h
  repeat' split at h
  all_goals cases h
  all_goals repeat' apply And.intro
  all_goals first | exact True.intro | exact below_add_add rfl
theorem objChan_far {idx : Nat} {rows : List Obj} (h : objChan idx = some rows) : rows.Forall Obj.far := by
  unfold objChan at h
  split at h <;> cases h
  all_goals repeat' apply And.intro
  all_goals first | exact True.intro | exact below_add_add rfl
theorem objThermal_far (m : Nat) : (objThermal m).Forall Obj.far := by
  unfold objThermal
  split
  all_goals repeat' apply And.intro
  all_goals first | exact True.intro | exact below_add_add rfl
/-- A range of indices whose rows are far may be passed over. -/
theorem far_of_ite {c : Prop} [Decidable c] {a rows : List Obj} {y : Option (List Obj)} (ha : a.Forall Obj.far)
    (hy : y = some rows → rows.Forall Obj.far) (h : (if c then some a else y) = some rows) : rows.Forall Obj.far := by
  by_cases hc : c
  · rw [if_pos hc, Option.some_inj] at h; exact h ▸ ha
  · rw [if_neg hc] at h; exact hy h
theorem objRows_far {node idx : Nat} {rows : List Obj} (h : objRows node idx = some rows) : rows.Forall Obj.far := by
  unfold objRows at h
  by_cases hcomm : idx < 0x2000
  · rw [if_pos hcomm] at h; exact objComm_far h
  rw [if_neg hcomm] at h
  refine far_of_ite ?_ (far_of_ite ?_ fun h => ?_) h
  case refine_3 =>
    by_cases hchan : 0x3000 ≤ idx ∧ idx < 0x3800
    · rw [if_pos hchan] at h; exact objChan_far h
    rw [if_neg hchan] at h
    refine far_of_ite (objThermal_far _) (far_of_ite ?_ <| far_of_ite ?_ <| far_of_ite ?_ <| far_of_ite ?_ <|
      far_of_ite ?_ <| far_of_ite ?_ <| far_of_ite ?_ <| far_of_ite ?_ fun h => ?_) h
    case refine_9 => split at h <;> cases h <;> (repeat' apply And.intro) <;> first | exact True.intro | exact Nat.le_of_ble_eq_true rfl
    all_goals repeat' apply And.intro
    all_goals first | exact True.intro | exact below_add_add rfl
  all_goals repeat' apply And.intro
  all_goals first | exact True.intro | exact below_add_add rfl
theorem objFind_far {node idx sub : Nat} {o : Obj} (h : objFind node idx sub = .row o) : o.far := by
  obtain ⟨rows, hrows, ho, -⟩ := objFind_row_mem h
  exact List.forall_iff_forall_mem.mp (objRows_far hrows) o ho

/-! #### Updates -/

/-- A bit that is set stands when others are set beside it. -/
theorem bit_raise {x k : Nat} (h : bit x 0 = true) : bit ((x ||| k) % Su.SAFE_COND.card) 0 = true := by
  have hcard : Su.SAFE_COND.card = 2 ^ 9 := rfl
  have htest : ∀ y, bit y 0 = y.testBit 0 := fun y => by simp [bit, Nat.testBit_zero]
  rw [htest] at h ⊢
  rw [hcard, Nat.testBit_mod_two_pow, Nat.testBit_or, h]
  rfl
theorem stands_mk {z s : State} (pending : List Instr) (tb ctr : Nat) (cu : Vector Cu 4) (stake : Vector Stake 16) (inFlight : List (Nat × Nat))
    (ch : Vector Chan 8) (devQ : List Edit) (epoch : EpState) (pix : Pix) (verdictLog : List (Nat × Nat)) (th : Vector Thermal 10)
    (dma : Vector Dma 16) (granting : Option (Nat × Nat)) (sp : List Host.Cell) (parBad : List Nat) (bist : Bist) (otp : Otp) (flash : Flash)
    (pcie : Pcie) (deferred : List Instr) (fresh : List (Nat × Nat × Nat)) (out : List Out) :
    Stands dies z ⟨pending, tb, ctr, s.regs, cu, stake, inFlight, ch, devQ, epoch, pix, verdictLog, th, dma, granting, sp, parBad, bist, otp,
      s.datum, flash, s.can, pcie, deferred, fresh, s.dev, out⟩ ↔ Stands dies z s :=
  ⟨fun h => ⟨h.locked, h.slot, h.nmt, h.started, h.inSafe, h.cond⟩, fun h => ⟨h.locked, h.slot, h.nmt, h.started, h.inSafe, h.cond⟩⟩
theorem stands_foldl {α : Type} (f : State → α → State) (hf : ∀ t x, Stands dies z t → Stands dies z (f t x)) (l : List α) :
    ∀ {s : State}, Stands dies z s → Stands dies z (l.foldl f s) := by
  induction l with
  | nil => exact id
  | cons a l ih => exact fun h => ih (hf _ a h)
theorem stands_foldl_fst {α β : Type} (f : State × β → α → State × β) (hf : ∀ t x, Stands dies z t.1 → Stands dies z (f t x).1) (l : List α) :
    ∀ {s : State × β}, Stands dies z s.1 → Stands dies z (l.foldl f s).1 := by
  induction l with
  | nil => exact id
  | cons a l ih => exact fun h => ih (hf _ a h)
theorem stands_forCh (s : State) (f : Ch → State → State) (hs : Stands dies z s)
    (hf : ∀ (n : Ch) (t : State), Stands dies z t → Stands dies z (f n t)) : Stands dies z (s.forCh f) :=
  stands_foldl _ (fun t n ht => hf n t ht) _ hs

theorem stands_put (s : State) (f : Fld) (v : Nat) (hs : Stands dies z s) (hf : dies = true → f.key ≠ Su.SAFE_COND.key) : Stands dies z (s.put f v) :=
  { hs with cond := fun hc hb => by rw [get_put_other _ _ (hf hc)]; exact hs.cond hc hb }
theorem stands_putEff (s : State) (f : Fld) (v : Nat) (hs : Stands dies z s) : Stands dies z (s.putEff f v) :=
  { hs with cond := fun hc hb => by rw [get_putEff_other _ _ (effKey_ne f)]; exact hs.cond hc hb }
/-- Fields written one after the other. -/
theorem stands_puts {s : State} (fs : List Fld) (v : Fld → Nat) (hs : Stands dies z s) (hf : dies = true → ∀ f ∈ fs, f.key ≠ Su.SAFE_COND.key) :
    Stands dies z (fs.foldl (fun t f => t.put f (v f)) s) := by
  induction fs generalizing s with
  | nil => exact hs
  | cons f fs ih =>
    exact ih (stands_put _ _ _ hs fun hc => hf hc f List.mem_cons_self) fun hc g hg => hf hc g (List.mem_cons_of_mem _ hg)
theorem stands_ite {p : Prop} [Decidable p] {a b : State} (ha : Stands dies z a) (hb : Stands dies z b) :
    Stands dies z (if p then a else b) := by
  split <;> assumption
theorem stands_modDev (s : State) (f : Dev → Dev) (hs : Stands dies z s) (hf : ∀ d : Dev, (d.started → (f d).started) ∧ (d.inSafe → (f d).inSafe)) :
    Stands dies z (s.modDev f) :=
  { hs with started := fun h => (hf _).1 (hs.started h), inSafe := fun h => (hf _).2 (hs.inSafe h) }
theorem stands_modCan (s : State) (f : Can → Can) (hs : Stands dies z s) (hf : ∀ x : Can, x.nmt = .preOp → (f x).nmt = .preOp) :
    Stands dies z (s.modCan f) :=
  { hs with nmt := fun h => hf _ (hs.nmt h) }

/-! #### Flags -/

theorem stands_putBoth (s : State) (f : Fld) (v : Nat) (hs : Stands dies z s) (hf : dies = true → f.key ≠ Su.SAFE_COND.key) :
    Stands dies z (s.putBoth f v) := stands_putEff _ _ _ (stands_put _ _ _ hs hf)
theorem stands_flag (s : State) (f : Fld) (hs : Stands dies z s) (hf : dies = true → f.key ≠ Su.SAFE_COND.key) :
    Stands dies z (s.flag f) := stands_put _ _ _ hs hf
theorem stands_unflag (s : State) (f : Fld) (hs : Stands dies z s) (hf : dies = true → f.key ≠ Su.SAFE_COND.key) :
    Stands dies z (s.unflag f) := stands_put _ _ _ hs hf
theorem stands_putB (s : State) (f : Fld) (b : Bool) (hs : Stands dies z s) (hf : dies = true → f.key ≠ Su.SAFE_COND.key) :
    Stands dies z (s.putB f b) := stands_put _ _ _ hs hf
theorem stands_bumpBy (s : State) (f : Fld) (n : Nat) (hs : Stands dies z s) (hf : dies = true → f.key ≠ Su.SAFE_COND.key) :
    Stands dies z (s.bumpBy f n) := stands_put _ _ _ hs hf
theorem stands_bump (s : State) (f : Fld) (hs : Stands dies z s) (hf : dies = true → f.key ≠ Su.SAFE_COND.key) :
    Stands dies z (s.bump f) := stands_put _ _ _ hs hf
theorem stands_incrBy (s : State) (f : Fld) (n : Nat) (hs : Stands dies z s) (hf : dies = true → f.key ≠ Su.SAFE_COND.key) :
    Stands dies z (s.incrBy f n) := stands_put _ _ _ hs hf
theorem stands_incr (s : State) (f : Fld) (hs : Stands dies z s) (hf : dies = true → f.key ≠ Su.SAFE_COND.key) :
    Stands dies z (s.incr f) := stands_put _ _ _ hs hf
theorem stands_flagBump (s : State) (f g : Fld) (hs : Stands dies z s) (hf : dies = true → f.key ≠ Su.SAFE_COND.key)
    (hg : dies = true → g.key ≠ Su.SAFE_COND.key) :
    Stands dies z (s.flagBump f g) := stands_bump _ _ (stands_flag _ _ hs hf) hg
theorem stands_putPair (s : State) (f g : Fld) (v : Nat) (hs : Stands dies z s) (hf : dies = true → f.key ≠ Su.SAFE_COND.key)
    (hg : dies = true → g.key ≠ Su.SAFE_COND.key) :
    Stands dies z (s.putPair f g v) := stands_put _ _ _ (stands_put _ _ _ hs hf) hg
theorem stands_clearAll (s : State) (fs : List Fld) (hs : Stands dies z s) (hf : dies = true → ∀ f ∈ fs, f.key ≠ Su.SAFE_COND.key) :
    Stands dies z (s.clearAll fs) := by
  unfold State.clearAll
  induction fs generalizing s with
  | nil => exact hs
  | cons f fs ih =>
    exact ih _ (stands_unflag _ _ hs fun hc => hf hc f List.mem_cons_self) fun hc g hg => hf hc g (List.mem_cons_of_mem _ hg)
theorem stands_resetAll (s : State) (fs : List Fld) (hs : Stands dies z s) (hf : dies = true → ∀ f ∈ fs, f.key ≠ Su.SAFE_COND.key) :
    Stands dies z (s.resetAll fs) := by
  unfold State.resetAll
  induction fs generalizing s with
  | nil => exact hs
  | cons f fs ih =>
    exact ih _ (stands_putBoth _ _ _ hs fun hc => hf hc f List.mem_cons_self) fun hc g hg => hf hc g (List.mem_cons_of_mem _ hg)
theorem stands_noteShadow (s : State) (f : Fld) (hs : Stands dies z s) : Stands dies z (State.noteShadow s f) := by
  unfold State.noteShadow
  with_reducible repeat' first | assumption | dsimp only | simp only [stands_mk]
theorem stands_writeFld (s : State) (f : Fld) (data : Nat) (inRun : Bool) (hs : Stands dies z s)
    (hf : dies = true → f.key ≠ Su.SAFE_COND.key ∨ f.acc = .ro) : Stands dies z (s.writeFld f data inRun) := by
  unfold State.writeFld
  have hput : ∀ (u : State) (v : Nat), f.acc ≠ .ro → Stands dies z u → Stands dies z (u.put f v) := fun u v ha hu =>
    stands_put _ _ _ hu fun hc => (hf hc).resolve_right ha
  split
  next ha => exact hput _ _ (by rw [ha]; decide) hs
  next ha =>
    split
    · exact hput _ _ (by rw [ha]; decide) (stands_noteShadow _ _ hs)
    · exact stands_putEff _ _ _ (hput _ _ (by rw [ha]; decide) hs)
  next ha =>
    split
    · exact hput _ _ (by rw [ha]; decide) hs
    · split
      · exact hs
      · exact hput _ _ (by rw [ha]; decide) hs
  next ha => exact hput _ _ (by rw [ha]; decide) hs
  next => exact hs
  next => exact hs
theorem stands_writeWord (s : State) (fs : List Fld) (addr data : Nat) (inRun : Bool) (hs : Stands dies z s)
    (hf : dies = true → ∀ f ∈ fs, f.key ≠ Su.SAFE_COND.key ∨ f.acc = .ro) : Stands dies z (s.writeWord fs addr data inRun) := by
  have hfold : ∀ (l : List Fld) (u : State), (∀ f ∈ l, f ∈ fs) → Stands dies z u →
      Stands dies z (l.foldl (fun t f => t.writeFld f data inRun) u) := by
    intro l
    induction l with
    | nil => exact fun u _ hu => hu
    | cons f l ih =>
      exact fun u hl hu => ih _ (fun g hg => hl g (List.mem_cons_of_mem _ hg))
        (stands_writeFld _ _ _ _ hu fun hc => hf hc f (hl f List.mem_cons_self))
  exact hfold _ s (fun f hm => (List.mem_filter.mp hm).1) hs

/-! #### Ops -/

theorem stands_at (s : State) (t : Tick) (hs : Stands dies z s) : Stands dies z (State.at s t) := by
  unfold State.at
  with_reducible repeat' first | assumption | dsimp only | simp only [stands_mk]
theorem stands_emit (s : State) (o : Out) (hs : Stands dies z s) : Stands dies z (State.emit s o) := by
  unfold State.emit
  with_reducible repeat' first | assumption | dsimp only | simp only [stands_mk]
theorem stands_modCh (s : State) (n : Ch) (f : Chan → Chan) (hs : Stands dies z s) : Stands dies z (State.modCh s n f) := by
  unfold State.modCh
  with_reducible repeat' first | assumption | dsimp only | simp only [stands_mk]
theorem stands_modCu (s : State) (n : Cun) (f : Cu → Cu) (hs : Stands dies z s) : Stands dies z (State.modCu s n f) := by
  unfold State.modCu
  with_reducible repeat' first | assumption | dsimp only | simp only [stands_mk]
theorem stands_modStk (s : State) (i : Stk) (f : Stake → Stake) (hs : Stands dies z s) :
    Stands dies z (State.modStk s i f) := by
  unfold State.modStk
  with_reducible repeat' first | assumption | dsimp only | simp only [stands_mk]
theorem stands_modTh (s : State) (m : Thi) (f : Thermal → Thermal) (hs : Stands dies z s) :
    Stands dies z (State.modTh s m f) := by
  unfold State.modTh
  with_reducible repeat' first | assumption | dsimp only | simp only [stands_mk]
theorem stands_modDma (s : State) (d : Dch) (f : Dma → Dma) (hs : Stands dies z s) : Stands dies z (State.modDma s d f) := by
  unfold State.modDma
  with_reducible repeat' first | assumption | dsimp only | simp only [stands_mk]
theorem stands_modTrav (s : State) (n : Ch) (f : Trav → Trav) (hs : Stands dies z s) :
    Stands dies z (State.modTrav s n f) := by
  unfold State.modTrav
  with_reducible repeat' first | assumption | apply stands_modCh
theorem stands_modLink (s : State) (n : Ch) (f : Link → Link) (hs : Stands dies z s) :
    Stands dies z (State.modLink s n f) := by
  unfold State.modLink
  with_reducible repeat' first | assumption | apply stands_modCh
theorem stands_modDrive (s : State) (n : Ch) (f : Drive → Drive) (hs : Stands dies z s) :
    Stands dies z (State.modDrive s n f) := by
  unfold State.modDrive
  with_reducible repeat' first | assumption | apply stands_modCh
theorem stands_modHealth (s : State) (n : Ch) (f : Health → Health) (hs : Stands dies z s) :
    Stands dies z (State.modHealth s n f) := by
  unfold State.modHealth
  with_reducible repeat' first | assumption | apply stands_modCh
theorem stands_modCam (s : State) (c : Nat) (f : Context → Context) (hs : Stands dies z s) :
    Stands dies z (State.modCam s c f) := by
  unfold State.modCam
  with_reducible repeat' first | assumption | dsimp only | simp only [stands_mk]
theorem stands_cause (s : State) (v : Nat) (hs : Stands dies z s) : Stands dies z (State.cause s v) := by
  unfold State.cause
  with_reducible repeat' first
    | assumption | apply stands_emit | apply stands_flag | apply stands_put | dsimp only | simp only [stands_mk] | split
  all_goals first
    | exact fun _ => Nat.ne_of_beq_eq_false rfl
    | exact fun _ => apart_of_addr (show 0x300 < 0xF0800 by decide)
theorem stands_pulse (s : State) (src : Nat) (hs : Stands dies z s) : Stands dies z (State.pulse s src) := by
  unfold State.pulse
  with_reducible repeat' first | assumption | dsimp only | simp only [stands_mk] | split
theorem stands_emcyInfo (s : State) (code src line : Nat) (info : List Byte) (hs : Stands dies z s) :
    Stands dies z (State.emcyInfo s code src line info) := by
  unfold State.emcyInfo
  with_reducible repeat' first
    | assumption | apply stands_cause | apply stands_modCan | apply stands_incr | apply stands_bump | dsimp only
    | simp only [stands_mk] | split
  all_goals first
    | exact fun _ => id
    | exact fun _ => apart_of_addr (below_add rfl)
    | exact fun _ => Nat.ne_of_beq_eq_false rfl
theorem stands_emcyMsg (s : State) (code src line : Nat) (hs : Stands dies z s) :
    Stands dies z (State.emcyMsg s code src line) := by
  unfold State.emcyMsg
  with_reducible repeat' first | assumption | apply stands_emcyInfo
theorem stands_unsay (s : State) (code src : Nat) (hs : Stands dies z s) : Stands dies z (State.unsay s code src) := by
  unfold State.unsay
  with_reducible repeat' first | assumption | apply stands_record | apply stands_modCan | apply stands_put
  all_goals first
    | exact fun _ => id
    | exact fun _ => Nat.ne_of_beq_eq_false rfl
theorem stands_unpulse (s : State) (src : Nat) (hs : Stands dies z s) : Stands dies z (State.unpulse s src) := by
  unfold State.unpulse
  with_reducible repeat' first | assumption | dsimp only | simp only [stands_mk]
theorem stands_condOn (s : State) (code src : Nat) (hs : Stands dies z s) : Stands dies z (State.condOn s code src) := by
  unfold State.condOn
  with_reducible repeat' first | assumption | apply stands_modCan | dsimp only | simp only [stands_mk] | split
  all_goals exact fun _ => id
theorem stands_condOff (s : State) (code src : Nat) (hs : Stands dies z s) : Stands dies z (State.condOff s code src) := by
  unfold State.condOff
  with_reducible repeat' first | assumption | apply stands_emcyMsg | apply stands_modCan | dsimp only | simp only [stands_mk] | split
  all_goals exact fun _ => id
theorem stands_record (s : State) (n : Ch) (ev line : Nat) (mapped : Bool) (hs : Stands dies z s) :
    Stands dies z (State.record s n ev line mapped) := by
  unfold State.record
  with_reducible repeat' first | assumption | apply stands_modCan | apply stands_bump | dsimp only | simp only [stands_mk] | split
  all_goals first
    | exact fun _ => id
    | exact fun _ => apart_of_addr (below_add_add rfl)
theorem stands_setCh (s : State) (n : Ch) (x : ChState) (hs : Stands dies z s) : Stands dies z (State.setCh s n x) := by
  unfold State.setCh
  with_reducible repeat' first
    | assumption | apply stands_record | apply stands_cause | apply stands_modCh | dsimp only | simp only [stands_mk] | split
theorem stands_moveToken (s : State) (p : Port) (hs : Stands dies z s) : Stands dies z (State.moveToken s p) := by
  unfold State.moveToken
  with_reducible repeat' first
    | assumption | apply stands_cause | apply stands_modDev | apply stands_incr | apply stands_flag | dsimp only
    | simp only [stands_mk] | split
  all_goals first
    | exact fun _ => ⟨id, id⟩
    | exact fun _ => Nat.ne_of_beq_eq_false rfl
theorem stands_tokenCheck (s : State) (hs : Stands dies z s) : Stands dies z (State.tokenCheck s) := by
  unfold State.tokenCheck
  with_reducible repeat' first | assumption | apply stands_moveToken | dsimp only | simp only [stands_mk] | split
theorem stands_camPos (s : State) (m : Cun) (hs : Stands dies z s) : Stands dies z (State.camPos s m) := by
  unfold State.camPos
  with_reducible repeat' first
    | assumption | apply stands_modCam | dsimp only | simp only [stands_mk] | (refine stands_foldl _ (fun t x ht => ?_) _ ?_)
    | (refine stands_foldl_fst _ (fun t x ht => ?_) _ ?_) | split

/-! #### Ladder -/

theorem stands_setRail (s : State) (n : Ch) (w : Bool) (r : RailRun) (hs : Stands dies z s) :
    Stands dies z (State.setRail s n w r) := by
  unfold State.setRail
  with_reducible repeat' first | assumption | apply stands_modDrive
theorem stands_planRail (s : State) (n : Ch) (w : Bool) (r : RailRun) (hs : Stands dies z s) :
    Stands dies z (State.planRail s n w r) := by
  unfold State.planRail
  with_reducible repeat' first | assumption | apply stands_setRail | apply stands_emit | dsimp only | simp only [stands_mk] | split
theorem stands_rampRail (s : State) (n : Ch) (delay : Nat) (up : Option Nat) (w : Bool) (hs : Stands dies z s) :
    Stands dies z (State.rampRail s n delay up w) := by
  unfold State.rampRail
  with_reducible repeat' first | assumption | apply stands_planRail
theorem stands_rampRails (s : State) (n : Ch) (delay : Nat) (up : Option Nat) (hs : Stands dies z s) :
    Stands dies z (State.rampRails s n delay up) := by
  unfold State.rampRails
  with_reducible repeat' first | assumption | apply stands_rampRail

/-! #### Chainage -/

theorem stands_stakeDisarm (s : State) (i : Stk) (hs : Stands dies z s) : Stands dies z (State.stakeDisarm s i) := by
  unfold State.stakeDisarm
  with_reducible repeat' first | assumption | apply stands_modStk | apply stands_unflag
  all_goals exact fun _ => apart_of_addr (below_add_add rfl)
theorem stands_stakeLate (s : State) (i : Stk) (hs : Stands dies z s) : Stands dies z (State.stakeLate s i) := by
  unfold State.stakeLate
  with_reducible repeat' first | assumption | apply stands_emcyMsg | apply stands_pulse
theorem stands_stakeArm (s : State) (i : Stk) (hs : Stands dies z s) : Stands dies z (State.stakeArm s i) := by
  unfold State.stakeArm
  with_reducible repeat' first
    | assumption | apply stands_stakeLate | apply stands_stakeDisarm | apply stands_modStk | apply stands_flag | dsimp only
    | simp only [stands_mk] | split
  all_goals exact fun _ => apart_of_addr (below_add_add rfl)
theorem stands_stakeTarget (s : State) (i : Stk) (t : Pos) (hs : Stands dies z s) :
    Stands dies z (State.stakeTarget s i t) := by
  unfold State.stakeTarget
  with_reducible repeat' first | assumption | apply stands_stakeArm | apply stands_modStk | apply stands_putPair
  all_goals exact fun _ => apart_of_addr (below_add_add rfl)
theorem stands_stakesJudge (s : State) (n : Cun) (hs : Stands dies z s) : Stands dies z (State.stakesJudge s n) := by
  unfold State.stakesJudge
  with_reducible repeat' first
    | assumption | apply stands_stakeArm | dsimp only | simp only [stands_mk] | (refine stands_foldl _ (fun t x ht => ?_) _ ?_)
    | (refine stands_foldl_fst _ (fun t x ht => ?_) _ ?_) | split
theorem stands_cuPreset (s : State) (n : Cun) (hs : Stands dies z s) : Stands dies z (State.cuPreset s n) := by
  unfold State.cuPreset
  with_reducible repeat' first | assumption | apply stands_stakesJudge | apply stands_camPos | apply stands_modCu | apply stands_flag
  all_goals exact fun _ => apart_of_addr (below_add_add rfl)
theorem stands_homeEnd (s : State) (n : Cun) (hs : Stands dies z s) : Stands dies z (State.homeEnd s n) := by
  unfold State.homeEnd
  with_reducible repeat' first | assumption | apply stands_modCu | apply stands_unflag
  all_goals exact fun _ => apart_of_addr (below_add_add rfl)
theorem stands_homeDone (s : State) (n : Cun) (hs : Stands dies z s) : Stands dies z (State.homeDone s n) := by
  unfold State.homeDone
  with_reducible repeat' first | assumption | apply stands_homeEnd | apply stands_cuPreset
theorem stands_cuReset (s : State) (n : Cun) (hs : Stands dies z s) : Stands dies z (State.cuReset s n) := by
  unfold State.cuReset
  with_reducible repeat' first
    | assumption | apply stands_homeEnd | apply stands_stakeDisarm | apply stands_camPos | apply stands_condOff | apply stands_modCu
    | apply stands_unflag | dsimp only | simp only [stands_mk] | (refine stands_foldl _ (fun t x ht => ?_) _ ?_)
    | (refine stands_foldl_fst _ (fun t x ht => ?_) _ ?_) | split
  all_goals exact fun _ => apart_of_addr (below_add_add rfl)
theorem stands_swFollow (s old : State) (n : Cun) (hs : Stands dies z s) :
    Stands dies z (State.swFollow s old n) := by
  unfold State.swFollow
  with_reducible repeat' first
    | assumption | apply stands_homeDone | apply stands_modCu | apply stands_flag | dsimp only | simp only [stands_mk] | split
  all_goals exact fun _ => apart_of_addr (below_add_add rfl)
theorem stands_cuApply (n : Cun) (addr data : Nat) (s : State) (hs : Stands dies z s) :
    Stands dies z (cuApply n addr data s) := by
  unfold cuApply
  with_reducible repeat' first
    | assumption | apply stands_swFollow | apply stands_cuReset | apply stands_homeEnd | apply stands_cuPreset | apply stands_modCu
    | apply stands_writeWord | apply stands_flag | dsimp only | simp only [stands_mk] | split
  all_goals first
    | with_reducible exact fun _ => cuFields_apart _
    | exact fun _ => apart_of_addr (below_add_add rfl)
theorem stands_stkApply (i : Stk) (addr data : Nat) (s : State) (hs : Stands dies z s) :
    Stands dies z (stkApply i addr data s) := by
  unfold stkApply
  with_reducible repeat' first
    | assumption | apply stands_stakeTarget | apply stands_stakeArm | apply stands_stakeDisarm | apply stands_writeWord | dsimp only
    | simp only [stands_mk] | split
  all_goals exact fun _ => stFields_apart _

/-! #### Memory -/

theorem stands_bistTouch (s : State) (m : Nat) (p : Nat → Bool) (hs : Stands dies z s) :
    Stands dies z (State.bistTouch s m p) := by
  unfold State.bistTouch
  with_reducible repeat' first | assumption | apply stands_flagBump | apply stands_bump | dsimp only | simp only [stands_mk] | split
  all_goals exact fun _ => Nat.ne_of_beq_eq_false rfl
theorem stands_sliceTouch (s : State) (m ofs len : Nat) (hs : Stands dies z s) :
    Stands dies z (State.sliceTouch s m ofs len) := by
  unfold State.sliceTouch
  with_reducible repeat' first | assumption | apply stands_bistTouch
theorem stands_entryTouch (s : State) (n : Ch) (i : Nat) (hs : Stands dies z s) :
    Stands dies z (State.entryTouch s n i) := by
  unfold State.entryTouch
  with_reducible repeat' first | assumption | apply stands_sliceTouch
theorem stands_spApply (s : State) (o : SpOp) (ls : List (Nat × Byte)) (hs : Stands dies z s) : Stands dies z (s.spApply o ls) := by
  unfold State.spApply
  refine stands_bistTouch _ _ _ (stands_foldl _ (fun t x ht => ?_) _ hs)
  simp only [stands_mk]
  exact ht
theorem stands_spParity (s0 : State) (ofs len : Nat) (hs0 : Stands dies z s0) :
    Stands dies z (State.spParity s0 ofs len).1 := by
  unfold State.spParity
  with_reducible repeat' first
    | assumption | apply stands_sliceTouch | apply stands_bumpBy | apply stands_flag | apply stands_put | dsimp only
    | simp only [stands_mk] | split
  all_goals exact fun _ => Nat.ne_of_beq_eq_false rfl
theorem stands_spClearSecure (s : State) (hs : Stands dies z s) : Stands dies z s.spClearSecure := by
  unfold State.spClearSecure
  simp only [stands_mk]
  exact hs
theorem stands_memApply (addr data : Nat) (s : State) (hs : Stands dies z s) : Stands dies z (memApply addr data s) :=
  stands_writeWord _ _ _ _ _ hs fun _ => meFields_apart

/-! #### Answer -/

theorem stands_mbAnswer (s : State) (idx sub abort : Nat) (data : List Byte) (hs : Stands dies z s) :
    Stands dies z (State.mbAnswer s idx sub abort data) := by
  unfold State.mbAnswer
  with_reducible repeat' first
    | assumption | apply stands_spApply | apply stands_cause | apply stands_unflag | apply stands_flag | apply stands_put | dsimp only
    | simp only [stands_mk] | (refine stands_foldl _ (fun t x ht => ?_) _ ?_) | (refine stands_foldl_fst _ (fun t x ht => ?_) _ ?_)
    | split
  all_goals first
    | exact fun _ => apart_of_addr (below_add_add rfl)
    | exact fun _ => apart_of_addr (below_add rfl)
theorem stands_answer (s : State) (p : Port) (idx sub abort : Nat) (hs : Stands dies z s) :
    Stands dies z (State.answer s p idx sub abort) := by
  unfold State.answer
  with_reducible repeat' first | assumption | apply stands_mbAnswer | apply stands_emit | dsimp only | simp only [stands_mk] | split
theorem stands_reply (s : State) (p : Option Port) (idx sub abort : Nat) (hs : Stands dies z s) :
    Stands dies z (State.reply s p idx sub abort) := by
  unfold State.reply
  with_reducible repeat' first | assumption | apply stands_answer | dsimp only | simp only [stands_mk] | split

/-! #### DmaSet -/

theorem stands_dmaSettle (s : State) (d : Dch) (hs : Stands dies z s) : Stands dies z (State.dmaSettle s d) := by
  unfold State.dmaSettle
  with_reducible repeat' first
    | assumption | apply stands_answer | apply stands_modDma | dsimp only | simp only [stands_mk]
    | (refine stands_foldl _ (fun t x ht => ?_) _ ?_) | (refine stands_foldl_fst _ (fun t x ht => ?_) _ ?_) | split
theorem stands_dmaEnd (s : State) (d : Dch) (hs : Stands dies z s) : Stands dies z (State.dmaEnd s d) :=
  stands_modDma _ _ _ (stands_clearAll _ _ hs fun _ => by revert d; decide)
theorem stands_dmaEndIf (s : State) (d : Dch) (hs : Stands dies z s) : Stands dies z (State.dmaEndIf s d) := by
  unfold State.dmaEndIf
  with_reducible repeat' first | assumption | apply stands_dmaEnd | dsimp only | simp only [stands_mk] | split
theorem stands_dmaError (s : State) (d : Dch) (err : Nat) (hs : Stands dies z s) :
    Stands dies z (State.dmaError s d err) := by
  unfold State.dmaError
  with_reducible repeat' first
    | assumption | apply stands_modDma | apply stands_bump | apply stands_unflag | apply stands_flag | apply stands_put
  all_goals exact fun _ => apart_of_addr (below_add_add rfl)
theorem stands_dmaFailDue (s : State) (d : Dch) (hs : Stands dies z s) : Stands dies z (State.dmaFailDue s d) := by
  unfold State.dmaFailDue
  with_reducible repeat' first | assumption | apply stands_dmaError | dsimp only | simp only [stands_mk] | split
theorem stands_dmaStopIssue (s : State) (d : Dch) (hs : Stands dies z s) : Stands dies z (State.dmaStopIssue s d) := by
  unfold State.dmaStopIssue
  with_reducible repeat' first | assumption | dsimp only | simp only [stands_mk] | split
theorem stands_issueOne (s : State) (d : Dch) (t : Nat) (hs : Stands dies z s) : Stands dies z (State.issueOne s d t) := by
  unfold State.issueOne
  with_reducible repeat' first | assumption | apply stands_modDma | apply stands_put | dsimp only | simp only [stands_mk] | split
  all_goals exact fun _ => Nat.ne_of_beq_eq_false rfl
theorem stands_issueDue : ∀ (f : Nat) (x0 : Bool) (s : State), Stands dies z s → Stands dies z (State.issueDue f x0 s) := by
  intro f
  induction f with
  | zero => intro x0 s h; exact h
  | succ f ih =>
    intro x0 s h
    unfold State.issueDue
    with_reducible repeat' first
      | assumption | apply stands_issueOne | apply stands_at | dsimp only | simp only [stands_mk] | split | apply ih
theorem stands_dmaTick (s : State) (hs : Stands dies z s) : Stands dies z (State.dmaTick s) := by
  unfold State.dmaTick
  with_reducible repeat' first | assumption | apply stands_issueDue
theorem stands_dmaParked (s : State) (n : Ch) (hs : Stands dies z s) : Stands dies z (State.dmaParked s n) := by
  unfold State.dmaParked
  with_reducible repeat' first
    | assumption | apply stands_dmaTick | apply stands_dmaStopIssue | apply stands_dmaError | apply stands_dmaEndIf
    | apply stands_dmaSettle | apply stands_modDma | apply stands_incrBy | dsimp only | simp only [stands_mk]
    | (refine stands_foldl _ (fun t x ht => ?_) _ ?_) | (refine stands_foldl_fst _ (fun t x ht => ?_) _ ?_) | split
  all_goals exact fun _ => apart_of_addr (below_add_add rfl)

/-! #### Send -/

theorem stands_modLine (s : State) (n : Ch) (k : Nat) (f : Line → Line) (hs : Stands dies z s) :
    Stands dies z (State.modLine s n k f) := by
  unfold State.modLine
  with_reducible repeat' first | assumption | apply stands_modCh
theorem stands_sendLine (s : State) (n : Ch) (k i : Nat) (hs : Stands dies z s) :
    Stands dies z (State.sendLine s n k i) := by
  unfold State.sendLine
  with_reducible repeat' first
    | assumption | apply stands_modFrame | apply stands_modLine | apply stands_modLink | apply stands_emit | apply stands_bump
    | dsimp only | simp only [stands_mk] | split
  all_goals exact fun _ => apart_of_addr (below_add_add rfl)
theorem stands_sendCtl (s : State) (n : Ch) (id : Nat) (f : Frame) (hs : Stands dies z s) :
    Stands dies z (State.sendCtl s n id f) := by
  unfold State.sendCtl
  with_reducible repeat' first
    | assumption | apply stands_modLink | apply stands_emit | apply stands_bump | dsimp only | simp only [stands_mk] | split
  all_goals exact fun _ => apart_of_addr (below_add_add rfl)
theorem stands_linkPump : ∀ (f : Nat) (x0 : Ch) (s : State), Stands dies z s → Stands dies z (State.linkPump f x0 s) := by
  intro f
  induction f with
  | zero => intro x0 s h; exact h
  | succ f ih =>
    intro x0 s h
    unfold State.linkPump
    with_reducible repeat' first
      | assumption | apply stands_sendCtl | apply stands_sendLine | dsimp only | simp only [stands_mk] | split | apply ih
theorem stands_linkTick (s : State) (n : Ch) (hs : Stands dies z s) : Stands dies z (State.linkTick s n) := by
  unfold State.linkTick
  with_reducible repeat' first | assumption | apply stands_linkPump
theorem stands_pump (s : State) (n : Ch) (hs : Stands dies z s) : Stands dies z (State.pump s n) := by
  unfold State.pump
  with_reducible repeat' first | assumption | apply stands_linkTick | apply stands_modLink

/-! #### Recovery -/

theorem stands_cutFrame (s : State) (n : Ch) (p : Nat → Bool) (hs : Stands dies z s) :
    Stands dies z (State.cutFrame s n p) := by
  unfold State.cutFrame
  with_reducible repeat' first
    | assumption | apply stands_linkTick | apply stands_modLink | apply stands_emit | dsimp only | simp only [stands_mk] | split
theorem stands_release (s : State) (n : Ch) (reason : Nat) (hs : Stands dies z s) :
    Stands dies z (State.release s n reason) := by
  unfold State.release
  with_reducible repeat' first
    | assumption | apply stands_cutFrame | apply stands_modLink | apply stands_modCh | apply stands_emit | dsimp only
    | simp only [stands_mk] | split
theorem stands_travStop (s : State) (n : Ch) (hs : Stands dies z s) : Stands dies z (State.travStop s n) := by
  unfold State.travStop
  with_reducible repeat' first | assumption | apply stands_modTrav
theorem stands_lineMsgs (s : State) (n : Ch) (k : Nat) (ms : List (Nat × List Byte)) (hs : Stands dies z s) :
    Stands dies z (State.lineMsgs s n k ms) := by
  unfold State.lineMsgs
  with_reducible repeat' first
    | assumption | apply stands_emcyMsg | apply stands_emcyInfo | dsimp only | simp only [stands_mk]
    | (refine stands_foldl _ (fun t x ht => ?_) _ ?_) | (refine stands_foldl_fst _ (fun t x ht => ?_) _ ?_) | split
theorem stands_dropUndecided (s0 : State) (n : Ch) (hs0 : Stands dies z s0) : Stands dies z (State.dropUndecided s0 n) := by
  unfold State.dropUndecided
  with_reducible repeat' first
    | assumption | apply stands_lineMsgs | apply stands_modCh | dsimp only | simp only [stands_mk]
    | (refine stands_foldl _ (fun t x ht => ?_) _ ?_) | (refine stands_foldl_fst _ (fun t x ht => ?_) _ ?_) | split
theorem stands_epochLose (s : State) (n : Ch) (hs : Stands dies z s) : Stands dies z (State.epochLose s n) := by
  unfold State.epochLose
  with_reducible repeat' first | assumption | apply stands_put | dsimp only | simp only [stands_mk] | split
  all_goals exact fun _ => Nat.ne_of_beq_eq_false rfl
theorem stands_switchSent (s : State) (n : Nat) (close : Bool) (hs : Stands dies z s) :
    Stands dies z (State.switchSent s n close) := by
  unfold State.switchSent
  with_reducible repeat' first | assumption | apply stands_modDev
  all_goals exact fun _ => ⟨id, id⟩
theorem stands_switchOpen (s : State) (n : Ch) (hs : Stands dies z s) : Stands dies z (State.switchOpen s n) := by
  unfold State.switchOpen
  with_reducible repeat' first | assumption | apply stands_switchSent | apply stands_modDrive | apply stands_unflag
  all_goals exact fun _ => apart_of_addr (below_add_add rfl)
theorem stands_openSettle (n : Ch) (s : State) (hs : Stands dies z s) : Stands dies z (State.openSettle n s) := by
  unfold State.openSettle
  with_reducible repeat' first | assumption | apply stands_switchOpen | dsimp only | simp only [stands_mk] | split
theorem stands_switchDrop (s : State) (n : Ch) (hs : Stands dies z s) : Stands dies z (State.switchDrop s n) := by
  unfold State.switchDrop
  with_reducible repeat' first | assumption | apply stands_modDev | dsimp only | simp only [stands_mk] | split
  all_goals exact fun _ => ⟨id, id⟩
theorem stands_rampAndOpen (s : State) (n : Ch) (hs : Stands dies z s) : Stands dies z (State.rampAndOpen s n) := by
  unfold State.rampAndOpen
  with_reducible repeat' first
    | assumption | apply stands_switchDrop | apply stands_openSettle | apply stands_rampRails | apply stands_modDrive
    | apply stands_unflag | dsimp only | simp only [stands_mk] | split
  all_goals exact fun _ => apart_of_addr (below_add_add rfl)
theorem stands_epochSet (s : State) (n : Ch) (r : Rebase) (hs : Stands dies z s) : Stands dies z (State.epochSet s n r) := by
  unfold State.epochSet
  with_reducible repeat' first | assumption | apply stands_put
  all_goals exact fun _ => apart_of_addr (below_add_add rfl)
theorem stands_commitBack (s : State) (x : Nat × Trav × Rebase) (hs : Stands dies z s) :
    Stands dies z (State.commitBack s x) := by
  unfold State.commitBack
  with_reducible repeat' first | assumption | apply stands_epochSet | apply stands_modTrav
theorem stands_commitUndo (s : State) (n : Ch) (hs : Stands dies z s) : Stands dies z (State.commitUndo s n) := by
  unfold State.commitUndo
  with_reducible repeat' first
    | assumption | apply stands_commitBack | apply stands_unpulse | apply stands_unsay | apply stands_modDev | apply stands_put
    | dsimp only | simp only [stands_mk] | (refine stands_foldl _ (fun t x ht => ?_) _ ?_)
    | (refine stands_foldl_fst _ (fun t x ht => ?_) _ ?_) | split
  all_goals first
    | exact fun _ => ⟨id, id⟩
    | exact fun _ => Nat.ne_of_beq_eq_false rfl
theorem stands_retireMark (s : State) (n : Ch) (cause : Nat) (hs : Stands dies z s) :
    Stands dies z (State.retireMark s n cause) := by
  unfold State.retireMark
  with_reducible repeat' first | assumption | apply stands_cause | apply stands_modDev | dsimp only | simp only [stands_mk] | split
  all_goals exact fun _ => ⟨id, id⟩
theorem stands_retireBack (s : State) (m : RetireMark) (hs : Stands dies z s) : Stands dies z (State.retireBack s m) := by
  unfold State.retireBack
  with_reducible repeat' first
    | assumption | apply stands_record | apply stands_unpulse | apply stands_unsay | apply stands_cause | apply stands_modCan
    | apply stands_modCh | apply stands_put | dsimp only | simp only [stands_mk]
  all_goals first
    | exact fun _ => id
    | exact fun _ => apart_of_addr (below_add_add rfl)
theorem stands_retireUndo (s : State) (hs : Stands dies z s) : Stands dies z (State.retireUndo s) := by
  unfold State.retireUndo
  with_reducible repeat' first
    | assumption | apply stands_retireBack | apply stands_modDev | dsimp only | simp only [stands_mk]
    | (refine stands_foldl _ (fun t x ht => ?_) _ ?_)
  all_goals exact fun _ => ⟨id, id⟩
theorem stands_retire (s0 : State) (n : Ch) (cause : Nat) (hs0 : Stands dies z s0) :
    Stands dies z (State.retire s0 n cause) := by
  unfold State.retire
  with_reducible repeat' first
    | assumption | apply stands_retireMark | apply stands_commitUndo | apply stands_rampAndOpen | apply stands_epochLose
    | apply stands_dropUndecided | apply stands_travStop | apply stands_release | apply stands_setCh | apply stands_emcyMsg
    | apply stands_pulse | apply stands_cause | apply stands_modHealth | apply stands_modCh | apply stands_bump | apply stands_put
    | dsimp only | simp only [stands_mk] | split
  all_goals exact fun _ => apart_of_addr (below_add_add rfl)
theorem stands_parkCh (s : State) (n : Ch) (hs : Stands dies z s) : Stands dies z (State.parkCh s n) := by
  unfold State.parkCh
  with_reducible repeat' first
    | assumption | apply stands_dmaParked | apply stands_modCh | apply stands_unflag | apply stands_put | dsimp only
    | simp only [stands_mk] | split
  all_goals exact fun _ => apart_of_addr (below_add_add rfl)
theorem stands_pixPark (s : State) (hs : Stands dies z s) : Stands dies z (State.pixPark s) := by
  unfold State.pixPark
  with_reducible repeat' first
    | assumption | apply stands_emit | apply stands_clearAll | dsimp only | simp only [stands_mk]
    | (refine stands_foldl _ (fun t x ht => ?_) _ ?_) | (refine stands_foldl_fst _ (fun t x ht => ?_) _ ?_) | split
  exact fun _ => camCounters_apart
theorem stands_pixFollow (s : State) (hs : Stands dies z s) : Stands dies z (State.pixFollow s) := by
  unfold State.pixFollow
  with_reducible repeat' first | assumption | apply stands_pixPark | dsimp only | simp only [stands_mk] | split
theorem stands_safeFinish (s : State) (hs : Stands dies z s) : Stands dies z (State.safeFinish s) := by
  unfold State.safeFinish
  with_reducible repeat' first
    | assumption | apply stands_pixPark | apply stands_condOn | apply stands_emcyMsg | apply stands_cause | apply stands_modCan
    | apply stands_modDev | apply stands_bump | apply stands_put | dsimp only | simp only [stands_mk] | split
  all_goals first
    | exact fun _ _ => trivial | exact fun _ => ⟨Or.imp_right fun h => ⟨h.1, .inl rfl⟩, fun _ => .inl rfl⟩
    | exact fun _ => Nat.ne_of_beq_eq_false rfl
theorem stands_safeCh (s : State) (reason : Nat) (n : Ch) (hs : Stands dies z s) :
    Stands dies z (State.safeCh s reason n) := by
  unfold State.safeCh
  with_reducible repeat' first
    | assumption | apply stands_parkCh | apply stands_rampAndOpen | apply stands_switchDrop | apply stands_dropUndecided
    | apply stands_travStop | apply stands_release | apply stands_setCh | dsimp only | simp only [stands_mk] | split
theorem stands_benchMs (s : State) (hs : Stands dies z s) : Stands dies z (State.benchMs s) := by
  unfold State.benchMs
  with_reducible repeat' first | assumption | apply stands_put
  all_goals exact fun _ => Nat.ne_of_beq_eq_false rfl
theorem stands_benchFail (s : State) (n : Ch) (res cause : Nat) (hs : Stands dies z s) :
    Stands dies z (State.benchFail s n res cause) := by
  unfold State.benchFail
  with_reducible repeat' first | assumption | apply stands_retire | apply stands_cause | apply stands_put
  all_goals exact fun _ => outcome_apart _
theorem stands_benchLast (s : State) (n : Ch) (hs : Stands dies z s) : Stands dies z (State.benchLast s n) := by
  unfold State.benchLast
  with_reducible repeat' first
    | assumption | apply stands_benchFail | apply stands_setCh | apply stands_put | dsimp only | simp only [stands_mk] | split
  all_goals exact fun _ => outcome_apart _
theorem stands_benchSettle (n : Ch) (s : State) (hs : Stands dies z s) : Stands dies z (State.benchSettle n s) := by
  unfold State.benchSettle
  with_reducible repeat' first | assumption | apply stands_benchLast | dsimp only | simp only [stands_mk] | split
theorem stands_raise (s : State) (k : Nat) (hs : Stands dies z s) : Stands dies z (s.put Su.SAFE_COND (s.get Su.SAFE_COND ||| k)) :=
  { hs with cond := fun hc hb => by rw [get_put_same]; exact bit_raise (hs.cond hc hb) }
theorem stands_enterSafe (s0 : State) (bitNo code reason : Nat) (hs0 : Stands dies z s0) :
    Stands dies z (State.enterSafe s0 bitNo code reason) := by
  unfold State.enterSafe
  with_reducible repeat' first
    | assumption | apply stands_benchSettle | apply stands_benchMs | apply stands_safeCh | apply stands_safeFinish
    | apply stands_retireUndo | apply stands_epochLose | apply stands_answer | apply stands_tokenCheck | apply stands_condOn
    | apply stands_emcyMsg | apply stands_modDev | apply stands_raise | apply stands_put | dsimp only | simp only [stands_mk]
    | (refine stands_foldl _ (fun t x ht => ?_) _ ?_) | (refine stands_foldl_fst _ (fun t x ht => ?_) _ ?_)
    | refine stands_forCh _ _ ?_ (fun n t ht => ?_) | split
  all_goals first
    | exact fun _ => ⟨id, id⟩ | exact fun _ => Nat.ne_of_beq_eq_false rfl
    | exact fun _ => ⟨fun h => .inr ⟨by obtain h | ⟨h, -⟩ := h <;> rw [h] <;> rfl, .inr rfl⟩, fun _ => .inr rfl⟩
theorem stands_stopCh (s : State) (n : Ch) (hs : Stands dies z s) : Stands dies z (State.stopCh s n) := by
  unfold State.stopCh
  with_reducible repeat' first
    | assumption | apply stands_dropUndecided | apply stands_travStop | apply stands_setCh | dsimp only | simp only [stands_mk]
    | split

/-! #### Traverse -/

theorem stands_rebaseSettle (s : State) (n : Ch) (hs : Stands dies z s) : Stands dies z (State.rebaseSettle s n) := by
  unfold State.rebaseSettle
  with_reducible repeat' first
    | assumption | apply stands_modTrav | apply stands_putPair | apply stands_put | dsimp only | simp only [stands_mk] | split
  all_goals exact fun _ => apart_of_addr (below_add_add rfl)
theorem stands_decideMark (s : State) (n : Ch) (k : Nat) (fires : Bool) (hs : Stands dies z s) :
    Stands dies z (State.decideMark s n k fires) := by
  unfold State.decideMark
  with_reducible repeat' first
    | assumption | apply stands_rebaseSettle | apply stands_lineMsgs | apply stands_record | apply stands_pulse | apply stands_modTrav
    | apply stands_modCh | dsimp only | simp only [stands_mk] | split
theorem stands_senseLost (s : State) (n : Ch) (l : Option Line) (hs : Stands dies z s) :
    Stands dies z (State.senseLost s n l) := by
  unfold State.senseLost
  with_reducible repeat' first | assumption | apply stands_flagBump | dsimp only | simp only [stands_mk] | split
  all_goals exact fun _ => apart_of_addr (below_add_add rfl)
theorem stands_forgetLine (s : State) (n : Ch) (k : Nat) (hs : Stands dies z s) :
    Stands dies z (State.forgetLine s n k) := by
  unfold State.forgetLine
  with_reducible repeat' first | assumption | apply stands_modCh
theorem stands_dropPlain (s : State) (n : Ch) (k : Nat) (hs : Stands dies z s) : Stands dies z (State.dropPlain s n k) := by
  unfold State.dropPlain
  with_reducible repeat' first | assumption | apply stands_forgetLine | apply stands_senseLost | apply stands_decideMark
theorem stands_dropLine (s : State) (n : Ch) (k : Nat) (code : Nat) (hs : Stands dies z s) :
    Stands dies z (State.dropLine s n k code) := by
  unfold State.dropLine
  with_reducible repeat' first | assumption | apply stands_dropPlain | apply stands_emcyMsg
theorem stands_gapDrop (s : State) (n : Ch) (k : Nat) (hs : Stands dies z s) : Stands dies z (State.gapDrop s n k) := by
  unfold State.gapDrop
  with_reducible repeat' first | assumption | apply stands_dropLine | apply stands_flagBump
  all_goals exact fun _ => apart_of_addr (below_add_add rfl)
theorem stands_gapSweep : ∀ (f : Nat) (x0 : Bool) (x1 : Ch) (s : State), Stands dies z s → Stands dies z (State.gapSweep f x0 x1 s) := by
  intro f
  induction f with
  | zero => intro x0 x1 s h; exact h
  | succ f ih =>
    intro x0 x1 s h
    unfold State.gapSweep
    with_reducible repeat' first | assumption | apply stands_gapDrop | dsimp only | simp only [stands_mk] | split | apply ih
theorem stands_gapRebase (s : State) (n : Ch) (hs : Stands dies z s) : Stands dies z (State.gapRebase s n) := by
  unfold State.gapRebase
  with_reducible repeat' first
    | assumption | apply stands_gapSweep | apply stands_modTrav | dsimp only | simp only [stands_mk] | split
theorem stands_startLate (s : State) (n : Ch) (hs : Stands dies z s) : Stands dies z (State.startLate s n) := by
  unfold State.startLate
  with_reducible repeat' first
    | assumption | apply stands_dropUndecided | apply stands_travStop | apply stands_release | apply stands_setCh | apply stands_flag
  all_goals exact fun _ => apart_of_addr (below_add_add rfl)

/-! #### LineData -/

theorem stands_geomReport (s : State) (n : Ch) (e : Nat) (hs : Stands dies z s) :
    Stands dies z (State.geomReport s n e) := by
  unfold State.geomReport
  with_reducible repeat' first | assumption | apply stands_put
  all_goals exact fun _ => apart_of_addr (below_add_add rfl)
theorem stands_geomApply (s : State) (n : Ch) (hs : Stands dies z s) : Stands dies z (State.geomApply s n) := by
  unfold State.geomApply
  with_reducible repeat' first
    | assumption | apply stands_geomReport | apply stands_modCh | apply stands_put | dsimp only | simp only [stands_mk] | split
  all_goals exact fun _ => apart_of_addr (below_add_add rfl)
theorem stands_queueFlush (s : State) (n : Ch) (hs : Stands dies z s) : Stands dies z (State.queueFlush s n) := by
  unfold State.queueFlush
  with_reducible repeat' first | assumption | apply stands_modCh
theorem stands_setQTag (s : State) (n : Ch) (t : Nat) (hs : Stands dies z s) : Stands dies z (State.setQTag s n t) := by
  unfold State.setQTag
  with_reducible repeat' first | assumption | apply stands_modCh
theorem stands_lineRefused (n : Ch) (addr data : Nat) (s : State) (hs : Stands dies z s) :
    Stands dies z (lineRefused n addr data s) := by
  unfold lineRefused
  with_reducible repeat' first
    | assumption | apply stands_geomApply | apply stands_geomReport | dsimp only | simp only [stands_mk] | split
theorem stands_lineApply (n : Ch) (addr data : Nat) (s : State) (hs : Stands dies z s) :
    Stands dies z (lineApply n addr data s) := by
  unfold lineApply
  with_reducible repeat' first
    | assumption | apply stands_setQTag | apply stands_queueFlush | apply stands_geomApply | apply stands_writeWord | apply stands_put
    | dsimp only | simp only [stands_mk] | split
  all_goals first
    | with_reducible exact fun _ => ldFields_apart _
    | exact fun _ => apart_of_addr (below_add rfl)

/-! #### EditStage -/

theorem stands_setEntry (s : State) (n : Ch) (i v : Nat) (hs : Stands dies z s) :
    Stands dies z (State.setEntry s n i v) := by
  unfold State.setEntry
  with_reducible repeat' first | assumption | apply stands_modCh
theorem stands_tblDone (s : State) (n : Ch) (line : Nat) (hs : Stands dies z s) :
    Stands dies z (State.tblDone s n line) := by
  unfold State.tblDone
  with_reducible repeat' first | assumption | apply stands_putPair | apply stands_incr
  all_goals first
    | exact fun _ => apart_of_addr (below_add_add rfl)
    | exact fun _ => apart_of_addr (below_add rfl)
theorem stands_forgetNozzle (s : State) (n : Ch) (i : Nat) (hs : Stands dies z s) :
    Stands dies z (State.forgetNozzle s n i) := by
  unfold State.forgetNozzle
  with_reducible repeat' first | assumption | apply stands_modHealth
theorem stands_applyEntry (s : State) (n : Ch) (i mask val line : Nat) (hs : Stands dies z s) :
    Stands dies z (State.applyEntry s n i mask val line) := by
  unfold State.applyEntry
  with_reducible repeat' first
    | assumption | apply stands_forgetNozzle | apply stands_tblDone | apply stands_setEntry | apply stands_modCh | apply stands_flag
    | dsimp only | simp only [stands_mk] | split
  all_goals exact fun _ => apart_of_addr (below_add_add rfl)
theorem stands_applyPattern (s : State) (n : Ch) (h val line : Nat) (hs : Stands dies z s) :
    Stands dies z (State.applyPattern s n h val line) := by
  unfold State.applyPattern
  with_reducible repeat' first | assumption | apply stands_tblDone | apply stands_putEff
theorem stands_applyTile (s : State) (n : Ch) (w val line : Nat) (hs : Stands dies z s) :
    Stands dies z (State.applyTile s n w val line) := by
  unfold State.applyTile
  with_reducible repeat' first | assumption | apply stands_tblDone | apply stands_putEff

/-! #### Levelling -/

theorem stands_slotClear (s : State) (n : Ch) (sl : Nat) (hs : Stands dies z s) :
    Stands dies z (State.slotClear s n sl) := by
  unfold State.slotClear
  with_reducible repeat' first | assumption | apply stands_clearAll
  all_goals exact fun _ => slot_apart _ _
theorem stands_slotForget (s : State) (n : Ch) (sl : Nat) (hs : Stands dies z s) :
    Stands dies z (State.slotForget s n sl) := by
  unfold State.slotForget
  with_reducible repeat' first | assumption | apply stands_slotClear | apply stands_modDrive | apply stands_unflag
  all_goals exact fun _ => prot_apart _ _
theorem stands_slotWrite (s : State) (n : Ch) (sl w data : Nat) (hs : Stands dies z s) :
    Stands dies z (State.slotWrite s n sl w data) := by
  unfold State.slotWrite
  split
  · exact hs
  · refine stands_unflag _ _ ?_ fun _ => valid_apart _ _
    refine stands_puts _ _ ?_ fun _ f hf => slot_apart n sl f (List.mem_filter.mp hf).1
    exact stands_ite (stands_slotForget _ _ _ hs) hs
theorem stands_prechargeStart (s : State) (n : Ch) (hs : Stands dies z s) : Stands dies z (State.prechargeStart s n) := by
  unfold State.prechargeStart
  with_reducible repeat' first | assumption | apply stands_switchSent | apply stands_modDrive | apply stands_flag
  all_goals exact fun _ => apart_of_addr (below_add_add rfl)
theorem stands_switchCheck (s : State) (n : Ch) (hs : Stands dies z s) : Stands dies z (State.switchCheck s n) := by
  unfold State.switchCheck
  with_reducible repeat' first | assumption | apply stands_modDrive
theorem stands_switchPass (s : State) (n : Ch) (hs : Stands dies z s) : Stands dies z (State.switchPass s n) := by
  unfold State.switchPass
  with_reducible repeat' first | assumption | apply stands_prechargeStart | dsimp only | simp only [stands_mk] | split

/-! #### Link -/

theorem stands_queueCtl (s : State) (n : Ch) (id : Nat) (f : Frame) (hs : Stands dies z s) :
    Stands dies z (State.queueCtl s n id f) := by
  unfold State.queueCtl
  with_reducible repeat' first | assumption | apply stands_pump | apply stands_linkTick | apply stands_modLink
theorem stands_sendTable (s : State) (n : Ch) (sl : Nat) (hs : Stands dies z s) :
    Stands dies z (State.sendTable s n sl) := by
  unfold State.sendTable
  with_reducible repeat' first | assumption | apply stands_queueCtl | dsimp only | simp only [stands_mk] | split
theorem stands_trainBegin (s : State) (n : Ch) (st : LinkState) (hs : Stands dies z s) :
    Stands dies z (State.trainBegin s n st) := by
  unfold State.trainBegin
  with_reducible repeat' first | assumption | apply stands_modLink | apply stands_emit
theorem stands_feGo (s : State) (n : Ch) (a : FeAcc) (hs : Stands dies z s) : Stands dies z (State.feGo s n a) := by
  unfold State.feGo
  with_reducible repeat' first | assumption | apply stands_queueCtl | apply stands_modLink | apply stands_flag
  all_goals exact fun _ => apart_of_addr (below_add_add rfl)
theorem stands_feStart (s : State) (n : Ch) (addr val : Nat) (write : Bool) (use : FeFor) (hs : Stands dies z s) :
    Stands dies z (State.feStart s n addr val write use) := by
  unfold State.feStart
  with_reducible repeat' first | assumption | apply stands_feGo | apply stands_modLink | dsimp only | simp only [stands_mk] | split
theorem stands_linkApply (n : Ch) (addr data : Nat) (s : State) (hs : Stands dies z s) :
    Stands dies z (linkApply n addr data s) := by
  unfold linkApply
  with_reducible repeat' first
    | assumption | apply stands_feStart | apply stands_trainBegin | apply stands_writeWord | dsimp only | simp only [stands_mk]
    | split
  all_goals exact fun _ => lkFields_apart _

/-! #### Health -/

theorem stands_learnStart (s : State) (n : Ch) (rows : Nat) (hs : Stands dies z s) :
    Stands dies z (State.learnStart s n rows) := by
  unfold State.learnStart
  with_reducible repeat' first | assumption | apply stands_modHealth | apply stands_put
  all_goals exact fun _ => apart_of_addr (below_add_add rfl)
theorem stands_sigStep (s : State) (n : Ch) (hs : Stands dies z s) : Stands dies z (State.sigStep s n) := by
  unfold State.sigStep
  with_reducible repeat' first | assumption | apply stands_put
  all_goals exact fun _ => apart_of_addr (below_add_add rfl)
theorem stands_sigLen (s : State) (n : Ch) (row len : Nat) (hs : Stands dies z s) :
    Stands dies z (State.sigLen s n row len) := by
  unfold State.sigLen
  with_reducible repeat' first | assumption | apply stands_modHealth | apply stands_put
  all_goals exact fun _ => apart_of_addr (below_add_add rfl)
theorem stands_sigSample (s : State) (n : Ch) (row i : Nat) (x : Int) (hs : Stands dies z s) :
    Stands dies z (State.sigSample s n row i x) := by
  unfold State.sigSample
  with_reducible repeat' first | assumption | apply stands_modHealth | apply stands_put
  all_goals exact fun _ => apart_of_addr (below_add_add rfl)
theorem stands_sigWrite (s : State) (n : Ch) (v : Nat) (hs : Stands dies z s) : Stands dies z (State.sigWrite s n v) := by
  unfold State.sigWrite
  with_reducible repeat' first
    | assumption | apply stands_sigSample | apply stands_sigLen | apply stands_sigStep | dsimp only | simp only [stands_mk] | split
theorem stands_stripCancel (s : State) (n : Ch) (hs : Stands dies z s) : Stands dies z (State.stripCancel s n) := by
  unfold State.stripCancel
  with_reducible repeat' first
    | assumption | apply stands_modHealth | apply stands_unflag | dsimp only | simp only [stands_mk] | split
  all_goals exact fun _ => apart_of_addr (below_add_add rfl)
theorem stands_verdictNote (s : State) (n : Ch) (i line old new why : Nat) (hs : Stands dies z s) :
    Stands dies z (State.verdictNote s n i line old new why) := by
  unfold State.verdictNote
  with_reducible repeat' first | assumption | apply stands_cause | apply stands_incr | dsimp only | simp only [stands_mk]
  all_goals exact fun _ => apart_of_addr (below_add_add rfl)
theorem stands_applyClosure (s : State) (n : Ch) (i mask val line why : Nat) (hs : Stands dies z s) :
    Stands dies z (State.applyClosure s n i mask val line why).1 := by
  unfold State.applyClosure
  with_reducible repeat' first
    | assumption | apply stands_verdictNote | apply stands_tblDone | apply stands_setEntry | dsimp only | simp only [stands_mk]
    | split
theorem stands_healthApply (n : Ch) (addr data : Nat) (s : State) (hs : Stands dies z s) :
    Stands dies z (healthApply n addr data s) := by
  unfold healthApply
  with_reducible repeat' first
    | assumption | apply stands_stripCancel | apply stands_sigWrite | apply stands_learnStart | apply stands_writeWord | dsimp only
    | simp only [stands_mk] | split
  all_goals exact fun _ => nhFields_apart _

/-! #### Camera -/

theorem stands_modFrame (s : State) (c id : Nat) (f : CamFrame → CamFrame) (hs : Stands dies z s) :
    Stands dies z (State.modFrame s c id f) := by
  unfold State.modFrame
  with_reducible repeat' first | assumption | apply stands_modCam
theorem stands_snapDone (s : State) (flagged : Bool) (hs : Stands dies z s) : Stands dies z (State.snapDone s flagged) := by
  unfold State.snapDone
  with_reducible repeat' first | assumption | dsimp only | simp only [stands_mk]
theorem stands_closeFrame (s : State) (c extra : Nat) (hs : Stands dies z s) :
    Stands dies z (State.closeFrame s c extra) := by
  unfold State.closeFrame
  with_reducible repeat' first
    | assumption | apply stands_snapDone | apply stands_modFrame | dsimp only | simp only [stands_mk] | split
theorem stands_modPort (s : State) (p : Nat) (f : CamPort → CamPort) (hs : Stands dies z s) :
    Stands dies z (State.modPort s p f) := by
  unfold State.modPort
  with_reducible repeat' first | assumption | dsimp only | simp only [stands_mk]
theorem stands_snapArm (s : State) (v : Nat) (hs : Stands dies z s) : Stands dies z (State.snapArm s v) := by
  unfold State.snapArm
  with_reducible repeat' first | assumption | dsimp only | simp only [stands_mk] | split
theorem stands_curveStep (s : State) (c : Nat) (hs : Stands dies z s) : Stands dies z (State.curveStep s c) := by
  unfold State.curveStep
  with_reducible repeat' first | assumption | apply stands_put
  all_goals exact fun _ => apart_of_addr (below_add_add rfl)
theorem stands_curveWrite (s : State) (c v : Nat) (hs : Stands dies z s) : Stands dies z (State.curveWrite s c v) := by
  unfold State.curveWrite
  with_reducible repeat' first | assumption | apply stands_curveStep | apply stands_sliceTouch | apply stands_modCam
theorem stands_contextOff (s : State) (c : Nat) (hs : Stands dies z s) : Stands dies z (State.contextOff s c) := by
  unfold State.contextOff
  with_reducible repeat' first | assumption | apply stands_closeFrame | apply stands_modCam | apply stands_put
  all_goals exact fun _ => apart_of_addr (below_add_add rfl)

/-! #### Engine -/

theorem stands_dmaArm (s : State) (d : Dch) (hs : Stands dies z s) : Stands dies z (State.dmaArm s d) := by
  unfold State.dmaArm
  with_reducible repeat' first
    | assumption | apply stands_dmaEnd | apply stands_modDma | apply stands_flag | apply stands_put | dsimp only
    | simp only [stands_mk] | split
  all_goals exact fun _ => apart_of_addr (below_add_add rfl)
theorem stands_dmaPauseSet (s : State) (d : Dch) (on : Bool) (hs : Stands dies z s) :
    Stands dies z (State.dmaPauseSet s d on) := by
  unfold State.dmaPauseSet
  with_reducible repeat' first
    | assumption | apply stands_dmaStopIssue | apply stands_modDma | apply stands_putB | dsimp only | simp only [stands_mk] | split
  all_goals exact fun _ => apart_of_addr (below_add_add rfl)
theorem stands_dmaEnSet (s : State) (d : Dch) (on : Bool) (hs : Stands dies z s) :
    Stands dies z (State.dmaEnSet s d on) := by
  unfold State.dmaEnSet
  with_reducible repeat' first
    | assumption | apply stands_dmaStopIssue | apply stands_modDma | apply stands_flagBump | apply stands_unflag | apply stands_flag
    | apply stands_put | dsimp only | simp only [stands_mk] | split
  all_goals exact fun _ => apart_of_addr (below_add_add rfl)
theorem stands_dmaRdSet (s : State) (d : Dch) (v : Nat) (hs : Stands dies z s) : Stands dies z (State.dmaRdSet s d v) := by
  unfold State.dmaRdSet
  with_reducible repeat' first
    | assumption | apply stands_dmaFailDue | apply stands_dmaEndIf | apply stands_dmaSettle | apply stands_modDma | apply stands_put
    | dsimp only | simp only [stands_mk] | split
  all_goals exact fun _ => apart_of_addr (below_add_add rfl)
theorem stands_dmaRefused (d : Dch) (addr data : Nat) (s : State) (hs : Stands dies z s) :
    Stands dies z (dmaRefused d addr data s) := by
  unfold dmaRefused
  with_reducible repeat' first | assumption | apply stands_put | dsimp only | simp only [stands_mk] | split
  all_goals exact fun _ => apart_of_addr (below_add_add rfl)
theorem stands_dmaApply (d : Dch) (addr data : Nat) (s0 : State) (hs0 : Stands dies z s0) :
    Stands dies z (dmaApply d addr data s0) := by
  unfold dmaApply
  with_reducible repeat' first
    | assumption | apply stands_dmaRdSet | apply stands_dmaEnSet | apply stands_dmaPauseSet | apply stands_dmaArm
    | apply stands_dmaTick | apply stands_dmaSettle | apply stands_writeWord | dsimp only | simp only [stands_mk] | split
  all_goals exact fun _ => dmFields_apart _

/-! #### Otp -/

theorem stands_setCell (s : State) (c : OtpCell) (hs : Stands dies z s) : Stands dies z (State.setCell s c) := by
  unfold State.setCell
  with_reducible repeat' first | assumption | dsimp only | simp only [stands_mk]
theorem stands_modRow (s : State) (g : Nat) (f : LockRow → LockRow) (hs : Stands dies z s) :
    Stands dies z (State.modRow s g f) := by
  unfold State.modRow
  with_reducible repeat' first | assumption | dsimp only | simp only [stands_mk]
theorem stands_cutSeen (s : State) (r : FuseRun) (b : Blow) (hs : Stands dies z s) :
    Stands dies z (State.cutSeen s r b) := by
  unfold State.cutSeen
  with_reducible repeat' first | assumption | dsimp only | simp only [stands_mk] | split
theorem stands_spareTag (s : State) (g k w : Nat) (c : OtpCell) (r : FuseRun) (hs : Stands dies z s) :
    Stands dies z (State.spareTag s g k w c r).1 := by
  unfold State.spareTag
  with_reducible repeat' first | assumption | apply stands_cutSeen | apply stands_modRow | apply stands_setCell
theorem stands_spareWrite (s : State) (g w k v : Nat) (rd rt : FuseRun) (hs : Stands dies z s) :
    Stands dies z (State.spareWrite s g w k v rd rt).1 := by
  unfold State.spareWrite
  with_reducible repeat' first
    | assumption | apply stands_spareTag | apply stands_cutSeen | apply stands_setCell | dsimp only | simp only [stands_mk] | split
theorem stands_otpWrite (s0 : State) (ix v : Nat) (runs : List FuseRun) (hs0 : Stands dies z s0) :
    Stands dies z (State.otpWrite s0 ix v runs).1 := by
  unfold State.otpWrite
  with_reducible repeat' first
    | assumption | apply stands_spareWrite | apply stands_cutSeen | apply stands_setCell | dsimp only | simp only [stands_mk] | split
theorem stands_otpArm (s : State) (n : Nat) (g : Nat) (hs : Stands dies z s) : Stands dies z (State.otpArm s n g).1 := by
  unfold State.otpArm
  with_reducible repeat' first | assumption | dsimp only | simp only [stands_mk] | split
theorem stands_otpDisarm (s : State) (hs : Stands dies z s) : Stands dies z (State.otpDisarm s) := by
  unfold State.otpDisarm
  with_reducible repeat' first | assumption | dsimp only | simp only [stands_mk]
theorem stands_blowWriteLock (s : State) (g : Nat) (run : FuseRun) (hs : Stands dies z s) :
    Stands dies z (State.blowWriteLock s g run).1 := by
  unfold State.blowWriteLock
  with_reducible repeat' first
    | assumption | apply stands_otpDisarm | apply stands_cutSeen | apply stands_modRow | dsimp only | simp only [stands_mk] | split
theorem stands_blowReadLock (s : State) (g : Nat) (run : FuseRun) (hs : Stands dies z s) :
    Stands dies z (State.blowReadLock s g run).1 := by
  unfold State.blowReadLock
  with_reducible repeat' first
    | assumption | apply stands_otpDisarm | apply stands_cutSeen | apply stands_modRow | dsimp only | simp only [stands_mk] | split
theorem stands_otpCheck (s : State) (hs : Stands dies z s) : Stands dies z (State.otpCheck s) := by
  unfold State.otpCheck
  with_reducible repeat' first | assumption | apply stands_put
  all_goals exact fun _ => apart_of_addr (below_add_add rfl)
theorem stands_burnKey (s : State) (run : FuseRun) (hs : Stands dies z s) : Stands dies z (State.burnKey s run).1 := by
  unfold State.burnKey
  with_reducible repeat' first
    | assumption | apply stands_setCell | dsimp only | simp only [stands_mk] | (refine stands_foldl _ (fun t x ht => ?_) _ ?_)
    | (refine stands_foldl_fst _ (fun t x ht => ?_) _ ?_)
theorem stands_lcBlow (s0 : State) (t : Nat) (runs : List FuseRun) (hs0 : Stands dies z s0) :
    Stands dies z (State.lcBlow s0 t runs).1 := by
  unfold State.lcBlow
  with_reducible repeat' first
    | assumption | apply stands_burnKey | apply stands_otpDisarm | apply stands_cutSeen | apply stands_modRow | dsimp only
    | simp only [stands_mk] | (refine stands_foldl _ (fun t x ht => ?_) _ ?_) | (refine stands_foldl_fst _ (fun t x ht => ?_) _ ?_)
    | split

/-! #### Thermal -/

theorem stands_thFlag (s : State) (f : Fld) (hs : Stands dies z s) (hf : dies = true → f.key ≠ Su.SAFE_COND.key) :
    Stands dies z (State.thFlag s f) := stands_cause _ _ (stands_flag _ _ hs hf)
theorem stands_goSlow (s : State) (m : Thi) (hs : Stands dies z s) : Stands dies z (State.goSlow s m) := by
  unfold State.goSlow
  with_reducible repeat' first | assumption | apply stands_modTh | apply stands_unflag
  all_goals exact fun _ => apart_of_addr (below_add_add rfl)
theorem stands_typeChanged (s : State) (m : Thi) (hs : Stands dies z s) : Stands dies z (State.typeChanged s m) := by
  unfold State.typeChanged
  with_reducible repeat' first
    | assumption | apply stands_goSlow | apply stands_condOff | apply stands_modTh | apply stands_unflag | apply stands_put
    | dsimp only | simp only [stands_mk] | split
  all_goals exact fun _ => apart_of_addr (below_add_add rfl)
theorem stands_tripBack (s : State) (k : TripMark) (hs : Stands dies z s) : Stands dies z (State.tripBack s k) := by
  unfold State.tripBack
  with_reducible repeat' first
    | assumption | apply stands_modCan | apply stands_modTh | apply stands_unflag | apply stands_flag | apply stands_put
  all_goals first
    | exact fun _ => id
    | exact fun _ => apart_of_addr (below_add_add rfl)
theorem stands_tripUndo (s : State) (hs : Stands dies z s) : Stands dies z (State.tripUndo s) := by
  unfold State.tripUndo
  with_reducible repeat' first
    | assumption | apply stands_tripBack | apply stands_modDev | dsimp only | simp only [stands_mk]
    | (refine stands_foldl _ (fun t x ht => ?_) _ ?_)
  all_goals exact fun _ => ⟨id, id⟩
theorem stands_thermalApply (m : Thi) (addr data : Nat) (s : State) (hs : Stands dies z s) :
    Stands dies z (thermalApply m addr data s) := by
  unfold thermalApply
  with_reducible repeat' first
    | assumption | apply stands_typeChanged | apply stands_writeWord | dsimp only | simp only [stands_mk] | split
  all_goals exact fun _ => thFields_apart _

/-! #### Channel -/

theorem stands_rebaseDrop (s : State) (n : Ch) (hs : Stands dies z s) : Stands dies z (State.rebaseDrop s n) := by
  unfold State.rebaseDrop
  with_reducible repeat' first
    | assumption | apply stands_epochSet | apply stands_modTrav | dsimp only | simp only [stands_mk] | split
theorem stands_startReport (s : State) (n : Ch) (hs : Stands dies z s) : Stands dies z (State.startReport s n) := by
  unfold State.startReport
  with_reducible repeat' first | assumption | apply stands_flag | apply stands_put | dsimp only | simp only [stands_mk] | split
  all_goals exact fun _ => apart_of_addr (below_add_add rfl)
theorem stands_pipeStart (s : State) (n : Ch) (k : Nat) (hs : Stands dies z s) : Stands dies z (State.pipeStart s n k) := by
  unfold State.pipeStart
  with_reducible repeat' first | assumption | apply stands_modHealth | apply stands_modCh | apply stands_unflag
  all_goals exact fun _ => apart_of_addr (below_add_add rfl)
theorem stands_startGo (s0 : State) (n : Ch) (hs0 : Stands dies z s0) : Stands dies z (State.startGo s0 n).1 := by
  unfold State.startGo
  with_reducible repeat' first
    | assumption | apply stands_pipeStart | apply stands_rebaseDrop | apply stands_startLate | apply stands_epochLose
    | apply stands_setCh | apply stands_modTrav | dsimp only | simp only [stands_mk] | split
theorem stands_startTry (s : State) (n : Ch) (hs : Stands dies z s) : Stands dies z (State.startTry s n).1 := by
  unfold State.startTry
  with_reducible repeat' first
    | assumption | apply stands_startGo | apply stands_startReport | apply stands_rebaseDrop | apply stands_flag | apply stands_put
    | dsimp only | simp only [stands_mk] | split
  all_goals exact fun _ => apart_of_addr (below_add_add rfl)
theorem stands_freshWindows (s : State) (n : Ch) (hs : Stands dies z s) : Stands dies z (State.freshWindows s n) := by
  unfold State.freshWindows
  with_reducible repeat' first | assumption | apply stands_modCh
theorem stands_powerCh (s : State) (n : Ch) (hs : Stands dies z s) : Stands dies z (State.powerCh s n) := by
  unfold State.powerCh
  with_reducible repeat' first | assumption | apply stands_modCh
theorem stands_readmitGo (s : State) (n : Ch) (hs : Stands dies z s) : Stands dies z (State.readmitGo s n) := by
  unfold State.readmitGo
  with_reducible repeat' first
    | assumption | apply stands_powerCh | apply stands_freshWindows | apply stands_trainBegin | apply stands_switchCheck
    | apply stands_setQTag | apply stands_epochLose | apply stands_setCh | apply stands_modCh | dsimp only | simp only [stands_mk]
    | split
theorem stands_readmitOrder (s : State) (n : Ch) (hs : Stands dies z s) : Stands dies z (State.readmitOrder s n) := by
  unfold State.readmitOrder
  with_reducible repeat' first | assumption | apply stands_flag | dsimp only | simp only [stands_mk] | split
  all_goals exact fun _ => apart_of_addr (below_add_add rfl)
theorem stands_epochFail (s : State) (n reason : Nat) (hs : Stands dies z s) :
    Stands dies z (State.epochFail s n reason) := by
  unfold State.epochFail
  with_reducible repeat' first | assumption | apply stands_put | dsimp only | simp only [stands_mk]
  all_goals exact fun _ => Nat.ne_of_beq_eq_false rfl
theorem stands_epochWatch (s : State) (hs : Stands dies z s) : Stands dies z (State.epochWatch s) := by
  unfold State.epochWatch
  with_reducible repeat' first | assumption | apply stands_epochFail | dsimp only | simp only [stands_mk] | split
theorem stands_epochLtc (s : State) (hs : Stands dies z s) : Stands dies z (State.epochLtc s) := by
  unfold State.epochLtc
  with_reducible repeat' first
    | assumption | apply stands_put | dsimp only | simp only [stands_mk] | (refine stands_foldl _ (fun t x ht => ?_) _ ?_)
  all_goals exact fun _ => apart_of_addr (below_add_add rfl)
theorem stands_prepareGo (s : State) (hs : Stands dies z s) : Stands dies z (State.prepareGo s).1 := by
  unfold State.prepareGo
  with_reducible repeat' first
    | assumption | apply stands_epochLtc | apply stands_epochFail | apply stands_put | dsimp only | simp only [stands_mk] | split
  all_goals exact fun _ => Nat.ne_of_beq_eq_false rfl
theorem stands_commitCh (s : State) (n : Ch) (number : Nat) (hs : Stands dies z s) :
    Stands dies z (State.commitCh s n number) := by
  unfold State.commitCh
  with_reducible repeat' first
    | assumption | apply stands_epochSet | apply stands_modTrav | dsimp only | simp only [stands_mk] | split
theorem stands_commitTake (s : State) (hs : Stands dies z s) : Stands dies z (State.commitTake s).1 := by
  unfold State.commitTake
  with_reducible repeat' first
    | assumption | apply stands_commitCh | apply stands_epochFail | apply stands_gapRebase | apply stands_emcyMsg | apply stands_pulse
    | apply stands_modDev | apply stands_put | dsimp only | simp only [stands_mk] | (refine stands_foldl _ (fun t x ht => ?_) _ ?_)
    | (refine stands_foldl_fst _ (fun t x ht => ?_) _ ?_) | split
  all_goals first
    | exact fun _ => ⟨id, id⟩
    | exact fun _ => Nat.ne_of_beq_eq_false rfl
theorem stands_commitGo (s : State) (hs : Stands dies z s) : Stands dies z (State.commitGo s).1 := by
  unfold State.commitGo
  with_reducible repeat' first | assumption | apply stands_commitTake | dsimp only | simp only [stands_mk] | split
theorem stands_cancelGo (s : State) (hs : Stands dies z s) : Stands dies z (State.cancelGo s) := by
  unfold State.cancelGo
  with_reducible repeat' first | assumption | dsimp only | simp only [stands_mk]
theorem stands_epochApply (addr data : Nat) (s : State) (hs : Stands dies z s) : Stands dies z (epochApply addr data s) := by
  unfold epochApply
  with_reducible repeat' first
    | assumption | apply stands_cancelGo | apply stands_commitGo | apply stands_prepareGo | split
  exact stands_writeWord _ _ _ _ _ hs fun _ => epFields_apart

/-! #### Protection -/

theorem stands_slotCheck (s : State) (n : Ch) (sl : Nat) (hs : Stands dies z s) :
    Stands dies z (State.slotCheck s n sl) := by
  unfold State.slotCheck
  with_reducible repeat' first
    | assumption | apply stands_sendTable | apply stands_putB | apply stands_put | dsimp only | simp only [stands_mk] | split
  all_goals first
    | with_reducible exact fun _ => valid_apart _ _
    | with_reducible exact fun _ => err_apart _ _
theorem stands_levelApply (n : Ch) (addr data : Nat) (s : State) (hs : Stands dies z s) :
    Stands dies z (levelApply n addr data s) := by
  unfold levelApply
  with_reducible repeat' first
    | assumption | apply stands_slotCheck | apply stands_writeWord | dsimp only | simp only [stands_mk] | split
  all_goals exact fun _ => lvFields_apart _
theorem stands_wipeFree (s : State) (n : Ch) (hs : Stands dies z s) : Stands dies z (State.wipeFree s n) := by
  unfold State.wipeFree
  with_reducible repeat' first
    | assumption | apply stands_slotForget | dsimp only | simp only [stands_mk] | (refine stands_foldl _ (fun t x ht => ?_) _ ?_)
theorem stands_wipeZero (s : State) (n : Ch) (hs : Stands dies z s) : Stands dies z (State.wipeZero s n) := by
  unfold State.wipeZero
  with_reducible repeat' first
    | assumption | apply stands_slotClear | apply stands_modDrive | dsimp only | simp only [stands_mk]
    | (refine stands_foldl _ (fun t x ht => ?_) _ ?_)
theorem stands_wipeCh (n : Ch) (s : State) (hs : Stands dies z s) : Stands dies z (State.wipeCh n s) := by
  unfold State.wipeCh
  with_reducible repeat' first
    | assumption | apply stands_wipeZero | apply stands_wipeFree | apply stands_stopCh | apply stands_reply | apply stands_emcyMsg
    | apply stands_modDrive | apply stands_modCh | apply stands_unflag | apply stands_flag | apply stands_put | dsimp only
    | simp only [stands_mk] | (refine stands_foldl _ (fun t x ht => ?_) _ ?_) | (refine stands_foldl_fst _ (fun t x ht => ?_) _ ?_)
    | split
  all_goals first
    | with_reducible exact fun _ => valid_apart _ _
    | with_reducible exact fun _ => prot_apart _ _
    | with_reducible exact fun _ => err_apart _ _
    | exact fun _ => apart_of_addr (below_add_add rfl)
theorem stands_datum {s : State} {d : Datum} (hs : Stands dies z s) (hl : d.locked = s.datum.locked) (hb : d.bootSrc = s.datum.bootSrc) :
    Stands dies z { s with datum := d } := { hs with locked := hl.trans hs.locked, slot := hb.trans hs.slot }
theorem stands_wipeGo (s : State) (why : WipeWhy) (hs : Stands dies z s) : Stands dies z (State.wipeGo s why) := by
  have hcause : ∀ v, Stands dies z (s.put Pr.WIPE_CAUSE v) := fun v => stands_put _ _ _ hs fun _ => Nat.ne_of_beq_eq_false rfl
  unfold State.wipeGo
  split
  · exact hcause _
  · refine stands_forCh _ _ ?_ fun n t ht => stands_wipeCh n t ht
    exact stands_datum (stands_spClearSecure _ (stands_modDev _ _ (hcause _) fun _ => ⟨id, id⟩)) rfl rfl
theorem stands_wipedSettle (s : State) (n : Ch) (hs : Stands dies z s) : Stands dies z (State.wipedSettle s n) := by
  unfold State.wipedSettle
  with_reducible repeat' first
    | assumption | apply stands_wipeZero | apply stands_modDrive | apply stands_flag | dsimp only | simp only [stands_mk] | split
  all_goals exact fun _ => apart_of_addr (below_add_add rfl)
theorem stands_loadStart (s : State) (n : Ch) (sl ofs : Nat) (p : Option Port) (hs : Stands dies z s) :
    Stands dies z (State.loadStart s n sl ofs p) := by
  unfold State.loadStart
  with_reducible repeat' first
    | assumption | apply stands_spParity | apply stands_modDrive | dsimp only | simp only [stands_mk] | split
theorem stands_debugRespond (s : State) (sig : List Byte) (hs : Stands dies z s) : Stands dies z (State.debugRespond s sig).1 := by
  unfold State.debugRespond
  split
  · exact hs
  · split
    · exact hs
    · split <;> exact stands_datum hs rfl rfl

/-! #### Power -/

theorem stands_saveSettle (s : State) (hs : Stands dies z s) : Stands dies z (State.saveSettle s) := by
  unfold State.saveSettle
  with_reducible repeat' first | assumption | apply stands_reply | dsimp only | simp only [stands_mk] | split
theorem stands_standbyStep (s : State) (hs : Stands dies z s) : Stands dies z (State.standbyStep s) := by
  unfold State.standbyStep
  with_reducible repeat' first
    | assumption | apply stands_pixPark | apply stands_reply | apply stands_modDev | dsimp only | simp only [stands_mk] | split
  all_goals exact fun _ => ⟨id, id⟩
theorem stands_standbyGo (s : State) (p : Option Port) (hs : Stands dies z s) : Stands dies z (State.standbyGo s p) := by
  unfold State.standbyGo
  with_reducible repeat' first
    | assumption | apply stands_standbyStep | apply stands_rampAndOpen | apply stands_reply | apply stands_cause | apply stands_modDev
    | dsimp only | simp only [stands_mk] | refine stands_forCh _ _ ?_ (fun n t ht => ?_) | split
  all_goals exact fun _ => ⟨id, id⟩
theorem stands_wakeCh (n : Ch) (s : State) (hs : Stands dies z s) : Stands dies z (State.wakeCh n s) := by
  unfold State.wakeCh
  with_reducible repeat' first
    | assumption | apply stands_powerCh | apply stands_trainBegin | apply stands_switchCheck | apply stands_setCh | dsimp only
    | simp only [stands_mk] | split
theorem stands_wakeGo (s : State) (p : Option Port) (hs : Stands dies z s) : Stands dies z (State.wakeGo s p) := by
  unfold State.wakeGo
  with_reducible repeat' first
    | assumption | apply stands_wakeCh | apply stands_reply | apply stands_modDev | dsimp only | simp only [stands_mk]
    | refine stands_forCh _ _ ?_ (fun n t ht => ?_) | split
  all_goals exact fun _ => ⟨id, id⟩
theorem stands_benchShared (s : State) (f : Fld) (bitNo code ms : Nat) (hs : Stands dies z s) (hf : dies = true → f.key ≠ Su.SAFE_COND.key) :
    Stands dies z (State.benchShared s f bitNo code ms) :=
  stands_put _ _ _ (stands_enterSafe _ _ _ _ (stands_flag _ _ hs hf)) fun _ => Nat.ne_of_beq_eq_false rfl
theorem stands_benchTest (s : State) (chs : List Ch) (ok : ChanTest → Bool) (res cause : Nat) (hs : Stands dies z s) :
    Stands dies z (State.benchTest s chs ok res cause) := by
  unfold State.benchTest
  with_reducible repeat' first
    | assumption | apply stands_benchFail | apply stands_cause | apply stands_modDev | dsimp only | simp only [stands_mk]
    | (refine stands_foldl _ (fun t x ht => ?_) _ ?_) | (refine stands_foldl_fst _ (fun t x ht => ?_) _ ?_) | split
  all_goals exact fun _ => ⟨id, id⟩
theorem stands_benchUnfit (s : State) (n : Ch) (hs : Stands dies z s) : Stands dies z (State.benchUnfit s n) := by
  unfold State.benchUnfit
  with_reducible repeat' first | assumption | apply stands_setCh | apply stands_put
  all_goals first
    | with_reducible exact fun _ => outcome_apart _
    | exact fun _ => apart_of_addr (below_add_add rfl)
theorem stands_benchClear (s : State) (chs : List Ch) (hs : Stands dies z s) : Stands dies z (State.benchClear s chs) := by
  unfold State.benchClear
  simp only [stands_mk]
  exact stands_foldl _ (fun t x ht => stands_modCh _ _ _ ht) _ hs
theorem stands_benchPower (s : State) (n : Ch) (hs : Stands dies z s) : Stands dies z (State.benchPower s n) := by
  unfold State.benchPower
  with_reducible repeat' first | assumption | apply stands_powerCh | apply stands_trainBegin | apply stands_prechargeStart
theorem stands_benchStart (s : State) (v : BenchView) (powerUp : Bool) (hs : Stands dies z s) :
    Stands dies z (State.benchStart s v powerUp) := by
  unfold State.benchStart
  with_reducible repeat' first
    | apply stands_ite | assumption | apply stands_benchPower | apply stands_benchClear | apply stands_benchUnfit
    | apply stands_benchTest | apply stands_benchShared | apply stands_otpCheck | apply stands_emcyMsg | apply stands_modDev
    | apply stands_resetAll | dsimp only | simp only [stands_mk] | (refine stands_foldl _ (fun t x ht => ?_) _ ?_)
  all_goals first | exact fun _ => ⟨id, id⟩ | exact fun _ => benchFields_apart _ | exact fun _ => Nat.ne_of_beq_eq_false rfl
theorem stands_safeExitGo (s : State) (v : BenchView) (p : Option Port) (hs : Stands dies z s) :
    Stands dies z (State.safeExitGo s v p) := by
  unfold State.safeExitGo
  with_reducible repeat' first | assumption | apply stands_benchStart | apply stands_modDev
  all_goals exact fun _ => ⟨id, id⟩
theorem stands_romSeen (s : State) (r : RomView) (hs : Stands dies z s) : Stands dies z (State.romSeen s r) := by
  unfold State.romSeen
  with_reducible repeat' first | assumption | apply stands_modDev | apply stands_bumpBy | dsimp only | simp only [stands_mk] | split
  all_goals first
    | exact fun _ => ⟨id, id⟩
    | exact fun _ => Nat.ne_of_beq_eq_false rfl

/-! #### Blocks -/

theorem stands_travApply (n : Ch) (addr data : Nat) (s : State) (hs : Stands dies z s) :
    Stands dies z (travApply n addr data s) := by
  unfold travApply
  with_reducible repeat' first
    | assumption | apply stands_startTry | apply stands_stopCh | apply stands_modTrav | apply stands_writeWord | dsimp only
    | simp only [stands_mk] | split
  all_goals exact fun _ => trFields_apart _
theorem stands_travRefused (n : Ch) (addr data : Nat) (s : State) (hs : Stands dies z s) :
    Stands dies z (travRefused n addr data s) := by
  unfold travRefused
  with_reducible repeat' first | assumption | apply stands_startTry | apply stands_put | dsimp only | simp only [stands_mk] | split
  all_goals exact fun _ => apart_of_addr (below_add_add rfl)
theorem stands_lineRefusedAll (n : Ch) (addr data : Nat) (s : State) (hs : Stands dies z s) :
    Stands dies z (lineRefusedAll n addr data s) := by
  unfold lineRefusedAll
  with_reducible repeat' first | assumption | apply stands_lineRefused | dsimp only | simp only [stands_mk] | split
theorem stands_tokenSet (s : State) (v : Nat) (hs : Stands dies z s) : Stands dies z (State.tokenSet s v) := by
  unfold State.tokenSet
  with_reducible repeat' first | assumption | apply stands_moveToken
theorem stands_pwrGo (s : State) (v : Nat) (p : Option Port) (hs : Stands dies z s) : Stands dies z (State.pwrGo s v p) := by
  unfold State.pwrGo
  with_reducible repeat' first
    | assumption | apply stands_wakeGo | apply stands_standbyGo | apply stands_put | dsimp only | simp only [stands_mk] | split
  all_goals exact fun _ => Nat.ne_of_beq_eq_false rfl
theorem stands_pwrAgain (s : State) (v : Nat) (hs : Stands dies z s) : Stands dies z (State.pwrAgain s v) := by
  unfold State.pwrAgain
  with_reducible repeat' first | assumption | apply stands_pwrGo | dsimp only | simp only [stands_mk] | split
theorem stands_hostEntry (s : State) (n : Ch) (i mask val line : Nat) (hs : Stands dies z s) :
    Stands dies z (State.hostEntry s n i mask val line) := by
  unfold State.hostEntry
  with_reducible repeat' first
    | assumption | apply stands_verdictNote | apply stands_applyEntry | dsimp only | simp only [stands_mk] | split
theorem stands_applyTbl (s : State) (n : Ch) (b : EditBody) (line : Nat) (hs : Stands dies z s) :
    Stands dies z (State.applyTbl s n b line) := by
  unfold State.applyTbl
  with_reducible repeat' first
    | assumption | apply stands_hostEntry | apply stands_applyTile | apply stands_applyPattern | apply stands_entryTouch | dsimp only
    | simp only [stands_mk] | split
theorem stands_stageTbl (s : State) (n : Ch) (b : EditBody) (hs : Stands dies z s) :
    Stands dies z (State.stageTbl s n b) := by
  unfold State.stageTbl
  with_reducible repeat' first | assumption | apply stands_put | dsimp only | simp only [stands_mk] | split
  all_goals exact fun _ => apart_of_addr (below_add_add rfl)
theorem stands_tblRequest (s : State) (n : Ch) (bs : List EditBody) (hs : Stands dies z s) :
    Stands dies z (State.tblRequest s n bs) := by
  unfold State.tblRequest
  with_reducible repeat' first
    | assumption | apply stands_stageTbl | apply stands_applyTbl | apply stands_modCh | apply stands_bumpBy | apply stands_flag
    | dsimp only | simp only [stands_mk] | (refine stands_foldl _ (fun t x ht => ?_) _ ?_)
    | (refine stands_foldl_fst _ (fun t x ht => ?_) _ ?_) | split
  all_goals exact fun _ => apart_of_addr (below_add_add rfl)
theorem stands_Blk_refused (b : Blk) (addr data : Nat) (s : State) (hs : Stands dies z s) :
    Stands dies z (Blk.refused b addr data s) := by
  unfold Blk.refused
  with_reducible repeat' first
    | assumption | apply stands_lineRefusedAll | apply stands_travRefused | apply stands_readmitOrder | apply stands_dmaRefused
    | dsimp only | simp only [stands_mk] | split
theorem stands_swPulses (s : State) (v : Nat) (hs : Stands dies z s) : Stands dies z (State.swPulses s v) := by
  unfold State.swPulses
  with_reducible repeat' first
    | assumption | apply stands_pulse | dsimp only | simp only [stands_mk] | (refine stands_foldl _ (fun t x ht => ?_) _ ?_)
    | (refine stands_foldl_fst _ (fun t x ht => ?_) _ ?_) | split
theorem stands_msixUnmask (s : State) (v : Nat) (hs : Stands dies z s) : Stands dies z (State.msixUnmask s v) := by
  unfold State.msixUnmask
  with_reducible repeat' first | assumption | apply stands_emit | apply stands_unflag | dsimp only | simp only [stands_mk] | split
  all_goals first
    | exact fun _ => apart_of_addr (below_add rfl)
    | exact fun _ => apart_of_addr (show 0x300 < 0xF0800 by decide)
theorem stands_Blk_apply (b : Blk) (addr data : Nat) (s : State) (hs : Stands dies z s) :
    Stands dies z (Blk.apply b addr data s) := by
  unfold Blk.apply
  with_reducible repeat' first
    | assumption | apply stands_msixUnmask | apply stands_swPulses | apply stands_tblRequest | apply stands_pwrAgain
    | apply stands_tokenSet | apply stands_travApply | apply stands_safeExitGo | apply stands_levelApply | apply stands_epochApply
    | apply stands_readmitOrder | apply stands_readmitGo | apply stands_thermalApply | apply stands_dmaApply | apply stands_healthApply
    | apply stands_linkApply | apply stands_slotWrite | apply stands_lineApply | apply stands_retire | apply stands_memApply
    | apply stands_stkApply | apply stands_cuApply | apply stands_writeWord | dsimp only | simp only [stands_mk] | split
  all_goals first
    | exact fun _ => hoFields_apart
    | exact fun _ => prFields_apart
    | exact fun _ => suFields_apart
    | exact fun _ => shFields_apart
    | exact fun _ => diFields_apart
    | exact fun _ => evFields_apart
    | exact fun _ => mbFields_apart
    | exact fun _ => mxFields_apart
    | with_reducible exact fun _ => sinkFields_apart _
    | with_reducible exact fun _ => cuFields_apart _
    | with_reducible exact fun _ => stFields_apart _
    | with_reducible exact fun _ => thFields_apart _
    | with_reducible exact fun _ => trFields_apart _
    | with_reducible exact fun _ => nhFields_apart _
    | with_reducible exact fun _ => lvFields_apart _
    | with_reducible exact fun _ => lkFields_apart _
    | with_reducible exact fun _ => ldFields_apart _
    | with_reducible exact fun _ => edFields_apart _
    | with_reducible exact fun _ => ccFields_apart _

/-! #### Access -/

theorem stands_objRefused (s : State) (o : Obj) (data : List Byte) (hs : Stands dies z s) :
    Stands dies z (State.objRefused s o data) := by
  unfold State.objRefused
  with_reducible repeat' first | assumption | apply stands_Blk_refused | dsimp only | simp only [stands_mk] | split

/-! #### Store -/

theorem stands_saveGo (s : State) (p : Option Port) (hs : Stands dies z s) : Stands dies z (State.saveGo s p) := by
  unfold State.saveGo
  with_reducible repeat' first | assumption | dsimp only | simp only [stands_mk]
theorem stands_loadDefaults (s : State) (hs : Stands dies z s) : Stands dies z (State.loadDefaults s) := by
  unfold State.loadDefaults
  with_reducible repeat' first | assumption | dsimp only | simp only [stands_mk]
theorem stands_setRaw (s : State) (fs : List Fld) (a data : Nat) (hs : Stands false z s) : Stands false z (State.setRaw s fs a data) :=
  stands_foldl _ (fun t f ht => stands_putBoth _ _ _ ht (by nofun)) _ hs
theorem stands_chanFnSet (s : State) (n : Ch) (ofs sub v : Nat) (hs : Stands dies z s) :
    Stands dies z (State.chanFnSet s n ofs sub v) := by
  unfold State.chanFnSet
  with_reducible repeat' first
    | assumption | apply stands_setQTag | apply stands_putBoth | dsimp only | simp only [stands_mk] | split
  all_goals exact fun _ => apart_of_addr (below_add_add rfl)
theorem stands_objSet (s : State) (idx : Nat) (o : Obj) (data : List Byte) (hs : Stands false z s) :
    Stands false z (State.objSet s idx o data) := by
  unfold State.objSet
  with_reducible repeat' first
    | assumption | apply stands_chanFnSet | apply stands_setRaw | apply stands_modStk | apply stands_put | dsimp only
    | simp only [stands_mk] | split
  all_goals nofun
theorem stands_cellSet (s : State) (idx k v : Nat) (hs : Stands dies z s) : Stands dies z (State.cellSet s idx k v) := by
  unfold State.cellSet
  with_reducible repeat' first
    | assumption | apply stands_slotWrite | apply stands_setEntry | apply stands_modCam | apply stands_putBoth | dsimp only
    | simp only [stands_mk] | split
  all_goals exact fun _ => apart_of_addr (below_add_add rfl)
theorem stands_setSig (s : State) (n : Ch) (row : Nat) (data : List Byte) (hs : Stands dies z s) :
    Stands dies z (State.setSig s n row data) := by
  unfold State.setSig
  with_reducible repeat' first | assumption | apply stands_modHealth | apply stands_put
  all_goals exact fun _ => apart_of_addr (below_add_add rfl)
theorem stands_loadOne (s : State) (bad : Option (Nat × Nat)) (x : Nat × Nat × List Byte) (hs : Stands false z s) :
    Stands false z (State.loadOne s bad x).1 := by
  unfold State.loadOne
  with_reducible repeat' first
    | assumption | apply stands_setSig | apply stands_cellSet | apply stands_objSet | dsimp only | simp only [stands_mk] | split
theorem stands_loadParams (s : State) (below : Nat) (hs : Stands false z s) : Stands false z (State.loadParams s below) := by
  unfold State.loadParams
  with_reducible repeat' first
    | assumption | apply stands_loadOne | apply stands_emcyInfo | dsimp only | simp only [stands_mk]
    | (refine stands_foldl _ (fun t x ht => ?_) _ ?_) | (refine stands_foldl_fst _ (fun t x ht => ?_) _ ?_) | split
theorem stands_epochLoaded (s : State) (hs : Stands dies z s) : Stands dies z (State.epochLoaded s) := by
  unfold State.epochLoaded
  with_reducible repeat' first
    | assumption | apply stands_epochSet | dsimp only | simp only [stands_mk] | refine stands_forCh _ _ ?_ (fun n t ht => ?_)
theorem stands_progErase (s : State) (hs : Stands dies z s) : Stands dies z (State.progErase s) := by
  unfold State.progErase
  with_reducible repeat' first | assumption | dsimp only | simp only [stands_mk]
theorem stands_progData (s : State) (data : List Byte) (hs : Stands dies z s) : Stands dies z (State.progData s data) := by
  unfold State.progData
  with_reducible repeat' first | assumption | dsimp only | simp only [stands_mk]
theorem stands_progVerify (s : State) (hs : Stands dies z s) : Stands dies z (State.progVerify s).1 := by
  unfold State.progVerify
  with_reducible repeat' first | assumption | dsimp only | simp only [stands_mk] | split
theorem stands_setExpert (s : State) (p : Port) (on : Bool) (hs : Stands dies z s) : Stands dies z (State.setExpert s p on) := by
  cases p <;> exact stands_modDev _ _ hs fun _ => ⟨id, id⟩
theorem stands_fin (s : State) (hs : Stands dies z s) : Stands dies z (fin s).1 := by
  unfold fin
  with_reducible repeat' first | assumption
theorem stands_finAb (r : State × Nat) (h : Stands dies z r.1) : Stands dies z (finAb r).1 := h
theorem stands_lcGo (s : State) (code : Nat) (runs : List FuseRun) (hs : Stands dies z s) :
    Stands dies z (State.lcGo s code runs).1 := by
  unfold State.lcGo
  with_reducible repeat' first | assumption | apply stands_wipeGo | apply stands_lcBlow
theorem stands_command (s : State) (n : Ch) (v : Nat) (hs : Stands dies z s) : Stands dies z (State.command s n v).1 := by
  unfold State.command
  with_reducible repeat' first
    | assumption | apply stands_startTry | apply stands_stopCh | dsimp only | simp only [stands_mk] | split
theorem stands_checkGo (s : State) (n : Ch) (hs : Stands dies z s) : Stands dies z (State.checkGo s n).1 := by
  unfold State.checkGo
  with_reducible repeat' first | assumption | apply stands_slotCheck
theorem stands_pauseGo (s : State) (d : Dch) (on : Bool) (owed : Option Port) (hs : Stands dies z s) :
    Stands dies z (State.pauseGo s d on owed).1 := by
  unfold State.pauseGo
  with_reducible repeat' first
    | assumption | apply stands_fin | apply stands_dmaApply | apply stands_modDma | dsimp only | simp only [stands_mk] | split
theorem stands_epochControl (s : State) (v : Nat) (hs : Stands dies z s) : Stands dies z (State.epochControl s v).1 := by
  unfold State.epochControl
  with_reducible repeat' first
    | assumption | apply stands_cancelGo | apply stands_commitGo | apply stands_prepareGo | dsimp only | simp only [stands_mk] | split
theorem stands_chanFnDo (s : State) (n : Ch) (ofs sub v : Nat) (owed : Option Port) (hs : Stands dies z s) :
    Stands dies z (State.chanFnDo s n ofs sub v owed).1 := by
  unfold State.chanFnDo
  with_reducible repeat' first
    | assumption | apply stands_checkGo | apply stands_command | apply stands_finAb | apply stands_fin | apply stands_tblRequest
    | apply stands_loadStart | apply stands_sigWrite | apply stands_sigLen | apply stands_feStart | apply stands_slotWrite
    | apply stands_setQTag | dsimp only | simp only [stands_mk] | split
theorem stands_fnDo (s : State) (w : World) (p : Port) (owed : Option Port) (idx sub : Nat) (data : List Byte) (hs : Stands dies z s) :
    Stands dies z (State.fnDo s w p owed idx sub data).1 := by
  unfold State.fnDo
  with_reducible repeat' first
    | assumption | apply stands_chanFnDo | apply stands_epochControl | apply stands_pauseGo | apply stands_lcGo | apply stands_finAb
    | apply stands_fin | apply stands_setExpert | apply stands_progVerify | apply stands_progData | apply stands_progErase
    | apply stands_loadDefaults | apply stands_saveGo | apply stands_pwrGo | apply stands_tokenSet | apply stands_safeExitGo
    | apply stands_saveSettle | apply stands_debugRespond | apply stands_otpCheck | apply stands_blowReadLock
    | apply stands_blowWriteLock | apply stands_otpArm | apply stands_otpWrite | apply stands_contextOff | apply stands_curveWrite
    | apply stands_snapArm | apply stands_modCan | apply stands_flag | apply stands_put | dsimp only | simp only [stands_mk] | split
  all_goals first
    | exact fun _ => id
    | exact fun _ => apart_of_addr (below_add_add rfl)
    | exact fun _ => Nat.ne_of_beq_eq_false rfl
theorem stands_ownDo (s : State) (idx : Nat) (o : Obj) (f : Fld) (data : List Byte) (hs : Stands dies z s) (hf : dies = true → f.key ≠ Su.SAFE_COND.key) :
    Stands dies z (State.ownDo s idx o f data) := by
  have hput : Stands dies z (s.put f (leNat data)) := stands_put _ _ _ hs hf
  unfold State.ownDo
  with_reducible repeat' first | assumption | apply stands_modPort | apply stands_sliceTouch | dsimp only | split
theorem stands_objDo (s : State) (w : World) (p : Port) (owed : Option Port) (idx : Nat) (o : Obj) (data : List Byte)
    (hs : Stands dies z s) (ho : o.far) : Stands dies z (State.objDo s w p owed idx o data).1 := by
  unfold Obj.far at ho
  unfold State.objDo
  cases hk : o.kind <;> rw [hk] at ho
  case own => exact stands_ownDo _ _ _ _ _ hs fun _ => apart_of_addr ho
  case prep => exact stands_put _ _ _ hs fun _ => apart_of_addr ho
  case clr => exact stands_clearAll _ _ hs fun _ f hf => apart_of_addr (List.forall_iff_forall_mem.mp ho f hf)
  case word => exact stands_Blk_apply _ _ _ _ hs
  case two => exact stands_Blk_apply _ _ _ _ (stands_Blk_apply _ _ _ _ hs)
  case cmd => exact stands_Blk_apply _ _ _ _ hs
  case fn => exact stands_fnDo _ _ _ _ _ _ _ hs

/-! #### Queue -/

theorem stands_enqueue (s : State) (n : Ch) (b : EditBody) (c : Cls) (owed : Option Port) (hs : Stands dies z s) :
    Stands dies z (State.enqueue s n b c owed) := by
  unfold State.enqueue
  with_reducible repeat' first | assumption | apply stands_modCh
theorem stands_objStage (s : State) (w : World) (p : Port) (n : Ch) (idx : Nat) (o : Obj) (data : List Byte) (hs : Stands dies z s) (ho : o.far) :
    Stands dies z (State.objStage s w p n idx o data) := by
  unfold State.objStage
  with_reducible repeat' first | assumption | apply stands_enqueue | apply stands_objDo | dsimp only | simp only [stands_mk] | split
theorem stands_objRun (s : State) (w : World) (p : Port) (owed : Option Port) (n : Ch) (idx : Nat) (o : Obj) (data : List Byte)
    (hs : Stands dies z s) (ho : o.far) : Stands dies z (State.objRun s w p owed n idx o data).1 := by
  unfold State.objRun
  with_reducible repeat' first
    | assumption | apply stands_objStage | apply stands_enqueue | apply stands_objDo | apply stands_fin | dsimp only
    | simp only [stands_mk] | split
theorem stands_applyEdit (s : State) (n : Ch) (e : Edit) (k : Nat) (hs : Stands dies z s) :
    Stands dies z (State.applyEdit s n e k).1 := by
  unfold State.applyEdit
  with_reducible repeat' first
    | assumption | apply stands_objDo | apply stands_objRefused | apply stands_applyTbl | apply stands_applyClosure
    | apply stands_reply | apply stands_entryTouch | dsimp only | simp only [stands_mk] | split
  all_goals exact objFind_far ‹_›
theorem stands_drainSome (s : State) (n : Ch) (k : Nat) (p : Edit → Bool) (hs : Stands dies z s) :
    Stands dies z (State.drainSome s n k p).1 := by
  unfold State.drainSome
  with_reducible repeat' first
    | assumption | apply stands_applyEdit | apply stands_modCh | dsimp only | simp only [stands_mk]
    | (refine stands_foldl _ (fun t x ht => ?_) _ ?_) | (refine stands_foldl_fst _ (fun t x ht => ?_) _ ?_)
theorem stands_drain (s : State) (n : Ch) (k : Nat) (hs : Stands dies z s) : Stands dies z (State.drain s n k).1 := by
  unfold State.drain
  with_reducible repeat' first | assumption | apply stands_drainSome
theorem stands_shadowsIn (s : State) (n : Ch) (v : Fld → Nat) (hs : Stands dies z s) :
    Stands dies z (State.shadowsIn s n v) := by
  unfold State.shadowsIn
  with_reducible repeat' first
    | assumption | apply stands_stripCancel | apply stands_putEff | dsimp only | simp only [stands_mk]
    | (refine stands_foldl _ (fun t x ht => ?_) _ ?_) | (refine stands_foldl_fst _ (fun t x ht => ?_) _ ?_) | split
theorem stands_keptIn (n : Ch) (s : State) (hs : Stands dies z s) : Stands dies z (State.keptIn n s) := by
  unfold State.keptIn
  with_reducible repeat' first
    | assumption | apply stands_objRun | apply stands_objDo | apply stands_objRefused | apply stands_modCh | apply stands_flag
    | dsimp only | simp only [stands_mk] | (refine stands_foldl _ (fun t x ht => ?_) _ ?_)
    | (refine stands_foldl_fst _ (fun t x ht => ?_) _ ?_) | split
  all_goals first | exact objFind_far ‹_› | exact fun _ => objWrej_apart _ _
theorem stands_quiet (n : Ch) (s : State) (hs : Stands dies z s) : Stands dies z (State.quiet n s) := by
  unfold State.quiet
  with_reducible repeat' first
    | assumption | apply stands_shadowsIn | apply stands_drain | apply stands_wipedSettle | apply stands_wipeFree
    | apply stands_emcyInfo | apply stands_modCh | dsimp only | simp only [stands_mk]
    | (refine stands_foldl _ (fun t x ht => ?_) _ ?_) | (refine stands_foldl_fst _ (fun t x ht => ?_) _ ?_) | split
theorem stands_switchSettle (n : Ch) (s : State) (hs : Stands dies z s) : Stands dies z (State.switchSettle n s) := by
  unfold State.switchSettle
  with_reducible repeat' first | assumption | apply stands_switchPass | dsimp only | simp only [stands_mk] | split
theorem stands_settle (s : State) (hs : Stands dies z s) : Stands dies z (State.settle s) := by
  unfold State.settle
  with_reducible repeat' first
    | assumption | apply stands_switchSettle | apply stands_quiet | apply stands_keptIn | apply stands_wakeCh | apply stands_saveSettle
    | apply stands_epochWatch | apply stands_benchSettle | apply stands_pixFollow | apply stands_openSettle | apply stands_tokenCheck
    | dsimp only | simp only [stands_mk] | refine stands_forCh _ _ ?_ (fun n t ht => ?_) | split

end Sys2Proof.Machine
end

section
/-! SUPPORT. What the work on other channels leaves of a channel (R185, R320, R326, R329, R520). -/
namespace Sys2Proof.Machine

/-- The registers of a channel, and of the device's SAFE, that say how far it is. -/
def watched (n : Ch) : List Fld := [Lv.PRECHG n, Lv.HV_ON n, Su.BM_RES n, Su.SAFE_COND, Su.SAFE_CAUSE]
/-- A channel stands as it stood: its state, traverse, drive and waiting writes, and, where `whole` says so, its lines; and so do the time and
the device's own state. -/
structure Aside (whole : Bool) (n : Ch) (z s : State) : Prop where
  tb : s.tb = z.tb
  st : s.chSt n = z.chSt n
  trav : (s.ch[n]).trav.st = (z.ch[n]).trav.st
  drive : (s.ch[n]).drive = (z.ch[n]).drive
  kept : (s.ch[n]).kept = (z.ch[n]).kept
  queue : (s.ch[n]).applyQ = (z.ch[n]).applyQ
  lines : whole = true → (s.ch[n]).lines = (z.ch[n]).lines
  boot : s.dev.boot = z.dev.boot
  safe : s.dev.safe = z.dev.safe
  entry : s.dev.safeEntry = z.dev.safeEntry
  run : s.dev.safeRun = z.dev.safeRun
  waking : s.dev.waking = z.dev.waking
  tests : s.dev.tests = z.dev.tests
  get : ∀ f ∈ watched n, s.get f = z.get f

theorem watched_apart {n : Ch} {g : Fld} (h : 0x29000 ≤ g.addr ∨ g.lsb < 32 ∧ (g.addr < 0x300 ∨ 0x310 ≤ g.addr ∧
    (g.addr < 0x20000 ∨ g.addr % 0x1000 ≠ 0x508))) : ∀ f ∈ watched n, g.key ≠ f.key := by
  have hn := n.isLt
  intro f hf
  simp only [watched, List.mem_cons, List.not_mem_nil, or_false] at hf
  rcases hf with rfl | rfl | rfl | rfl | rfl <;> simp only [Fld.key, Lv.PRECHG, Lv.HV_ON, Su.BM_RES, Su.SAFE_COND, Su.SAFE_CAUSE] <;> omega
/-- The same for the marks of another channel. -/
theorem watched_other {n m : Ch} (hm : m ≠ n) : (∀ f ∈ watched n, (Lv.PRECHG m).key ≠ f.key) ∧ ∀ f ∈ watched n, (Lv.HV_ON m).key ≠ f.key := by
  revert n m; decide
theorem camCounters_far : ∀ f ∈ camCounters, 0x29000 ≤ f.addr := by decide
theorem actMarks_near : ∀ d : Dch, ∀ f ∈ [Dm.OPEN d, Dm.ACT_CFG d, Dm.ACT_ADDR_LO d, Dm.ACT_ADDR_HI d, Dm.ACT_END d, Dm.ACT_DOFS d],
    f.lsb < 32 ∧ 0x310 ≤ f.addr ∧ f.addr < 0x20000 := by decide
theorem watched_effKey {n : Ch} (g : Fld) : ∀ f ∈ watched n, g.effKey ≠ f.key := by
  have hn := n.isLt
  intro f hf
  simp only [watched, List.mem_cons, List.not_mem_nil, or_false] at hf
  rcases hf with rfl | rfl | rfl | rfl | rfl <;>
    simp only [Fld.effKey, Fld.key, Lv.PRECHG, Lv.HV_ON, Su.BM_RES, Su.SAFE_COND, Su.SAFE_CAUSE] <;> omega

section
variable {whole : Bool} {n : Ch} {z : State}

theorem Aside.refl (whole : Bool) (n : Ch) (s : State) : Aside whole n s s :=
  ⟨rfl, rfl, rfl, rfl, rfl, rfl, fun _ => rfl, rfl, rfl, rfl, rfl, rfl, rfl, fun _ _ => rfl⟩
theorem Aside.trans {a b c : State} (h : Aside whole n a b) (k : Aside whole n b c) : Aside whole n a c :=
  ⟨k.tb.trans h.tb, k.st.trans h.st, k.trav.trans h.trav, k.drive.trans h.drive, k.kept.trans h.kept, k.queue.trans h.queue,
    fun e => (k.lines e).trans (h.lines e), k.boot.trans h.boot, k.safe.trans h.safe, k.entry.trans h.entry, k.run.trans h.run,
    k.waking.trans h.waking, k.tests.trans h.tests, fun f hf => (k.get f hf).trans (h.get f hf)⟩
theorem aside_mk {s : State} (pending : List Instr) (ctr : Nat) (cu : Vector Cu 4) (stake : Vector Stake 16) (inFlight : List (Nat × Nat))
    (devQ : List Edit) (epoch : EpState) (pix : Pix) (verdictLog : List (Nat × Nat)) (th : Vector Thermal 10)
    (dma : Vector Dma 16) (granting : Option (Nat × Nat)) (sp : List Host.Cell) (parBad : List Nat) (bist : Bist) (otp : Otp) (datum : Datum)
    (flash : Flash) (can : Can) (pcie : Pcie) (deferred : List Instr) (fresh : List (Nat × Nat × Nat)) (out : List Out) :
    Aside whole n z ⟨pending, s.tb, ctr, s.regs, cu, stake, inFlight, s.ch, devQ, epoch, pix, verdictLog, th, dma, granting, sp, parBad, bist,
      otp, datum, flash, can, pcie, deferred, fresh, s.dev, out⟩ ↔ Aside whole n z s :=
  ⟨fun h => ⟨h.tb, h.st, h.trav, h.drive, h.kept, h.queue, h.lines, h.boot, h.safe, h.entry, h.run, h.waking, h.tests, h.get⟩,
    fun h => ⟨h.tb, h.st, h.trav, h.drive, h.kept, h.queue, h.lines, h.boot, h.safe, h.entry, h.run, h.waking, h.tests, h.get⟩⟩
theorem aside_foldl {α : Type} (f : State → α → State) (hf : ∀ t x, Aside whole n z t → Aside whole n z (f t x)) (l : List α) :
    ∀ {s : State}, Aside whole n z s → Aside whole n z (l.foldl f s) := by
  induction l with
  | nil => exact id
  | cons a l ih => exact fun h => ih (hf _ a h)
theorem aside_ite {p : Prop} [Decidable p] {a b : State} (ha : Aside whole n z a) (hb : Aside whole n z b) : Aside whole n z (if p then a else b) := by
  split <;> assumption

theorem aside_put (s : State) (f : Fld) (v : Nat) (hs : Aside whole n z s) (hf : ∀ g ∈ watched n, f.key ≠ g.key) : Aside whole n z (s.put f v) :=
  { hs with get := fun g hg => (get_put_other s v (hf g hg)).trans (hs.get g hg) }
theorem aside_putEff (s : State) (f : Fld) (v : Nat) (hs : Aside whole n z s) : Aside whole n z (s.putEff f v) :=
  { hs with get := fun g hg => (get_putEff_other s v (watched_effKey f g hg)).trans (hs.get g hg) }
/-- What of the device's own state stands. -/
def Dev.Aside (d e : Dev) : Prop :=
  e.boot = d.boot ∧ e.safe = d.safe ∧ e.safeEntry = d.safeEntry ∧ e.safeRun = d.safeRun ∧ e.waking = d.waking ∧ e.tests = d.tests
theorem aside_modDev (s : State) (f : Dev → Dev) (hs : Aside whole n z s) (hf : ∀ d : Dev, d.Aside (f d)) : Aside whole n z (s.modDev f) := by
  obtain ⟨hboot, hsafe, hentry, hrun, hwaking, htests⟩ := hf s.dev
  exact { hs with boot := hboot.trans hs.boot, safe := hsafe.trans hs.safe, entry := hentry.trans hs.entry, run := hrun.trans hs.run,
                  waking := hwaking.trans hs.waking, tests := htests.trans hs.tests }
/-- What of a channel stands beside its lines. -/
def Chan.Aside (c d : Chan) : Prop := d.st = c.st ∧ d.trav.st = c.trav.st ∧ d.drive = c.drive ∧ d.kept = c.kept ∧ d.applyQ = c.applyQ
theorem aside_modCh (s : State) (m : Ch) (f : Chan → Chan) (hs : Aside whole n z s)
    (hf : m = n → ∀ c : Chan, c.Aside (f c) ∧ (whole = true → (f c).lines = c.lines)) : Aside whole n z (s.modCh m f) := by
  by_cases hm : m = n
  · subst hm
    obtain ⟨⟨hst, htrav, hdrive, hkept, hqueue⟩, hlines⟩ := hf rfl s.ch[m]
    have hch : ((s.modCh m f).ch[m]) = f s.ch[m] := modCh_same s m f
    exact { hs with
      st := (congrArg Chan.st hch).trans (hst.trans hs.st), trav := by rw [hch]; exact htrav.trans hs.trav
      drive := by rw [hch]; exact hdrive.trans hs.drive, kept := by rw [hch]; exact hkept.trans hs.kept
      queue := by rw [hch]; exact hqueue.trans hs.queue, lines := fun e => by rw [hch]; exact (hlines e).trans (hs.lines e) }
  · have hch : ((s.modCh m f).ch[n]) = s.ch[n] := modCh_other s f hm
    exact { hs with
      st := (congrArg Chan.st hch).trans hs.st, trav := by rw [hch]; exact hs.trav, drive := by rw [hch]; exact hs.drive
      kept := by rw [hch]; exact hs.kept, queue := by rw [hch]; exact hs.queue, lines := fun e => by rw [hch]; exact hs.lines e }
theorem aside_modTrav (s : State) (m : Ch) (f : Trav → Trav) (hs : Aside whole n z s) (hf : m = n → ∀ t, (f t).st = t.st) :
    Aside whole n z (s.modTrav m f) := aside_modCh _ _ _ hs fun hm _ => ⟨⟨rfl, hf hm _, rfl, rfl, rfl⟩, fun _ => rfl⟩
theorem aside_modLink (s : State) (m : Ch) (f : Link → Link) (hs : Aside whole n z s) : Aside whole n z (s.modLink m f) :=
  aside_modCh _ _ _ hs fun _ _ => ⟨⟨rfl, rfl, rfl, rfl, rfl⟩, fun _ => rfl⟩
theorem aside_modHealth (s : State) (m : Ch) (f : Health → Health) (hs : Aside whole n z s) : Aside whole n z (s.modHealth m f) :=
  aside_modCh _ _ _ hs fun _ _ => ⟨⟨rfl, rfl, rfl, rfl, rfl⟩, fun _ => rfl⟩
theorem aside_modDrive (s : State) (m : Ch) (f : Drive → Drive) (hs : Aside whole n z s) (hm : m ≠ n) : Aside whole n z (s.modDrive m f) :=
  aside_modCh _ _ _ hs fun e => absurd e hm
theorem aside_modLine (s : State) (m : Ch) (k : Nat) (f : Line → Line) (hs : Aside whole n z s) (hw : whole = true → m ≠ n) :
    Aside whole n z (s.modLine m k f) := aside_modCh _ _ _ hs fun e _ => ⟨⟨rfl, rfl, rfl, rfl, rfl⟩, fun hl => absurd e (hw hl)⟩
end

section
variable {whole : Bool} {me : Ch} {z : State}

/-! #### Flags -/

theorem aside_flag (s : State) (f : Fld) (hs : Aside whole me z s) (hf : ∀ g ∈ watched me, f.key ≠ g.key) :
    Aside whole me z (s.flag f) := aside_put _ _ _ hs hf
theorem aside_unflag (s : State) (f : Fld) (hs : Aside whole me z s) (hf : ∀ g ∈ watched me, f.key ≠ g.key) :
    Aside whole me z (s.unflag f) := aside_put _ _ _ hs hf
theorem aside_bumpBy (s : State) (f : Fld) (v : Nat) (hs : Aside whole me z s) (hf : ∀ g ∈ watched me, f.key ≠ g.key) :
    Aside whole me z (s.bumpBy f v) := aside_put _ _ _ hs hf
theorem aside_bump (s : State) (f : Fld) (hs : Aside whole me z s) (hf : ∀ g ∈ watched me, f.key ≠ g.key) :
    Aside whole me z (s.bump f) := aside_put _ _ _ hs hf
theorem aside_incrBy (s : State) (f : Fld) (v : Nat) (hs : Aside whole me z s) (hf : ∀ g ∈ watched me, f.key ≠ g.key) :
    Aside whole me z (s.incrBy f v) := aside_put _ _ _ hs hf
theorem aside_incr (s : State) (f : Fld) (hs : Aside whole me z s) (hf : ∀ g ∈ watched me, f.key ≠ g.key) :
    Aside whole me z (s.incr f) := aside_put _ _ _ hs hf
theorem aside_flagBump (s : State) (f g : Fld) (hs : Aside whole me z s) (hf : ∀ x ∈ watched me, f.key ≠ x.key)
    (hg : ∀ x ∈ watched me, g.key ≠ x.key) : Aside whole me z (s.flagBump f g) := aside_bump _ _ (aside_flag _ _ hs hf) hg
theorem aside_clearAll (s : State) (fs : List Fld) (hs : Aside whole me z s) (hf : ∀ f ∈ fs, ∀ g ∈ watched me, f.key ≠ g.key) :
    Aside whole me z (s.clearAll fs) := by
  unfold State.clearAll
  induction fs generalizing s with
  | nil => exact hs
  | cons f fs ih => exact ih _ (aside_unflag _ _ hs (hf f List.mem_cons_self)) fun g hg => hf g (List.mem_cons_of_mem _ hg)

/-! #### Ops -/

theorem aside_emit (s : State) (o : Out) (hs : Aside whole me z s) : Aside whole me z (State.emit s o) := by
  unfold State.emit
  with_reducible repeat' first | assumption | dsimp only | simp only [aside_mk]
theorem aside_modDma (s : State) (d : Dch) (f : Dma → Dma) (hs : Aside whole me z s) : Aside whole me z (State.modDma s d f) := by
  unfold State.modDma
  with_reducible repeat' first | assumption | dsimp only | simp only [aside_mk]
theorem aside_modCan (s : State) (f : Can → Can) (hs : Aside whole me z s) : Aside whole me z (State.modCan s f) := by
  unfold State.modCan
  with_reducible repeat' first | assumption | dsimp only | simp only [aside_mk]
theorem aside_modCam (s : State) (c : Nat) (f : Context → Context) (hs : Aside whole me z s) :
    Aside whole me z (State.modCam s c f) := by
  unfold State.modCam
  with_reducible repeat' first | assumption | dsimp only | simp only [aside_mk]
theorem aside_cause (s : State) (v : Nat) (hs : Aside whole me z s) : Aside whole me z (State.cause s v) := by
  unfold State.cause
  with_reducible repeat' first
    | assumption | apply aside_emit | apply aside_flag | apply aside_put | dsimp only | simp only [aside_mk] | split
  all_goals exact watched_apart (by simp only [Ho.INT_STAT, Mx.PBA]; omega)
theorem aside_pulse (s : State) (src : Nat) (hs : Aside whole me z s) : Aside whole me z (State.pulse s src) := by
  unfold State.pulse
  with_reducible repeat' first | assumption | dsimp only | simp only [aside_mk] | split
theorem aside_emcyInfo (s : State) (code src line : Nat) (info : List Byte) (hs : Aside whole me z s) :
    Aside whole me z (State.emcyInfo s code src line info) := by
  unfold State.emcyInfo
  with_reducible repeat' first
    | assumption | apply aside_cause | apply aside_modCan | apply aside_incr | apply aside_bump | dsimp only
    | simp only [aside_mk] | split
  all_goals exact watched_apart (by simp only [Hid.LOST]; omega)
theorem aside_emcyMsg (s : State) (code src line : Nat) (hs : Aside whole me z s) :
    Aside whole me z (State.emcyMsg s code src line) := by
  unfold State.emcyMsg
  with_reducible repeat' first | assumption | apply aside_emcyInfo
theorem aside_unsay (s : State) (code src : Nat) (hs : Aside whole me z s) : Aside whole me z (State.unsay s code src) := by
  unfold State.unsay
  with_reducible repeat' first | assumption | apply aside_record | apply aside_modCan | apply aside_put
  all_goals exact watched_apart (by simp only [logCount]; omega)
theorem aside_unpulse (s : State) (src : Nat) (hs : Aside whole me z s) : Aside whole me z (State.unpulse s src) := by
  unfold State.unpulse
  with_reducible repeat' first | assumption | dsimp only | simp only [aside_mk]
theorem aside_condOn (s : State) (code src : Nat) (hs : Aside whole me z s) : Aside whole me z (State.condOn s code src) := by
  unfold State.condOn
  with_reducible repeat' first | assumption | apply aside_modCan | dsimp only | simp only [aside_mk] | split
theorem aside_record (s : State) (n : Ch) (ev line : Nat) (mapped : Bool) (hs : Aside whole me z s) :
    Aside whole me z (State.record s n ev line mapped) := by
  unfold State.record
  with_reducible repeat' first | assumption | apply aside_modCan | apply aside_bump | dsimp only | simp only [aside_mk] | split
  all_goals exact watched_apart (by simp only [objFld]; omega)
theorem aside_setCh (s : State) (n : Ch) (x : ChState) (hs : Aside whole me z s) (hm : n ≠ me) : Aside whole me z (State.setCh s n x) := by
  unfold State.setCh
  with_reducible repeat' first
    | assumption | apply aside_record | apply aside_cause | apply aside_modCh | dsimp only | split
  all_goals exact fun e => absurd e hm
theorem aside_moveToken (s : State) (p : Port) (hs : Aside whole me z s) : Aside whole me z (State.moveToken s p) := by
  unfold State.moveToken
  with_reducible repeat' first
    | assumption | apply aside_cause | apply aside_modDev | apply aside_incr | apply aside_flag | dsimp only
    | simp only [aside_mk] | split
  all_goals first
    | exact fun _ => ⟨rfl, rfl, rfl, rfl, rfl, rfl⟩
    | exact watched_apart (by simp only [Ho.TOKEN_CNT, Ho.TOKEN_MOVED]; omega)
theorem aside_tokenCheck (s : State) (hs : Aside whole me z s) : Aside whole me z (State.tokenCheck s) := by
  unfold State.tokenCheck
  with_reducible repeat' first | assumption | apply aside_moveToken | dsimp only | simp only [aside_mk] | split

/-! #### Ladder -/

theorem aside_setRail (s : State) (n : Ch) (w : Bool) (r : RailRun) (hs : Aside whole me z s) (hm : n ≠ me) :
    Aside whole me z (State.setRail s n w r) := by
  unfold State.setRail
  with_reducible repeat' first | assumption | apply aside_modDrive
theorem aside_planRail (s : State) (n : Ch) (w : Bool) (r : RailRun) (hs : Aside whole me z s) (hm : n ≠ me) :
    Aside whole me z (State.planRail s n w r) := by
  unfold State.planRail
  with_reducible repeat' first | assumption | apply aside_setRail | apply aside_emit | dsimp only | simp only [aside_mk] | split
theorem aside_rampRail (s : State) (n : Ch) (delay : Nat) (up : Option Nat) (w : Bool) (hs : Aside whole me z s) (hm : n ≠ me) :
    Aside whole me z (State.rampRail s n delay up w) := by
  unfold State.rampRail
  with_reducible repeat' first | assumption | apply aside_planRail
theorem aside_rampRails (s : State) (n : Ch) (delay : Nat) (up : Option Nat) (hs : Aside whole me z s) (hm : n ≠ me) :
    Aside whole me z (State.rampRails s n delay up) := by
  unfold State.rampRails
  with_reducible repeat' first | assumption | apply aside_rampRail

/-! #### Memory -/

theorem aside_bistTouch (s : State) (m : Nat) (p : Nat → Bool) (hs : Aside whole me z s) :
    Aside whole me z (State.bistTouch s m p) := by
  unfold State.bistTouch
  with_reducible repeat' first | assumption | apply aside_flagBump | apply aside_bump | dsimp only | simp only [aside_mk] | split
  all_goals exact watched_apart (by simp only [Me.SKIP, Me.SKIP_CNT, Me.YIELD_CNT]; omega)
theorem aside_spApply (s : State) (o : SpOp) (ls : List (Nat × Byte)) (hs : Aside whole me z s) : Aside whole me z (s.spApply o ls) := by
  unfold State.spApply
  refine aside_bistTouch _ _ _ (aside_foldl _ (fun t x ht => ?_) _ hs)
  simp only [aside_mk]
  exact ht

/-! #### Answer -/

theorem aside_mbAnswer (s : State) (idx sub abort : Nat) (data : List Byte) (hs : Aside whole me z s) :
    Aside whole me z (State.mbAnswer s idx sub abort data) := by
  unfold State.mbAnswer
  with_reducible repeat' first
    | assumption | apply aside_spApply | apply aside_cause | apply aside_unflag | apply aside_flag | apply aside_put | dsimp only
    | simp only [aside_mk] | (refine aside_foldl _ (fun t x ht => ?_) _ ?_) | (refine aside_foldl_fst _ (fun t x ht => ?_) _ ?_)
    | split
  all_goals exact watched_apart (by simp only [Mb.BUSY, Mb.DONE, Mb.RSP_ABORT, Mb.RSP_DATA, Mb.RSP_LEN, Mb.RSP_SEQ]; omega)
theorem aside_answer (s : State) (p : Port) (idx sub abort : Nat) (hs : Aside whole me z s) :
    Aside whole me z (State.answer s p idx sub abort) := by
  unfold State.answer
  with_reducible repeat' first | assumption | apply aside_mbAnswer | apply aside_emit | dsimp only | simp only [aside_mk] | split
theorem aside_reply (s : State) (p : Option Port) (idx sub abort : Nat) (hs : Aside whole me z s) :
    Aside whole me z (State.reply s p idx sub abort) := by
  unfold State.reply
  with_reducible repeat' first | assumption | apply aside_answer | dsimp only | split

/-! #### DmaSet -/

theorem aside_dmaSettle (s : State) (d : Dch) (hs : Aside whole me z s) : Aside whole me z (State.dmaSettle s d) := by
  unfold State.dmaSettle
  with_reducible repeat' first
    | assumption | apply aside_answer | apply aside_modDma | dsimp only | simp only [aside_mk]
    | (refine aside_foldl _ (fun t x ht => ?_) _ ?_) | (refine aside_foldl_fst _ (fun t x ht => ?_) _ ?_) | split
theorem aside_dmaEnd (s : State) (d : Dch) (hs : Aside whole me z s) : Aside whole me z (State.dmaEnd s d) :=
  aside_modDma _ _ _ (aside_clearAll _ _ hs fun f hf => by
    obtain ⟨hl, hlo, hhi⟩ := actMarks_near d f hf
    exact watched_apart (.inr ⟨hl, .inr ⟨hlo, .inl hhi⟩⟩))
theorem aside_dmaEndIf (s : State) (d : Dch) (hs : Aside whole me z s) : Aside whole me z (State.dmaEndIf s d) := by
  unfold State.dmaEndIf
  with_reducible repeat' first | assumption | apply aside_dmaEnd | dsimp only | simp only [aside_mk] | split
theorem aside_dmaError (s : State) (d : Dch) (err : Nat) (hs : Aside whole me z s) :
    Aside whole me z (State.dmaError s d err) := by
  unfold State.dmaError
  with_reducible repeat' first
    | assumption | apply aside_modDma | apply aside_bump | apply aside_unflag | apply aside_flag | apply aside_put
  all_goals exact watched_apart (by simp only [Dm.EN, Dm.ERR, Dm.ERRF, Dm.ERR_CNT]; omega)
theorem aside_dmaStopIssue (s : State) (d : Dch) (hs : Aside whole me z s) : Aside whole me z (State.dmaStopIssue s d) := by
  unfold State.dmaStopIssue
  with_reducible repeat' first | assumption | dsimp only | simp only [aside_mk] | split
theorem aside_issueOne (s : State) (d : Dch) (t : Nat) (hs : Aside whole me z s) : Aside whole me z (State.issueOne s d t) := by
  unfold State.issueOne
  with_reducible repeat' first | assumption | apply aside_modDma | apply aside_put | dsimp only | simp only [aside_mk] | split
  all_goals exact watched_apart (by simp only [Hid.DMA_NEXT]; omega)
theorem aside_issueDue : ∀ (f : Nat) (s : State), Aside whole me z s → Aside whole me z (State.issueDue f false s) := by
  intro f
  induction f with
  | zero => exact fun s h => h
  | succ f ih =>
    intro s h
    unfold State.issueDue
    simp only [Bool.false_eq_true, if_false]
    with_reducible repeat' first | assumption | apply aside_issueOne | split | apply ih
theorem aside_dmaTick (s : State) (hs : Aside whole me z s) : Aside whole me z (State.dmaTick s) := by
  unfold State.dmaTick
  with_reducible repeat' first | assumption | apply aside_issueDue
theorem aside_dmaParked (s : State) (n : Ch) (hs : Aside whole me z s) : Aside whole me z (State.dmaParked s n) := by
  unfold State.dmaParked
  with_reducible repeat' first
    | assumption | apply aside_dmaTick | apply aside_dmaStopIssue | apply aside_dmaError | apply aside_dmaEndIf
    | apply aside_dmaSettle | apply aside_modDma | apply aside_incrBy | dsimp only | simp only [aside_mk]
    | (refine aside_foldl _ (fun t x ht => ?_) _ ?_) | (refine aside_foldl_fst _ (fun t x ht => ?_) _ ?_) | split
  all_goals exact watched_apart (by simp only [Dm.RD_CNT, Ld.BYTES_IN]; omega)

/-! #### Send -/

theorem aside_sendLine (s : State) (n : Ch) (k i : Nat) (hs : Aside whole me z s) (hw : whole = true → n ≠ me) :
    Aside whole me z (State.sendLine s n k i) := by
  unfold State.sendLine
  with_reducible repeat' first
    | assumption | apply aside_modFrame | apply aside_modLine | apply aside_modLink | apply aside_emit | apply aside_bump
    | dsimp only | simp only [aside_mk] | split
  all_goals exact watched_apart (by simp only [Lk.RETX_CNT]; omega)
theorem aside_sendCtl (s : State) (n : Ch) (id : Nat) (f : Frame) (hs : Aside whole me z s) :
    Aside whole me z (State.sendCtl s n id f) := by
  unfold State.sendCtl
  with_reducible repeat' first
    | assumption | apply aside_modLink | apply aside_emit | apply aside_bump | dsimp only | simp only [aside_mk] | split
  all_goals exact watched_apart (by simp only [Lk.RETX_CNT]; omega)
theorem aside_linkPump : ∀ (f : Nat) (m : Ch) (s : State), Aside whole me z s → (whole = true → m ≠ me) →
    Aside whole me z (State.linkPump f m s) := by
  intro f m
  induction f with
  | zero => exact fun s h _ => h
  | succ f ih =>
    intro s h hw
    unfold State.linkPump
    with_reducible repeat' first | assumption | apply aside_sendCtl | apply aside_sendLine | dsimp only | split | apply ih
theorem aside_linkTick (s : State) (n : Ch) (hs : Aside whole me z s) (hw : whole = true → n ≠ me) : Aside whole me z (State.linkTick s n) := by
  unfold State.linkTick
  with_reducible repeat' first | assumption | apply aside_linkPump

/-! #### Recovery -/

theorem aside_cutFrame (s : State) (n : Ch) (p : Nat → Bool) (hs : Aside whole me z s) (hw : whole = true → n ≠ me) :
    Aside whole me z (State.cutFrame s n p) := by
  unfold State.cutFrame
  with_reducible repeat' first
    | assumption | apply aside_linkTick | apply aside_modLink | apply aside_emit | dsimp only | simp only [aside_mk] | split
theorem aside_release (s : State) (n : Ch) (reason : Nat) (hs : Aside whole me z s) (hw : whole = true → n ≠ me) :
    Aside whole me z (State.release s n reason) := by
  unfold State.release
  with_reducible repeat' first
    | assumption | apply aside_cutFrame | apply aside_modLink | apply aside_modCh | apply aside_emit | dsimp only
    | simp only [aside_mk] | split
  all_goals exact fun _ _ => ⟨⟨rfl, rfl, rfl, rfl, rfl⟩, fun e => absurd ‹_› (hw e)⟩
theorem aside_travStop (s : State) (n : Ch) (hs : Aside whole me z s) (hm : n ≠ me) : Aside whole me z (State.travStop s n) := by
  unfold State.travStop
  with_reducible repeat' first | assumption | apply aside_modTrav
  all_goals exact fun e => absurd e hm
theorem aside_lineMsgs (s : State) (n : Ch) (k : Nat) (ms : List (Nat × List Byte)) (hs : Aside whole me z s) :
    Aside whole me z (State.lineMsgs s n k ms) := by
  unfold State.lineMsgs
  with_reducible repeat' first
    | assumption | apply aside_emcyMsg | apply aside_emcyInfo | dsimp only | simp only [aside_mk]
    | (refine aside_foldl _ (fun t x ht => ?_) _ ?_) | (refine aside_foldl_fst _ (fun t x ht => ?_) _ ?_) | split
theorem aside_dropUndecided (s0 : State) (n : Ch) (hs0 : Aside whole me z s0) (hw : whole = true → n ≠ me) :
    Aside whole me z (State.dropUndecided s0 n) := by
  unfold State.dropUndecided
  with_reducible repeat' first
    | assumption | apply aside_lineMsgs | apply aside_modCh | dsimp only | simp only [aside_mk]
    | (refine aside_foldl _ (fun t x ht => ?_) _ ?_) | (refine aside_foldl_fst _ (fun t x ht => ?_) _ ?_) | split
  all_goals exact fun hm _ => ⟨⟨rfl, rfl, rfl, rfl, rfl⟩, fun e => absurd hm (hw e)⟩
theorem aside_epochLose (s : State) (n : Ch) (hs : Aside whole me z s) : Aside whole me z (State.epochLose s n) := by
  unfold State.epochLose
  with_reducible repeat' first | assumption | apply aside_put | dsimp only | simp only [aside_mk] | split
  all_goals exact watched_apart (by simp only [Ep.FAIL_CH, Ep.FAIL_REASON]; omega)
theorem aside_switchSent (s : State) (n : Nat) (close : Bool) (hs : Aside whole me z s) :
    Aside whole me z (State.switchSent s n close) := by
  unfold State.switchSent
  with_reducible repeat' first | assumption | apply aside_modDev
  all_goals exact fun _ => ⟨rfl, rfl, rfl, rfl, rfl, rfl⟩
theorem aside_switchOpen (s : State) (n : Ch) (hs : Aside whole me z s) (hm : n ≠ me) : Aside whole me z (State.switchOpen s n) := by
  unfold State.switchOpen
  with_reducible repeat' first | assumption | apply aside_switchSent | apply aside_modDrive | apply aside_unflag
  all_goals first
    | assumption
    | exact (watched_other hm).2
theorem aside_openSettle (n : Ch) (s : State) (hs : Aside whole me z s) (hm : n ≠ me) : Aside whole me z (State.openSettle n s) := by
  unfold State.openSettle
  with_reducible repeat' first | assumption | apply aside_switchOpen | dsimp only | simp only [aside_mk] | split
theorem aside_switchDrop (s : State) (n : Ch) (hs : Aside whole me z s) : Aside whole me z (State.switchDrop s n) := by
  unfold State.switchDrop
  with_reducible repeat' first | assumption | apply aside_modDev | dsimp only | simp only [aside_mk] | split
  all_goals exact fun _ => ⟨rfl, rfl, rfl, rfl, rfl, rfl⟩
theorem aside_rampAndOpen (s : State) (n : Ch) (hs : Aside whole me z s) (hm : n ≠ me) : Aside whole me z (State.rampAndOpen s n) := by
  unfold State.rampAndOpen
  with_reducible repeat' first
    | assumption | apply aside_switchDrop | apply aside_openSettle | apply aside_rampRails | apply aside_modDrive
    | apply aside_unflag | dsimp only | simp only [aside_mk] | split
  all_goals first
    | assumption
    | exact (watched_other hm).1
theorem aside_epochSet (s : State) (n : Ch) (r : Rebase) (hs : Aside whole me z s) : Aside whole me z (State.epochSet s n r) := by
  unfold State.epochSet
  with_reducible repeat' first | assumption | apply aside_put
  all_goals exact watched_apart (by simp only [Cc.APPLIED_EPOCH, Lv.SET_SEL, Tr.OFS_FRAC, Tr.OFS_INT, Tr.PITCH, Tr.REV_SHIFT]; omega)
theorem aside_commitBack (s : State) (x : Nat × Trav × Rebase) (hs : Aside whole me z s) :
    Aside whole me z (State.commitBack s x) := by
  unfold State.commitBack
  with_reducible repeat' first | assumption | apply aside_epochSet | apply aside_modTrav
  all_goals exact fun _ _ => rfl
theorem aside_commitUndo (s : State) (n : Ch) (hs : Aside whole me z s) : Aside whole me z (State.commitUndo s n) := by
  unfold State.commitUndo
  with_reducible repeat' first
    | assumption | apply aside_commitBack | apply aside_unpulse | apply aside_unsay | apply aside_modDev | apply aside_put
    | dsimp only | simp only [aside_mk] | (refine aside_foldl _ (fun t x ht => ?_) _ ?_)
    | (refine aside_foldl_fst _ (fun t x ht => ?_) _ ?_) | split
  all_goals first
    | exact fun _ => ⟨rfl, rfl, rfl, rfl, rfl, rfl⟩
    | exact watched_apart (by simp only [Ep.EP_NUM, Ep.FAIL_CH, Ep.FAIL_REASON]; omega)
theorem aside_retireMark (s : State) (n : Ch) (cause : Nat) (hs : Aside whole me z s) :
    Aside whole me z (State.retireMark s n cause) := by
  unfold State.retireMark
  with_reducible repeat' first | assumption | apply aside_cause | apply aside_modDev | dsimp only | simp only [aside_mk] | split
  all_goals exact fun _ => ⟨rfl, rfl, rfl, rfl, rfl, rfl⟩
theorem aside_retire (s0 : State) (n : Ch) (cause : Nat) (hs0 : Aside whole me z s0) (hm : n ≠ me) :
    Aside whole me z (State.retire s0 n cause) := by
  unfold State.retire
  with_reducible repeat' first
    | assumption | apply aside_retireMark | apply aside_commitUndo | apply aside_rampAndOpen | apply aside_epochLose
    | apply aside_dropUndecided | apply aside_travStop | apply aside_release | apply aside_setCh | apply aside_emcyMsg
    | apply aside_pulse | apply aside_cause | apply aside_modHealth | apply aside_modCh | apply aside_bump | apply aside_put
    | dsimp only | split
  all_goals first
    | assumption
    | exact fun _ => hm
    | exact fun e => absurd e hm
    | exact watched_apart (by simp only [Cc.CAUSE, Cc.RETIRE_CNT]; omega)
theorem aside_parkCh (s : State) (n : Ch) (hs : Aside whole me z s) (hm : n ≠ me) : Aside whole me z (State.parkCh s n) := by
  unfold State.parkCh
  with_reducible repeat' first
    | assumption | apply aside_dmaParked | apply aside_modCh | apply aside_unflag | apply aside_put | dsimp only
    | simp only [aside_mk] | split
  all_goals first
    | exact fun e => absurd e hm
    | exact watched_apart (by simp only [Nh.LEARN, Nh.STRIP_PEND]; omega)
theorem aside_pixPark (s : State) (hs : Aside whole me z s) : Aside whole me z (State.pixPark s) := by
  unfold State.pixPark
  with_reducible repeat' first
    | assumption | apply aside_emit | apply aside_clearAll | dsimp only | simp only [aside_mk]
    | (refine aside_foldl _ (fun t x ht => ?_) _ ?_) | (refine aside_foldl_fst _ (fun t x ht => ?_) _ ?_) | split
  all_goals exact fun f hf => watched_apart (.inl (camCounters_far f hf))
theorem aside_pixFollow (s : State) (hs : Aside whole me z s) : Aside whole me z (State.pixFollow s) := by
  unfold State.pixFollow
  with_reducible repeat' first | assumption | apply aside_pixPark | dsimp only | simp only [aside_mk] | split

/-! #### Health -/

theorem aside_stripCancel (s : State) (n : Ch) (hs : Aside whole me z s) : Aside whole me z (State.stripCancel s n) := by
  unfold State.stripCancel
  with_reducible repeat' first
    | assumption | apply aside_modHealth | apply aside_unflag | dsimp only | simp only [aside_mk] | split
  all_goals exact watched_apart (by simp only [Nh.STRIP_PEND]; omega)

/-! #### Camera -/

theorem aside_modFrame (s : State) (c id : Nat) (f : CamFrame → CamFrame) (hs : Aside whole me z s) :
    Aside whole me z (State.modFrame s c id f) := by
  unfold State.modFrame
  with_reducible repeat' first | assumption | apply aside_modCam

/-! #### Channel -/

theorem aside_epochFail (s : State) (n reason : Nat) (hs : Aside whole me z s) :
    Aside whole me z (State.epochFail s n reason) := by
  unfold State.epochFail
  with_reducible repeat' first | assumption | apply aside_put | dsimp only | simp only [aside_mk]
  all_goals exact watched_apart (by simp only [Ep.FAIL_CH, Ep.FAIL_REASON]; omega)
theorem aside_epochWatch (s : State) (hs : Aside whole me z s) : Aside whole me z (State.epochWatch s) := by
  unfold State.epochWatch
  with_reducible repeat' first | assumption | apply aside_epochFail | dsimp only | simp only [aside_mk] | split

/-! #### Power -/

theorem aside_saveSettle (s : State) (hs : Aside whole me z s) : Aside whole me z (State.saveSettle s) := by
  unfold State.saveSettle
  with_reducible repeat' first | assumption | apply aside_reply | dsimp only | simp only [aside_mk] | split

end
end Sys2Proof.Machine
end

section
/-! SUPPORT. A first class S cause stops every channel (R520). -/
namespace Sys2Proof.Machine

/-! #### One channel's turn, and the others' -/

/-- What the turns of all channels leave of one: its own turn, begun where the others' left it. -/
theorem forCh_aside {f : Ch → State → State} {whole : Bool} (s : State) (n : Ch)
    (hf : ∀ m, m ≠ n → ∀ z t, Aside whole n z t → Aside whole n z (f m t)) :
    ∃ t, Aside whole n s t ∧ Aside whole n (f n t) (s.forCh f) :=
  forCh_turn (P := Aside whole n s) (Q := fun u => ∃ t, Aside whole n s t ∧ Aside whole n (f n t) u) n (.refl _ _ _)
    (fun m hm t ht => hf m hm s t ht) (fun t ht => ⟨t, ht, .refl _ _ _⟩) fun m hm _ ⟨v, hv, hu⟩ => ⟨v, hv, hf m hm _ _ hu⟩
theorem exists_other (n : Ch) : ∃ m : Ch, n ≠ m := by revert n; decide

section
variable {whole : Bool} {me : Ch} {z : State}

theorem aside_safeCh (s : State) (reason : Nat) (n : Ch) (hs : Aside whole me z s) (hm : n ≠ me) : Aside whole me z (s.safeCh reason n) := by
  have hrelease : Aside whole me z (if (s.ch[n]).link.st = .down then s else s.release n reason) :=
    aside_ite hs (aside_release _ _ _ hs fun _ => hm)
  unfold State.safeCh
  split
  · exact hs
  · exact hrelease
  · exact aside_ite (aside_rampAndOpen _ _ hrelease hm) (aside_parkCh _ _ (aside_switchDrop _ _ hrelease) hm)
  · exact aside_rampAndOpen _ _ (aside_setCh _ _ _ (aside_dropUndecided _ _ (aside_release _ _ _ (aside_travStop _ _ hs hm)
      fun _ => hm) fun _ => hm) hm) hm
/-- The turn of a channel as SAFE is entered. -/
theorem aside_safeTurn (s : State) (reason : Nat) (n : Ch) (hs : Aside whole me z s) (hm : n ≠ me) :
    Aside whole me z ((s.safeCh reason n).epochLose n) := aside_epochLose _ _ (aside_safeCh _ _ _ hs hm)
end

section
variable (s : State) (n : Ch)

theorem setCh_aside (x : ChState) : Aside true n (s.modCh n (fun c => { c with st := x })) (s.setCh n x) := by
  have hu : Aside true n (s.modCh n (fun c => { c with st := x })) (s.modCh n (fun c => { c with st := x })) := .refl _ _ _
  unfold State.setCh
  split
  next hx => rw [modCh_eq_self (by rw [← hx]; rfl)]; exact .refl _ _ _
  · exact aside_record _ _ _ _ _ (aside_cause _ _ (aside_ite hu (aside_cause _ _ hu)))
theorem lowered_chan : ((s.lowered n).ch[n]) =
    { s.ch[n] with drive := { (s.ch[n]).drive.lowering s.tb with openAt := s.opensAt n } } := by
  unfold State.lowered
  rw [State.modDrive, modCh_same]
  split <;> rfl
/-- A channel whose rails go down is not precharged, and its switch is open or opens later. -/
structure RailsDown (s : State) (n : Ch) (tb : Nat) : Prop where
  prechg : s.has (Lv.PRECHG n) = false
  switch : (s.ch[n]).drive.openAt = none ∧ s.has (Lv.HV_ON n) = false ∨ tb < (s.ch[n]).drive.openAt.getD 0
theorem has_put_zero (f : Fld) : (s.put f 0).has f = false := by
  unfold State.has
  rw [get_put_same, Nat.zero_mod]
  rfl
theorem lowered_down : RailsDown (s.lowered n) n s.tb := by
  have hkey : (Lv.HV_ON n).key ≠ (Lv.PRECHG n).key := by simp only [Fld.key, Lv.HV_ON, Lv.PRECHG]; omega
  by_cases h0 : s.topLevel n = 0
  · refine ⟨?_, .inl ⟨?_, ?_⟩⟩
    · unfold State.has
      rw [lowered_get, if_pos h0, get_put_other _ _ hkey]
      exact has_put_zero _ _
    · rw [lowered_chan]
      exact if_pos h0
    · unfold State.has
      rw [lowered_get, if_pos h0]
      exact has_put_zero _ _
  · refine ⟨?_, .inr ?_⟩
    · unfold State.has
      rw [lowered_get, if_neg h0]
      exact has_put_zero _ _
    · have hat : s.opensAt n = some (s.tb + 1920 * s.topLevel n) := if_neg h0
      rw [lowered_chan, hat]
      exact show s.tb < s.tb + 1920 * s.topLevel n by omega
end

/-! #### The turn of a channel that prints or may print -/

/-- A channel in IDLE, RUN or READMITTING. -/
def State.ready (s : State) (n : Ch) : Prop := s.chSt n = .idle ∨ s.chSt n = .run ∨ s.chSt n = .readmitting
/-- What its turn leaves: STOPPING, its traverse stopped, its reservoirs about to bleed. -/
structure Stopped (z s : State) (n : Ch) : Prop where
  st : s.chSt n = .stopping
  trav : (s.ch[n]).trav.st = .stopped
  bleeding : (s.ch[n]).drive.bleeding = true
  down : (z.ch[n]).drive.bleeding = false → RailsDown s n z.tb

section
variable {s t z : State} {n : Ch}

theorem Aside.has {whole : Bool} (h : Aside whole n z s) {f : Fld} (hf : f ∈ watched n) : s.has f = z.has f := by unfold State.has; rw [h.get f hf]
theorem Stopped.aside {whole : Bool} (h : Stopped z s n) (k : Aside whole n s t) : Stopped z t n where
  st := k.st.trans h.st
  trav := k.trav.trans h.trav
  bleeding := by rw [k.drive]; exact h.bleeding
  down hb := by
    obtain ⟨hp, hs⟩ := h.down hb
    refine ⟨(k.has (by simp [watched])).trans hp, ?_⟩
    rw [k.drive, k.has (by simp [watched])]
    exact hs
theorem Stopped.beside (h : Stopped z s n) (o : List Out) (d : Dev) : Stopped z { s with out := o, dev := d } n where
  st := h.st
  trav := h.trav
  bleeding := h.bleeding
  down hb := ⟨(h.down hb).prechg, (h.down hb).switch⟩
theorem stopped_safeCh (reason : Nat) (hs : s.ready n) : Stopped s (s.safeCh reason n) n := by
  let b := ((s.travStop n).release n reason).dropUndecided n
  have hb : Aside false n (s.travStop n) b := aside_dropUndecided _ _ (aside_release _ _ _ (.refl _ _ _) nofun) nofun
  have htrav : ((s.travStop n).ch[n]) = { s.ch[n] with trav := { (s.ch[n]).trav with st := .stopped, sched := [] } } := modCh_same _ _ _
  let c := b.setCh n .stopping
  have hc : Aside true n (b.modCh n (fun c => { c with st := .stopping })) c := setCh_aside b n .stopping
  have hch : ((b.modCh n (fun c => { c with st := .stopping })).ch[n]) = { b.ch[n] with st := .stopping } := modCh_same _ _ _
  have hst : c.chSt n = .stopping := hc.st.trans (congrArg Chan.st hch)
  have hstop : (c.ch[n]).trav.st = .stopped := by
    rw [hc.trav, hch]
    exact hb.trav.trans (by rw [htrav])
  have hdrive : (c.ch[n]).drive = (s.ch[n]).drive := by
    rw [hc.drive, hch]
    exact hb.drive.trans (by rw [htrav])
  have htb : c.tb = s.tb := hc.tb.trans hb.tb
  have he : s.safeCh reason n = c.rampAndOpen n := by
    unfold State.safeCh
    obtain h | h | h := hs <;> rw [h]
  rw [he]
  cases hbl : (c.ch[n]).drive.bleeding with
  | true =>
    rw [rampAndOpen_bleeding c n hbl]
    exact ⟨hst, hstop, hbl, fun h => absurd (hbl.symm.trans (hdrive ▸ h)) (by decide)⟩
  | false =>
    obtain ⟨o, d, hr⟩ := rampAndOpen_lowered c n hbl
    have hlow := lowered_chan c n
    rw [hr]
    refine Stopped.beside ⟨(congrArg Chan.st hlow).trans hst, by rw [hlow]; exact hstop, by rw [hlow]; rfl, fun _ => ?_⟩ o _
    rw [← htb]
    exact lowered_down c n
end
end Sys2Proof.Machine
end

section
/-! SUPPORT. The entry of SAFE by a first class S cause (R520). -/
namespace Sys2Proof.Machine

/-- The entry as it begins: the condition stands, and nothing has stopped yet. -/
def State.safeBegun (s : State) (bitNo code : Nat) : State :=
  let t := s.modDev (fun d => { d with retires := [] })
  ((t.put Su.SAFE_COND (t.get Su.SAFE_COND ||| 2 ^ bitNo)).modDev (fun d => { d with safeAt := some (cycleOf s.tb) })).modDev (fun d =>
    { d with safeEntry := some (code, bitNo), safeRun := none, boot := if d.boot = .benchmark then .up else d.boot, waking := none,
             standbyWait := none, hostParkDue := false })
/-- The ports that wait for the end of a wake or of an entry of STANDBY. -/
def State.askedPower (s : State) : List Port := [s.dev.standbyWait, s.dev.waking].filterMap (fun x => x.getD none)
/-- The entry when every channel has had its turn. -/
def State.safeStopped (s : State) (bitNo code reason : Nat) : State :=
  ((s.askedPower.foldl (fun (t : State) (p : Port) => t.answer p 0x2000 3 abState) (s.safeBegun bitNo code)).forCh (fun n t =>
    (t.safeCh reason n).epochLose n)).tokenCheck
theorem retireUndo_of_nil {s : State} (h : s.dev.retires = []) : s.retireUndo = s.modDev (fun d => { d with retires := [] }) := by
  unfold State.retireUndo
  rw [h]
  rfl
theorem safeRun_of_not_benchOn {s : State} (h : s.benchOn = false) : s.dev.safeRun = none := by
  unfold State.benchOn at h
  cases hr : s.dev.safeRun with
  | none => rfl
  | some p => rw [hr] at h; simp at h
/-- A first cause outside a benchmark run: every channel has its turn, and the entry ends where none bleeds. -/
theorem enterSafe_first {s : State} (hsafe : s.dev.safe = false) (hentry : s.dev.safeEntry = none) (hb : s.benchOn = false)
    (hr : s.dev.retires = []) (bitNo code reason : Nat) : s.enterSafe bitNo code reason = (s.safeStopped bitNo code reason).safeFinish := by
  have hrun := safeRun_of_not_benchOn hb
  unfold State.enterSafe
  simp only [hb, Bool.false_eq_true, if_false, retireUndo_of_nil hr]
  rw [if_neg (by simp [State.modDev, State.put, hsafe, hentry])]
  simp only [State.modDev, State.put, hrun]
  rfl

/-! #### What the turns leave -/

section
variable (s : State) (b code reason : Nat) (n : Ch)

/-- A channel's own turn, begun where the others' left it. -/
theorem safeStopped_turn : ∃ t, Aside true n (s.safeBegun b code) t ∧
    Aside true n ((t.safeCh reason n).epochLose n) (s.safeStopped b code reason) := by
  obtain ⟨t, ht, hu⟩ := forCh_aside (f := fun n t => (t.safeCh reason n).epochLose n) (whole := true)
    (s.askedPower.foldl (fun (t : State) (p : Port) => t.answer p 0x2000 3 abState) (s.safeBegun b code)) n
    fun m hm z t ht => aside_safeTurn t reason m ht hm
  exact ⟨t, (aside_foldl _ (fun t p ht => aside_answer _ _ _ _ _ ht) _ (.refl _ _ _)).trans ht, aside_tokenCheck _ hu⟩
/-- The entry is what its turns leave of the device. -/
theorem safeStopped_device : (s.safeStopped b code reason).dev.safe = s.dev.safe ∧
    (s.safeStopped b code reason).dev.safeEntry = some (code, b) ∧
    (s.safeStopped b code reason).get Su.SAFE_COND = (s.safeBegun b code).get Su.SAFE_COND ∧
    (s.safeStopped b code reason).get Su.SAFE_CAUSE = s.get Su.SAFE_CAUSE := by
  obtain ⟨t, ht, hu⟩ := safeStopped_turn s b code reason 0
  obtain ⟨m, hm⟩ := exists_other 0
  have hturn : Aside true m t ((t.safeCh reason 0).epochLose 0) := aside_safeTurn t reason 0 (.refl _ _ _) hm
  have hcause : (s.safeBegun b code).get Su.SAFE_CAUSE = s.get Su.SAFE_CAUSE := get_put_other (s.modDev _) _ (by decide)
  have hmem : ∀ k : Ch, Su.SAFE_COND ∈ watched k ∧ Su.SAFE_CAUSE ∈ watched k := by simp [watched]
  obtain ⟨hcn, hsn⟩ := hmem 0
  obtain ⟨hcm, hsm⟩ := hmem m
  exact ⟨hu.safe.trans (hturn.safe.trans ht.safe), hu.entry.trans (hturn.entry.trans ht.entry),
    (hu.get _ hcn).trans ((hturn.get _ hcm).trans (ht.get _ hcn)),
    (hu.get _ hsn).trans ((hturn.get _ hsm).trans ((ht.get _ hsn).trans hcause))⟩
theorem safeBegun_has {f : Fld} (hf : Su.SAFE_COND.key ≠ f.key) : (s.safeBegun b code).has f = s.has f := by
  unfold State.has
  exact congrArg (fun v => decide (v = 1)) (get_put_other (s.modDev _) _ hf)
theorem safeStopped_stopped (h : s.ready n) : Stopped s (s.safeStopped b code reason) n := by
  obtain ⟨t, ht, hu⟩ := safeStopped_turn s b code reason n
  have hready : t.ready n := by unfold State.ready; rw [ht.st]; exact h
  obtain ⟨hst, htrav, hbleed, hdown⟩ := ((stopped_safeCh reason hready).aside (aside_epochLose (whole := true) _ _ (.refl _ _ _))).aside hu
  have htb : t.tb = s.tb := ht.tb
  rw [ht.drive, htb] at hdown
  exact ⟨hst, htrav, hbleed, hdown⟩
theorem safeStopped_retired (h : s.chSt n = .retiring ∨ s.chSt n = .retired) : (s.safeStopped b code reason).chSt n = s.chSt n := by
  obtain ⟨t, ht, hu⟩ := safeStopped_turn s b code reason n
  have hst : t.chSt n = s.chSt n := ht.st
  have hturn : Aside false n t (t.safeCh reason n) := by
    unfold State.safeCh
    obtain h | h := h <;> rw [hst, h] <;> dsimp only
    · exact aside_ite (.refl _ _ _) (aside_release _ _ _ (.refl _ _ _) nofun)
    · exact .refl _ _ _
  exact hu.st.trans ((aside_epochLose _ _ hturn).st.trans hst)
/-- A channel as it parks. -/
def Chan.parked (c : Chan) : Chan := { c with
  q := { c.q with lines := [], part := [], word := [] }
  store := { c.store with img := [], bNext := none, busy := none, blank := true }
  lines := [], cold := false
  link := { c.link with st := .down, tx := [], ctl := [], cto := 0, latched := none, tsrSeen := false, kept := [] }
  drive := { c.drive with bleeding := false, openAt := none, prechgAt := none, precharging := false, vhvAt := none, railF := ⟨0, none, []⟩,
                          railW := ⟨0, none, []⟩ }
  health := { c.health with cap := none, results := [], learns := [], strip := none } }
theorem parkCh_aside : Aside true n (s.modCh n Chan.parked) (s.parkCh n) := by
  have hself : Aside true n (s.modCh n Chan.parked) (s.modCh n Chan.parked) := .refl _ _ _
  have hpark : s.parkCh n = ((((if (s.modCh n Chan.parked).bist.running.any (fun (r : Nat × Nat) => r.1 = 2 + (n : Nat)) then
    { s.modCh n Chan.parked with bist := { (s.modCh n Chan.parked).bist with running := none } } else s.modCh n Chan.parked).put
      (Nh.LEARN n) 0).unflag (Nh.STRIP_PEND n)).dmaParked n) := rfl
  rw [hpark]
  generalize s.modCh n Chan.parked = u at hself ⊢
  refine aside_dmaParked _ _ (aside_unflag _ _ (aside_put _ _ _ ?_ (watched_apart (by simp only [Nh.LEARN]; omega)))
    (watched_apart (by simp only [Nh.STRIP_PEND]; omega)))
  split
  · simp only [aside_mk]
    exact hself
  · exact hself
theorem parkCh_bleeding : ((s.parkCh n).ch[n]).drive.bleeding = false := by
  rw [(parkCh_aside s n).drive, modCh_same]
  rfl
/-- A channel that is OFF with its switch open parks. -/
theorem safeStopped_parked (h : s.chSt n = .off) (hv : s.has (Lv.HV_ON n) = false) :
    ((s.safeStopped b code reason).ch[n]).drive.bleeding = false := by
  obtain ⟨t, ht, hu⟩ := safeStopped_turn s b code reason n
  have hrel : Aside false n t (if (t.ch[n]).link.st = .down then t else t.release n reason) :=
    aside_ite (.refl _ _ _) (aside_release _ _ _ (.refl _ _ _) nofun)
  have hoff : (if (t.ch[n]).link.st = .down then t else t.release n reason).has (Lv.HV_ON n) = false := by
    rw [hrel.has (by simp [watched]), ht.has (by simp [watched]), safeBegun_has _ _ _ (by simp only [Fld.key, Su.SAFE_COND, Lv.HV_ON]; omega), hv]
  have he : t.safeCh reason n = ((if (t.ch[n]).link.st = .down then t else t.release n reason).switchDrop n).parkCh n := by
    have hst : t.chSt n = .off := ht.st.trans h
    unfold State.safeCh
    rw [hst]
    exact if_neg (by rw [hoff]; exact Bool.false_ne_true)
  have hlose := aside_epochLose (whole := true) (t.safeCh reason n) n (.refl true n _)
  rw [hu.drive, hlose.drive, he, parkCh_bleeding]
end
end Sys2Proof.Machine
end

section
/-! SUPPORT. The end of the entry of SAFE (R520), and the settling of O6's clauses on the entry. -/
namespace Sys2Proof.Machine

section
variable {s : State}

theorem safeFinish_waits {n : Ch} (h : (s.ch[n]).drive.bleeding = true) : s.safeFinish = s := by
  unfold State.safeFinish
  split
  · rfl
  · exact if_pos (List.any_eq_true.mpr ⟨n, mem_allCh n, h⟩)
/-- With no reservoir bleeding the entry ends: the device is in SAFE. -/
theorem safeFinish_ends {code b : Nat} (he : s.dev.safeEntry = some (code, b)) (hb : ∀ n : Ch, (s.ch[n]).drive.bleeding = false) (n : Ch) :
    s.safeFinish.chSt n = s.chSt n ∧ s.safeFinish.get Su.SAFE_COND = s.get Su.SAFE_COND ∧ s.safeFinish.dev.safe = true ∧
    s.safeFinish.dev.safeEntry = none ∧ (s.get Su.SAFE_CAUSE = 0 → s.safeFinish.get Su.SAFE_CAUSE = code % 2 ^ 16) := by
  have hnone : allCh.any (fun n => s.ch[n].drive.bleeding) = false := List.any_eq_false.mpr fun m _ => by rw [hb m]; exact Bool.false_ne_true
  unfold State.safeFinish
  rw [he]
  dsimp only
  rw [if_neg (by rw [hnone]; exact Bool.false_ne_true)]
  generalize hp : State.pixPark _ = p
  have hpark : Aside true n { s.modDev (fun d => { d with safe := true, safeEntry := none, standby := false }) with
      pcie := { s.pcie with on := true } } p := by rw [← hp]; exact aside_pixPark _ (.refl _ _ _)
  generalize hq : (if p.get Su.SAFE_CAUSE = 0 then p.put Su.SAFE_CAUSE code else p) = q
  have hcount : ∀ g ∈ watched n, (objFld 0x5010 1 16 0).key ≠ g.key := watched_apart (by simp only [objFld]; omega)
  have hend : ∀ u, Aside true n q u → Aside true n q ((u.condOn code 0xFF).emcyMsg code 0xFF 0) := fun u hu => aside_emcyMsg _ _ _ _ (aside_condOn _ _ _ hu)
  have hlast := hend _ (aside_ite (p := (((q.bump (objFld 0x5010 1 16 0)).cause 3).can.nmt = .operational))
    (aside_modCan _ (fun c => { c with nmt := .preOp }) (aside_cause _ 3 (aside_bump _ _ (.refl _ _ _) hcount)))
    (aside_cause _ 3 (aside_bump _ _ (.refl _ _ _) hcount)))
  have hsame : q = { p with regs := q.regs } := by rw [← hq]; split <;> rfl
  have hcond : q.get Su.SAFE_COND = p.get Su.SAFE_COND := by rw [← hq]; split; exacts [get_put_other _ _ (by decide), rfl]
  have hmem : Su.SAFE_COND ∈ watched n ∧ Su.SAFE_CAUSE ∈ watched n := by simp [watched]
  obtain ⟨hcm, hsm⟩ := hmem
  refine ⟨?_, ?_, ?_, ?_, fun h0 => ?_⟩
  · exact hlast.st.trans (by rw [hsame]; exact hpark.st)
  · exact (hlast.get _ hcm).trans (hcond.trans (hpark.get _ hcm))
  · exact hlast.safe.trans (by rw [hsame]; exact hpark.safe)
  · exact hlast.entry.trans (by rw [hsame]; exact hpark.entry)
  · rw [hlast.get _ hsm, ← hq, if_pos ((hpark.get _ hsm).trans h0), get_put_same]
    rfl
end

/-! #### The entry, from its first cause -/

section
variable (s : State) (b : Fin 9) (code reason : Nat)

theorem safeBegun_cond : bit ((s.safeBegun b code).get Su.SAFE_COND) b = true := by
  have hget : (s.safeBegun b code).get Su.SAFE_COND = (s.get Su.SAFE_COND ||| 2 ^ (b : Nat)) % 2 ^ 9 := get_put_same (s.modDev _) _ _
  have hbit : ∀ v, bit v b = v.testBit b := fun v => by simp [bit, Nat.testBit_eq_decide_div_mod_eq]
  rw [hget, hbit, Nat.testBit_mod_two_pow, Nat.testBit_or, Nat.testBit_two_pow_self]
  simp

theorem safeFinish_leaves (t : State) (n : Ch) : t.safeFinish.chSt n = t.chSt n ∧ t.safeFinish.get Su.SAFE_COND = t.get Su.SAFE_COND := by
  by_cases hb : ∃ m : Ch, (t.ch[m]).drive.bleeding = true
  · obtain ⟨m, hm⟩ := hb
    rw [safeFinish_waits hm]
    exact ⟨rfl, rfl⟩
  · cases he : t.dev.safeEntry with
    | none => unfold State.safeFinish; rw [he]; exact ⟨rfl, rfl⟩
    | some e =>
      obtain ⟨hst, hcond, -⟩ := safeFinish_ends he (fun m => by simpa using not_exists.mp hb m) n
      exact ⟨hst, hcond⟩
end

/-- What the entry of a first class S cause leaves (O6). -/
theorem enterSafe_clause (s : State) (b : Fin 9) (code reason : Nat) (hc : code < 2 ^ 16) (hsafe : s.dev.safe = false)
    (hentry : s.dev.safeEntry = none) (hb : s.benchOn = false) (hr : s.dev.retires = []) :
    let t := s.enterSafe b code reason
    bit (t.get Su.SAFE_COND) b = true ∧
    (∀ n : Ch, (s.chSt n = .idle ∨ s.chSt n = .run ∨ s.chSt n = .readmitting) →
      t.chSt n = .stopping ∧ (t.ch[n]).drive.bleeding = true ∧ (t.ch[n]).trav.st = .stopped ∧
      ((s.ch[n]).drive.bleeding = false → t.has (Lv.PRECHG n) = false ∧
        ((t.ch[n]).drive.openAt = none ∧ t.has (Lv.HV_ON n) = false ∨ s.tb < (t.ch[n]).drive.openAt.getD 0))) ∧
    (∀ n : Ch, (s.chSt n = .retiring ∨ s.chSt n = .retired) → t.chSt n = s.chSt n) ∧
    ((∃ n : Ch, s.chSt n = .idle ∨ s.chSt n = .run ∨ s.chSt n = .readmitting) →
      t.dev.safe = false ∧ t.dev.safeEntry = some (code, b.val)) ∧
    ((∀ n : Ch, s.chSt n = .off ∧ s.has (Lv.HV_ON n) = false) →
      t.dev.safe = true ∧ t.dev.safeEntry = none ∧ (s.get Su.SAFE_CAUSE = 0 → t.get Su.SAFE_CAUSE = code)) := by
  obtain ⟨hdsafe, hdentry, hdcond, hdcause⟩ := safeStopped_device s b code reason
  have hcond : bit ((s.safeStopped b code reason).get Su.SAFE_COND) b = true := by rw [hdcond]; exact safeBegun_cond s b code
  have hstopped : ∀ n, s.ready n → Stopped s (s.safeStopped b code reason) n := fun n => safeStopped_stopped s b code reason n
  have hretired := fun n => safeStopped_retired s b code reason n
  have hparked := fun n => safeStopped_parked s b code reason n
  rw [enterSafe_first hsafe hentry hb hr]
  clear hdcond
  generalize s.safeStopped b code reason = u at *
  refine ⟨?_, fun n h => ?_, fun n h => ?_, fun ⟨n, h⟩ => ?_, fun h => ?_⟩
  · rw [(safeFinish_leaves u 0).2]
    exact hcond
  · obtain ⟨hst, htrav, hbleed, hdown⟩ := hstopped n h
    rw [safeFinish_waits hbleed]
    exact ⟨hst, hbleed, htrav, fun h0 => ⟨(hdown h0).prechg, (hdown h0).switch⟩⟩
  · rw [(safeFinish_leaves u n).1, hretired n h]
  · rw [safeFinish_waits (hstopped n h).bleeding]
    exact ⟨hdsafe.trans hsafe, hdentry⟩
  · obtain ⟨-, -, hs, he, hcause⟩ := safeFinish_ends hdentry (fun n => hparked n (h n).1 (h n).2) 0
    exact ⟨hs, he, fun h0 => (hcause (hdcause.trans h0)).trans (Nat.mod_eq_of_lt hc)⟩
end Sys2Proof.Machine
end

section
/-! SUPPORT. Device faults that enter SAFE (R520), and the condition that a die trip leaves. -/
namespace Sys2Proof.Machine

/-! #### A die trip -/

/-- The entry by a die stands on a state that is in SAFE or enters it, with the condition of the dies. -/
theorem enterSafe_die (s0 : State) (code reason : Nat) :
    ∃ u, u.dev.inSafe ∧ bit (u.get Su.SAFE_COND) 0 = true ∧ Stands true u (s0.enterSafe 0 code reason) := by
  unfold State.enterSafe
  generalize State.retireUndo _ = s
  dsimp only
  generalize hs1 : State.modDev _ (fun d => { d with safeAt := some (cycleOf s.tb) }) = s1
  have hcond : bit (s1.get Su.SAFE_COND) 0 = true := by
    have hget : s1.get Su.SAFE_COND = (s.get Su.SAFE_COND ||| 2 ^ 0) % Su.SAFE_COND.card := by rw [← hs1]; exact get_put_same _ _ _
    rw [hget, Nat.or_comm]
    exact bit_raise rfl
  split
  next hin =>
    refine ⟨s1, hin.imp_left And.left, hcond, ?_⟩
    exact stands_emcyMsg _ _ _ _ (stands_condOn _ _ _ (.refl _ _))
  next =>
    generalize hs2 : s1.modDev _ = s2
    have hin : s2.dev.inSafe := .inr (by rw [← hs2]; rfl)
    refine ⟨s2, hin, by rw [← hs2]; exact hcond, ?_⟩
    have hz : Stands true s2 s2 := .refl _ _
    with_reducible repeat' first
      | assumption | apply stands_safeFinish | apply stands_tokenCheck | refine stands_forCh _ _ ?_ (fun n t ht => ?_)
      | apply stands_epochLose | apply stands_safeCh | (refine stands_foldl _ (fun t x ht => ?_) _ ?_) | apply stands_answer
      | apply stands_put | split
    all_goals exact fun _ => Nat.ne_of_beq_eq_false rfl
theorem dieTrip_clause (s : State) (drive : Bool) : bit ((s.dieTrip drive).settle.get Su.SAFE_COND) 0 = true ∧
    ((s.dieTrip drive).settle.dev.safe = true ∨ (s.dieTrip drive).settle.dev.safeEntry.isSome = true) := by
  obtain ⟨u, hin, hcond, hu⟩ : ∃ u, u.dev.inSafe ∧ bit (u.get Su.SAFE_COND) 0 = true ∧ Stands true u (s.dieTrip drive) := enterSafe_die _ _ _
  have ht := stands_settle _ hu
  exact ⟨ht.cond rfl hcond, ht.inSafe hin⟩

/-! #### The other faults -/

section
variable (s : State)

theorem classS_alive (h : s.alive = true) (bitNo code : Nat) : s.classS bitNo code = s.enterSafe bitNo code 4 := if_pos h
theorem classS_held (h : s.alive = false) (bitNo code : Nat) : s.classS bitNo code = s := if_neg (by rw [h]; exact Bool.false_ne_true)
theorem supplyFault_alive (h : s.alive = true) (w : Fin 4) : s.supplyFault w = (if w = 3 then s.enterSafe 2 0x3230 4
    else if w = 2 then (s.enterSafe 3 0x3240 4).modDev (fun d => { d with ioLow := true }) else s.enterSafe 3 0x3240 4) := by
  have hw : w = 0 ∨ w = 1 ∨ w = 2 ∨ w = 3 := by revert w; decide
  unfold State.supplyFault
  rw [classS_alive s h, classS_alive s h, h]
  obtain rfl | rfl | rfl | rfl := hw <;> rfl
theorem supplyFault_held (h : s.alive = false) (w : Nat) : s.supplyFault w = s := by
  unfold State.supplyFault
  rw [classS_held s h, classS_held s h, h]
  simp
theorem pllLost_timed (h : s.canTimed = true) : s.pllLost = (s.modDev (fun d => { d with pll := false })).enterSafe 5 0x5040 4 := by
  unfold State.canTimed at h
  exact if_pos (by simpa using h)
theorem vhvIn_closed {n : Ch} (ha : s.alive = true) (h : s.has (Lv.HV_ON n) = true) : s.vhvIn n = s.enterSafe 1 0x3210 4 :=
  (if_pos h).trans (classS_alive s ha 1 0x3210)
/-- A second expiry within 10 s. -/
theorem wdExpire_second {rom : RomView} {t0 : Tick} (hh : s.dev.dbgHalt = false) (hb : s.datum.bootSrc ≠ 0) (hw : s.dev.wdAt = some t0)
    (ht : s.tb ≤ t0 + 10 * 9600000000) :
    s.wdExpire rom = (s.modDev (fun d => { d with wdAt := some s.tb, romStop := false })).enterSafe 6 0x6010 4 := by
  have hwin : s.dev.wdAt.any (fun t => decide (s.tb ≤ t + wdWindow)) = true := by
    rw [hw]
    exact decide_eq_true (by unfold wdWindow usTicks; omega)
  unfold State.wdExpire
  simp only [hh, Bool.false_eq_true, if_false, hb]
  exact if_pos hwin
/-- The third failure of a run. -/
theorem supFail_third (ha : s.alive = true) (hf : s.dev.supFails = 2) (hc : s.dev.supCmd = none) :
    s.supFail = ((s.modDev (fun d => { d with supFails := 0, supResend := true })).bump (objFld 0x5010 3 16 0)).enterSafe 4 0x5031 4 := by
  let t := (s.modDev (fun d => { d with supFails := s.dev.supFails + 1, supResend := true })).bump (objFld 0x5010 3 16 0)
  have hhold : t.supHold = t := by
    have hcmd : t.dev.supCmd = none := hc
    unfold State.supHold
    rw [hcmd]
  have hfail : s.supFail = if 3 ≤ s.dev.supFails + 1 then (t.supHold.modDev (fun d => { d with supFails := 0 })).classS 4 0x5031 else t.supHold := rfl
  rw [hfail, hhold, if_pos (by omega)]
  have hsame : t.modDev (fun d => { d with supFails := 0 }) =
      (s.modDev (fun d => { d with supFails := 0, supResend := true })).bump (objFld 0x5010 3 16 0) := rfl
  rw [hsame]
  refine classS_alive _ ?_ 4 0x5031
  exact ha
end

/-- Settles O6: the other clauses are the entry itself, and what a die trip leaves stands through whatever settles behind it. -/
theorem deviceFaultsEnterSafe : Obligations.DeviceFaultsEnterSafe := by
  unfold Obligations.DeviceFaultsEnterSafe
  refine ⟨fun s ha => ⟨fun ht => ?_, fun w => ?_, fun n hn => ?_, fun drive => ?_, fun tick t0 rom ht hh hb hw hle => ?_, fun tick hf hc => ?_⟩,
    fun s hr ha => ⟨fun w => ?_, fun drive => ?_⟩, fun s b code reason hc hsafe hentry hb hr => enterSafe_clause s b code reason hc hsafe hentry hb hr⟩
  · exact congrArg (fun t : State => Host.Outcome.next t.settle) (pllLost_timed s ht)
  · exact congrArg (fun t : State => Host.Outcome.next t.settle) (supplyFault_alive s ha w)
  · exact congrArg (fun t : State => Host.Outcome.next t.settle) (vhvIn_closed s ha hn)
  · obtain ⟨hcond, hin⟩ := dieTrip_clause s drive
    exact ⟨_, congrArg (fun t : State => Host.Outcome.next t.settle) (if_pos ha), hcond, hin⟩
  · refine congrArg (fun t : State => Host.Outcome.next t.settle) ((if_pos ht).trans ?_)
    exact wdExpire_second (s.at tick) hh hb hw hle
  · exact congrArg (fun t : State => Host.Outcome.next t.settle) (supFail_third (s.at tick) ha hf hc)
  · exact congrArg Host.Outcome.next ((congrArg State.settle (supplyFault_held s ha w)).trans (settle_of_rests hr))
  · exact congrArg Host.Outcome.next ((congrArg State.settle (if_neg (by rw [ha]; exact Bool.false_ne_true))).trans (settle_of_rests hr))
end Sys2Proof.Machine
end

section
/-! SUPPORT. The end of a benchmark run (R516), and what settles behind it. -/
namespace Sys2Proof.Machine

/-! #### The last tests of one channel, and the others -/

theorem watched_outcome {n m : Ch} (hm : m ≠ n) : ∀ f ∈ watched n, (Su.BM_RES m).key ≠ f.key := by revert n m; decide
theorem aside_benchLast {whole : Bool} {me : Ch} {z : State} (s : State) (m : Ch) (hs : Aside whole me z s) (hm : m ≠ me) :
    Aside whole me z (s.benchLast m) := by
  have hput : ∀ v, Aside whole me z (s.put (Su.BM_RES m) v) := fun v => aside_put _ _ _ hs (watched_outcome hm)
  unfold State.benchLast
  split
  · exact hs
  split
  · exact aside_retire _ _ _ (hput 5) hm
  · exact aside_setCh _ _ _ (hput 0) hm

/-- What of a channel keeps everything that follows a command from touching it but for its rails and shadows. -/
structure Tame (s : State) (n : Ch) : Prop where
  kept : s.chSt n = .retired ∨ (s.ch[n]).kept = []
  switch : (s.ch[n]).drive.vhvAt = none
  free : s.inRun n = true → s.wipedFree n = []
  queue : s.inRun n = false → (s.ch[n]).applyQ = []
  wiped : s.inRun n = false → (s.ch[n]).drive.wiped = []

section
variable {s t z : State} {n : Ch}

theorem Aside.inRun {whole : Bool} (h : Aside whole n s t) : t.inRun n = s.inRun n := by unfold State.inRun; rw [h.st]
theorem Tame.aside (h : Tame s n) (k : Aside true n s t) : Tame t n where
  kept := by rw [k.st, k.kept]; exact h.kept
  switch := by rw [k.drive]; exact h.switch
  free hr := by
    have hfree : t.wipedFree n = s.wipedFree n := by unfold State.wipedFree; rw [k.drive, k.lines rfl]
    rw [hfree]
    exact h.free (k.inRun ▸ hr)
  queue hr := by rw [k.queue]; exact h.queue (k.inRun ▸ hr)
  wiped hr := by rw [k.drive]; exact h.wiped (k.inRun ▸ hr)
theorem tame_of_rests (hr : s.rests = true) (hk : s.chSt n = .off → (s.ch[n]).kept = []) : Tame s n := by
  have hn := (nothingDue_of_rests hr).chan n
  refine ⟨?_, hn.switch, hn.free, hn.queue, hn.wiped⟩
  obtain hp | hp := hn.kept
  · unfold State.chParked at hp
    split at hp
    next h => exact .inl h
    next h => exact .inr (hk h)
    next => cases hp
  · exact .inr hp
/-- Nothing waits for a channel. -/
structure Still (s : State) (n : Ch) : Prop where
  kept : (s.ch[n]).kept = []
  switch : (s.ch[n]).drive.vhvAt = none
  queue : (s.ch[n]).applyQ = []
  wiped : (s.ch[n]).drive.wiped = []
theorem Still.tame (h : Still s n) (hr : s.inRun n = false) : Tame s n :=
  ⟨.inr h.kept, h.switch, fun e => absurd (e.symm.trans hr) (by decide), fun _ => h.queue, fun _ => h.wiped⟩
theorem Tame.still (h : Tame s n) (hr : s.inRun n = false) (hk : (s.ch[n]).kept = []) : Still s n := ⟨hk, h.switch, h.queue hr, h.wiped hr⟩
theorem Still.aside {whole : Bool} (h : Still s n) (k : Aside whole n s t) : Still t n :=
  ⟨k.kept.trans h.kept, by rw [k.drive]; exact h.switch, k.queue.trans h.queue, by rw [k.drive]; exact h.wiped⟩
theorem Still.setCh (h : Still s n) (x : ChState) : Still (s.setCh n x) n ∧ (s.setCh n x).chSt n = x := by
  have hch : ((s.modCh n (fun c => { c with st := x })).ch[n]) = { s.ch[n] with st := x } := modCh_same _ _ _
  have hstill : Still (s.modCh n (fun c => { c with st := x })) n := by
    constructor <;> rw [hch]
    exacts [h.kept, h.switch, h.queue, h.wiped]
  exact ⟨hstill.aside (setCh_aside s n x), (setCh_aside s n x).st.trans (congrArg Chan.st hch)⟩
theorem Still.rampAndOpen (h : Still s n) : Still (s.rampAndOpen n) n ∧ (s.rampAndOpen n).chSt n = s.chSt n := by
  obtain ⟨e, he, hlow⟩ := ((Lower.refl s).rampAndOpen n).chan n
  exact ⟨⟨by rw [he]; exact h.kept, by rw [he]; exact hlow.vhvAt h.switch, by rw [he]; exact h.queue, by rw [he]; exact hlow.wiped.trans h.wiped⟩,
    (congrArg Chan.st he :)⟩
/-- A channel that is OFF stays still, retires or not. -/
theorem still_retire_off (h : Still s n) (hoff : s.chSt n = .off) (cause : Nat) :
    Still (s.retire n cause) n ∧ (s.retire n cause).inRun n = false := by
  have hself : Still s n ∧ s.inRun n = false := ⟨h, by unfold State.inRun; rw [hoff]; rfl⟩
  unfold State.retire
  dsimp only
  split
  · exact hself
  rw [hoff]
  dsimp only
  split
  · generalize hp : (s.retireMark n cause).commitUndo n = p
    have h₁ : Still p n := h.aside (whole := false) (by rw [← hp]; exact aside_commitUndo _ _ (aside_retireMark _ _ _ (.refl _ _ _)))
    have hp₂ : Aside false n p (if (p.ch[n]).link.st = .down then p else p.release n 3) := aside_ite (.refl _ _ _) (aside_release _ _ _ (.refl _ _ _) nofun)
    have hcold := aside_modCh _ n (fun c => { c with cold := true }) hp₂ fun _ c => ⟨⟨rfl, rfl, rfl, rfl, rfl⟩, nofun⟩
    have hcount := aside_bump _ (Cc.RETIRE_CNT n) (aside_put _ (Cc.CAUSE n) cause hcold (watched_apart (by simp only [Cc.CAUSE]; omega)))
      (watched_apart (by simp only [Cc.RETIRE_CNT]; omega))
    obtain ⟨h₂, hst⟩ := (h₁.aside hcount).setCh .retiring
    generalize State.setCh _ n .retiring = q at h₂ hst ⊢
    have htold := aside_epochLose _ n (aside_emcyMsg _ 0xFF30 n (((q.pulse (0x31 + n)).ch[n]).lastLine.getD 0) (aside_pulse _ (0x31 + n) (.refl false n q)))
    obtain ⟨h₃, hst₃⟩ := (h₂.aside htold).rampAndOpen
    refine ⟨h₃, ?_⟩
    unfold State.inRun
    rw [hst₃, htold.st, hst]
    rfl
  · exact hself
/-- The last tests of a channel that is OFF and still. -/
theorem benchLast_off (h : Still s n) (hoff : s.chSt n = .off) : Tame (s.benchLast n) n ∧
    ((s.dev.tests[(n : Nat)]?).all (fun t => t.leakOk) = true → (s.benchLast n).chSt n = .idle ∧ (s.benchLast n).get (Su.BM_RES n) = 0) := by
  have hput : ∀ v, Still (s.put (Su.BM_RES n) v) n := fun v => ⟨h.kept, h.switch, h.queue, h.wiped⟩
  unfold State.benchLast
  rw [if_neg (not_not.mpr hoff)]
  split
  next hleak =>
    obtain ⟨hstill, hrun⟩ := still_retire_off (hput 5) hoff 0xD
    exact ⟨hstill.tame hrun, fun e => absurd e (by simpa using hleak)⟩
  next =>
    obtain ⟨hstill, hst⟩ := (hput 0).setCh .idle
    refine ⟨hstill.tame (by unfold State.inRun; rw [hst]; rfl), fun _ => ⟨hst, ?_⟩⟩
    rw [(setCh_aside _ n .idle).get _ (by simp [watched])]
    exact (get_put_same _ _ _).trans (Nat.zero_mod _)
end

/-! #### What follows a command, where every channel is tame -/

/-- A device that is up, outside a benchmark run and a wake, and whose channels are tame. -/
structure AllTame (s : State) : Prop where
  up : s.dev.boot = .up
  run : s.dev.safeRun = none
  waking : s.dev.waking = none
  tame : ∀ n, Tame s n
/-- Each channel's state and result stand. -/
def outcomesStand (s t : State) : Prop := ∀ n : Ch, t.chSt n = s.chSt n ∧ t.get (Su.BM_RES n) = s.get (Su.BM_RES n)

section
variable {s t : State}

theorem AllTame.aside (h : AllTame s) (k : ∀ n, Aside true n s t) : AllTame t :=
  ⟨(k 0).boot.trans h.up, (k 0).run.trans h.run, (k 0).waking.trans h.waking, fun n => (h.tame n).aside (k n)⟩
theorem outcomes_aside {whole : Bool} (k : ∀ n, Aside whole n s t) : outcomesStand s t := fun n => ⟨(k n).st, (k n).get _ (by simp [watched])⟩
/-- A ramp that is over opens the switch of its channel. -/
theorem AllTame.openSettle (h : AllTame s) (m : Ch) : AllTame (State.openSettle m s) ∧ outcomesStand s (State.openSettle m s) := by
  unfold State.openSettle
  split
  · have hother : ∀ n, m ≠ n → Aside true n s (s.switchOpen m) := fun n hm => aside_switchOpen _ _ (.refl _ _ _) hm
    have hch : ((s.switchOpen m).ch[m]) = { s.ch[m] with drive := { (s.ch[m]).drive with openAt := none, bleeding := true } } := modCh_same _ _ _
    have hst : (s.switchOpen m).chSt m = s.chSt m := (congrArg Chan.st hch :)
    have hout : (s.switchOpen m).get (Su.BM_RES m) = s.get (Su.BM_RES m) := by
      have hkey : (Lv.HV_ON m).key ≠ (Su.BM_RES m).key := by
        have hlt := m.isLt
        simp only [Fld.key, Lv.HV_ON, Su.BM_RES]
        omega
      exact get_put_other (s.switchSent m false) 0 hkey
    obtain ⟨hkept, hswitch, hfree, hqueue, hwiped⟩ := h.tame m
    have hrun : (s.switchOpen m).inRun m = s.inRun m := by unfold State.inRun; rw [hst]
    have htame : Tame (s.switchOpen m) m := by
      refine ⟨?_, ?_, ?_, ?_, ?_⟩
      · rw [hst, hch]; exact hkept
      · rw [hch]; exact hswitch
      · rw [hrun]; unfold State.wipedFree at hfree ⊢; rw [hch]; exact hfree
      · rw [hrun, hch]; exact hqueue
      · rw [hrun, hch]; exact hwiped
    refine ⟨⟨h.up, h.run, h.waking, fun n => ?_⟩, fun n => ?_⟩
    · by_cases hm : m = n
      · exact hm ▸ htame
      · exact (h.tame n).aside (hother n hm)
    · by_cases hm : m = n
      · exact hm ▸ ⟨hst, hout⟩
      · exact ⟨(hother n hm).st, (hother n hm).get _ (by simp [watched])⟩
  · exact ⟨h, fun _ => ⟨rfl, rfl⟩⟩
theorem aside_shadowsIn {whole : Bool} {me : Ch} {z : State} (s : State) (n : Ch) (v : Fld → Nat) (hs : Aside whole me z s) :
    Aside whole me z (s.shadowsIn n v) := by
  have hfold : Aside whole me z ((shadowed n).foldl (fun (t : State) (f : Fld) => t.putEff f (v f)) s) :=
    aside_foldl _ (fun t f ht => aside_putEff t f _ ht) _ hs
  unfold State.shadowsIn
  dsimp only
  exact aside_ite (aside_stripCancel _ _ hfold) hfold
theorem AllTame.quiet (h : AllTame s) (m n : Ch) : Aside true n s (State.quiet m s) := by
  have hself : Aside true n s s := .refl _ _ _
  have hm := h.tame m
  unfold State.quiet
  split
  next hrun =>
    unfold State.wipeFree
    rw [hm.free hrun]
    simpa using hself
  next hrun =>
    have hrun' : s.inRun m = false := by simpa using hrun
    rw [if_pos (hm.queue hrun')]
    dsimp only
    generalize hu : (if s.chSt m = .idle ∧ s.has (Lv.PRECHG m) ∧ s.linkUp m then _ else _) = u
    have hau : ∀ k, Aside true k s u := fun k => by
      rw [← hu]
      exact aside_ite (aside_modCh _ _ _ (.refl _ _ _) fun _ _ => ⟨⟨rfl, rfl, rfl, rfl, rfl⟩, fun _ => rfl⟩) (.refl _ _ _)
    have hsh : ∀ k, Aside true k s (u.shadowsIn m u.get) := fun k => aside_shadowsIn _ _ _ (hau k)
    generalize u.shadowsIn m u.get = w at hsh ⊢
    have hw : (w.ch[m]).drive.wiped = [] := by rw [(hsh m).drive]; exact hm.wiped hrun'
    have hsettle : w.wipedSettle m = w := if_neg fun hc => hc.2 hw
    rw [hsettle]
    exact hsh n
theorem AllTame.switchSettle (h : AllTame s) (m : Ch) : State.switchSettle m s = s :=
  if_neg (by unfold State.switchDue; rw [(h.tame m).switch]; exact Bool.false_ne_true)
theorem AllTame.benchSettle (h : AllTame s) (m : Ch) : State.benchSettle m s = s :=
  if_neg (by unfold State.benchDue State.benchOn; rw [h.up, h.run]; exact Bool.false_ne_true)
theorem AllTame.wakeCh (h : AllTame s) (m : Ch) : State.wakeCh m s = s := if_pos (.inl (by rw [h.waking]; rfl))
theorem AllTame.keptIn (h : AllTame s) (m : Ch) : State.keptIn m s = s :=
  if_pos ((h.tame m).kept.imp_left fun hst => by unfold State.chParked; rw [hst])
theorem aside_epochWatch_all (n : Ch) (s : State) : Aside true n s s.epochWatch := aside_epochWatch _ (.refl _ _ _)
/-- What follows a command leaves the state and the result of every channel. -/
theorem AllTame.settle (h : AllTame s) : s.settle.dev.boot = .up ∧ outcomesStand s s.settle := by
  unfold State.settle
  split
  · exact ⟨h.up, fun _ => ⟨rfl, rfl⟩⟩
  obtain ⟨hopen, hout⟩ : AllTame (s.forCh State.openSettle) ∧ outcomesStand s (s.forCh State.openSettle) :=
    forCh_induct (P := fun t => AllTame t ∧ outcomesStand s t) ⟨h, fun _ => ⟨rfl, rfl⟩⟩ fun m t ht => by
      obtain ⟨ht, hs⟩ := ht
      obtain ⟨hk, hr⟩ := ht.openSettle m
      exact ⟨hk, fun n => ⟨(hr n).1.trans (hs n).1, (hr n).2.trans (hs n).2⟩⟩
  generalize s.forCh State.openSettle = u at hopen hout ⊢
  obtain ⟨hquiet, haside⟩ : AllTame (u.forCh State.quiet) ∧ ∀ n, Aside true n u (u.forCh State.quiet) :=
    forCh_induct (P := fun t => AllTame t ∧ ∀ n, Aside true n u t) ⟨hopen, fun _ => .refl _ _ _⟩ fun m t ht =>
      ⟨ht.1.aside (ht.1.quiet m), fun n => (ht.2 n).trans (ht.1.quiet m n)⟩
  generalize u.forCh State.quiet = w at hquiet haside ⊢
  rw [forCh_eq_self hquiet.switchSettle, forCh_eq_self hquiet.benchSettle, forCh_eq_self hquiet.wakeCh, forCh_eq_self hquiet.keptIn]
  have hend : ∀ n, Aside true n u w.tokenCheck.pixFollow.epochWatch.saveSettle := fun n =>
    aside_saveSettle _ (aside_epochWatch _ (aside_pixFollow _ (aside_tokenCheck _ (haside n))))
  exact ⟨(hend 0).boot.trans hopen.up, fun n => ⟨(hend n).st.trans (hout n).1, ((hend n).get _ (by simp [watched])).trans (hout n).2⟩⟩
end

/-! #### The end of the run -/

/-- A run that starts up the device ends when every channel of it is precharged and trained (R516). -/
theorem benchEnd_clause {s : State} (hr : s.rests = true) (hb : s.dev.boot = .benchmark) (hrun : s.dev.safeRun = none)
    (hoff : ∀ n : Ch, s.chSt n = .off → s.has (Lv.PRECHG n) = true ∧ s.linkUp n = true ∧ (s.ch[n]).kept = []) :
    s.benchEnd.settle.dev.boot = .up ∧
    ∀ n : Ch, s.chSt n = .off → (s.dev.tests[(n : Nat)]?).all (fun t => t.leakOk) = true →
      s.benchEnd.settle.chSt n = .idle ∧ s.benchEnd.settle.get (Su.BM_RES n) = 0 := by
  have hturn : ∀ n, ∃ t, Aside true n s t ∧ Aside true n (t.benchLast n) (s.forCh (fun n t => t.benchLast n)) := fun n =>
    forCh_aside s n fun m hm z t ht => aside_benchLast t m ht hm
  have hany : allCh.any (fun n => s.chSt n = .off && !(s.has (Lv.PRECHG n) && s.linkUp n)) = false := by
    refine List.any_eq_false.mpr fun n _ => ?_
    by_cases h : s.chSt n = .off
    · obtain ⟨hp, hl, -⟩ := hoff n h
      simp [hp, hl]
    · simp [h]
  have hon : s.benchOn = true := by unfold State.benchOn; rw [hb]; rfl
  generalize hv : s.forCh (fun n t => t.benchLast n) = v at hturn
  have hpart : ∀ n, Tame v n ∧ (s.chSt n = .off → (s.dev.tests[(n : Nat)]?).all (fun t => t.leakOk) = true →
      v.chSt n = .idle ∧ v.get (Su.BM_RES n) = 0) := fun n => by
    obtain ⟨t, ht, hu⟩ := hturn n
    have htame : Tame s n := tame_of_rests hr fun h => (hoff n h).2.2
    by_cases h : s.chSt n = .off
    · have hrun0 : s.inRun n = false := by unfold State.inRun; rw [h]; rfl
      have hstill : Still t n := (htame.still hrun0 (hoff n h).2.2).aside ht
      obtain ⟨hlast, hpass⟩ := benchLast_off hstill (ht.st.trans h)
      refine ⟨hlast.aside hu, fun _ hleak => ?_⟩
      obtain ⟨hi, h0⟩ := hpass (by rw [ht.tests]; exact hleak)
      exact ⟨hu.st.trans hi, (hu.get _ (by simp [watched])).trans h0⟩
    · have hself : t.benchLast n = t := if_pos (by rw [ht.st]; exact h)
      rw [hself] at hu
      exact ⟨htame.aside (ht.trans hu), fun h' => absurd h' h⟩
  have hms : ∀ n, Aside true n v v.benchMs := fun n =>
    aside_put _ _ _ (.refl _ _ _) (watched_apart (.inr ⟨by decide, .inr ⟨by decide, .inl (by decide)⟩⟩))
  have hvrun : v.benchMs.dev.safeRun = none := by
    obtain ⟨m, hm⟩ := exists_other 0
    obtain ⟨t, ht, hu⟩ := hturn 0
    exact (hms 0).run.trans (hu.run.trans ((aside_benchLast (me := m) t 0 (.refl true m t) hm).run.trans (ht.run.trans hrun)))
  have hwake : v.benchMs.dev.waking = none := by
    obtain ⟨m, hm⟩ := exists_other 0
    obtain ⟨t, ht, hu⟩ := hturn 0
    exact (hms 0).waking.trans (hu.waking.trans ((aside_benchLast (me := m) t 0 (.refl true m t) hm).waking.trans
      (ht.waking.trans (nothingDue_of_rests hr).wake)))
  have hend : s.benchEnd = (v.benchMs.modDev (fun d => { d with boot := .up })).tokenCheck := by
    unfold State.benchEnd
    rw [if_neg (by rw [hon, hany]; simp), hv]
    dsimp only
    rw [hvrun]
  let u := v.benchMs.modDev (fun d => { d with boot := .up })
  have htame : ∀ n, Tame u n := fun n => by
    obtain ⟨hkept, hswitch, hfree, hqueue, hwiped⟩ := (hpart n).1.aside (hms n)
    exact ⟨hkept, hswitch, hfree, hqueue, hwiped⟩
  have hu : AllTame u := ⟨rfl, hvrun, hwake, htame⟩
  have htok : ∀ n, Aside true n u u.tokenCheck := fun n => aside_tokenCheck _ (.refl _ _ _)
  obtain ⟨hup, hstand⟩ := (hu.aside htok).settle
  rw [hend]
  refine ⟨hup, fun n h hleak => ?_⟩
  obtain ⟨hi, h0⟩ := (hpart n).2 h hleak
  have hui : u.chSt n = .idle := (hms n).st.trans hi
  have hu0 : u.get (Su.BM_RES n) = 0 := ((hms n).get _ (by simp [watched])).trans h0
  exact ⟨(hstand n).1.trans ((htok n).st.trans hui), (hstand n).2.trans (((htok n).get _ (by simp [watched])).trans hu0)⟩
end Sys2Proof.Machine
end

section
/-! SUPPORT. The release of the reset, the boot code and the firmware start (R511, R513). -/
namespace Sys2Proof.Machine

/-! #### What the boot code reads of OTP and flash -/

section
variable {s t : State}

theorem otpRead_congr (h : t.otp = s.otp) : t.otpRead = s.otpRead := by
  funext g w
  unfold State.otpRead State.resolved State.spareOf State.tagNames State.otpCell State.row
  rw [h]
theorem otpValue_congr (h : t.otp = s.otp) : t.otpValue = s.otpValue := by
  funext ix
  unfold State.otpValue
  rw [otpRead_congr h]
theorem otpValid_congr (h : t.otp = s.otp) : t.otpValid = s.otpValid := by
  funext ix
  unfold State.otpValid
  rw [otpRead_congr h]
theorem lcFuses_congr (h : t.otp = s.otp) : t.lcFuses = s.lcFuses := by
  unfold State.lcFuses State.row
  rw [h]
theorem bootSlotOf_congr (h : t.otp = s.otp) (hf : t.flash = s.flash) : t.bootSlotOf = s.bootSlotOf := by
  unfold State.bootSlotOf State.slotPasses State.slotBytes State.imagePasses State.otpBytes
  rw [otpValue_congr h, otpValid_congr h, hf]
end

/-! #### Rests before the start of the firmware -/

section
variable {s : State}

/-- A device at rest is at rest in another stage of its start, where neither begins or ends a benchmark run and it is not up then. -/
theorem rests_modDev {f : Dev → Dev} (hr : s.rests = true)
    (hf : (f s.dev).safe = s.dev.safe ∧ (f s.dev).safeEntry = s.dev.safeEntry ∧ (f s.dev).safeRun = s.dev.safeRun ∧
      (f s.dev).standby = s.dev.standby ∧ (f s.dev).standbyWait = s.dev.standbyWait ∧ (f s.dev).waking = s.dev.waking)
    (hb : decide ((f s.dev).boot = .benchmark) = decide (s.dev.boot = .benchmark))
    (hup : (f s.dev).boot = .up → s.dev.boot = .up ∧ (f s.dev).token = s.dev.token) : (s.modDev f).rests = true := by
  obtain ⟨hsafe, hentry, hrun, hstandby, hwait, hwaking⟩ := hf
  have hdev : (s.modDev f).dev = f s.dev := rfl
  have hpark : ∀ n, (s.modDev f).chParked n = s.chParked n := fun n => by
    unfold State.chParked
    rw [hdev, hb, hrun, hwaking]
    rfl
  have hch : ∀ n, (s.modDev f).chRests n = s.chRests n := fun n => by
    unfold State.chRests
    rw [hpark]
    rfl
  have hbench : ∀ n, (s.modDev f).benchDue n = s.benchDue n := fun n => by
    unfold State.benchDue State.benchOn
    rw [hdev, hb, hrun]
    rfl
  unfold State.rests at hr ⊢
  simp only [hch, hbench, Bool.and_eq_true] at hr ⊢
  obtain ⟨⟨⟨⟨⟨⟨hwake, hch⟩, htoken⟩, hpix⟩, hepoch⟩, hbench⟩, hsave⟩ := hr
  refine ⟨⟨⟨⟨⟨⟨?_, hch⟩, ?_⟩, ?_⟩, hepoch⟩, hbench⟩, hsave⟩
  · rw [hdev, hwaking]; exact hwake
  · rw [hdev]
    by_cases hu : (f s.dev).boot = .up
    · obtain ⟨h1, h2⟩ := hup hu
      rw [hu, h2]
      rw [h1] at htoken
      exact htoken
    · simp [hu]
  · unfold State.pixKept State.pixWanted at hpix ⊢
    rw [hdev, hsafe, hstandby, hwait, hentry]
    exact hpix
/-! #### The release, the PLL and the firmware -/

theorem resetRelease_clause (node : BitVec 7) (hr : s.rests = true) (hb : s.dev.boot = .held) :
    ∃ t, exec (.resetRelease node) s = .next t ∧ t.can.nodeId = node.toNat ∧ t.dev.boot = .released ∧
    t.get Su.RESET_SRC = (if s.get Su.RESET_SRC = 0 then 1 else s.get Su.RESET_SRC) ∧
    t = { s with regs := t.regs, can := { s.can with nodeId := node.toNat }, dev := { s.dev with boot := .released } } := by
  let u := (s.modDev (fun d => { d with boot := .released })).modCan (fun c => { c with nodeId := node.toNat })
  have hu : u.rests = true := (rests_congr rfl rfl rfl rfl rfl rfl rfl rfl).trans
    (rests_modDev (f := fun d => { d with boot := .released }) hr ⟨rfl, rfl, rfl, rfl, rfl, rfl⟩ (by rw [hb]; rfl) nofun)
  have hexec : exec (.resetRelease node) s = .next (if u.get Su.RESET_SRC = 0 then u.put Su.RESET_SRC 1 else u).settle := by
    refine congrArg (fun t : State => Host.Outcome.next t.settle) ?_
    exact if_pos hb
  have hget : u.get Su.RESET_SRC = s.get Su.RESET_SRC := rfl
  rw [hexec, hget]
  by_cases h0 : s.get Su.RESET_SRC = 0
  · have hput : SameRest u (u.put Su.RESET_SRC 1) := SameRest.put 1 (by unfold restFree; decide) (.inr (by unfold epochFree; decide))
    rw [if_pos h0, hput.settle hu, if_pos h0]
    exact ⟨_, rfl, rfl, rfl, get_put_same _ _ _, rfl⟩
  · rw [if_neg h0, settle_of_rests hu, if_neg h0]
    exact ⟨_, rfl, rfl, rfl, rfl, rfl⟩
theorem pllLock_clause (hr : s.rests = true) (hb : s.dev.boot = .released) :
    ∃ t, exec .pllLock s = .next t ∧ t.dev.boot = .locked ∧ t.dev.pll = true ∧ t.sp = [] ∧ t.datum.lc = s.lcFuses ∧
    t.dev.token = (if bit (s.otpValue 3072) 0 then .pcie else .can) ∧ t.regs = s.regs ∧ t.ch = s.ch := by
  let u : State := { s.modDev (fun d => { d with boot := .locked, pll := true }) with sp := [], parBad := [] }
  have hu : u.rests = true := (rests_congr rfl rfl rfl rfl rfl rfl rfl rfl).trans
    (rests_modDev (f := fun d => { d with boot := .locked, pll := true }) hr ⟨rfl, rfl, rfl, rfl, rfl, rfl⟩ (by rw [hb]; rfl) nofun)
  have he : s.pllLock = u.datumBuild := if_pos hb
  have hboot : u.dev.boot = .locked := rfl
  have hotp : u.otp = s.otp := rfl
  have hsp : u.sp = [] ∧ u.dev.pll = true ∧ u.regs = s.regs ∧ u.ch = s.ch := ⟨rfl, rfl, rfl, rfl⟩
  obtain ⟨hsp, hpll, hregs, hch⟩ := hsp
  change ∃ t, Host.Outcome.next s.pllLock.settle = .next t ∧ _
  rw [he, ← otpValue_congr hotp, ← lcFuses_congr hotp, ← hregs, ← hch]
  generalize u = u at *
  have hbuild : u.datumBuild.rests = true := (rests_congr rfl rfl rfl rfl rfl rfl rfl rfl).trans
    (rests_modDev (f := fun d => { d with token := if bit (u.otpValue datumWord0) 0 then .pcie else .can }) hu ⟨rfl, rfl, rfl, rfl, rfl, rfl⟩ rfl
      fun h => absurd (hboot.symm.trans h) (by decide))
  rw [settle_of_rests hbuild]
  exact ⟨_, rfl, hboot, hpll, hsp, rfl, rfl, rfl, rfl⟩
theorem pllLock_up (hr : s.rests = true) (hb : s.dev.boot = .up) : exec .pllLock s = .next (s.modDev (fun d => { d with pll := true })) := by
  have hpll : (s.modDev (fun d => { d with pll := true })).rests = true :=
    rests_modDev hr ⟨rfl, rfl, rfl, rfl, rfl, rfl⟩ rfl fun h => ⟨h, rfl⟩
  have hlock : s.pllLock = s.modDev (fun d => { d with pll := true }) :=
    if_neg (show ¬ s.dev.boot = .released by rw [hb]; decide)
  exact congrArg Host.Outcome.next ((congrArg State.settle hlock).trans (settle_of_rests hpll))
theorem bootFirmware_datum (s : State) : s.bootFirmware.datum.locked = true ∧ s.bootFirmware.datum.bootSrc = s.bootSlotOf := ⟨rfl, rfl⟩
/-- CAN FD starts behind the load (R513). -/
def State.canStart (s : State) : State :=
  let t := ((s.put Hid.RATE_NOM (s.get rateNom)).put Hid.RATE_DATA (s.get rateData)).modCan (fun c => { c with nmt := .preOp })
  if t.can.nodeId = 0 then t else t.emit .bootUp
theorem canStart_leaves (s : State) : s.canStart.datum = s.datum ∧ s.canStart.can.nmt = .preOp := by
  unfold State.canStart
  dsimp only
  split
  · exact ⟨rfl, rfl⟩
  · exact ⟨rfl, rfl⟩
/-- The run begins, but not in SAFE (log entry 43). -/
def State.runBegins (s : State) (v : BootView) : State :=
  if s.dev.safe ∨ s.dev.safeEntry.isSome then (s.modDev (fun d => { d with boot := .up })).tokenCheck
  else (s.modDev (fun d => { d with boot := .benchmark })).benchStart v.bench true
theorem runBegins_stands (s : State) (v : BootView) :
    ∃ w, w.datum = s.datum ∧ w.can = s.can ∧ w.dev.started ∧ Stands false w (s.runBegins v) := by
  unfold State.runBegins
  split
  next hin => exact ⟨s.modDev (fun d => { d with boot := .up }), rfl, rfl, .inr ⟨rfl, hin⟩, stands_tokenCheck _ (.refl _ _)⟩
  next => exact ⟨s.modDev (fun d => { d with boot := .benchmark }), rfl, rfl, .inl rfl, stands_benchStart _ _ _ (.refl _ _)⟩
/-- The firmware starts: what a device that has started keeps stands through the load, the run and whatever settles behind them. -/
theorem firmwareStart_clause (v : BootView) (hb : s.dev.boot = .locked) :
    ∃ t, exec (.firmwareStart v) s = .next t ∧ t.datum.locked = true ∧ (t.dev.boot = .benchmark ∨ t.dev.boot = .up) ∧
    (t.dev.boot = .up → t.dev.safe = true ∨ t.dev.safeEntry.isSome = true) ∧ t.datum.bootSrc = s.bootSlotOf ∧ t.can.nmt = .preOp := by
  let u := (s.romSeen v.rom).bootFirmware
  have hslot : u.datum.locked = true ∧ u.datum.bootSrc = s.bootSlotOf := by
    have hrom : (s.romSeen v.rom).bootSlotOf = s.bootSlotOf := by
      unfold State.romSeen
      split <;> exact bootSlotOf_congr rfl rfl
    rw [← hrom]
    exact bootFirmware_datum _
  have hload : Stands false u ((u.loadParams 0x10000).epochLoaded) := stands_epochLoaded _ (stands_loadParams _ _ (.refl _ _))
  have he : s.firmwareStart v = ((u.loadParams 0x10000).epochLoaded).canStart.runBegins v := if_neg (not_not.mpr hb)
  change ∃ t, Host.Outcome.next (s.firmwareStart v).settle = .next t ∧ _
  rw [he]
  clear he
  generalize (u.loadParams 0x10000).epochLoaded = r at hload ⊢
  obtain ⟨hkept, hpreOp⟩ := canStart_leaves r
  obtain ⟨w, hdatum, hcan, hstarted, hw⟩ := runBegins_stands r.canStart v
  have ht := stands_settle _ hw
  have hgo := ht.started hstarted
  refine ⟨_, rfl, ?_, hgo.imp_right And.left, fun hup => ?_, ?_, ht.nmt (by rw [hcan]; exact hpreOp)⟩
  · exact ht.locked.trans ((congrArg Datum.locked (hdatum.trans hkept)).trans (hload.locked.trans hslot.1))
  · obtain hbench | ⟨-, hin⟩ := hgo
    · exact absurd (hup.symm.trans hbench) (by decide)
    · exact hin
  · exact ht.slot.trans ((congrArg Datum.bootSrc (hdatum.trans hkept)).trans (hload.slot.trans hslot.2))

end

/-- Settles O7: the release and the lock leave a device at rest; what the firmware start leaves stands through whatever settles behind it,
and the end of the run leaves no channel anything that would change its state. -/
theorem startUpInOrder : Obligations.StartUpInOrder := by
  unfold Obligations.StartUpInOrder
  intro s
  refine ⟨fun node hr hb => resetRelease_clause node hr hb, fun node hr hb => ?_, pllLock_clause, pllLock_up, fun v hr hb => ?_,
    fun hr hon => ?_, fun v _ hb => firmwareStart_clause v hb, fun hr hb hrun hoff => ?_⟩
  · exact congrArg Host.Outcome.next ((congrArg State.settle (if_neg hb)).trans (settle_of_rests hr))
  · exact congrArg Host.Outcome.next ((congrArg State.settle (if_pos hb)).trans (settle_of_rests hr))
  · exact congrArg Host.Outcome.next ((congrArg State.settle (if_pos (.inl (by rw [hon]; rfl)))).trans (settle_of_rests hr))
  · obtain ⟨hup, hpass⟩ := benchEnd_clause hr hb hrun hoff
    exact ⟨_, rfl, hup, fun n h _ hleak => hpass n h hleak⟩
end Sys2Proof.Machine
end
